-- ==== Sys2Proof/Word.lean ====
section
/-! DEFINITION. The word types of the Scaur machine and their plainest arithmetic (R3, R63). -/

namespace Sys2Proof

/-- A scalar register's value (R63). -/
abbrev Word := BitVec 64

/-- One byte of memory. -/
abbrev Byte := BitVec 8

/-- One row of a vector register (R73). -/
abbrev Row2048 := BitVec 2048

/-- A scale byte, with its poison flag in bit 8 (R93, R257). -/
abbrev Scale := BitVec 9

/-- The word that stands for a truth value. -/
abbrev Word.ofBool (b : Bool) : Word := if b then 1 else 0

/-- A sparse table: pairs of a key and a value, keys strictly rising. A key that is not listed has
the value its reader names. -/
abbrev Tab (α : Type) := List (Nat × α)

end Sys2Proof
end

