-- ==== Sys2Proof/Machine/Numbers.lean ====
section
/-! DEFINITION. Number formats and exact arithmetic (R87 to R107): floating formats, exact values, the one
rounding function, and the operations that round once. Everything is computed exactly on natural numbers
and integers, and narrowed at the end. -/

namespace Sys2Proof.Machine

/-- The floating formats of R88. -/
inductive FFmt where
  | f64 | f32 | f16 | bf16 | e4 | e5 | e2
  deriving DecidableEq, Repr

/-- Exponent bits. -/
def FFmt.ebits : FFmt → Nat
  | .f64 => 11 | .f32 => 8 | .f16 => 5 | .bf16 => 8 | .e4 => 4 | .e5 => 5 | .e2 => 2
/-- Fraction bits. -/
def FFmt.mbits : FFmt → Nat
  | .f64 => 52 | .f32 => 23 | .f16 => 10 | .bf16 => 7 | .e4 => 3 | .e5 => 2 | .e2 => 1
def FFmt.bias : FFmt → Nat
  | .f64 => 1023 | .f32 => 127 | .f16 => 15 | .bf16 => 127 | .e4 => 7 | .e5 => 15 | .e2 => 1
/-- Width in bits. -/
def FFmt.width (f : FFmt) : Nat := 1 + f.ebits + f.mbits
/-- The format has infinities (R88). -/
def FFmt.hasInf : FFmt → Bool
  | .e4 | .e2 => false
  | _ => true
/-- The code of the largest finite magnitude, exponent and fraction together (R88). -/
def FFmt.maxCode : FFmt → Nat
  | .e4 => 0x7E
  | .e2 => 0x7
  | f => (2 ^ f.ebits - 1) * 2 ^ f.mbits - 1
/-- The canonical NaN (R89); e2 has none, and a NaN becomes +0 there (R95). -/
def FFmt.nanCode : FFmt → Nat
  | .e4 => 0x7F
  | .e2 => 0
  | f => (2 ^ f.ebits - 1) * 2 ^ f.mbits + 2 ^ (f.mbits - 1)
/-- Infinity's magnitude code. -/
def FFmt.infCode (f : FFmt) : Nat := (2 ^ f.ebits - 1) * 2 ^ f.mbits
/-- The sign bit. -/
def FFmt.signBit (f : FFmt) : Nat := 2 ^ (f.ebits + f.mbits)
/-- ftz applies to f64, f32, f16 and bf16 only (R95). -/
def FFmt.flushable : FFmt → Bool
  | .f64 | .f32 | .f16 | .bf16 => true
  | _ => false

/-! ### Flags (R85): NV, DZ, OF, UF, NX, SAT from bit 0 -/

abbrev Flags := BitVec 6
def flagNV : Flags := 1
def flagDZ : Flags := 2
def flagOF : Flags := 4
def flagUF : Flags := 8
def flagNX : Flags := 16
def flagSAT : Flags := 32

/-- What FPCTL says to an operation (R85). -/
structure FpCtl where
  rm : Nat
  ftz : Bool
  sat8 : Bool
  deriving DecidableEq, Repr

/-- The rounding of the matrix chain and of the steps that no flag sees: RNE, subnormals kept (R104, R106). -/
def FpCtl.rne : FpCtl := { rm := 0, ftz := false, sat8 := false }

/-- An exact value: (−1)^neg × num × 2^exp / den, with den above 0; zero keeps its sign. -/
inductive Exact where
  | nan
  | inf (neg : Bool)
  | fin (neg : Bool) (num : Nat) (den : Nat) (exp : Int)
  deriving DecidableEq, Repr

/-- An operand read from a format: its exact value, and whether it is a signalling NaN. -/
structure Operand where
  val : Exact
  snan : Bool
  deriving DecidableEq, Repr

/-- An operand of a floating format (R88). With `ftz`, a subnormal reads as a zero of its sign (R95). -/
def FFmt.decode (f : FFmt) (ftz : Bool) (bits : Nat) : Operand :=
  let m := bits % 2 ^ f.mbits
  let e := bits / 2 ^ f.mbits % 2 ^ f.ebits
  let neg := bits / f.signBit % 2 == 1
  let mag := e * 2 ^ f.mbits + m
  if f.hasInf && mag == f.infCode then { val := .inf neg, snan := false }
  else if f.maxCode < mag then
    { val := .nan, snan := f.hasInf && m / 2 ^ (f.mbits - 1) == 0 }
  else if e = 0 then
    if ftz && f.flushable then { val := .fin neg 0 1 0, snan := false }
    else { val := .fin neg m 1 (1 - f.bias - f.mbits : Int), snan := false }
  else { val := .fin neg (2 ^ f.mbits + m) 1 ((e : Int) - f.bias - f.mbits), snan := false }

/-- The code of a sign and a magnitude. -/
def FFmt.code (f : FFmt) (neg : Bool) (mag : Nat) : Nat := (if neg then f.signBit else 0) + mag

/-- floor(log2(num / den)) for num, den above 0. -/
def log2Ratio (num den : Nat) : Int :=
  let l : Int := (Nat.log2 num : Int) - Nat.log2 den
  -- num / den lies in (2^(l-1), 2^(l+1))
  if 0 ≤ l then (if den * 2 ^ l.toNat ≤ num then l else l - 1)
  else (if den ≤ num * 2 ^ (-l).toNat then l else l - 1)

/-- Whether a magnitude of `a` units and the fraction rem / den of a unit goes up (R95). Modes: 0 RNE, 1 RTZ,
2 RDN, 3 RUP, 4 RNA, 5 stochastic with generator value g. -/
def roundsUp (rm g : Nat) (neg : Bool) (a rem den : Nat) : Bool :=
  if rm = 0 then den < 2 * rem || (2 * rem == den && a % 2 == 1)
  else if rm = 1 then false
  else if rm = 2 then 0 < rem && neg
  else if rm = 3 then 0 < rem && !neg
  else if rm = 4 then den ≤ 2 * rem
  else 0 < rem && g ≤ rem * 2 ^ 32 / den

/-- The result of an overflow (R97). `sat` says that the format saturates. -/
def overflowResult (f : FFmt) (rm : Nat) (sat neg : Bool) : Nat × Flags :=
  if sat then (f.code neg f.maxCode, flagSAT ||| flagNX)
  else
    let toMax := rm = 1 || (rm = 2 && !neg) || (rm = 3 && neg)
    let out := if toMax then f.code neg f.maxCode
      else if f = .e4 then f.nanCode else f.code neg f.infCode
    (out, flagOF ||| flagNX)

/-- The format saturates on overflow: e2 always, e4 and e5 under sat8 (R97). -/
def FFmt.saturates (f : FFmt) (sat8 : Bool) : Bool := f = .e2 || ((f = .e4 || f = .e5) && sat8)

/-- A power of two as a pair numerator, denominator. -/
def scaleBy (num den : Nat) (k : Int) : Nat × Nat :=
  if 0 ≤ k then (num * 2 ^ k.toNat, den) else (num, den * 2 ^ (-k).toNat)

/-- Rounding of a non-zero finite value (R95). -/
def roundFinite (f : FFmt) (c : FpCtl) (g : Nat) (sat neg : Bool) (num den : Nat) (exp : Int) : Nat × Flags :=
  let emin : Int := 1 - f.bias
  let l := log2Ratio num den + exp
  if c.ftz && f.flushable && l < emin then (f.code neg 0, flagUF ||| flagNX)
  else
    let e := max l emin
    let nd := scaleBy num den (exp - e + f.mbits)
    let a := nd.1 / nd.2
    let rem := nd.1 % nd.2
    let q := if roundsUp c.rm g neg a rem nd.2 then a + 1 else a
    -- the code of q units at exponent e: subnormals have exponent field 0
    let mag := if q < 2 ^ f.mbits then q else ((e + f.bias).toNat) * 2 ^ f.mbits + (q - 2 ^ f.mbits)
    if f.maxCode < mag then overflowResult f c.rm sat neg
    else
      let inexact := 0 < rem
      let tiny := mag < 2 ^ f.mbits
      if c.ftz && f.flushable && tiny then (f.code neg 0, flagUF ||| flagNX)
      else (f.code neg mag,
        (if inexact then flagNX else 0) ||| (if inexact && tiny then flagUF else 0))

/-- round(x, fmt, mode): the only place where an exact value becomes a value of a format (R95, R97). `g` is
the generator value that mode 5 has drawn. -/
def roundTo (f : FFmt) (c : FpCtl) (g : Nat) (sat : Bool) : Exact → Nat × Flags
  | .nan => (f.nanCode, if f = .e2 then flagNV else 0)
  | .inf neg =>
    if sat then (f.code neg f.maxCode, flagSAT)
    else if f = .e4 then (f.nanCode, flagNV)
    else (f.code neg f.infCode, 0)
  | .fin neg num den exp =>
    if num = 0 then (f.code neg 0, 0) else roundFinite f c g sat neg num den exp

/-! ### Exact operations -/

/-- The signed numerator of a finite value at a common denominator and exponent. -/
def signed (neg : Bool) (n : Nat) : Int := if neg then -(n : Int) else n

/-- An integer times 2^exp, with the sign that a zero takes. -/
def exactOfInt (v : Int) (exp : Int) (zeroNeg : Bool) : Exact :=
  if v = 0 then .fin zeroNeg 0 1 0 else .fin (decide (v < 0)) v.natAbs 1 exp

/-- The exact sum of two dyadic values and the sign of an exact zero sum: that of both when both are zero of
one sign, else − under RDN and + otherwise (R333). -/
def exactAdd (rm : Nat) : Exact → Exact → Exact
  | .nan, _ => .nan
  | _, .nan => .nan
  | .inf a, .inf b => if a == b then .inf a else .nan
  | .inf a, _ => .inf a
  | _, .inf b => .inf b
  | .fin a n _ e, .fin b m _ k =>
    let lo := min e k
    let sum := signed a n * 2 ^ (e - lo).toNat + signed b m * 2 ^ (k - lo).toNat
    exactOfInt sum lo (if n = 0 && m = 0 && a == b then a else rm = 2)

/-- The exact product; 0 × inf is a NaN. -/
def exactMul : Exact → Exact → Exact
  | .nan, _ => .nan
  | _, .nan => .nan
  | .inf a, .inf b => .inf (a != b)
  | .inf a, .fin b n _ _ => if n = 0 then .nan else .inf (a != b)
  | .fin a n _ _, .inf b => if n = 0 then .nan else .inf (a != b)
  | .fin a n d e, .fin b m d' k => .fin (a != b) (n * m) (d * d') (e + k)

/-- The exact quotient; 0/0 and inf/inf are NaNs. -/
def exactDiv : Exact → Exact → Exact
  | .nan, _ => .nan
  | _, .nan => .nan
  | .inf _, .inf _ => .nan
  | .inf a, .fin b _ _ _ => .inf (a != b)
  | .fin a _ _ _, .inf b => .fin (a != b) 0 1 0
  | .fin a n d e, .fin b m d' k =>
    if m = 0 then (if n = 0 then .nan else .inf (a != b))
    else .fin (a != b) (n * d') (d * m) (e - k)

def Exact.neg : Exact → Exact
  | .nan => .nan
  | .inf a => .inf (!a)
  | .fin a n d e => .fin (!a) n d e

def Exact.isNan : Exact → Bool
  | .nan => true
  | _ => false

def Exact.isInf : Exact → Bool
  | .inf _ => true
  | _ => false

def Exact.isZero : Exact → Bool
  | .fin _ n _ _ => n == 0
  | _ => false

def Exact.isNeg : Exact → Bool
  | .nan => false
  | .inf a => a
  | .fin a _ _ _ => a

/-- The integer square root by bits: the largest r with r·r ≤ n among r with `k` bits. -/
def sqrtAux (n : Nat) : Nat → Nat → Nat
  | 0, r => r
  | k + 1, r =>
    let r' := r + 2 ^ k
    sqrtAux n k (if r' * r' ≤ n then r' else r)

/-- The square root of a dyadic value of a format, exact or with a half unit far below any rounding point in
the place of its remainder: 160 further bits decide every mode of R95. -/
def exactSqrt : Exact → Exact
  | .nan => .nan
  | .inf a => if a then .nan else .inf false
  | .fin a n _ e =>
    if n = 0 then .fin a 0 1 0
    else if a then .nan
    else
      let m := if e % 2 = 0 then n else 2 * n
      let k := if e % 2 = 0 then e else e - 1
      let big := m * 2 ^ 320
      let r := sqrtAux big (Nat.log2 big / 2 + 1) 0
      if r * r = big then .fin false r 1 (k / 2 - 160)
      else .fin false (2 * r + 1) 1 (k / 2 - 161)

/-- The exact difference. R333 decides an exact zero by the signs of the two operands: FSUB is not FADD of a negated operand, and
differs from it in this rule. -/
def exactSub (rm : Nat) (a b : Exact) : Exact :=
  match a, b with
  | .fin s 0 _ _, .fin t 0 _ _ => exactOfInt 0 0 (if s == t then s else rm = 2)
  | _, _ => exactAdd rm a b.neg

/-! ### Scalar and element operations that round once (R98, R332, R333) -/

/-- The operations of R332. -/
inductive FOp where
  | add | sub | mul | div | fma | sqrt
  deriving DecidableEq, Repr

/-- Which of the operands a, b, d an operation reads. -/
def FOp.reads : FOp → Operand → Operand → Operand → List Operand
  | .sqrt, a, _, _ => [a]
  | .fma, a, b, d => [a, b, d]
  | _, a, b, _ => [a, b]

/-- The exact result. -/
def FOp.exact (op : FOp) (rm : Nat) (a b d : Exact) : Exact :=
  match op with
  | .add => exactAdd rm a b
  | .sub => exactSub rm a b
  | .mul => exactMul a b
  | .div => exactDiv a b
  | .fma => exactAdd rm (exactMul a b) d
  | .sqrt => exactSqrt a

/-- One operation of R332: the result's code and its flags. -/
def fpArith (op : FOp) (f : FFmt) (c : FpCtl) (g : Nat) (a b d : Nat) : Nat × Flags :=
  let x := f.decode c.ftz a
  let y := f.decode c.ftz b
  let z := f.decode c.ftz d
  let ops := op.reads x y z
  let exact := op.exact c.rm x.val y.val z.val
  if ops.any (·.val.isNan) then
    let zeroInf := op = .fma &&
      ((x.val.isZero && y.val.isInf) || (x.val.isInf && y.val.isZero))
    (f.nanCode, if ops.any (·.snan) || zeroInf then flagNV else 0)
  else if exact.isNan then (f.nanCode, flagNV)
  else
    let r := roundTo f c g (f.saturates c.sat8) exact
    (r.1, r.2 ||| (if op = .div && y.val.isZero && !x.val.isInf then flagDZ else 0))

/-- The order of two exact values that are no NaN: a < b. −0 and +0 are equal here. -/
def exactLt : Exact → Exact → Bool
  | .nan, _ => false
  | _, .nan => false
  | .inf a, .inf b => a && !b
  | .inf a, _ => a
  | _, .inf b => !b
  | .fin a n d e, .fin b m d' k =>
    let lo := min e k
    decide (signed a n * d' * 2 ^ (e - lo).toNat < signed b m * d * 2 ^ (k - lo).toNat)

def exactEq (a b : Exact) : Bool := !a.isNan && !b.isNan && !exactLt a b && !exactLt b a

/-- Minimum or maximum (R98, R337): the operand that wins, as read, and NV for a signalling NaN. −0 is
less than +0. -/
def fpMinMax (isMax : Bool) (f : FFmt) (ftz : Bool) (a b : Nat) : Nat × Flags :=
  let x := f.decode ftz a
  let y := f.decode ftz b
  let asRead (o : Operand) (bits : Nat) : Nat := if o.val.isZero then f.code o.val.isNeg 0 else bits
  let flags := if x.snan || y.snan then flagNV else 0
  let out :=
    if x.val.isNan && y.val.isNan then f.nanCode
    else if x.val.isNan then asRead y b
    else if y.val.isNan then asRead x a
    else
      let aLess := exactLt x.val y.val || (x.val.isZero && y.val.isZero && x.val.isNeg && !y.val.isNeg)
      if aLess != isMax then asRead x a else asRead y b
  (out, flags)

/-- The relations of VCMP (R313); CMP and FCMP use some of them. -/
inductive Rel where
  | eq | ne | lt | ge | le | gt | uo | ord
  deriving DecidableEq, Repr

/-- A floating comparison (R98, R334): the truth value and NV for a signalling NaN. -/
def fpCompare (r : Rel) (f : FFmt) (ftz : Bool) (a b : Nat) : Bool × Flags :=
  let x := f.decode ftz a
  let y := f.decode ftz b
  let un := x.val.isNan || y.val.isNan
  let res := match r with
    | .eq => !un && exactEq x.val y.val
    | .ne => un || !exactEq x.val y.val
    | .lt => !un && exactLt x.val y.val
    | .ge => !un && !exactLt x.val y.val
    | .le => !un && !exactLt y.val x.val
    | .gt => !un && exactLt y.val x.val
    | .uo => un
    | .ord => !un
  (res, if x.snan || y.snan then flagNV else 0)

/-- A comparison of integers; an integer is never unordered. -/
def intCompare (r : Rel) (a b : Int) : Bool :=
  match r with
  | .eq => a == b
  | .ne => a != b
  | .lt => decide (a < b)
  | .ge => decide (b ≤ a)
  | .le => decide (a ≤ b)
  | .gt => decide (b < a)
  | .uo => false
  | .ord => true

/-! ### Integers (R87, R99) -/

/-- A w-bit code read as signed or unsigned. -/
def intOf (w : Nat) (sgn : Bool) (v : Nat) : Int :=
  let x := v % 2 ^ w
  if sgn && 2 ^ (w - 1) ≤ x then (x : Int) - 2 ^ w else x

/-- The w-bit code of an integer modulo 2^w. -/
def intCode (w : Nat) (v : Int) : Nat := (v % 2 ^ w).toNat

def intMin (w : Nat) (sgn : Bool) : Int := if sgn then -(2 ^ (w - 1)) else 0
def intMax (w : Nat) (sgn : Bool) : Int := if sgn then 2 ^ (w - 1) - 1 else 2 ^ w - 1

/-- An integer brought to the nearest bound of its type, and whether it was outside. -/
def clampInt (w : Nat) (sgn : Bool) (v : Int) : Int × Bool :=
  if v < intMin w sgn then (intMin w sgn, true)
  else if intMax w sgn < v then (intMax w sgn, true)
  else (v, false)

/-- Division by R99: toward zero; a zero divisor gives all ones. -/
def intDiv (w : Nat) (sgn : Bool) (a b : Int) : Int :=
  if b = 0 then (if sgn then -1 else intMax w false) else Int.tdiv a b

/-- Remainder by R99: the dividend for a zero divisor, else the sign of the dividend. -/
def intRem (a b : Int) : Int := if b = 0 then a else Int.tmod a b

/-- A finite exact value rounded to an integer (R99, R336), and whether it was exact. -/
def roundInt (rm g : Nat) (neg : Bool) (num den : Nat) (exp : Int) : Int × Bool :=
  let nd := scaleBy num den exp
  let a := nd.1 / nd.2
  let rem := nd.1 % nd.2
  let q := if roundsUp rm g neg a rem nd.2 then a + 1 else a
  (signed neg q, rem == 0)

/-- Conversion of a floating value to a w-bit integer (R99, R336). -/
def floatToInt (w : Nat) (sgn : Bool) (rm g : Nat) : Exact → Nat × Flags
  | .nan => (0, flagNV)
  | .inf neg => (intCode w (if neg then intMin w sgn else intMax w sgn), flagNV)
  | .fin neg num den exp =>
    let r := roundInt rm g neg num den exp
    let v := clampInt w sgn r.1
    (intCode w v.1, if v.2 then flagNV else if r.2 then 0 else flagNX)

/-- An integer as an exact value. -/
def exactOfInteger (v : Int) : Exact := exactOfInt v 0 false

/-! ### The generator (R96) -/

/-- One step of the stochastic generator. -/
def lfsrNext (s : BitVec 32) : BitVec 32 :=
  let t := s <<< 1
  if s.getLsbD 31 then t ^^^ 0x00400007 else t

/-- One step of the checker's generator (R242). -/
def chkNext (s : BitVec 16) : BitVec 16 :=
  let t := s <<< 1
  if s.getLsbD 15 then t ^^^ 0x6801 else t

/-! ### The exponential (R106) -/

/-- The coefficients c6 down to c0. -/
def exp2Coefficients : List Nat :=
  [0x3F2430912F86C787, 0x3F55D87FE78A6731, 0x3F83B2AB6FBA4E77, 0x3FAC6B08D704A0C0, 0x3FCEBFBDFF82C58F,
   0x3FE62E42FEFA39EF, 0x3FF0000000000000]

/-- A value rounded to f64 under RNE and read back, with no flag. -/
def toF64 (x : Exact) : Exact := (FFmt.f64.decode false (roundTo .f64 .rne 0 false x).1).val

/-- floor of a finite dyadic value. -/
def floorInt (neg : Bool) (num den : Nat) (exp : Int) : Int :=
  let nd := scaleBy num den exp
  let q := nd.1 / nd.2
  if neg then (if nd.1 % nd.2 = 0 then -(q : Int) else -(q : Int) - 1) else q

/-- One step of the polynomial: p · f + c, rounded once to f64. -/
def exp2Step (f p : Exact) (c : Nat) : Exact :=
  toF64 (exactAdd 0 (exactMul p f) (FFmt.f64.decode false c).val)

/-- An exponent no result depends on beyond these bounds: every type overflows above them, and below them
every type rounds as it does at them. -/
def boundExp (n : Int) : Int := max (-8192) (min 8192 n)

/-- 2^x (R106). -/
def fpExp2 (f : FFmt) (c : FpCtl) (g : Nat) (bits : Nat) : Nat × Flags :=
  let o := f.decode c.ftz bits
  match o.val with
  | .nan => (f.nanCode, if o.snan then flagNV else 0)
  | .inf neg => if neg then (0, 0) else (f.infCode, 0)
  | .fin neg num den exp =>
    let n := floorInt neg num den exp
    let fr := toF64 (exactAdd 0 (.fin neg num den exp) (exactOfInt (-n) 0 false))
    let p := match exp2Coefficients with
      | [] => Exact.nan
      | c6 :: cs => cs.foldl (exp2Step fr) (FFmt.f64.decode false c6).val
    let scaled := match p with
      | .fin s a d e => Exact.fin s a d (e + boundExp n)
      | other => other
    let r := roundTo f c g (f.saturates c.sat8) scaled
    (r.1, r.2 ||| (if fr.isZero then 0 else flagNX))

/-! ### Residue arithmetic (R107) -/

/-- fix(y): the integer that a floating value contributes, and its flags. -/
def residueFix (w : Nat) (sgn : Bool) (q : Int) (f : FFmt) (bits : Nat) : Int × Flags :=
  match (f.decode false bits).val with
  | .nan => (0, flagNV)
  | .inf neg => (if neg then intMin w sgn else intMax w sgn, flagSAT)
  | .fin neg num den exp =>
    let r := roundInt 0 0 neg num den (exp + q)
    let v := clampInt w sgn r.1
    (v.1, (if r.2 then 0 else flagNX) ||| (if v.2 then flagSAT else 0))

end Sys2Proof.Machine
end

