-- ==== Sys2Proof/Syntax.lean ====
section
/-! DEFINITION. The instruction set as syntax: one constructor for each row of the opcode table.
The first 200 constructors are the instruction words; their arguments are the fields of the word, named
as the table names them (`k` is bit 31, the convoy-continue bit; `q` is the ma bit). The last 69 are the
events of the machine: steps that no word stands for. An event's arguments name the agent that moves
(a context, a string, a launch) and what reaches the machine from outside. -/

namespace Sys2Proof

/-- The operations and events of the part (opcode table; R295, R297 for the words). -/
inductive Instr where
  /-- ADD_REG (R317): Adds two scalar registers modulo 2^64 into sD. -/
  | addReg (d a b : BitVec 5)
  /-- ADD_IMM (R317): Adds a sign-extended 15-bit immediate to sA into sD. -/
  | addImm (d a : BitVec 5) (i : BitVec 15)
  /-- AND_REG (R318): Bitwise AND of two scalar registers into sD. -/
  | andReg (d a b : BitVec 5)
  /-- AND_IMM (R318): Bitwise AND of sA with a sign-extended immediate. -/
  | andImm (d a : BitVec 5) (i : BitVec 15)
  /-- OR_REG (R351): Bitwise OR of two scalar registers. -/
  | orReg (d a b : BitVec 5)
  /-- OR_IMM (R352): Bitwise OR of sA with a sign-extended immediate. -/
  | orImm (d a : BitVec 5) (i : BitVec 15)
  /-- XOR_REG (R391): Bitwise XOR of two scalar registers. -/
  | xorReg (d a b : BitVec 5)
  /-- XOR_IMM (R391): Bitwise XOR of sA with a sign-extended immediate. -/
  | xorImm (d a : BitVec 5) (i : BitVec 15)
  /-- SUB (R351): Subtracts sB from sA modulo 2^64. -/
  | sub (d a b : BitVec 5)
  /-- MUL (R351): Low 64 bits of the product of sA and sB. -/
  | mul (d a b : BitVec 5)
  /-- MULH (R351): High 64 bits of the signed or unsigned product. -/
  | mulh (d a b : BitVec 5) (z : BitVec 1)
  /-- DIV (R328): Signed or unsigned quotient with the edge results of R99. -/
  | div (d a b : BitVec 5) (z : BitVec 1)
  /-- REM (R351): Signed or unsigned remainder with the edge results of R99. -/
  | rem (d a b : BitVec 5) (z : BitVec 1)
  /-- SHL_REG (R351): Shifts sA left by sB mod 64. -/
  | shlReg (d a b : BitVec 5)
  /-- SHR_REG (R351): Logical right shift of sA by sB mod 64. -/
  | shrReg (d a b : BitVec 5)
  /-- SRA_REG (R351): Arithmetic right shift of sA by sB mod 64. -/
  | sraReg (d a b : BitVec 5)
  /-- SHL_IMM (R352): Shifts sA left by an immediate amount 0 to 63. -/
  | shlImm (d a : BitVec 5) (n : BitVec 6)
  /-- SHR_IMM (R352): Logical right shift by an immediate amount. -/
  | shrImm (d a : BitVec 5) (n : BitVec 6)
  /-- SRA_IMM (R352): Arithmetic right shift by an immediate amount. -/
  | sraImm (d a : BitVec 5) (n : BitVec 6)
  /-- MIN (R351): Smaller of sA and sB, signed or unsigned. -/
  | min (d a b : BitVec 5) (z : BitVec 1)
  /-- MAX (R351): Larger of sA and sB, signed or unsigned. -/
  | max (d a b : BitVec 5) (z : BitVec 1)
  /-- CLZ (R326): Counts leading zero bits of sA. -/
  | clz (d a : BitVec 5)
  /-- POPC (R351): Counts set bits of sA. -/
  | popc (d a : BitVec 5)
  /-- SEL (R351): Selects sA if condition bit cN is 1, else sB. -/
  | sel (d a b : BitVec 5) (c : BitVec 3)
  /-- CMP_REG (R327): Compares two scalar registers under a relation and writes cN. -/
  | cmpReg (c : BitVec 3) (a b : BitVec 5) (z : BitVec 1) (r : BitVec 3)
  /-- CMP_IMM (R327): Compares sA with a sign-extended 13-bit immediate and writes cN. -/
  | cmpImm (c r : BitVec 3) (a : BitVec 5) (z : BitVec 1) (i : BitVec 13)
  /-- CBIT_AND (R324): cD := cA AND cB. -/
  | cbitAnd (d a b : BitVec 3)
  /-- CBIT_OR (R324): cD := cA OR cB. -/
  | cbitOr (d a b : BitVec 3)
  /-- CBIT_XOR (R324): cD := cA XOR cB. -/
  | cbitXor (d a b : BitVec 3)
  /-- CBIT_ANDN (R324): cD := cA AND NOT cB. -/
  | cbitAndn (d a b : BitVec 3)
  /-- CBIT_SET (R324): cD := 1. -/
  | cbitSet (d : BitVec 3)
  /-- CBIT_CLEAR (R324): cD := 0. -/
  | cbitClear (d : BitVec 3)
  /-- CBIT_NOT (R324): cD := NOT cA. -/
  | cbitNot (d a : BitVec 3)
  /-- CBIT_MOVE (R324): cD := cA. -/
  | cbitMove (d a : BitVec 3)
  /-- LUI (R347): Writes the sign-extended 20-bit immediate shifted left by 15 into sD. -/
  | lui (d : BitVec 5) (i : BitVec 20)
  /-- FADD (R332): Scalar floating add with one rounding. -/
  | fadd (d a b : BitVec 5) (f : BitVec 2)
  /-- FSUB (R332): Scalar floating subtract with one rounding. -/
  | fsub (d a b : BitVec 5) (f : BitVec 2)
  /-- FMUL (R332): Scalar floating multiply with one rounding. -/
  | fmul (d a b : BitVec 5) (f : BitVec 2)
  /-- FMA (R332): sD := sA × sB + sD with one rounding. -/
  | fma (d a b : BitVec 5) (f : BitVec 2)
  /-- FDIV (R332): Correctly rounded scalar floating divide. -/
  | fdiv (d a b : BitVec 5) (f : BitVec 2)
  /-- FSQRT (R332): Correctly rounded scalar floating square root. -/
  | fsqrt (d a : BitVec 5) (f : BitVec 2)
  /-- FMIN (R337): Returns the smaller operand under the NaN and signed-zero rules. -/
  | fmin (d a b : BitVec 5) (f : BitVec 2)
  /-- FMAX (R337): Returns the larger operand under the NaN and signed-zero rules. -/
  | fmax (d a b : BitVec 5) (f : BitVec 2)
  /-- FCMP (R334): Floating compare under eq, lt, le or uo, writing cN. -/
  | fcmp (c : BitVec 3) (a b : BitVec 5) (f r : BitVec 2)
  /-- FCVT (R336): Converts between floating formats and 64-bit or 32-bit integers. -/
  | fcvt (d a : BitVec 5) (t : BitVec 3) (f k : BitVec 2)
  /-- LD (R344): Loads 1 to 8 bytes on a stream, sign- or zero-extended into sD. -/
  | ld (d a : BitVec 5) (g : BitVec 3) (s : BitVec 2) (z : BitVec 1) (i : BitVec 9)
  /-- ST (R360): Holds the low bytes of sD in the strip store buffer on a stream. -/
  | st (d a : BitVec 5) (g : BitVec 3) (s : BitVec 2) (i : BitVec 9)
  /-- LD_ACQ (R345): Load with acquire ordering on g0, zero-extended. -/
  | ldAcq (d a : BitVec 5) (p : BitVec 3) (s : BitVec 2)
  /-- ST_REL (R361): Releases at the scope and then writes sB unbuffered. -/
  | stRel (a b : BitVec 5) (p : BitVec 3) (s : BitVec 2)
  /-- AMO_ADD (R320): Atomic add at the home with release and acquire ordering. -/
  | amoAdd (d a b : BitVec 5) (p : BitVec 3) (s : BitVec 1)
  /-- AMO_AND (R320): Atomic AND at the home. -/
  | amoAnd (d a b : BitVec 5) (p : BitVec 3) (s : BitVec 1)
  /-- AMO_OR (R320): Atomic OR at the home. -/
  | amoOr (d a b : BitVec 5) (p : BitVec 3) (s : BitVec 1)
  /-- AMO_XOR (R320): Atomic XOR at the home. -/
  | amoXor (d a b : BitVec 5) (p : BitVec 3) (s : BitVec 1)
  /-- AMO_MIN (R320): Atomic signed minimum at the home. -/
  | amoMin (d a b : BitVec 5) (p : BitVec 3) (s : BitVec 1)
  /-- AMO_MAX (R320): Atomic signed maximum at the home. -/
  | amoMax (d a b : BitVec 5) (p : BitVec 3) (s : BitVec 1)
  /-- AMO_MIN_Z (R320): Atomic unsigned minimum at the home. -/
  | amoMinZ (d a b : BitVec 5) (p : BitVec 3) (s : BitVec 1)
  /-- AMO_MAX_Z (R320): Atomic unsigned maximum at the home. -/
  | amoMaxZ (d a b : BitVec 5) (p : BitVec 3) (s : BitVec 1)
  /-- AMO_SWAP (R320): Atomic swap at the home. -/
  | amoSwap (d a b : BitVec 5) (p : BitVec 3) (s : BitVec 1)
  /-- AMO_FADD (R320): Atomic floating add rounded RNE, setting no flag. -/
  | amoFadd (d a b : BitVec 5) (p : BitVec 3) (s : BitVec 1)
  /-- CAS (R323): Atomic compare-and-swap at the home, returning the old value in sD. -/
  | cas (d a b : BitVec 5) (p : BitVec 3) (s : BitVec 1)
  /-- B (R322): Branches when condition bit cN equals t, with a timing hint. -/
  | b (c : BitVec 3) (t h : BitVec 1) (d : BitVec 20)
  /-- J (R341): Unconditional relative jump, popping loops it leaves. -/
  | j (d : BitVec 25)
  /-- JAL (R341): Pushes the return address and jumps relative. -/
  | jal (d : BitVec 25)
  /-- JR (R342): Jumps to the address in sA, popping loops it leaves. -/
  | jr (a : BitVec 5)
  /-- JR_LINK (R342): Pushes the return address and jumps to the address in sA. -/
  | jrLink (a : BitVec 5)
  /-- RET (R358): Pops the return store, refilling from the spill area if empty, and jumps. -/
  | ret
  /-- LOOP (R68): Pushes a counted hardware loop or skips the body for a zero count. -/
  | loop (a : BitVec 5) (n l : BitVec 10)
  /-- VSHAPE (R77): Strip boundary that requests lanes, a shape and a type, writing the grant to sD. -/
  | vshape (d a b e : BitVec 5) (g : BitVec 2) (t x : BitVec 1)
  /-- VREL (R41): Strip boundary that releases every lane and sets VTYPE.ill. -/
  | vrel
  /-- VADD_VV (R365): Element-wise add of two vector groups. -/
  | vaddVV (k : BitVec 1) (d a b : BitVec 5) (m q : BitVec 1)
  /-- VADD_VS (R365): Element-wise add of a vector group and a scalar. -/
  | vaddVS (k : BitVec 1) (d a b : BitVec 5) (m q : BitVec 1)
  /-- VSUB_VV (R377): Element-wise subtract of two vector groups. -/
  | vsubVV (k : BitVec 1) (d a b : BitVec 5) (m q : BitVec 1)
  /-- VSUB_VS (R377): Element-wise subtract of a scalar. -/
  | vsubVS (k : BitVec 1) (d a b : BitVec 5) (m q : BitVec 1)
  /-- VMUL_VV (R365): Element-wise multiply of two vector groups. -/
  | vmulVV (k : BitVec 1) (d a b : BitVec 5) (m q : BitVec 1)
  /-- VMUL_VS (R365): Element-wise multiply by a scalar. -/
  | vmulVS (k : BitVec 1) (d a b : BitVec 5) (m q : BitVec 1)
  /-- VMA_VV (R365): Element-wise multiply-add into vD. -/
  | vmaVV (k : BitVec 1) (d a b : BitVec 5) (m q : BitVec 1)
  /-- VMA_VS (R365): Element-wise multiply-add by a scalar into vD. -/
  | vmaVS (k : BitVec 1) (d a b : BitVec 5) (m q : BitVec 1)
  /-- VDIV_VV (R365): Element-wise divide of two vector groups. -/
  | vdivVV (k : BitVec 1) (d a b : BitVec 5) (m q : BitVec 1)
  /-- VDIV_VS (R365): Element-wise divide by a scalar. -/
  | vdivVS (k : BitVec 1) (d a b : BitVec 5) (m q : BitVec 1)
  /-- VMIN_VV (R365): Element-wise minimum of two vector groups. -/
  | vminVV (k : BitVec 1) (d a b : BitVec 5) (m q : BitVec 1)
  /-- VMIN_VS (R365): Element-wise minimum with a scalar. -/
  | vminVS (k : BitVec 1) (d a b : BitVec 5) (m q : BitVec 1)
  /-- VMAX_VV (R365): Element-wise maximum of two vector groups. -/
  | vmaxVV (k : BitVec 1) (d a b : BitVec 5) (m q : BitVec 1)
  /-- VMAX_VS (R365): Element-wise maximum with a scalar. -/
  | vmaxVS (k : BitVec 1) (d a b : BitVec 5) (m q : BitVec 1)
  /-- VMULH_VV (R364): High half of the element-wise integer product. -/
  | vmulhVV (k : BitVec 1) (d a b : BitVec 5) (m q : BitVec 1)
  /-- VMULH_VS (R364): High half of the integer product with a scalar. -/
  | vmulhVS (k : BitVec 1) (d a b : BitVec 5) (m q : BitVec 1)
  /-- VAND_VV (R364): Element-wise bitwise AND. -/
  | vandVV (k : BitVec 1) (d a b : BitVec 5) (m q : BitVec 1)
  /-- VAND_VS (R364): Element-wise bitwise AND with a scalar. -/
  | vandVS (k : BitVec 1) (d a b : BitVec 5) (m q : BitVec 1)
  /-- VOR_VV (R376): Element-wise bitwise OR. -/
  | vorVV (k : BitVec 1) (d a b : BitVec 5) (m q : BitVec 1)
  /-- VOR_VS (R376): Element-wise bitwise OR with a scalar. -/
  | vorVS (k : BitVec 1) (d a b : BitVec 5) (m q : BitVec 1)
  /-- VXOR_VV (R376): Element-wise bitwise XOR. -/
  | vxorVV (k : BitVec 1) (d a b : BitVec 5) (m q : BitVec 1)
  /-- VXOR_VS (R376): Element-wise bitwise XOR with a scalar. -/
  | vxorVS (k : BitVec 1) (d a b : BitVec 5) (m q : BitVec 1)
  /-- VSHL_VV (R376): Element-wise left shift. -/
  | vshlVV (k : BitVec 1) (d a b : BitVec 5) (m q : BitVec 1)
  /-- VSHL_VS (R376): Element-wise left shift by a scalar. -/
  | vshlVS (k : BitVec 1) (d a b : BitVec 5) (m q : BitVec 1)
  /-- VSHR_VV (R376): Element-wise logical right shift. -/
  | vshrVV (k : BitVec 1) (d a b : BitVec 5) (m q : BitVec 1)
  /-- VSHR_VS (R376): Element-wise logical right shift by a scalar. -/
  | vshrVS (k : BitVec 1) (d a b : BitVec 5) (m q : BitVec 1)
  /-- VSRA_VV (R376): Element-wise arithmetic right shift. -/
  | vsraVV (k : BitVec 1) (d a b : BitVec 5) (m q : BitVec 1)
  /-- VSRA_VS (R376): Element-wise arithmetic right shift by a scalar. -/
  | vsraVS (k : BitVec 1) (d a b : BitVec 5) (m q : BitVec 1)
  /-- VSADD_VV (R376): Element-wise saturating add. -/
  | vsaddVV (k : BitVec 1) (d a b : BitVec 5) (m q : BitVec 1)
  /-- VSADD_VS (R376): Element-wise saturating add of a scalar. -/
  | vsaddVS (k : BitVec 1) (d a b : BitVec 5) (m q : BitVec 1)
  /-- VSSUB_VV (R376): Element-wise saturating subtract. -/
  | vssubVV (k : BitVec 1) (d a b : BitVec 5) (m q : BitVec 1)
  /-- VSSUB_VS (R376): Element-wise saturating subtract of a scalar. -/
  | vssubVS (k : BitVec 1) (d a b : BitVec 5) (m q : BitVec 1)
  /-- VRADD_VV (R378): Residue add of a scaled floating operand to an integer group. -/
  | vraddVV (k : BitVec 1) (d a b : BitVec 5) (m q : BitVec 1)
  /-- VRADD_VS (R378): Residue add of a scaled floating scalar. -/
  | vraddVS (k : BitVec 1) (d a b : BitVec 5) (m q : BitVec 1)
  /-- VRSUB_VV (R378): Residue subtract that undoes VRADD. -/
  | vrsubVV (k : BitVec 1) (d a b : BitVec 5) (m q : BitVec 1)
  /-- VRSUB_VS (R378): Residue subtract of a scaled floating scalar. -/
  | vrsubVS (k : BitVec 1) (d a b : BitVec 5) (m q : BitVec 1)
  /-- VSQRT (R377): Element-wise correctly rounded square root. -/
  | vsqrt (k : BitVec 1) (d a : BitVec 5) (m q : BitVec 1)
  /-- VEXP2 (R106): Element-wise 2^x by the EXP2P6 algorithm. -/
  | vexp2 (k : BitVec 1) (d a : BitVec 5) (m q : BitVec 1)
  /-- VSGN_COPY_VV (R377): Magnitude of va with the sign of vb. -/
  | vsgnCopyVV (k : BitVec 1) (d a b : BitVec 5) (m q : BitVec 1)
  /-- VSGN_COPY_VS (R377): Magnitude of va with the sign of a scalar. -/
  | vsgnCopyVS (k : BitVec 1) (d a b : BitVec 5) (m q : BitVec 1)
  /-- VSGN_NEG_VV (R377): Magnitude of va with the inverted sign of vb. -/
  | vsgnNegVV (k : BitVec 1) (d a b : BitVec 5) (m q : BitVec 1)
  /-- VSGN_NEG_VS (R377): Magnitude of va with the inverted sign of a scalar. -/
  | vsgnNegVS (k : BitVec 1) (d a b : BitVec 5) (m q : BitVec 1)
  /-- VSGN_XOR_VV (R377): Magnitude of va with the XOR of both signs. -/
  | vsgnXorVV (k : BitVec 1) (d a b : BitVec 5) (m q : BitVec 1)
  /-- VSGN_XOR_VS (R377): Magnitude of va with its sign XOR the scalar's sign. -/
  | vsgnXorVS (k : BitVec 1) (d a b : BitVec 5) (m q : BitVec 1)
  /-- VSGN_ABS (R377): Magnitude of va with sign 0. -/
  | vsgnAbs (k : BitVec 1) (d a : BitVec 5) (m q : BitVec 1)
  /-- VCMP_VV (R366): Element-wise compare writing a mask destination. -/
  | vcmpVV (k : BitVec 1) (d a b : BitVec 5) (m q : BitVec 1) (r : BitVec 3)
  /-- VCMP_VS (R366): Element-wise compare with a scalar writing a mask. -/
  | vcmpVS (k : BitVec 1) (d a b : BitVec 5) (m q : BitVec 1) (r : BitVec 3)
  /-- VMLOG_AND (R367): Mask bits a AND b. -/
  | vmlogAnd (k : BitVec 1) (d a b : BitVec 5) (m q : BitVec 1)
  /-- VMLOG_OR (R367): Mask bits a OR b. -/
  | vmlogOr (k : BitVec 1) (d a b : BitVec 5) (m q : BitVec 1)
  /-- VMLOG_XOR (R367): Mask bits a XOR b. -/
  | vmlogXor (k : BitVec 1) (d a b : BitVec 5) (m q : BitVec 1)
  /-- VMLOG_ANDN (R367): Mask bits a AND NOT b. -/
  | vmlogAndn (k : BitVec 1) (d a b : BitVec 5) (m q : BitVec 1)
  /-- VMLOG_ORN (R367): Mask bits a OR NOT b. -/
  | vmlogOrn (k : BitVec 1) (d a b : BitVec 5) (m q : BitVec 1)
  /-- VMLOG_NOT (R367): Mask bits NOT a. -/
  | vmlogNot (k : BitVec 1) (d a : BitVec 5) (m q : BitVec 1)
  /-- VMLOG_SET (R367): Sets every in-shape mask bit. -/
  | vmlogSet (k : BitVec 1) (d : BitVec 5) (m q : BitVec 1)
  /-- VMLOG_CLEAR (R367): Clears every in-shape mask bit. -/
  | vmlogClear (k : BitVec 1) (d : BitVec 5) (m q : BitVec 1)
  /-- VMPOP (R368): Counts the counted mask positions into sD. -/
  | vmpop (k : BitVec 1) (d a : BitVec 5) (m q : BitVec 1)
  /-- VMFIRST (R368): Writes the lowest counted element number, or -1, into sD. -/
  | vmfirst (k : BitVec 1) (d a : BitVec 5) (m q : BitVec 1)
  /-- VMTOC_ANY (R368): Sets cN if any mask position is counted. -/
  | vmtocAny (k : BitVec 1) (c : BitVec 3) (a : BitVec 5) (m q : BitVec 1)
  /-- VMTOC_ALL (R368): Sets cN if every active position is counted. -/
  | vmtocAll (k : BitVec 1) (c : BitVec 3) (a : BitVec 5) (m q : BitVec 1)
  /-- VMTOC_NONE (R368): Sets cN if no position is counted. -/
  | vmtocNone (k : BitVec 1) (c : BitVec 3) (a : BitVec 5) (m q : BitVec 1)
  /-- VCVT (R369): Element-wise conversion to a target type. -/
  | vcvt (k : BitVec 1) (d a : BitVec 5) (m q : BitVec 1) (t : BitVec 5)
  /-- VBQ (R101): Block-quantises a floating group to a blocked type with scales. -/
  | vbq (k : BitVec 1) (d a : BitVec 5) (m q : BitVec 1) (t : BitVec 5)
  /-- VBDQ (R101): Dequantises a blocked group to a floating type. -/
  | vbdq (k : BitVec 1) (d a : BitVec 5) (m q : BitVec 1) (t : BitVec 5)
  /-- VMOV (R370): Copies raw element bits, and scales for blocked types. -/
  | vmov (k : BitVec 1) (d a : BitVec 5) (m q : BitVec 1)
  /-- VMOV_SPLAT (R370): Writes the low bits of a scalar into every active element. -/
  | vmovSplat (k : BitVec 1) (d b : BitVec 5) (m q : BitVec 1)
  /-- VPERM_ROW (R118): Permutes whole rows within each register by an index group. -/
  | vpermRow (k : BitVec 1) (d a b : BitVec 5) (m q : BitVec 1)
  /-- VPERM_COL (R119): Permutes columns within each group row by an index group. -/
  | vpermCol (k : BitVec 1) (d a b : BitVec 5) (m q : BitVec 1)
  /-- VSLIDE_UP (R120): Moves elements up by a scalar amount across the group. -/
  | vslideUp (k : BitVec 1) (d a b : BitVec 5) (m q : BitVec 1)
  /-- VSLIDE_DOWN (R120): Moves elements down by a scalar amount across the group. -/
  | vslideDown (k : BitVec 1) (d a b : BitVec 5) (m q : BitVec 1)
  /-- VXPOSE (R121): Transposes a single register. -/
  | vxpose (k : BitVec 1) (d a : BitVec 5) (m q : BitVec 1)
  /-- VEXT (R371): Extracts element k of va into sD. -/
  | vext (k : BitVec 1) (d a b : BitVec 5)
  /-- VINS (R371): Inserts the low bits of sA as element k of vD. -/
  | vins (k : BitVec 1) (d a b : BitVec 5)
  /-- VIOTA (R122): Writes each element's linear element number. -/
  | viota (k : BitVec 1) (d : BitVec 5) (m q : BitVec 1)
  /-- VIOTA_ROW (R122): Writes each element's group row. -/
  | viotaRow (k : BitVec 1) (d : BitVec 5) (m q : BitVec 1)
  /-- VIOTA_COL (R122): Writes each element's column. -/
  | viotaCol (k : BitVec 1) (d : BitVec 5) (m q : BitVec 1)
  /-- VRED (R123): Per-row tree reduction by the selected operation. -/
  | vred (k : BitVec 1) (d a : BitVec 5) (m q : BitVec 1) (o : BitVec 3)
  /-- VRED_ALL (R123): Whole-group tree reduction by the selected operation. -/
  | vredAll (k : BitVec 1) (d a : BitVec 5) (m q : BitVec 1) (o : BitVec 3)
  /-- VSCAN (R123): Inclusive prefix along each row by the selected operation. -/
  | vscan (k : BitVec 1) (d a : BitVec 5) (m q : BitVec 1) (o : BitVec 3)
  /-- VLD (R373): Unit vector load with a row stride, all-or-nothing. -/
  | vld (k : BitVec 1) (d a b : BitVec 5) (m q : BitVec 1) (g : BitVec 3)
  /-- VLD_ST (R373): Strided vector load. -/
  | vldSt (k : BitVec 1) (d a b : BitVec 5) (m q : BitVec 1) (g : BitVec 3)
  /-- VLD_Z (R140): Z-order tile load, optionally transposed. -/
  | vldZ (k : BitVec 1) (d a b : BitVec 5) (m q : BitVec 1) (g : BitVec 3)
  /-- VLD_BC (R373): Broadcast load of one row into every row. -/
  | vldBc (k : BitVec 1) (d a : BitVec 5) (m q : BitVec 1) (g : BitVec 3)
  /-- VLD_B (R94): Blocked load of codes and scale bytes. -/
  | vldB (k : BitVec 1) (d a b : BitVec 5) (m q : BitVec 1) (g : BitVec 3)
  /-- VGATHER (R166): Indexed load that stops at the lowest faulting element. -/
  | vgather (k : BitVec 1) (d a b : BitVec 5) (m q : BitVec 1) (g : BitVec 3)
  /-- VST (R383): Unit vector store held in the strip buffer. -/
  | vst (k : BitVec 1) (d a b : BitVec 5) (m q : BitVec 1) (g : BitVec 3)
  /-- VST_ST (R383): Strided vector store. -/
  | vstSt (k : BitVec 1) (d a b : BitVec 5) (m q : BitVec 1) (g : BitVec 3)
  /-- VST_Z (R383): Z-order tile store. -/
  | vstZ (k : BitVec 1) (d a b : BitVec 5) (m q : BitVec 1) (g : BitVec 3)
  /-- VST_BC (R384): Broadcast store where the highest active row wins. -/
  | vstBc (k : BitVec 1) (d a : BitVec 5) (m q : BitVec 1) (g : BitVec 3)
  /-- VST_B (R383): Blocked store of codes then scale bytes. -/
  | vstB (k : BitVec 1) (d a b : BitVec 5) (m q : BitVec 1) (g : BitVec 3)
  /-- VSCATTER (R383): Indexed store that stops at the lowest faulting element. -/
  | vscatter (k : BitVec 1) (d a b : BitVec 5) (m q : BitVec 1) (g : BitVec 3)
  /-- VAMO_ADD (R374): Per-element atomic add at the home, returning old values. -/
  | vamoAdd (k : BitVec 1) (d a b : BitVec 5) (m q : BitVec 1) (g : BitVec 3)
  /-- VAMO_MIN (R374): Per-element atomic minimum. -/
  | vamoMin (k : BitVec 1) (d a b : BitVec 5) (m q : BitVec 1) (g : BitVec 3)
  /-- VAMO_MAX (R374): Per-element atomic maximum. -/
  | vamoMax (k : BitVec 1) (d a b : BitVec 5) (m q : BitVec 1) (g : BitVec 3)
  /-- VAMO_AND (R374): Per-element atomic AND. -/
  | vamoAnd (k : BitVec 1) (d a b : BitVec 5) (m q : BitVec 1) (g : BitVec 3)
  /-- VAMO_OR (R374): Per-element atomic OR. -/
  | vamoOr (k : BitVec 1) (d a b : BitVec 5) (m q : BitVec 1) (g : BitVec 3)
  /-- VAMO_XOR (R374): Per-element atomic XOR. -/
  | vamoXor (k : BitVec 1) (d a b : BitVec 5) (m q : BitVec 1) (g : BitVec 3)
  /-- VAMO_SWAP (R374): Per-element atomic swap. -/
  | vamoSwap (k : BitVec 1) (d a b : BitVec 5) (m q : BitVec 1) (g : BitVec 3)
  /-- VAMO_FADD (R374): Per-element atomic floating add rounded RNE. -/
  | vamoFadd (k : BitVec 1) (d a b : BitVec 5) (m q : BitVec 1) (g : BitVec 3)
  /-- VCAPP_IDX (R375): Appends the element numbers of active elements to a memory queue. -/
  | vcappIdx (k : BitVec 1) (a : BitVec 5) (m q : BitVec 1) (g : BitVec 3)
  /-- VCAPP_VAL (R375): Appends the values of active elements to a memory queue. -/
  | vcappVal (k : BitVec 1) (d a : BitVec 5) (m q : BitVec 1) (g : BitVec 3)
  /-- MATT (R131): Strip boundary that attaches up to c contiguous free bands and clears their sets. -/
  | matt (d : BitVec 5) (c : BitVec 3)
  /-- MDET (R131): Commits stores and detaches every attached band, discarding its sets. -/
  | mdet
  /-- MCLAIM (R132): Claims the lowest free operand slot, or returns -1. -/
  | mclaim (d : BitVec 5)
  /-- MREL (R132): Marks a held slot released until the next strip boundary. -/
  | mrel (a : BitVec 5)
  /-- MLDB (R133): Copies one vector register into an operand slot and tags it. -/
  | mldb (k : BitVec 1) (a b : BitVec 5)
  /-- MMA (R134): Accumulates an A group times B slots into a working accumulator set. -/
  | mma (k : BitVec 1) (d a : BitVec 5) (n : BitVec 2)
  /-- MZERO (R135): Zeroes the working copy of set n of every attached band. -/
  | mzero (k : BitVec 1) (n : BitVec 2)
  /-- MDRAIN (R137): Converts accumulator rows of set n into a vector group. -/
  | mdrain (k : BitVec 1) (d b : BitVec 5) (n : BitVec 2)
  /-- XCOPY (R187): Issues a strided copy command on a copy channel, optionally with notify. -/
  | xcopy (d a b : BitVec 5) (c : BitVec 2) (n : BitVec 1) (l : BitVec 5)
  /-- XWAIT (R189): Waits until an identifier is no longer pending on a channel. -/
  | xwait (a : BitVec 5) (c : BitVec 2)
  /-- FENCE (R185): Orders earlier before later accesses of the named channels at a scope. -/
  | fence (m : BitVec 13) (s : BitVec 3)
  /-- SEND (R206): Sends one vector register to a receive slot of a context. -/
  | send (v a : BitVec 5) (t : BitVec 2)
  /-- RECV (R207): Moves a receive slot's message into one register and frees the slot. -/
  | recv (v : BitVec 5) (t : BitVec 2)
  /-- TEND (R40): Ends the task: commits, waits for its accesses and retires one iteration. -/
  | tend
  /-- GSPAWN (R40): Releases and asks the mill to track and perhaps ready a record. -/
  | gspawn (s : BitVec 5)
  /-- GSIG (R40): Releases and asks the mill to decrement a record's dependence count. -/
  | gsig (s : BitVec 5)
  /-- ADJ (R56): Sets the context's adjunct policy. -/
  | adj (p : BitVec 2)
  /-- UIRET (R195): Ends a user-interrupt handler, restoring s24-s31 and resuming at UIEPC. -/
  | uiret
  /-- DCWB (R267): Writes back dirty L1 data over a block range and waits for earlier writes. -/
  | dcwb (s : BitVec 5) (n : BitVec 12)
  /-- IINV (R267): Removes a block range from every L1 instruction cache of the module. -/
  | iinv (s : BitVec 5) (n : BitVec 12)
  /-- FETCHB (R267): Discards words fetched beyond it and fetches afresh. -/
  | fetchb
  /-- PREF (R311): Hint that may bring a block range into the shared cache. -/
  | pref (s : BitVec 5) (n : BitVec 12)
  /-- TRAP (R222): Raises software trap 0x12 with TVAL := imm12. -/
  | trap (i : BitVec 12)
  /-- ERET (R223): Returns from a trap, reloading any queue dump, or frees the context after CSAVE. -/
  | eret
  /-- MFS (R353): Reads a state register by number into sN. -/
  | mfs (s : BitVec 5) (n : BitVec 12)
  /-- MTS (R353): Writes sN into a state register by number under its own rule. -/
  | mts (s : BitVec 5) (n : BitVec 12)
  /-- WAIT (R388): Stalls the context until a wake condition holds. -/
  | wait
  /-- NOP (R355): Advances the PC and does nothing else. -/
  | nop
  /-- CSAVE (R237): Saves the interrupted task as a cocoon of kind 2 and parks its matrix state. -/
  | csave (s : BitVec 5)
  /-- CLOAD (R238): Checks and loads a cocoon into the issuing context. -/
  | cload (s : BitVec 5)
  /-- TLBINV (R175): Releases at system scope and invalidates translations on the whole module. -/
  | tlbinv (s : BitVec 5) (k : BitVec 2)
  /-- BUFFERED_WRITE_PERFORM (R189): A committed held write is performed at its home in stream order. -/
  | bufferedWritePerform (ctx idx : Nat)
  /-- VSHAPE_LANE_GRANT (R77): A VSHAPE waiting for lanes acquires a freed lane and completes its grant. -/
  | vshapeLaneGrant (ctx : Nat)
  /-- FENCE_WAIT_END (R185): The waits of a FENCE or release end and later accesses of the channels proceed. -/
  | fenceWaitEnd (ctx : Nat)
  /-- TEND_WAIT_END (R40): TEND's wait for accesses ends; lanes, bands and slots are freed and the iteration retired. -/
  | tendWaitEnd (ctx : Nat)
  /-- TLBINV_COMPLETE (R175): Every target has acknowledged the invalidation and TLBINV retires. -/
  | tlbinvComplete (ctx : Nat)
  /-- IINV_COMPLETE (R267): Every core has acknowledged the instruction-cache invalidation. -/
  | iinvComplete (ctx : Nat)
  /-- DCWB_COMPLETE (R267): Every earlier write to the range is performed and DCWB retires. -/
  | dcwbComplete (ctx : Nat)
  /-- XWAIT_RETIRE (R189): The awaited identifier stops being pending and XWAIT retires. -/
  | xwaitRetire (ctx : Nat)
  /-- XCOPY_ENQUEUE (R187): A channel with room takes a stalled XCOPY's command and identifier. -/
  | xcopyEnqueue (ctx : Nat)
  /-- COPY_COMMAND_START (R188): A command whose conflicts have completed translates both sides and starts. -/
  | copyCommandStart (ctx chan : Nat) (id : BitVec 32)
  /-- COPY_COMMAND_COMPLETE (R188): A command's writes are performed and XDONE advances over the completed prefix. -/
  | copyCommandComplete (ctx chan : Nat) (id : BitVec 32)
  /-- VCAPP_THRESHOLD_NOTIFY (R44): After an append's items are performed, a crossed threshold raises user interrupt 0x02. -/
  | vcappThresholdNotify (ctx idx : Nat)
  /-- GRANT_REQUEST (R206): A SEND grant request reaches the destination and is granted, refused or held. -/
  | grantRequest (idx : Nat)
  /-- GRANT_REPLY (R206): A grant lets the SEND send its message and retire; a refusal traps 0x09. -/
  | grantReply (ctx : Nat) (granted : Bool)
  /-- MESSAGE_ARRIVAL (R207): A message fills a receive slot and raises user interrupt 0x03. -/
  | messageArrival (ctx tag : Nat)
  /-- RECV_SLOT_FULL (R207): A waiting RECV finds its slot full and consumes the message. -/
  | recvSlotFull (ctx : Nat)
  /-- WAIT_WAKE (R388): A wake condition arrives and a stalled WAIT retires. -/
  | waitWake (ctx : Nat)
  /-- USER_INTERRUPT_TAKE (R194): A pending enabled cause is taken: UIEPC, UICAUSE, UIVAL set and the shadow set swapped in. -/
  | userInterruptTake (ctx : Nat)
  /-- QUEUED_TRAP (R218): A convoy in the vector queue faults; issue stops and the queue is dumped. -/
  | queuedTrap (ctx : Nat)
  /-- REPLAY_RERUN (R253): After teardown the mill restores shadow pages and parameters and readies the roots again. -/
  | replayRerun (launch : Nat)
  /-- PREEMPTWIN_EXPIRY (R226): A victim retiring PREEMPTWIN user convoys after a notice is saved whole. -/
  | preemptwinExpiry (ctx : Nat)
  /-- WHOLE_SAVE_DONE (R229): After the drain, the cocoon is written, matrix state parked and the context freed. -/
  | wholeSaveDone (ctx : Nat)
  /-- CLOAD_LANE_GRANT (R238): A CLOAD waiting for lanes gets them and reinstates the cocoon. -/
  | cloadLaneGrant (ctx : Nat)
  /-- LAUNCH_ACCEPT (R21): In a mill cycle the mill takes the oldest queued value of each copy and accepts it. -/
  | launchAccept
  /-- TASK_END_BY_MILL (R26): A running task of a failed or torn-down launch ends at its next convoy boundary. -/
  | taskEndByMill (ctx : Nat)
  /-- DISPATCH_PICK (R35): A mill pick chooses a record iteration and an eligible context by running weight. -/
  | dispatchPick
  /-- TASK_START (R32): A dispatched task starts on its context with the task start state. -/
  | taskStart (ctx : Nat)
  /-- TEND_RETIREMENT (R38): A TEND retirement reaches the mill and retires one iteration of its record. -/
  | tendRetirement
  /-- COMPLETION_WORD_WRITE (R22): After every access is performed at system scope, the mill writes the completion word. -/
  | completionWordWrite (launch : Nat)
  /-- SPAWN_REQUEST (R40): The mill accepts a GSPAWN: tracks the record and readies it if its count is 0. -/
  | spawnRequest (ctx : Nat)
  /-- SIGNAL_REQUEST (R40): The mill accepts a GSIG: decrements the count at its home and readies at 0. -/
  | signalRequest (ctx : Nat)
  /-- MOULT_REMAP (R211): After every request is acknowledged, every node writes the new PLANEMAP and resumes. -/
  | moultRemap
  /-- MIGRATION_DONE (R173): The copied page's leaf is rewritten, TLB entries removed and accesses released. -/
  | migrationDone
  /-- BOOT_ROM (R287): After reset the boot ROM fills key slot 0, verifies firmware, extends measurements and powers strings. -/
  | bootRom
  /-- ATFLUSH_DONE (R284): The access-table invalidation ends and ATFLUSH reads 0. -/
  | atflushDone
  /-- QUOTE_READY (R288): The quote signature is written to QSIG and QCMD.go reads 0. -/
  | quoteReady
  /-- STRING_POWERED (R62): A powered-up string becomes ready at balance step 0 and STRRDY sets. -/
  | stringPowered (str : Nat)
  /-- STRING_UNPOWERED (R289): A gated string powers down and STRRDY clears. -/
  | stringUnpowered (str : Nat)
  /-- TASK_ENDED_BY_RUNTIME (R220): The device runtime on a management core ends a stopped or trapped task, and the launch fails with cause 0x0E. -/
  | taskEndedByRuntime (ctx : Nat)
  /-- CONVOY_FETCH (R292): Fetch frames a convoy from its start address and runs the loop-end test. -/
  | convoyFetch (ctx : Nat)
  /-- CHECKER_MISMATCH (R244): The checker's recomputation differs from the main datapath. -/
  | checkerMismatch (ctx : Nat)
  /-- UNCORRECTABLE_ERROR (R245): An instruction consumes an uncorrectable error or poisoned data. -/
  | uncorrectableError (ctx : Nat) (pinned scalarLoad named : Bool)
  /-- LAUNCH_WRITE (R283): An 8-byte write to a LAUNCH copy queues a value or drops it with ovf. -/
  | launchWrite (master bytes : Nat) (value : BitVec 64)
  /-- ADJUNCT_REQUEST (R50): A node over for 256 string cycles latches an adjunct request for a tile. -/
  | adjunctRequest (str node : Nat) (under : Bool)
  /-- THROTTLE_DOWN (R54): A node over for 1,280 string cycles raises the balance step. -/
  | throttleDown (str : Nat)
  /-- THROTTLE_UP (R54): All nodes quiet for 4,096 string cycles lower the balance step. -/
  | throttleUp (str : Nat)
  /-- STRING_FLOOR (R54): 1,280 over cycles at step 2 set STRSTAT.floor and restart the over counts. -/
  | stringFloor (str : Nat)
  /-- FLIT_RETRANSMIT (R199): A flit failing its CRC is retransmitted from the link retry buffer. -/
  | flitRetransmit (port : Nat)
  /-- PORT_DOWN (R199): A port loses a lane or a flit fails 8 successive retransmissions. -/
  | portDown (port : Nat)
  /-- PAGE_MIGRATION (R173): Hardware starts moving a 64 KiB leaf toward an accessing node, stalling its accesses. -/
  | pageMigration (ctx : Nat) (va : BitVec 64) (dest frame : Nat)
  /-- PATROL_VISIT (R258): The patrol scrubber reads, corrects and writes back one row. -/
  | patrolVisit (line : Nat) (corrected uncorrectable : Bool)
  /-- SEMA_READ (R282): A read of SEMA acquires it for the reader if it is free. -/
  | semaRead (master : Nat)
  /-- SEMA_WRITE (R282): A write by the owner releases SEMA; any other write sets rej. -/
  | semaWrite (master : Nat) (value : BitVec 64)
  /-- REGISTER_WRITE (R281): A write to a host register without a row of its own, under the SEMA guard. -/
  | registerWrite (master offset bytes : Nat) (value : BitVec 64)
  /-- RESET_GO (R281): Setting RESET.go resets the module. -/
  | resetGo (master : Nat)
  /-- ATFLUSH_GO (R284): Setting ATFLUSH.go starts a TLBINV of kind 3 across the module. -/
  | atflushGo (master : Nat)
  /-- KEYCMD_LOAD (R281): KEYCMD op 1 loads KEYDATA into a key slot. -/
  | keycmdLoad (master slot : Nat)
  /-- KEYCMD_EMPTY (R281): KEYCMD op 2 empties a key slot. -/
  | keycmdEmpty (master slot : Nat)
  /-- MEASCMD_EXTEND (R288): Extends MEASn by MEASIN with SHA3-256. -/
  | meascmdExtend (master n : Nat)
  /-- QCMD_GO (R288): Starts a signed quote over FEATURES, QSEL, NONCE and selected measurements. -/
  | qcmdGo (master : Nat)
  /-- PARTSZ_WRITE (R285): Sets the die's shared-SRAM partition size, refused while any task runs. -/
  | partszWrite (master die : Nat) (value : BitVec 64)
  /-- STRCAP_WRITE (R285): Sets a string's management cap step, which may change the effective step. -/
  | strcapWrite (master die : Nat) (value : BitVec 64)
  /-- STRPWR_WRITE (R289): Requests power up or down of a string, refused outside the gating sequence. -/
  | strpwrWrite (master die : Nat) (value : BitVec 64)
  /-- BAR2_READ (R277): A host read through port A's BAR2 window reads HBM under key index 0. -/
  | bar2Read (offset bytes : Nat)
  /-- BAR2_WRITE (R277): A host write through port A's BAR2 window writes HBM, or is dropped. -/
  | bar2Write (offset bytes : Nat) (value : BitVec 64)
  /-- PCIE_LINK_DOWN (R282): A port's PCIe link-down releases that port's SEMA ownership. -/
  | pcieLinkDown (port : Nat)
  /-- MESH_UNCORRECTABLE_ERROR (R209): A plane's mesh on a die reports an uncorrectable error, which makes that plane dead. -/
  | meshUncorrectableError (die plane : Nat)
  /-- PLANE_DEATH_LEARNED (R209): A node's management core learns over the live planes of a plane death declared elsewhere and joins the moult. -/
  | planeDeathLearned (plane : Nat)
  /-- UNHELD_WRITE_PERFORM (R361): A write that is never held, such as the write of ST release or a VCAPP item, is performed at its home some time after its instruction retired. -/
  | unheldWritePerform (ctx idx : Nat)
  deriving DecidableEq, Repr

end Sys2Proof
end

