-- ==== Sys2Proof/WellFormed.lean ====
section
/-! DEFINITION. Which instructions are well formed. For a word: the fields that hold a code hold no
value the spec calls reserved (R294 step 3: a word that fails raises trap 0x01). For an event: the
numbers that name a part of the machine are in the ranges of R13 and R14. -/

namespace Sys2Proof

/-- The element type codes that are not reserved (R312). -/
def etypeDefined (t : BitVec 5) : Bool := t.toNat < 15 || (16 ≤ t.toNat && t.toNat ≤ 18)

/-- A relation code of CMP and CMP immediate (R313). -/
def relationDefined (r : BitVec 3) : Bool := r.toNat ≤ 5

/-- A scope code (R314). -/
def scopeDefined (p : BitVec 3) : Bool := p.toNat ≤ 5

/-- The operands of LOOP (R68): a body of at least one word, and no immediate count beside a register. -/
def loopDefined (a : BitVec 5) (n l : BitVec 10) : Bool := l != 0 && (a == 0 || n == 0)

/-- The target, format and source kind of FCVT (R299). -/
def fcvtDefined (t : BitVec 3) (f k : BitVec 2) : Bool :=
  k == 0 || (k != 3 && f == 0 && t.toNat < 4)

/-- A reduction's operation (R307). -/
def reductionDefined (o : BitVec 3) : Bool := o.toNat ≤ 5

/-- The largest number of each kind of part (R13, R14). -/
def ctxInRange (c : Nat) : Bool := c < 768
def stringInRange (n : Nat) : Bool := n < 24
/-- Masters of the host block: 1 port A, 2 port B, 3 the management cores (R281). -/
def masterInRange (m : Nat) : Bool := 1 ≤ m && m ≤ 3

/-- Whether an instruction has no reserved value in a coded field, and an event names parts that exist. -/
def Instr.wf : Instr → Bool
  | .cmpReg _ _ _ _ r => relationDefined r
  | .cmpImm _ r _ _ _ => relationDefined r
  | .fcvt _ _ t f k => fcvtDefined t f k
  | .ld _ _ _ s z _ => !(s == 3 && z == 1)
  | .ldAcq _ _ p _ => scopeDefined p
  | .stRel _ _ p _ => scopeDefined p
  | .amoAdd _ _ _ p _ => scopeDefined p
  | .amoAnd _ _ _ p _ => scopeDefined p
  | .amoOr _ _ _ p _ => scopeDefined p
  | .amoXor _ _ _ p _ => scopeDefined p
  | .amoMin _ _ _ p _ => scopeDefined p
  | .amoMax _ _ _ p _ => scopeDefined p
  | .amoMinZ _ _ _ p _ => scopeDefined p
  | .amoMaxZ _ _ _ p _ => scopeDefined p
  | .amoSwap _ _ _ p _ => scopeDefined p
  | .amoFadd _ _ _ p _ => scopeDefined p
  | .cas _ _ _ p _ => scopeDefined p
  | .loop a n l => loopDefined a n l
  | .vcvt _ _ _ _ _ t => etypeDefined t
  | .vbq _ _ _ _ _ t => etypeDefined t
  | .vbdq _ _ _ _ _ t => etypeDefined t
  | .vred _ _ _ _ _ o => reductionDefined o
  | .vredAll _ _ _ _ _ o => reductionDefined o
  | .vscan _ _ _ _ _ o => reductionDefined o
  | .matt _ c => 1 ≤ c.toNat && c.toNat ≤ 4
  | .fence _ s => scopeDefined s
  | .convoyFetch c => ctxInRange c
  | .bufferedWritePerform c _ => ctxInRange c
  | .vshapeLaneGrant c => ctxInRange c
  | .fenceWaitEnd c => ctxInRange c
  | .tendWaitEnd c => ctxInRange c
  | .tlbinvComplete c => ctxInRange c
  | .iinvComplete c => ctxInRange c
  | .dcwbComplete c => ctxInRange c
  | .xwaitRetire c => ctxInRange c
  | .xcopyEnqueue c => ctxInRange c
  | .copyCommandStart c ch _ => ctxInRange c && ch < 4
  | .copyCommandComplete c ch _ => ctxInRange c && ch < 4
  | .vcappThresholdNotify c _ => ctxInRange c
  | .grantReply c _ => ctxInRange c
  | .messageArrival c t => ctxInRange c && t < 4
  | .recvSlotFull c => ctxInRange c
  | .waitWake c => ctxInRange c
  | .userInterruptTake c => ctxInRange c
  | .queuedTrap c => ctxInRange c
  | .checkerMismatch c => ctxInRange c
  | .uncorrectableError c _ _ _ => ctxInRange c
  | .preemptwinExpiry c => ctxInRange c
  | .wholeSaveDone c => ctxInRange c
  | .cloadLaneGrant c => ctxInRange c
  | .launchWrite m _ _ => masterInRange m
  | .taskEndByMill c => ctxInRange c
  | .taskStart c => ctxInRange c
  | .spawnRequest c => ctxInRange c
  | .signalRequest c => ctxInRange c
  | .adjunctRequest n k _ => stringInRange n && 1 ≤ k && k ≤ 3
  | .throttleDown n => stringInRange n
  | .throttleUp n => stringInRange n
  | .stringFloor n => stringInRange n
  | .flitRetransmit p => p < 48
  | .portDown p => p < 48
  | .pageMigration c _ _ _ => ctxInRange c
  | .semaRead m => masterInRange m
  | .semaWrite m _ => masterInRange m
  | .registerWrite m _ _ _ => masterInRange m
  | .resetGo m => masterInRange m
  | .atflushGo m => masterInRange m
  | .keycmdLoad m n => masterInRange m && n < 4096
  | .keycmdEmpty m n => masterInRange m && n < 4096
  | .meascmdExtend m n => masterInRange m && n < 16
  | .qcmdGo m => masterInRange m
  | .partszWrite m d _ => masterInRange m && d < 2
  | .strcapWrite m d _ => masterInRange m && d < 2
  | .strpwrWrite m d _ => masterInRange m && d < 2
  | .stringPowered n => stringInRange n
  | .stringUnpowered n => stringInRange n
  | .pcieLinkDown p => p == 1 || p == 2
  | .meshUncorrectableError d p => d < 2 && p < 4
  | .planeDeathLearned p => p < 4
  | .unheldWritePerform c _ => ctxInRange c
  | .taskEndedByRuntime c => ctxInRange c
  | _ => true

end Sys2Proof
end

