-- ==== Sys2Proof/Decode.lean ====
section
/-! DEFINITION. Decoding and encoding of instruction words (R291, R295, R298 to R310, and the encoding
tables of R40, R56, R130, R185, R195, R204, R221, R236, R267). Each row of the opcode table that has a
word is one `Row`: the bits that are fixed, the places of its fields, and the instruction they build.
Decoding is total: a word that no row fits, or whose coded field is reserved, is rejected by name. -/

namespace Sys2Proof

/-- One row of the opcode table. `base` is the word with every field zero, `fields` the (lowest bit,
width) of each field, and `build` the instruction that the fields' values name. -/
structure Row where
  base : Nat
  fields : List (Nat × Nat)
  build : List Nat → Option Instr

/-- The bits a row's fields take. -/
def Row.fieldBits (r : Row) : Nat := r.fields.foldl (fun m f => m ||| ((2 ^ f.2 - 1) <<< f.1)) 0

/-- The bits a row fixes: every bit that belongs to no field. -/
def Row.mask (r : Row) : Nat := (2 ^ 32 - 1) ^^^ r.fieldBits

/-- A word belongs to a row when every bit the row fixes is as the row says. -/
def Row.fits (r : Row) (w : Nat) : Bool := w &&& r.mask == r.base

/-- The values of a word's fields. -/
def Row.unpack (r : Row) (w : Nat) : List Nat := r.fields.map fun f => w / 2 ^ f.1 % 2 ^ f.2

/-- The word that holds these values in the row's fields. -/
def packFields : List (Nat × Nat) → List Nat → Nat
  | f :: fs, v :: vs => v * 2 ^ f.1 + packFields fs vs
  | _, _ => 0

/-- The word of a row with these field values. -/
def Row.pack (r : Row) (vs : List Nat) : Nat := r.base + packFields r.fields vs

/-- ADD_REG (R317). -/
def rowAddReg : Row :=
  ⟨0x02000000, [(20, 5), (15, 5), (10, 5)], fun | [d, a, b] => some (.addReg (.ofNat 5 d) (.ofNat 5 a) (.ofNat 5 b)) | _ => none⟩

/-- ADD_IMM (R317). -/
def rowAddImm : Row :=
  ⟨0x04000000, [(20, 5), (15, 5), (0, 15)], fun | [d, a, i] => some (.addImm (.ofNat 5 d) (.ofNat 5 a) (.ofNat 15 i)) | _ => none⟩

/-- AND_REG (R318). -/
def rowAndReg : Row :=
  ⟨0x02000060, [(20, 5), (15, 5), (10, 5)], fun | [d, a, b] => some (.andReg (.ofNat 5 d) (.ofNat 5 a) (.ofNat 5 b)) | _ => none⟩

/-- AND_IMM (R318). -/
def rowAndImm : Row :=
  ⟨0x06000000, [(20, 5), (15, 5), (0, 15)], fun | [d, a, i] => some (.andImm (.ofNat 5 d) (.ofNat 5 a) (.ofNat 15 i)) | _ => none⟩

/-- OR_REG (R351). -/
def rowOrReg : Row :=
  ⟨0x02000070, [(20, 5), (15, 5), (10, 5)], fun | [d, a, b] => some (.orReg (.ofNat 5 d) (.ofNat 5 a) (.ofNat 5 b)) | _ => none⟩

/-- OR_IMM (R352). -/
def rowOrImm : Row :=
  ⟨0x08000000, [(20, 5), (15, 5), (0, 15)], fun | [d, a, i] => some (.orImm (.ofNat 5 d) (.ofNat 5 a) (.ofNat 15 i)) | _ => none⟩

/-- XOR_REG (R391). -/
def rowXorReg : Row :=
  ⟨0x02000080, [(20, 5), (15, 5), (10, 5)], fun | [d, a, b] => some (.xorReg (.ofNat 5 d) (.ofNat 5 a) (.ofNat 5 b)) | _ => none⟩

/-- XOR_IMM (R391). -/
def rowXorImm : Row :=
  ⟨0x0A000000, [(20, 5), (15, 5), (0, 15)], fun | [d, a, i] => some (.xorImm (.ofNat 5 d) (.ofNat 5 a) (.ofNat 15 i)) | _ => none⟩

/-- SUB (R351). -/
def rowSub : Row :=
  ⟨0x02000010, [(20, 5), (15, 5), (10, 5)], fun | [d, a, b] => some (.sub (.ofNat 5 d) (.ofNat 5 a) (.ofNat 5 b)) | _ => none⟩

/-- MUL (R351). -/
def rowMul : Row :=
  ⟨0x02000020, [(20, 5), (15, 5), (10, 5)], fun | [d, a, b] => some (.mul (.ofNat 5 d) (.ofNat 5 a) (.ofNat 5 b)) | _ => none⟩

/-- MULH (R351). -/
def rowMulh : Row :=
  ⟨0x02000030, [(20, 5), (15, 5), (10, 5), (3, 1)], fun | [d, a, b, z] => some (.mulh (.ofNat 5 d) (.ofNat 5 a) (.ofNat 5 b) (.ofNat 1 z)) | _ => none⟩

/-- DIV (R328). -/
def rowDiv : Row :=
  ⟨0x02000040, [(20, 5), (15, 5), (10, 5), (3, 1)], fun | [d, a, b, z] => some (.div (.ofNat 5 d) (.ofNat 5 a) (.ofNat 5 b) (.ofNat 1 z)) | _ => none⟩

/-- REM (R351). -/
def rowRem : Row :=
  ⟨0x02000050, [(20, 5), (15, 5), (10, 5), (3, 1)], fun | [d, a, b, z] => some (.rem (.ofNat 5 d) (.ofNat 5 a) (.ofNat 5 b) (.ofNat 1 z)) | _ => none⟩

/-- SHL_REG (R351). -/
def rowShlReg : Row :=
  ⟨0x02000090, [(20, 5), (15, 5), (10, 5)], fun | [d, a, b] => some (.shlReg (.ofNat 5 d) (.ofNat 5 a) (.ofNat 5 b)) | _ => none⟩

/-- SHR_REG (R351). -/
def rowShrReg : Row :=
  ⟨0x020000A0, [(20, 5), (15, 5), (10, 5)], fun | [d, a, b] => some (.shrReg (.ofNat 5 d) (.ofNat 5 a) (.ofNat 5 b)) | _ => none⟩

/-- SRA_REG (R351). -/
def rowSraReg : Row :=
  ⟨0x020000B0, [(20, 5), (15, 5), (10, 5)], fun | [d, a, b] => some (.sraReg (.ofNat 5 d) (.ofNat 5 a) (.ofNat 5 b)) | _ => none⟩

/-- SHL_IMM (R352). -/
def rowShlImm : Row :=
  ⟨0x0C000000, [(20, 5), (15, 5), (0, 6)], fun | [d, a, n] => some (.shlImm (.ofNat 5 d) (.ofNat 5 a) (.ofNat 6 n)) | _ => none⟩

/-- SHR_IMM (R352). -/
def rowShrImm : Row :=
  ⟨0x0C002000, [(20, 5), (15, 5), (0, 6)], fun | [d, a, n] => some (.shrImm (.ofNat 5 d) (.ofNat 5 a) (.ofNat 6 n)) | _ => none⟩

/-- SRA_IMM (R352). -/
def rowSraImm : Row :=
  ⟨0x0C004000, [(20, 5), (15, 5), (0, 6)], fun | [d, a, n] => some (.sraImm (.ofNat 5 d) (.ofNat 5 a) (.ofNat 6 n)) | _ => none⟩

/-- MIN (R351). -/
def rowMin : Row :=
  ⟨0x020000C0, [(20, 5), (15, 5), (10, 5), (3, 1)], fun | [d, a, b, z] => some (.min (.ofNat 5 d) (.ofNat 5 a) (.ofNat 5 b) (.ofNat 1 z)) | _ => none⟩

/-- MAX (R351). -/
def rowMax : Row :=
  ⟨0x020000D0, [(20, 5), (15, 5), (10, 5), (3, 1)], fun | [d, a, b, z] => some (.max (.ofNat 5 d) (.ofNat 5 a) (.ofNat 5 b) (.ofNat 1 z)) | _ => none⟩

/-- CLZ (R326). -/
def rowClz : Row :=
  ⟨0x020000E0, [(20, 5), (15, 5)], fun | [d, a] => some (.clz (.ofNat 5 d) (.ofNat 5 a)) | _ => none⟩

/-- POPC (R351). -/
def rowPopc : Row :=
  ⟨0x020000F0, [(20, 5), (15, 5)], fun | [d, a] => some (.popc (.ofNat 5 d) (.ofNat 5 a)) | _ => none⟩

/-- SEL (R351). -/
def rowSel : Row :=
  ⟨0x02000100, [(20, 5), (15, 5), (10, 5), (0, 3)], fun | [d, a, b, c] => some (.sel (.ofNat 5 d) (.ofNat 5 a) (.ofNat 5 b) (.ofNat 3 c)) | _ => none⟩

/-- CMP_REG (R327). -/
def rowCmpReg : Row :=
  ⟨0x02000110, [(20, 3), (15, 5), (10, 5), (3, 1), (0, 3)], fun | [c, a, b, z, r] => some (.cmpReg (.ofNat 3 c) (.ofNat 5 a) (.ofNat 5 b) (.ofNat 1 z) (.ofNat 3 r)) | _ => none⟩

/-- CMP_IMM (R327). -/
def rowCmpImm : Row :=
  ⟨0x0E000000, [(22, 3), (19, 3), (14, 5), (13, 1), (0, 13)], fun | [c, r, a, z, i] => some (.cmpImm (.ofNat 3 c) (.ofNat 3 r) (.ofNat 5 a) (.ofNat 1 z) (.ofNat 13 i)) | _ => none⟩

/-- CBIT_AND (R324). -/
def rowCbitAnd : Row :=
  ⟨0x02000120, [(20, 3), (15, 3), (10, 3)], fun | [d, a, b] => some (.cbitAnd (.ofNat 3 d) (.ofNat 3 a) (.ofNat 3 b)) | _ => none⟩

/-- CBIT_OR (R324). -/
def rowCbitOr : Row :=
  ⟨0x02000121, [(20, 3), (15, 3), (10, 3)], fun | [d, a, b] => some (.cbitOr (.ofNat 3 d) (.ofNat 3 a) (.ofNat 3 b)) | _ => none⟩

/-- CBIT_XOR (R324). -/
def rowCbitXor : Row :=
  ⟨0x02000122, [(20, 3), (15, 3), (10, 3)], fun | [d, a, b] => some (.cbitXor (.ofNat 3 d) (.ofNat 3 a) (.ofNat 3 b)) | _ => none⟩

/-- CBIT_ANDN (R324). -/
def rowCbitAndn : Row :=
  ⟨0x02000123, [(20, 3), (15, 3), (10, 3)], fun | [d, a, b] => some (.cbitAndn (.ofNat 3 d) (.ofNat 3 a) (.ofNat 3 b)) | _ => none⟩

/-- CBIT_SET (R324). -/
def rowCbitSet : Row :=
  ⟨0x02000124, [(20, 3)], fun | [d] => some (.cbitSet (.ofNat 3 d)) | _ => none⟩

/-- CBIT_CLEAR (R324). -/
def rowCbitClear : Row :=
  ⟨0x02000125, [(20, 3)], fun | [d] => some (.cbitClear (.ofNat 3 d)) | _ => none⟩

/-- CBIT_NOT (R324). -/
def rowCbitNot : Row :=
  ⟨0x02000126, [(20, 3), (15, 3)], fun | [d, a] => some (.cbitNot (.ofNat 3 d) (.ofNat 3 a)) | _ => none⟩

/-- CBIT_MOVE (R324). -/
def rowCbitMove : Row :=
  ⟨0x02000127, [(20, 3), (15, 3)], fun | [d, a] => some (.cbitMove (.ofNat 3 d) (.ofNat 3 a)) | _ => none⟩

/-- LUI (R347). -/
def rowLui : Row :=
  ⟨0x10000000, [(20, 5), (0, 20)], fun | [d, i] => some (.lui (.ofNat 5 d) (.ofNat 20 i)) | _ => none⟩

/-- FADD (R332). -/
def rowFadd : Row :=
  ⟨0x12000000, [(20, 5), (15, 5), (10, 5), (2, 2)], fun | [d, a, b, f] => some (.fadd (.ofNat 5 d) (.ofNat 5 a) (.ofNat 5 b) (.ofNat 2 f)) | _ => none⟩

/-- FSUB (R332). -/
def rowFsub : Row :=
  ⟨0x12000010, [(20, 5), (15, 5), (10, 5), (2, 2)], fun | [d, a, b, f] => some (.fsub (.ofNat 5 d) (.ofNat 5 a) (.ofNat 5 b) (.ofNat 2 f)) | _ => none⟩

/-- FMUL (R332). -/
def rowFmul : Row :=
  ⟨0x12000020, [(20, 5), (15, 5), (10, 5), (2, 2)], fun | [d, a, b, f] => some (.fmul (.ofNat 5 d) (.ofNat 5 a) (.ofNat 5 b) (.ofNat 2 f)) | _ => none⟩

/-- FMA (R332). -/
def rowFma : Row :=
  ⟨0x12000030, [(20, 5), (15, 5), (10, 5), (2, 2)], fun | [d, a, b, f] => some (.fma (.ofNat 5 d) (.ofNat 5 a) (.ofNat 5 b) (.ofNat 2 f)) | _ => none⟩

/-- FDIV (R332). -/
def rowFdiv : Row :=
  ⟨0x12000040, [(20, 5), (15, 5), (10, 5), (2, 2)], fun | [d, a, b, f] => some (.fdiv (.ofNat 5 d) (.ofNat 5 a) (.ofNat 5 b) (.ofNat 2 f)) | _ => none⟩

/-- FSQRT (R332). -/
def rowFsqrt : Row :=
  ⟨0x12000050, [(20, 5), (15, 5), (2, 2)], fun | [d, a, f] => some (.fsqrt (.ofNat 5 d) (.ofNat 5 a) (.ofNat 2 f)) | _ => none⟩

/-- FMIN (R337). -/
def rowFmin : Row :=
  ⟨0x12000060, [(20, 5), (15, 5), (10, 5), (2, 2)], fun | [d, a, b, f] => some (.fmin (.ofNat 5 d) (.ofNat 5 a) (.ofNat 5 b) (.ofNat 2 f)) | _ => none⟩

/-- FMAX (R337). -/
def rowFmax : Row :=
  ⟨0x12000070, [(20, 5), (15, 5), (10, 5), (2, 2)], fun | [d, a, b, f] => some (.fmax (.ofNat 5 d) (.ofNat 5 a) (.ofNat 5 b) (.ofNat 2 f)) | _ => none⟩

/-- FCMP (R334). -/
def rowFcmp : Row :=
  ⟨0x12000080, [(22, 3), (15, 5), (10, 5), (2, 2), (0, 2)], fun | [c, a, b, f, r] => some (.fcmp (.ofNat 3 c) (.ofNat 5 a) (.ofNat 5 b) (.ofNat 2 f) (.ofNat 2 r)) | _ => none⟩

/-- FCVT (R336). -/
def rowFcvt : Row :=
  ⟨0x12000090, [(20, 5), (15, 5), (12, 3), (2, 2), (0, 2)], fun | [d, a, t, f, k] => some (.fcvt (.ofNat 5 d) (.ofNat 5 a) (.ofNat 3 t) (.ofNat 2 f) (.ofNat 2 k)) | _ => none⟩

/-- LD (R344). -/
def rowLd : Row :=
  ⟨0x14000000, [(20, 5), (15, 5), (12, 3), (10, 2), (9, 1), (0, 9)], fun | [d, a, g, s, z, i] => some (.ld (.ofNat 5 d) (.ofNat 5 a) (.ofNat 3 g) (.ofNat 2 s) (.ofNat 1 z) (.ofNat 9 i)) | _ => none⟩

/-- ST (R360). -/
def rowSt : Row :=
  ⟨0x16000000, [(20, 5), (15, 5), (12, 3), (10, 2), (0, 9)], fun | [d, a, g, s, i] => some (.st (.ofNat 5 d) (.ofNat 5 a) (.ofNat 3 g) (.ofNat 2 s) (.ofNat 9 i)) | _ => none⟩

/-- LD_ACQ (R345). -/
def rowLdAcq : Row :=
  ⟨0x18000000, [(20, 5), (15, 5), (7, 3), (5, 2)], fun | [d, a, p, s] => some (.ldAcq (.ofNat 5 d) (.ofNat 5 a) (.ofNat 3 p) (.ofNat 2 s)) | _ => none⟩

/-- ST_REL (R361). -/
def rowStRel : Row :=
  ⟨0x18000001, [(15, 5), (10, 5), (7, 3), (5, 2)], fun | [a, b, p, s] => some (.stRel (.ofNat 5 a) (.ofNat 5 b) (.ofNat 3 p) (.ofNat 2 s)) | _ => none⟩

/-- AMO_ADD (R320). -/
def rowAmoAdd : Row :=
  ⟨0x18000042, [(20, 5), (15, 5), (10, 5), (7, 3), (5, 1)], fun | [d, a, b, p, s] => some (.amoAdd (.ofNat 5 d) (.ofNat 5 a) (.ofNat 5 b) (.ofNat 3 p) (.ofNat 1 s)) | _ => none⟩

/-- AMO_AND (R320). -/
def rowAmoAnd : Row :=
  ⟨0x18000043, [(20, 5), (15, 5), (10, 5), (7, 3), (5, 1)], fun | [d, a, b, p, s] => some (.amoAnd (.ofNat 5 d) (.ofNat 5 a) (.ofNat 5 b) (.ofNat 3 p) (.ofNat 1 s)) | _ => none⟩

/-- AMO_OR (R320). -/
def rowAmoOr : Row :=
  ⟨0x18000044, [(20, 5), (15, 5), (10, 5), (7, 3), (5, 1)], fun | [d, a, b, p, s] => some (.amoOr (.ofNat 5 d) (.ofNat 5 a) (.ofNat 5 b) (.ofNat 3 p) (.ofNat 1 s)) | _ => none⟩

/-- AMO_XOR (R320). -/
def rowAmoXor : Row :=
  ⟨0x18000045, [(20, 5), (15, 5), (10, 5), (7, 3), (5, 1)], fun | [d, a, b, p, s] => some (.amoXor (.ofNat 5 d) (.ofNat 5 a) (.ofNat 5 b) (.ofNat 3 p) (.ofNat 1 s)) | _ => none⟩

/-- AMO_MIN (R320). -/
def rowAmoMin : Row :=
  ⟨0x18000046, [(20, 5), (15, 5), (10, 5), (7, 3), (5, 1)], fun | [d, a, b, p, s] => some (.amoMin (.ofNat 5 d) (.ofNat 5 a) (.ofNat 5 b) (.ofNat 3 p) (.ofNat 1 s)) | _ => none⟩

/-- AMO_MAX (R320). -/
def rowAmoMax : Row :=
  ⟨0x18000047, [(20, 5), (15, 5), (10, 5), (7, 3), (5, 1)], fun | [d, a, b, p, s] => some (.amoMax (.ofNat 5 d) (.ofNat 5 a) (.ofNat 5 b) (.ofNat 3 p) (.ofNat 1 s)) | _ => none⟩

/-- AMO_MIN_Z (R320). -/
def rowAmoMinZ : Row :=
  ⟨0x18000048, [(20, 5), (15, 5), (10, 5), (7, 3), (5, 1)], fun | [d, a, b, p, s] => some (.amoMinZ (.ofNat 5 d) (.ofNat 5 a) (.ofNat 5 b) (.ofNat 3 p) (.ofNat 1 s)) | _ => none⟩

/-- AMO_MAX_Z (R320). -/
def rowAmoMaxZ : Row :=
  ⟨0x18000049, [(20, 5), (15, 5), (10, 5), (7, 3), (5, 1)], fun | [d, a, b, p, s] => some (.amoMaxZ (.ofNat 5 d) (.ofNat 5 a) (.ofNat 5 b) (.ofNat 3 p) (.ofNat 1 s)) | _ => none⟩

/-- AMO_SWAP (R320). -/
def rowAmoSwap : Row :=
  ⟨0x1800004A, [(20, 5), (15, 5), (10, 5), (7, 3), (5, 1)], fun | [d, a, b, p, s] => some (.amoSwap (.ofNat 5 d) (.ofNat 5 a) (.ofNat 5 b) (.ofNat 3 p) (.ofNat 1 s)) | _ => none⟩

/-- AMO_FADD (R320). -/
def rowAmoFadd : Row :=
  ⟨0x1800004B, [(20, 5), (15, 5), (10, 5), (7, 3), (5, 1)], fun | [d, a, b, p, s] => some (.amoFadd (.ofNat 5 d) (.ofNat 5 a) (.ofNat 5 b) (.ofNat 3 p) (.ofNat 1 s)) | _ => none⟩

/-- CAS (R323). -/
def rowCas : Row :=
  ⟨0x18000050, [(20, 5), (15, 5), (10, 5), (7, 3), (5, 1)], fun | [d, a, b, p, s] => some (.cas (.ofNat 5 d) (.ofNat 5 a) (.ofNat 5 b) (.ofNat 3 p) (.ofNat 1 s)) | _ => none⟩

/-- B (R322). -/
def rowB : Row :=
  ⟨0x1A000000, [(22, 3), (21, 1), (20, 1), (0, 20)], fun | [c, t, h, d] => some (.b (.ofNat 3 c) (.ofNat 1 t) (.ofNat 1 h) (.ofNat 20 d)) | _ => none⟩

/-- J (R341). -/
def rowJ : Row :=
  ⟨0x1C000000, [(0, 25)], fun | [d] => some (.j (.ofNat 25 d)) | _ => none⟩

/-- JAL (R341). -/
def rowJal : Row :=
  ⟨0x1E000000, [(0, 25)], fun | [d] => some (.jal (.ofNat 25 d)) | _ => none⟩

/-- JR (R342). -/
def rowJr : Row :=
  ⟨0x20000000, [(15, 5)], fun | [a] => some (.jr (.ofNat 5 a)) | _ => none⟩

/-- JR_LINK (R342). -/
def rowJrLink : Row :=
  ⟨0x20000001, [(15, 5)], fun | [a] => some (.jrLink (.ofNat 5 a)) | _ => none⟩

/-- RET (R358). -/
def rowRet : Row :=
  ⟨0x20000010, [], fun | [] => some (.ret) | _ => none⟩

/-- LOOP (R68). -/
def rowLoop : Row :=
  ⟨0x22000000, [(20, 5), (10, 10), (0, 10)], fun | [a, n, l] => some (.loop (.ofNat 5 a) (.ofNat 10 n) (.ofNat 10 l)) | _ => none⟩

/-- VSHAPE (R77). -/
def rowVshape : Row :=
  ⟨0x24000000, [(20, 5), (15, 5), (10, 5), (5, 5), (3, 2), (2, 1), (1, 1)], fun | [d, a, b, e, g, t, x] => some (.vshape (.ofNat 5 d) (.ofNat 5 a) (.ofNat 5 b) (.ofNat 5 e) (.ofNat 2 g) (.ofNat 1 t) (.ofNat 1 x)) | _ => none⟩

/-- VREL (R41). -/
def rowVrel : Row :=
  ⟨0x26000000, [], fun | [] => some (.vrel) | _ => none⟩

/-- VADD_VV (R365). -/
def rowVaddVV : Row :=
  ⟨0x28000000, [(31, 1), (20, 5), (15, 5), (10, 5), (9, 1), (8, 1)], fun | [k, d, a, b, m, q] => some (.vaddVV (.ofNat 1 k) (.ofNat 5 d) (.ofNat 5 a) (.ofNat 5 b) (.ofNat 1 m) (.ofNat 1 q)) | _ => none⟩

/-- VADD_VS (R365). -/
def rowVaddVS : Row :=
  ⟨0x2A000000, [(31, 1), (20, 5), (15, 5), (10, 5), (9, 1), (8, 1)], fun | [k, d, a, b, m, q] => some (.vaddVS (.ofNat 1 k) (.ofNat 5 d) (.ofNat 5 a) (.ofNat 5 b) (.ofNat 1 m) (.ofNat 1 q)) | _ => none⟩

/-- VSUB_VV (R377). -/
def rowVsubVV : Row :=
  ⟨0x28000001, [(31, 1), (20, 5), (15, 5), (10, 5), (9, 1), (8, 1)], fun | [k, d, a, b, m, q] => some (.vsubVV (.ofNat 1 k) (.ofNat 5 d) (.ofNat 5 a) (.ofNat 5 b) (.ofNat 1 m) (.ofNat 1 q)) | _ => none⟩

/-- VSUB_VS (R377). -/
def rowVsubVS : Row :=
  ⟨0x2A000001, [(31, 1), (20, 5), (15, 5), (10, 5), (9, 1), (8, 1)], fun | [k, d, a, b, m, q] => some (.vsubVS (.ofNat 1 k) (.ofNat 5 d) (.ofNat 5 a) (.ofNat 5 b) (.ofNat 1 m) (.ofNat 1 q)) | _ => none⟩

/-- VMUL_VV (R365). -/
def rowVmulVV : Row :=
  ⟨0x28000002, [(31, 1), (20, 5), (15, 5), (10, 5), (9, 1), (8, 1)], fun | [k, d, a, b, m, q] => some (.vmulVV (.ofNat 1 k) (.ofNat 5 d) (.ofNat 5 a) (.ofNat 5 b) (.ofNat 1 m) (.ofNat 1 q)) | _ => none⟩

/-- VMUL_VS (R365). -/
def rowVmulVS : Row :=
  ⟨0x2A000002, [(31, 1), (20, 5), (15, 5), (10, 5), (9, 1), (8, 1)], fun | [k, d, a, b, m, q] => some (.vmulVS (.ofNat 1 k) (.ofNat 5 d) (.ofNat 5 a) (.ofNat 5 b) (.ofNat 1 m) (.ofNat 1 q)) | _ => none⟩

/-- VMA_VV (R365). -/
def rowVmaVV : Row :=
  ⟨0x28000003, [(31, 1), (20, 5), (15, 5), (10, 5), (9, 1), (8, 1)], fun | [k, d, a, b, m, q] => some (.vmaVV (.ofNat 1 k) (.ofNat 5 d) (.ofNat 5 a) (.ofNat 5 b) (.ofNat 1 m) (.ofNat 1 q)) | _ => none⟩

/-- VMA_VS (R365). -/
def rowVmaVS : Row :=
  ⟨0x2A000003, [(31, 1), (20, 5), (15, 5), (10, 5), (9, 1), (8, 1)], fun | [k, d, a, b, m, q] => some (.vmaVS (.ofNat 1 k) (.ofNat 5 d) (.ofNat 5 a) (.ofNat 5 b) (.ofNat 1 m) (.ofNat 1 q)) | _ => none⟩

/-- VDIV_VV (R365). -/
def rowVdivVV : Row :=
  ⟨0x28000004, [(31, 1), (20, 5), (15, 5), (10, 5), (9, 1), (8, 1)], fun | [k, d, a, b, m, q] => some (.vdivVV (.ofNat 1 k) (.ofNat 5 d) (.ofNat 5 a) (.ofNat 5 b) (.ofNat 1 m) (.ofNat 1 q)) | _ => none⟩

/-- VDIV_VS (R365). -/
def rowVdivVS : Row :=
  ⟨0x2A000004, [(31, 1), (20, 5), (15, 5), (10, 5), (9, 1), (8, 1)], fun | [k, d, a, b, m, q] => some (.vdivVS (.ofNat 1 k) (.ofNat 5 d) (.ofNat 5 a) (.ofNat 5 b) (.ofNat 1 m) (.ofNat 1 q)) | _ => none⟩

/-- VMIN_VV (R365). -/
def rowVminVV : Row :=
  ⟨0x28000005, [(31, 1), (20, 5), (15, 5), (10, 5), (9, 1), (8, 1)], fun | [k, d, a, b, m, q] => some (.vminVV (.ofNat 1 k) (.ofNat 5 d) (.ofNat 5 a) (.ofNat 5 b) (.ofNat 1 m) (.ofNat 1 q)) | _ => none⟩

/-- VMIN_VS (R365). -/
def rowVminVS : Row :=
  ⟨0x2A000005, [(31, 1), (20, 5), (15, 5), (10, 5), (9, 1), (8, 1)], fun | [k, d, a, b, m, q] => some (.vminVS (.ofNat 1 k) (.ofNat 5 d) (.ofNat 5 a) (.ofNat 5 b) (.ofNat 1 m) (.ofNat 1 q)) | _ => none⟩

/-- VMAX_VV (R365). -/
def rowVmaxVV : Row :=
  ⟨0x28000006, [(31, 1), (20, 5), (15, 5), (10, 5), (9, 1), (8, 1)], fun | [k, d, a, b, m, q] => some (.vmaxVV (.ofNat 1 k) (.ofNat 5 d) (.ofNat 5 a) (.ofNat 5 b) (.ofNat 1 m) (.ofNat 1 q)) | _ => none⟩

/-- VMAX_VS (R365). -/
def rowVmaxVS : Row :=
  ⟨0x2A000006, [(31, 1), (20, 5), (15, 5), (10, 5), (9, 1), (8, 1)], fun | [k, d, a, b, m, q] => some (.vmaxVS (.ofNat 1 k) (.ofNat 5 d) (.ofNat 5 a) (.ofNat 5 b) (.ofNat 1 m) (.ofNat 1 q)) | _ => none⟩

/-- VMULH_VV (R364). -/
def rowVmulhVV : Row :=
  ⟨0x28000007, [(31, 1), (20, 5), (15, 5), (10, 5), (9, 1), (8, 1)], fun | [k, d, a, b, m, q] => some (.vmulhVV (.ofNat 1 k) (.ofNat 5 d) (.ofNat 5 a) (.ofNat 5 b) (.ofNat 1 m) (.ofNat 1 q)) | _ => none⟩

/-- VMULH_VS (R364). -/
def rowVmulhVS : Row :=
  ⟨0x2A000007, [(31, 1), (20, 5), (15, 5), (10, 5), (9, 1), (8, 1)], fun | [k, d, a, b, m, q] => some (.vmulhVS (.ofNat 1 k) (.ofNat 5 d) (.ofNat 5 a) (.ofNat 5 b) (.ofNat 1 m) (.ofNat 1 q)) | _ => none⟩

/-- VAND_VV (R364). -/
def rowVandVV : Row :=
  ⟨0x28000008, [(31, 1), (20, 5), (15, 5), (10, 5), (9, 1), (8, 1)], fun | [k, d, a, b, m, q] => some (.vandVV (.ofNat 1 k) (.ofNat 5 d) (.ofNat 5 a) (.ofNat 5 b) (.ofNat 1 m) (.ofNat 1 q)) | _ => none⟩

/-- VAND_VS (R364). -/
def rowVandVS : Row :=
  ⟨0x2A000008, [(31, 1), (20, 5), (15, 5), (10, 5), (9, 1), (8, 1)], fun | [k, d, a, b, m, q] => some (.vandVS (.ofNat 1 k) (.ofNat 5 d) (.ofNat 5 a) (.ofNat 5 b) (.ofNat 1 m) (.ofNat 1 q)) | _ => none⟩

/-- VOR_VV (R376). -/
def rowVorVV : Row :=
  ⟨0x28000009, [(31, 1), (20, 5), (15, 5), (10, 5), (9, 1), (8, 1)], fun | [k, d, a, b, m, q] => some (.vorVV (.ofNat 1 k) (.ofNat 5 d) (.ofNat 5 a) (.ofNat 5 b) (.ofNat 1 m) (.ofNat 1 q)) | _ => none⟩

/-- VOR_VS (R376). -/
def rowVorVS : Row :=
  ⟨0x2A000009, [(31, 1), (20, 5), (15, 5), (10, 5), (9, 1), (8, 1)], fun | [k, d, a, b, m, q] => some (.vorVS (.ofNat 1 k) (.ofNat 5 d) (.ofNat 5 a) (.ofNat 5 b) (.ofNat 1 m) (.ofNat 1 q)) | _ => none⟩

/-- VXOR_VV (R376). -/
def rowVxorVV : Row :=
  ⟨0x2800000A, [(31, 1), (20, 5), (15, 5), (10, 5), (9, 1), (8, 1)], fun | [k, d, a, b, m, q] => some (.vxorVV (.ofNat 1 k) (.ofNat 5 d) (.ofNat 5 a) (.ofNat 5 b) (.ofNat 1 m) (.ofNat 1 q)) | _ => none⟩

/-- VXOR_VS (R376). -/
def rowVxorVS : Row :=
  ⟨0x2A00000A, [(31, 1), (20, 5), (15, 5), (10, 5), (9, 1), (8, 1)], fun | [k, d, a, b, m, q] => some (.vxorVS (.ofNat 1 k) (.ofNat 5 d) (.ofNat 5 a) (.ofNat 5 b) (.ofNat 1 m) (.ofNat 1 q)) | _ => none⟩

/-- VSHL_VV (R376). -/
def rowVshlVV : Row :=
  ⟨0x2800000B, [(31, 1), (20, 5), (15, 5), (10, 5), (9, 1), (8, 1)], fun | [k, d, a, b, m, q] => some (.vshlVV (.ofNat 1 k) (.ofNat 5 d) (.ofNat 5 a) (.ofNat 5 b) (.ofNat 1 m) (.ofNat 1 q)) | _ => none⟩

/-- VSHL_VS (R376). -/
def rowVshlVS : Row :=
  ⟨0x2A00000B, [(31, 1), (20, 5), (15, 5), (10, 5), (9, 1), (8, 1)], fun | [k, d, a, b, m, q] => some (.vshlVS (.ofNat 1 k) (.ofNat 5 d) (.ofNat 5 a) (.ofNat 5 b) (.ofNat 1 m) (.ofNat 1 q)) | _ => none⟩

/-- VSHR_VV (R376). -/
def rowVshrVV : Row :=
  ⟨0x2800000C, [(31, 1), (20, 5), (15, 5), (10, 5), (9, 1), (8, 1)], fun | [k, d, a, b, m, q] => some (.vshrVV (.ofNat 1 k) (.ofNat 5 d) (.ofNat 5 a) (.ofNat 5 b) (.ofNat 1 m) (.ofNat 1 q)) | _ => none⟩

/-- VSHR_VS (R376). -/
def rowVshrVS : Row :=
  ⟨0x2A00000C, [(31, 1), (20, 5), (15, 5), (10, 5), (9, 1), (8, 1)], fun | [k, d, a, b, m, q] => some (.vshrVS (.ofNat 1 k) (.ofNat 5 d) (.ofNat 5 a) (.ofNat 5 b) (.ofNat 1 m) (.ofNat 1 q)) | _ => none⟩

/-- VSRA_VV (R376). -/
def rowVsraVV : Row :=
  ⟨0x2800000D, [(31, 1), (20, 5), (15, 5), (10, 5), (9, 1), (8, 1)], fun | [k, d, a, b, m, q] => some (.vsraVV (.ofNat 1 k) (.ofNat 5 d) (.ofNat 5 a) (.ofNat 5 b) (.ofNat 1 m) (.ofNat 1 q)) | _ => none⟩

/-- VSRA_VS (R376). -/
def rowVsraVS : Row :=
  ⟨0x2A00000D, [(31, 1), (20, 5), (15, 5), (10, 5), (9, 1), (8, 1)], fun | [k, d, a, b, m, q] => some (.vsraVS (.ofNat 1 k) (.ofNat 5 d) (.ofNat 5 a) (.ofNat 5 b) (.ofNat 1 m) (.ofNat 1 q)) | _ => none⟩

/-- VSADD_VV (R376). -/
def rowVsaddVV : Row :=
  ⟨0x2800000E, [(31, 1), (20, 5), (15, 5), (10, 5), (9, 1), (8, 1)], fun | [k, d, a, b, m, q] => some (.vsaddVV (.ofNat 1 k) (.ofNat 5 d) (.ofNat 5 a) (.ofNat 5 b) (.ofNat 1 m) (.ofNat 1 q)) | _ => none⟩

/-- VSADD_VS (R376). -/
def rowVsaddVS : Row :=
  ⟨0x2A00000E, [(31, 1), (20, 5), (15, 5), (10, 5), (9, 1), (8, 1)], fun | [k, d, a, b, m, q] => some (.vsaddVS (.ofNat 1 k) (.ofNat 5 d) (.ofNat 5 a) (.ofNat 5 b) (.ofNat 1 m) (.ofNat 1 q)) | _ => none⟩

/-- VSSUB_VV (R376). -/
def rowVssubVV : Row :=
  ⟨0x2800000F, [(31, 1), (20, 5), (15, 5), (10, 5), (9, 1), (8, 1)], fun | [k, d, a, b, m, q] => some (.vssubVV (.ofNat 1 k) (.ofNat 5 d) (.ofNat 5 a) (.ofNat 5 b) (.ofNat 1 m) (.ofNat 1 q)) | _ => none⟩

/-- VSSUB_VS (R376). -/
def rowVssubVS : Row :=
  ⟨0x2A00000F, [(31, 1), (20, 5), (15, 5), (10, 5), (9, 1), (8, 1)], fun | [k, d, a, b, m, q] => some (.vssubVS (.ofNat 1 k) (.ofNat 5 d) (.ofNat 5 a) (.ofNat 5 b) (.ofNat 1 m) (.ofNat 1 q)) | _ => none⟩

/-- VRADD_VV (R378). -/
def rowVraddVV : Row :=
  ⟨0x28000010, [(31, 1), (20, 5), (15, 5), (10, 5), (9, 1), (8, 1)], fun | [k, d, a, b, m, q] => some (.vraddVV (.ofNat 1 k) (.ofNat 5 d) (.ofNat 5 a) (.ofNat 5 b) (.ofNat 1 m) (.ofNat 1 q)) | _ => none⟩

/-- VRADD_VS (R378). -/
def rowVraddVS : Row :=
  ⟨0x2A000010, [(31, 1), (20, 5), (15, 5), (10, 5), (9, 1), (8, 1)], fun | [k, d, a, b, m, q] => some (.vraddVS (.ofNat 1 k) (.ofNat 5 d) (.ofNat 5 a) (.ofNat 5 b) (.ofNat 1 m) (.ofNat 1 q)) | _ => none⟩

/-- VRSUB_VV (R378). -/
def rowVrsubVV : Row :=
  ⟨0x28000011, [(31, 1), (20, 5), (15, 5), (10, 5), (9, 1), (8, 1)], fun | [k, d, a, b, m, q] => some (.vrsubVV (.ofNat 1 k) (.ofNat 5 d) (.ofNat 5 a) (.ofNat 5 b) (.ofNat 1 m) (.ofNat 1 q)) | _ => none⟩

/-- VRSUB_VS (R378). -/
def rowVrsubVS : Row :=
  ⟨0x2A000011, [(31, 1), (20, 5), (15, 5), (10, 5), (9, 1), (8, 1)], fun | [k, d, a, b, m, q] => some (.vrsubVS (.ofNat 1 k) (.ofNat 5 d) (.ofNat 5 a) (.ofNat 5 b) (.ofNat 1 m) (.ofNat 1 q)) | _ => none⟩

/-- VSQRT (R377). -/
def rowVsqrt : Row :=
  ⟨0x28000012, [(31, 1), (20, 5), (15, 5), (9, 1), (8, 1)], fun | [k, d, a, m, q] => some (.vsqrt (.ofNat 1 k) (.ofNat 5 d) (.ofNat 5 a) (.ofNat 1 m) (.ofNat 1 q)) | _ => none⟩

/-- VEXP2 (R106). -/
def rowVexp2 : Row :=
  ⟨0x28000013, [(31, 1), (20, 5), (15, 5), (9, 1), (8, 1)], fun | [k, d, a, m, q] => some (.vexp2 (.ofNat 1 k) (.ofNat 5 d) (.ofNat 5 a) (.ofNat 1 m) (.ofNat 1 q)) | _ => none⟩

/-- VSGN_COPY_VV (R377). -/
def rowVsgnCopyVV : Row :=
  ⟨0x28000014, [(31, 1), (20, 5), (15, 5), (10, 5), (9, 1), (8, 1)], fun | [k, d, a, b, m, q] => some (.vsgnCopyVV (.ofNat 1 k) (.ofNat 5 d) (.ofNat 5 a) (.ofNat 5 b) (.ofNat 1 m) (.ofNat 1 q)) | _ => none⟩

/-- VSGN_COPY_VS (R377). -/
def rowVsgnCopyVS : Row :=
  ⟨0x2A000014, [(31, 1), (20, 5), (15, 5), (10, 5), (9, 1), (8, 1)], fun | [k, d, a, b, m, q] => some (.vsgnCopyVS (.ofNat 1 k) (.ofNat 5 d) (.ofNat 5 a) (.ofNat 5 b) (.ofNat 1 m) (.ofNat 1 q)) | _ => none⟩

/-- VSGN_NEG_VV (R377). -/
def rowVsgnNegVV : Row :=
  ⟨0x28000015, [(31, 1), (20, 5), (15, 5), (10, 5), (9, 1), (8, 1)], fun | [k, d, a, b, m, q] => some (.vsgnNegVV (.ofNat 1 k) (.ofNat 5 d) (.ofNat 5 a) (.ofNat 5 b) (.ofNat 1 m) (.ofNat 1 q)) | _ => none⟩

/-- VSGN_NEG_VS (R377). -/
def rowVsgnNegVS : Row :=
  ⟨0x2A000015, [(31, 1), (20, 5), (15, 5), (10, 5), (9, 1), (8, 1)], fun | [k, d, a, b, m, q] => some (.vsgnNegVS (.ofNat 1 k) (.ofNat 5 d) (.ofNat 5 a) (.ofNat 5 b) (.ofNat 1 m) (.ofNat 1 q)) | _ => none⟩

/-- VSGN_XOR_VV (R377). -/
def rowVsgnXorVV : Row :=
  ⟨0x28000016, [(31, 1), (20, 5), (15, 5), (10, 5), (9, 1), (8, 1)], fun | [k, d, a, b, m, q] => some (.vsgnXorVV (.ofNat 1 k) (.ofNat 5 d) (.ofNat 5 a) (.ofNat 5 b) (.ofNat 1 m) (.ofNat 1 q)) | _ => none⟩

/-- VSGN_XOR_VS (R377). -/
def rowVsgnXorVS : Row :=
  ⟨0x2A000016, [(31, 1), (20, 5), (15, 5), (10, 5), (9, 1), (8, 1)], fun | [k, d, a, b, m, q] => some (.vsgnXorVS (.ofNat 1 k) (.ofNat 5 d) (.ofNat 5 a) (.ofNat 5 b) (.ofNat 1 m) (.ofNat 1 q)) | _ => none⟩

/-- VSGN_ABS (R377). -/
def rowVsgnAbs : Row :=
  ⟨0x28000017, [(31, 1), (20, 5), (15, 5), (9, 1), (8, 1)], fun | [k, d, a, m, q] => some (.vsgnAbs (.ofNat 1 k) (.ofNat 5 d) (.ofNat 5 a) (.ofNat 1 m) (.ofNat 1 q)) | _ => none⟩

/-- VCMP_VV (R366). -/
def rowVcmpVV : Row :=
  ⟨0x2C000000, [(31, 1), (20, 5), (15, 5), (10, 5), (9, 1), (8, 1), (0, 3)], fun | [k, d, a, b, m, q, r] => some (.vcmpVV (.ofNat 1 k) (.ofNat 5 d) (.ofNat 5 a) (.ofNat 5 b) (.ofNat 1 m) (.ofNat 1 q) (.ofNat 3 r)) | _ => none⟩

/-- VCMP_VS (R366). -/
def rowVcmpVS : Row :=
  ⟨0x2E000000, [(31, 1), (20, 5), (15, 5), (10, 5), (9, 1), (8, 1), (0, 3)], fun | [k, d, a, b, m, q, r] => some (.vcmpVS (.ofNat 1 k) (.ofNat 5 d) (.ofNat 5 a) (.ofNat 5 b) (.ofNat 1 m) (.ofNat 1 q) (.ofNat 3 r)) | _ => none⟩

/-- VMLOG_AND (R367). -/
def rowVmlogAnd : Row :=
  ⟨0x2C000010, [(31, 1), (20, 5), (15, 5), (10, 5), (9, 1), (8, 1)], fun | [k, d, a, b, m, q] => some (.vmlogAnd (.ofNat 1 k) (.ofNat 5 d) (.ofNat 5 a) (.ofNat 5 b) (.ofNat 1 m) (.ofNat 1 q)) | _ => none⟩

/-- VMLOG_OR (R367). -/
def rowVmlogOr : Row :=
  ⟨0x2C000011, [(31, 1), (20, 5), (15, 5), (10, 5), (9, 1), (8, 1)], fun | [k, d, a, b, m, q] => some (.vmlogOr (.ofNat 1 k) (.ofNat 5 d) (.ofNat 5 a) (.ofNat 5 b) (.ofNat 1 m) (.ofNat 1 q)) | _ => none⟩

/-- VMLOG_XOR (R367). -/
def rowVmlogXor : Row :=
  ⟨0x2C000012, [(31, 1), (20, 5), (15, 5), (10, 5), (9, 1), (8, 1)], fun | [k, d, a, b, m, q] => some (.vmlogXor (.ofNat 1 k) (.ofNat 5 d) (.ofNat 5 a) (.ofNat 5 b) (.ofNat 1 m) (.ofNat 1 q)) | _ => none⟩

/-- VMLOG_ANDN (R367). -/
def rowVmlogAndn : Row :=
  ⟨0x2C000013, [(31, 1), (20, 5), (15, 5), (10, 5), (9, 1), (8, 1)], fun | [k, d, a, b, m, q] => some (.vmlogAndn (.ofNat 1 k) (.ofNat 5 d) (.ofNat 5 a) (.ofNat 5 b) (.ofNat 1 m) (.ofNat 1 q)) | _ => none⟩

/-- VMLOG_ORN (R367). -/
def rowVmlogOrn : Row :=
  ⟨0x2C000014, [(31, 1), (20, 5), (15, 5), (10, 5), (9, 1), (8, 1)], fun | [k, d, a, b, m, q] => some (.vmlogOrn (.ofNat 1 k) (.ofNat 5 d) (.ofNat 5 a) (.ofNat 5 b) (.ofNat 1 m) (.ofNat 1 q)) | _ => none⟩

/-- VMLOG_NOT (R367). -/
def rowVmlogNot : Row :=
  ⟨0x2C000015, [(31, 1), (20, 5), (15, 5), (9, 1), (8, 1)], fun | [k, d, a, m, q] => some (.vmlogNot (.ofNat 1 k) (.ofNat 5 d) (.ofNat 5 a) (.ofNat 1 m) (.ofNat 1 q)) | _ => none⟩

/-- VMLOG_SET (R367). -/
def rowVmlogSet : Row :=
  ⟨0x2C000016, [(31, 1), (20, 5), (9, 1), (8, 1)], fun | [k, d, m, q] => some (.vmlogSet (.ofNat 1 k) (.ofNat 5 d) (.ofNat 1 m) (.ofNat 1 q)) | _ => none⟩

/-- VMLOG_CLEAR (R367). -/
def rowVmlogClear : Row :=
  ⟨0x2C000017, [(31, 1), (20, 5), (9, 1), (8, 1)], fun | [k, d, m, q] => some (.vmlogClear (.ofNat 1 k) (.ofNat 5 d) (.ofNat 1 m) (.ofNat 1 q)) | _ => none⟩

/-- VMPOP (R368). -/
def rowVmpop : Row :=
  ⟨0x2C000020, [(31, 1), (20, 5), (15, 5), (9, 1), (8, 1)], fun | [k, d, a, m, q] => some (.vmpop (.ofNat 1 k) (.ofNat 5 d) (.ofNat 5 a) (.ofNat 1 m) (.ofNat 1 q)) | _ => none⟩

/-- VMFIRST (R368). -/
def rowVmfirst : Row :=
  ⟨0x2C000030, [(31, 1), (20, 5), (15, 5), (9, 1), (8, 1)], fun | [k, d, a, m, q] => some (.vmfirst (.ofNat 1 k) (.ofNat 5 d) (.ofNat 5 a) (.ofNat 1 m) (.ofNat 1 q)) | _ => none⟩

/-- VMTOC_ANY (R368). -/
def rowVmtocAny : Row :=
  ⟨0x2C000040, [(31, 1), (20, 3), (15, 5), (9, 1), (8, 1)], fun | [k, c, a, m, q] => some (.vmtocAny (.ofNat 1 k) (.ofNat 3 c) (.ofNat 5 a) (.ofNat 1 m) (.ofNat 1 q)) | _ => none⟩

/-- VMTOC_ALL (R368). -/
def rowVmtocAll : Row :=
  ⟨0x2C000041, [(31, 1), (20, 3), (15, 5), (9, 1), (8, 1)], fun | [k, c, a, m, q] => some (.vmtocAll (.ofNat 1 k) (.ofNat 3 c) (.ofNat 5 a) (.ofNat 1 m) (.ofNat 1 q)) | _ => none⟩

/-- VMTOC_NONE (R368). -/
def rowVmtocNone : Row :=
  ⟨0x2C000042, [(31, 1), (20, 3), (15, 5), (9, 1), (8, 1)], fun | [k, c, a, m, q] => some (.vmtocNone (.ofNat 1 k) (.ofNat 3 c) (.ofNat 5 a) (.ofNat 1 m) (.ofNat 1 q)) | _ => none⟩

/-- VCVT (R369). -/
def rowVcvt : Row :=
  ⟨0x30000000, [(31, 1), (20, 5), (15, 5), (9, 1), (8, 1), (1, 5)], fun | [k, d, a, m, q, t] => some (.vcvt (.ofNat 1 k) (.ofNat 5 d) (.ofNat 5 a) (.ofNat 1 m) (.ofNat 1 q) (.ofNat 5 t)) | _ => none⟩

/-- VBQ (R101). -/
def rowVbq : Row :=
  ⟨0x30000040, [(31, 1), (20, 5), (15, 5), (9, 1), (8, 1), (1, 5)], fun | [k, d, a, m, q, t] => some (.vbq (.ofNat 1 k) (.ofNat 5 d) (.ofNat 5 a) (.ofNat 1 m) (.ofNat 1 q) (.ofNat 5 t)) | _ => none⟩

/-- VBDQ (R101). -/
def rowVbdq : Row :=
  ⟨0x30000080, [(31, 1), (20, 5), (15, 5), (9, 1), (8, 1), (1, 5)], fun | [k, d, a, m, q, t] => some (.vbdq (.ofNat 1 k) (.ofNat 5 d) (.ofNat 5 a) (.ofNat 1 m) (.ofNat 1 q) (.ofNat 5 t)) | _ => none⟩

/-- VMOV (R370). -/
def rowVmov : Row :=
  ⟨0x32000000, [(31, 1), (20, 5), (15, 5), (9, 1), (8, 1)], fun | [k, d, a, m, q] => some (.vmov (.ofNat 1 k) (.ofNat 5 d) (.ofNat 5 a) (.ofNat 1 m) (.ofNat 1 q)) | _ => none⟩

/-- VMOV_SPLAT (R370). -/
def rowVmovSplat : Row :=
  ⟨0x32000001, [(31, 1), (20, 5), (10, 5), (9, 1), (8, 1)], fun | [k, d, b, m, q] => some (.vmovSplat (.ofNat 1 k) (.ofNat 5 d) (.ofNat 5 b) (.ofNat 1 m) (.ofNat 1 q)) | _ => none⟩

/-- VPERM_ROW (R118). -/
def rowVpermRow : Row :=
  ⟨0x32000002, [(31, 1), (20, 5), (15, 5), (10, 5), (9, 1), (8, 1)], fun | [k, d, a, b, m, q] => some (.vpermRow (.ofNat 1 k) (.ofNat 5 d) (.ofNat 5 a) (.ofNat 5 b) (.ofNat 1 m) (.ofNat 1 q)) | _ => none⟩

/-- VPERM_COL (R119). -/
def rowVpermCol : Row :=
  ⟨0x32000003, [(31, 1), (20, 5), (15, 5), (10, 5), (9, 1), (8, 1)], fun | [k, d, a, b, m, q] => some (.vpermCol (.ofNat 1 k) (.ofNat 5 d) (.ofNat 5 a) (.ofNat 5 b) (.ofNat 1 m) (.ofNat 1 q)) | _ => none⟩

/-- VSLIDE_UP (R120). -/
def rowVslideUp : Row :=
  ⟨0x32000004, [(31, 1), (20, 5), (15, 5), (10, 5), (9, 1), (8, 1)], fun | [k, d, a, b, m, q] => some (.vslideUp (.ofNat 1 k) (.ofNat 5 d) (.ofNat 5 a) (.ofNat 5 b) (.ofNat 1 m) (.ofNat 1 q)) | _ => none⟩

/-- VSLIDE_DOWN (R120). -/
def rowVslideDown : Row :=
  ⟨0x32000005, [(31, 1), (20, 5), (15, 5), (10, 5), (9, 1), (8, 1)], fun | [k, d, a, b, m, q] => some (.vslideDown (.ofNat 1 k) (.ofNat 5 d) (.ofNat 5 a) (.ofNat 5 b) (.ofNat 1 m) (.ofNat 1 q)) | _ => none⟩

/-- VXPOSE (R121). -/
def rowVxpose : Row :=
  ⟨0x32000006, [(31, 1), (20, 5), (15, 5), (9, 1), (8, 1)], fun | [k, d, a, m, q] => some (.vxpose (.ofNat 1 k) (.ofNat 5 d) (.ofNat 5 a) (.ofNat 1 m) (.ofNat 1 q)) | _ => none⟩

/-- VEXT (R371). -/
def rowVext : Row :=
  ⟨0x32000007, [(31, 1), (20, 5), (15, 5), (10, 5)], fun | [k, d, a, b] => some (.vext (.ofNat 1 k) (.ofNat 5 d) (.ofNat 5 a) (.ofNat 5 b)) | _ => none⟩

/-- VINS (R371). -/
def rowVins : Row :=
  ⟨0x32000008, [(31, 1), (20, 5), (15, 5), (10, 5)], fun | [k, d, a, b] => some (.vins (.ofNat 1 k) (.ofNat 5 d) (.ofNat 5 a) (.ofNat 5 b)) | _ => none⟩

/-- VIOTA (R122). -/
def rowViota : Row :=
  ⟨0x32000009, [(31, 1), (20, 5), (9, 1), (8, 1)], fun | [k, d, m, q] => some (.viota (.ofNat 1 k) (.ofNat 5 d) (.ofNat 1 m) (.ofNat 1 q)) | _ => none⟩

/-- VIOTA_ROW (R122). -/
def rowViotaRow : Row :=
  ⟨0x3200000A, [(31, 1), (20, 5), (9, 1), (8, 1)], fun | [k, d, m, q] => some (.viotaRow (.ofNat 1 k) (.ofNat 5 d) (.ofNat 1 m) (.ofNat 1 q)) | _ => none⟩

/-- VIOTA_COL (R122). -/
def rowViotaCol : Row :=
  ⟨0x3200000B, [(31, 1), (20, 5), (9, 1), (8, 1)], fun | [k, d, m, q] => some (.viotaCol (.ofNat 1 k) (.ofNat 5 d) (.ofNat 1 m) (.ofNat 1 q)) | _ => none⟩

/-- VRED (R123). -/
def rowVred : Row :=
  ⟨0x34000000, [(31, 1), (20, 5), (15, 5), (9, 1), (8, 1), (1, 3)], fun | [k, d, a, m, q, o] => some (.vred (.ofNat 1 k) (.ofNat 5 d) (.ofNat 5 a) (.ofNat 1 m) (.ofNat 1 q) (.ofNat 3 o)) | _ => none⟩

/-- VRED_ALL (R123). -/
def rowVredAll : Row :=
  ⟨0x34000001, [(31, 1), (20, 5), (15, 5), (9, 1), (8, 1), (1, 3)], fun | [k, d, a, m, q, o] => some (.vredAll (.ofNat 1 k) (.ofNat 5 d) (.ofNat 5 a) (.ofNat 1 m) (.ofNat 1 q) (.ofNat 3 o)) | _ => none⟩

/-- VSCAN (R123). -/
def rowVscan : Row :=
  ⟨0x34000010, [(31, 1), (20, 5), (15, 5), (9, 1), (8, 1), (1, 3)], fun | [k, d, a, m, q, o] => some (.vscan (.ofNat 1 k) (.ofNat 5 d) (.ofNat 5 a) (.ofNat 1 m) (.ofNat 1 q) (.ofNat 3 o)) | _ => none⟩

/-- VLD (R373). -/
def rowVld : Row :=
  ⟨0x36000000, [(31, 1), (20, 5), (15, 5), (10, 5), (9, 1), (8, 1), (5, 3)], fun | [k, d, a, b, m, q, g] => some (.vld (.ofNat 1 k) (.ofNat 5 d) (.ofNat 5 a) (.ofNat 5 b) (.ofNat 1 m) (.ofNat 1 q) (.ofNat 3 g)) | _ => none⟩

/-- VLD_ST (R373). -/
def rowVldSt : Row :=
  ⟨0x36000001, [(31, 1), (20, 5), (15, 5), (10, 5), (9, 1), (8, 1), (5, 3)], fun | [k, d, a, b, m, q, g] => some (.vldSt (.ofNat 1 k) (.ofNat 5 d) (.ofNat 5 a) (.ofNat 5 b) (.ofNat 1 m) (.ofNat 1 q) (.ofNat 3 g)) | _ => none⟩

/-- VLD_Z (R140). -/
def rowVldZ : Row :=
  ⟨0x36000002, [(31, 1), (20, 5), (15, 5), (10, 5), (9, 1), (8, 1), (5, 3)], fun | [k, d, a, b, m, q, g] => some (.vldZ (.ofNat 1 k) (.ofNat 5 d) (.ofNat 5 a) (.ofNat 5 b) (.ofNat 1 m) (.ofNat 1 q) (.ofNat 3 g)) | _ => none⟩

/-- VLD_BC (R373). -/
def rowVldBc : Row :=
  ⟨0x36000003, [(31, 1), (20, 5), (15, 5), (9, 1), (8, 1), (5, 3)], fun | [k, d, a, m, q, g] => some (.vldBc (.ofNat 1 k) (.ofNat 5 d) (.ofNat 5 a) (.ofNat 1 m) (.ofNat 1 q) (.ofNat 3 g)) | _ => none⟩

/-- VLD_B (R94). -/
def rowVldB : Row :=
  ⟨0x36000004, [(31, 1), (20, 5), (15, 5), (10, 5), (9, 1), (8, 1), (5, 3)], fun | [k, d, a, b, m, q, g] => some (.vldB (.ofNat 1 k) (.ofNat 5 d) (.ofNat 5 a) (.ofNat 5 b) (.ofNat 1 m) (.ofNat 1 q) (.ofNat 3 g)) | _ => none⟩

/-- VGATHER (R166). -/
def rowVgather : Row :=
  ⟨0x36000008, [(31, 1), (20, 5), (15, 5), (10, 5), (9, 1), (8, 1), (5, 3)], fun | [k, d, a, b, m, q, g] => some (.vgather (.ofNat 1 k) (.ofNat 5 d) (.ofNat 5 a) (.ofNat 5 b) (.ofNat 1 m) (.ofNat 1 q) (.ofNat 3 g)) | _ => none⟩

/-- VST (R383). -/
def rowVst : Row :=
  ⟨0x38000000, [(31, 1), (20, 5), (15, 5), (10, 5), (9, 1), (8, 1), (5, 3)], fun | [k, d, a, b, m, q, g] => some (.vst (.ofNat 1 k) (.ofNat 5 d) (.ofNat 5 a) (.ofNat 5 b) (.ofNat 1 m) (.ofNat 1 q) (.ofNat 3 g)) | _ => none⟩

/-- VST_ST (R383). -/
def rowVstSt : Row :=
  ⟨0x38000001, [(31, 1), (20, 5), (15, 5), (10, 5), (9, 1), (8, 1), (5, 3)], fun | [k, d, a, b, m, q, g] => some (.vstSt (.ofNat 1 k) (.ofNat 5 d) (.ofNat 5 a) (.ofNat 5 b) (.ofNat 1 m) (.ofNat 1 q) (.ofNat 3 g)) | _ => none⟩

/-- VST_Z (R383). -/
def rowVstZ : Row :=
  ⟨0x38000002, [(31, 1), (20, 5), (15, 5), (10, 5), (9, 1), (8, 1), (5, 3)], fun | [k, d, a, b, m, q, g] => some (.vstZ (.ofNat 1 k) (.ofNat 5 d) (.ofNat 5 a) (.ofNat 5 b) (.ofNat 1 m) (.ofNat 1 q) (.ofNat 3 g)) | _ => none⟩

/-- VST_BC (R384). -/
def rowVstBc : Row :=
  ⟨0x38000003, [(31, 1), (20, 5), (15, 5), (9, 1), (8, 1), (5, 3)], fun | [k, d, a, m, q, g] => some (.vstBc (.ofNat 1 k) (.ofNat 5 d) (.ofNat 5 a) (.ofNat 1 m) (.ofNat 1 q) (.ofNat 3 g)) | _ => none⟩

/-- VST_B (R383). -/
def rowVstB : Row :=
  ⟨0x38000004, [(31, 1), (20, 5), (15, 5), (10, 5), (9, 1), (8, 1), (5, 3)], fun | [k, d, a, b, m, q, g] => some (.vstB (.ofNat 1 k) (.ofNat 5 d) (.ofNat 5 a) (.ofNat 5 b) (.ofNat 1 m) (.ofNat 1 q) (.ofNat 3 g)) | _ => none⟩

/-- VSCATTER (R383). -/
def rowVscatter : Row :=
  ⟨0x38000008, [(31, 1), (20, 5), (15, 5), (10, 5), (9, 1), (8, 1), (5, 3)], fun | [k, d, a, b, m, q, g] => some (.vscatter (.ofNat 1 k) (.ofNat 5 d) (.ofNat 5 a) (.ofNat 5 b) (.ofNat 1 m) (.ofNat 1 q) (.ofNat 3 g)) | _ => none⟩

/-- VAMO_ADD (R374). -/
def rowVamoAdd : Row :=
  ⟨0x3A000000, [(31, 1), (20, 5), (15, 5), (10, 5), (9, 1), (8, 1), (5, 3)], fun | [k, d, a, b, m, q, g] => some (.vamoAdd (.ofNat 1 k) (.ofNat 5 d) (.ofNat 5 a) (.ofNat 5 b) (.ofNat 1 m) (.ofNat 1 q) (.ofNat 3 g)) | _ => none⟩

/-- VAMO_MIN (R374). -/
def rowVamoMin : Row :=
  ⟨0x3A000001, [(31, 1), (20, 5), (15, 5), (10, 5), (9, 1), (8, 1), (5, 3)], fun | [k, d, a, b, m, q, g] => some (.vamoMin (.ofNat 1 k) (.ofNat 5 d) (.ofNat 5 a) (.ofNat 5 b) (.ofNat 1 m) (.ofNat 1 q) (.ofNat 3 g)) | _ => none⟩

/-- VAMO_MAX (R374). -/
def rowVamoMax : Row :=
  ⟨0x3A000002, [(31, 1), (20, 5), (15, 5), (10, 5), (9, 1), (8, 1), (5, 3)], fun | [k, d, a, b, m, q, g] => some (.vamoMax (.ofNat 1 k) (.ofNat 5 d) (.ofNat 5 a) (.ofNat 5 b) (.ofNat 1 m) (.ofNat 1 q) (.ofNat 3 g)) | _ => none⟩

/-- VAMO_AND (R374). -/
def rowVamoAnd : Row :=
  ⟨0x3A000003, [(31, 1), (20, 5), (15, 5), (10, 5), (9, 1), (8, 1), (5, 3)], fun | [k, d, a, b, m, q, g] => some (.vamoAnd (.ofNat 1 k) (.ofNat 5 d) (.ofNat 5 a) (.ofNat 5 b) (.ofNat 1 m) (.ofNat 1 q) (.ofNat 3 g)) | _ => none⟩

/-- VAMO_OR (R374). -/
def rowVamoOr : Row :=
  ⟨0x3A000004, [(31, 1), (20, 5), (15, 5), (10, 5), (9, 1), (8, 1), (5, 3)], fun | [k, d, a, b, m, q, g] => some (.vamoOr (.ofNat 1 k) (.ofNat 5 d) (.ofNat 5 a) (.ofNat 5 b) (.ofNat 1 m) (.ofNat 1 q) (.ofNat 3 g)) | _ => none⟩

/-- VAMO_XOR (R374). -/
def rowVamoXor : Row :=
  ⟨0x3A000005, [(31, 1), (20, 5), (15, 5), (10, 5), (9, 1), (8, 1), (5, 3)], fun | [k, d, a, b, m, q, g] => some (.vamoXor (.ofNat 1 k) (.ofNat 5 d) (.ofNat 5 a) (.ofNat 5 b) (.ofNat 1 m) (.ofNat 1 q) (.ofNat 3 g)) | _ => none⟩

/-- VAMO_SWAP (R374). -/
def rowVamoSwap : Row :=
  ⟨0x3A000006, [(31, 1), (20, 5), (15, 5), (10, 5), (9, 1), (8, 1), (5, 3)], fun | [k, d, a, b, m, q, g] => some (.vamoSwap (.ofNat 1 k) (.ofNat 5 d) (.ofNat 5 a) (.ofNat 5 b) (.ofNat 1 m) (.ofNat 1 q) (.ofNat 3 g)) | _ => none⟩

/-- VAMO_FADD (R374). -/
def rowVamoFadd : Row :=
  ⟨0x3A000007, [(31, 1), (20, 5), (15, 5), (10, 5), (9, 1), (8, 1), (5, 3)], fun | [k, d, a, b, m, q, g] => some (.vamoFadd (.ofNat 1 k) (.ofNat 5 d) (.ofNat 5 a) (.ofNat 5 b) (.ofNat 1 m) (.ofNat 1 q) (.ofNat 3 g)) | _ => none⟩

/-- VCAPP_IDX (R375). -/
def rowVcappIdx : Row :=
  ⟨0x3A000008, [(31, 1), (15, 5), (9, 1), (8, 1), (5, 3)], fun | [k, a, m, q, g] => some (.vcappIdx (.ofNat 1 k) (.ofNat 5 a) (.ofNat 1 m) (.ofNat 1 q) (.ofNat 3 g)) | _ => none⟩

/-- VCAPP_VAL (R375). -/
def rowVcappVal : Row :=
  ⟨0x3A000009, [(31, 1), (20, 5), (15, 5), (9, 1), (8, 1), (5, 3)], fun | [k, d, a, m, q, g] => some (.vcappVal (.ofNat 1 k) (.ofNat 5 d) (.ofNat 5 a) (.ofNat 1 m) (.ofNat 1 q) (.ofNat 3 g)) | _ => none⟩

/-- MATT (R131). -/
def rowMatt : Row :=
  ⟨0x40000000, [(20, 5), (0, 3)], fun | [d, c] => some (.matt (.ofNat 5 d) (.ofNat 3 c)) | _ => none⟩

/-- MDET (R131). -/
def rowMdet : Row :=
  ⟨0x40000040, [], fun | [] => some (.mdet) | _ => none⟩

/-- MCLAIM (R132). -/
def rowMclaim : Row :=
  ⟨0x40000080, [(20, 5)], fun | [d] => some (.mclaim (.ofNat 5 d)) | _ => none⟩

/-- MREL (R132). -/
def rowMrel : Row :=
  ⟨0x400000C0, [(15, 5)], fun | [a] => some (.mrel (.ofNat 5 a)) | _ => none⟩

/-- MLDB (R133). -/
def rowMldb : Row :=
  ⟨0x40000100, [(31, 1), (15, 5), (10, 5)], fun | [k, a, b] => some (.mldb (.ofNat 1 k) (.ofNat 5 a) (.ofNat 5 b)) | _ => none⟩

/-- MMA (R134). -/
def rowMma : Row :=
  ⟨0x40000140, [(31, 1), (20, 5), (15, 5), (4, 2)], fun | [k, d, a, n] => some (.mma (.ofNat 1 k) (.ofNat 5 d) (.ofNat 5 a) (.ofNat 2 n)) | _ => none⟩

/-- MZERO (R135). -/
def rowMzero : Row :=
  ⟨0x40000180, [(31, 1), (4, 2)], fun | [k, n] => some (.mzero (.ofNat 1 k) (.ofNat 2 n)) | _ => none⟩

/-- MDRAIN (R137). -/
def rowMdrain : Row :=
  ⟨0x400001C0, [(31, 1), (20, 5), (10, 5), (4, 2)], fun | [k, d, b, n] => some (.mdrain (.ofNat 1 k) (.ofNat 5 d) (.ofNat 5 b) (.ofNat 2 n)) | _ => none⟩

/-- XCOPY (R187). -/
def rowXcopy : Row :=
  ⟨0x42000000, [(20, 5), (15, 5), (10, 5), (7, 2), (6, 1), (1, 5)], fun | [d, a, b, c, n, l] => some (.xcopy (.ofNat 5 d) (.ofNat 5 a) (.ofNat 5 b) (.ofNat 2 c) (.ofNat 1 n) (.ofNat 5 l)) | _ => none⟩

/-- XWAIT (R189). -/
def rowXwait : Row :=
  ⟨0x42000200, [(15, 5), (7, 2)], fun | [a, c] => some (.xwait (.ofNat 5 a) (.ofNat 2 c)) | _ => none⟩

/-- FENCE (R185). -/
def rowFence : Row :=
  ⟨0x44000000, [(9, 13), (6, 3)], fun | [m, s] => some (.fence (.ofNat 13 m) (.ofNat 3 s)) | _ => none⟩

/-- SEND (R206). -/
def rowSend : Row :=
  ⟨0x46000000, [(20, 5), (15, 5), (7, 2)], fun | [v, a, t] => some (.send (.ofNat 5 v) (.ofNat 5 a) (.ofNat 2 t)) | _ => none⟩

/-- RECV (R207). -/
def rowRecv : Row :=
  ⟨0x46000200, [(20, 5), (7, 2)], fun | [v, t] => some (.recv (.ofNat 5 v) (.ofNat 2 t)) | _ => none⟩

/-- TEND (R40). -/
def rowTend : Row :=
  ⟨0x48000000, [], fun | [] => some (.tend) | _ => none⟩

/-- GSPAWN (R40). -/
def rowGspawn : Row :=
  ⟨0x48000010, [(20, 5)], fun | [s] => some (.gspawn (.ofNat 5 s)) | _ => none⟩

/-- GSIG (R40). -/
def rowGsig : Row :=
  ⟨0x48000020, [(20, 5)], fun | [s] => some (.gsig (.ofNat 5 s)) | _ => none⟩

/-- ADJ (R56). -/
def rowAdj : Row :=
  ⟨0x48000030, [(0, 2)], fun | [p] => some (.adj (.ofNat 2 p)) | _ => none⟩

/-- UIRET (R195). -/
def rowUiret : Row :=
  ⟨0x48000040, [], fun | [] => some (.uiret) | _ => none⟩

/-- DCWB (R267). -/
def rowDcwb : Row :=
  ⟨0x4A000000, [(20, 5), (8, 12)], fun | [s, n] => some (.dcwb (.ofNat 5 s) (.ofNat 12 n)) | _ => none⟩

/-- IINV (R267). -/
def rowIinv : Row :=
  ⟨0x4A000010, [(20, 5), (8, 12)], fun | [s, n] => some (.iinv (.ofNat 5 s) (.ofNat 12 n)) | _ => none⟩

/-- FETCHB (R267). -/
def rowFetchb : Row :=
  ⟨0x4A000020, [], fun | [] => some (.fetchb) | _ => none⟩

/-- PREF (R311). -/
def rowPref : Row :=
  ⟨0x4A000030, [(20, 5), (8, 12)], fun | [s, n] => some (.pref (.ofNat 5 s) (.ofNat 12 n)) | _ => none⟩

/-- TRAP (R222). -/
def rowTrap : Row :=
  ⟨0x4C000000, [(8, 12)], fun | [i] => some (.trap (.ofNat 12 i)) | _ => none⟩

/-- ERET (R223). -/
def rowEret : Row :=
  ⟨0x4C000010, [], fun | [] => some (.eret) | _ => none⟩

/-- MFS (R353). -/
def rowMfs : Row :=
  ⟨0x4C000020, [(20, 5), (8, 12)], fun | [s, n] => some (.mfs (.ofNat 5 s) (.ofNat 12 n)) | _ => none⟩

/-- MTS (R353). -/
def rowMts : Row :=
  ⟨0x4C000030, [(20, 5), (8, 12)], fun | [s, n] => some (.mts (.ofNat 5 s) (.ofNat 12 n)) | _ => none⟩

/-- WAIT (R388). -/
def rowWait : Row :=
  ⟨0x4C000040, [], fun | [] => some (.wait) | _ => none⟩

/-- NOP (R355). -/
def rowNop : Row :=
  ⟨0x4C000050, [], fun | [] => some (.nop) | _ => none⟩

/-- CSAVE (R237). -/
def rowCsave : Row :=
  ⟨0x4C000060, [(20, 5)], fun | [s] => some (.csave (.ofNat 5 s)) | _ => none⟩

/-- CLOAD (R238). -/
def rowCload : Row :=
  ⟨0x4C000070, [(20, 5)], fun | [s] => some (.cload (.ofNat 5 s)) | _ => none⟩

/-- TLBINV (R175). -/
def rowTlbinv : Row :=
  ⟨0x4C000080, [(20, 5), (8, 2)], fun | [s, k] => some (.tlbinv (.ofNat 5 s) (.ofNat 2 k)) | _ => none⟩

/-- Rows 0 to 19 of the opcode table. -/
def rows0 : List Row :=
  [rowAddReg, rowAddImm, rowAndReg, rowAndImm, rowOrReg,
   rowOrImm, rowXorReg, rowXorImm, rowSub, rowMul,
   rowMulh, rowDiv, rowRem, rowShlReg, rowShrReg,
   rowSraReg, rowShlImm, rowShrImm, rowSraImm, rowMin]

/-- Rows 20 to 39 of the opcode table. -/
def rows1 : List Row :=
  [rowMax, rowClz, rowPopc, rowSel, rowCmpReg,
   rowCmpImm, rowCbitAnd, rowCbitOr, rowCbitXor, rowCbitAndn,
   rowCbitSet, rowCbitClear, rowCbitNot, rowCbitMove, rowLui,
   rowFadd, rowFsub, rowFmul, rowFma, rowFdiv]

/-- Rows 40 to 59 of the opcode table. -/
def rows2 : List Row :=
  [rowFsqrt, rowFmin, rowFmax, rowFcmp, rowFcvt,
   rowLd, rowSt, rowLdAcq, rowStRel, rowAmoAdd,
   rowAmoAnd, rowAmoOr, rowAmoXor, rowAmoMin, rowAmoMax,
   rowAmoMinZ, rowAmoMaxZ, rowAmoSwap, rowAmoFadd, rowCas]

/-- Rows 60 to 79 of the opcode table. -/
def rows3 : List Row :=
  [rowB, rowJ, rowJal, rowJr, rowJrLink,
   rowRet, rowLoop, rowVshape, rowVrel, rowVaddVV,
   rowVaddVS, rowVsubVV, rowVsubVS, rowVmulVV, rowVmulVS,
   rowVmaVV, rowVmaVS, rowVdivVV, rowVdivVS, rowVminVV]

/-- Rows 80 to 99 of the opcode table. -/
def rows4 : List Row :=
  [rowVminVS, rowVmaxVV, rowVmaxVS, rowVmulhVV, rowVmulhVS,
   rowVandVV, rowVandVS, rowVorVV, rowVorVS, rowVxorVV,
   rowVxorVS, rowVshlVV, rowVshlVS, rowVshrVV, rowVshrVS,
   rowVsraVV, rowVsraVS, rowVsaddVV, rowVsaddVS, rowVssubVV]

/-- Rows 100 to 119 of the opcode table. -/
def rows5 : List Row :=
  [rowVssubVS, rowVraddVV, rowVraddVS, rowVrsubVV, rowVrsubVS,
   rowVsqrt, rowVexp2, rowVsgnCopyVV, rowVsgnCopyVS, rowVsgnNegVV,
   rowVsgnNegVS, rowVsgnXorVV, rowVsgnXorVS, rowVsgnAbs, rowVcmpVV,
   rowVcmpVS, rowVmlogAnd, rowVmlogOr, rowVmlogXor, rowVmlogAndn]

/-- Rows 120 to 139 of the opcode table. -/
def rows6 : List Row :=
  [rowVmlogOrn, rowVmlogNot, rowVmlogSet, rowVmlogClear, rowVmpop,
   rowVmfirst, rowVmtocAny, rowVmtocAll, rowVmtocNone, rowVcvt,
   rowVbq, rowVbdq, rowVmov, rowVmovSplat, rowVpermRow,
   rowVpermCol, rowVslideUp, rowVslideDown, rowVxpose, rowVext]

/-- Rows 140 to 159 of the opcode table. -/
def rows7 : List Row :=
  [rowVins, rowViota, rowViotaRow, rowViotaCol, rowVred,
   rowVredAll, rowVscan, rowVld, rowVldSt, rowVldZ,
   rowVldBc, rowVldB, rowVgather, rowVst, rowVstSt,
   rowVstZ, rowVstBc, rowVstB, rowVscatter, rowVamoAdd]

/-- Rows 160 to 179 of the opcode table. -/
def rows8 : List Row :=
  [rowVamoMin, rowVamoMax, rowVamoAnd, rowVamoOr, rowVamoXor,
   rowVamoSwap, rowVamoFadd, rowVcappIdx, rowVcappVal, rowMatt,
   rowMdet, rowMclaim, rowMrel, rowMldb, rowMma,
   rowMzero, rowMdrain, rowXcopy, rowXwait, rowFence]

/-- Rows 180 to 199 of the opcode table. -/
def rows9 : List Row :=
  [rowSend, rowRecv, rowTend, rowGspawn, rowGsig,
   rowAdj, rowUiret, rowDcwb, rowIinv, rowFetchb,
   rowPref, rowTrap, rowEret, rowMfs, rowMts,
   rowWait, rowNop, rowCsave, rowCload, rowTlbinv]

/-- Every row of the opcode table that has a word, in the table's order. -/
def rows : List Row :=
  rows0 ++ rows1 ++ rows2 ++ rows3 ++ rows4 ++ rows5 ++ rows6 ++ rows7 ++ rows8 ++ rows9

/-- Why a word is not an instruction: both raise trap 0x01 (R294 step 3). -/
inductive DecodeReject where
  /-- No row of the opcode table fits: a reserved major or function, or a non-zero must-be-zero field. -/
  | noRow
  /-- A coded field holds a reserved value. -/
  | reservedField
  deriving DecidableEq, Repr

/-- Decoding of one instruction word, total on all words. -/
def decodeNat (w : Nat) : Except DecodeReject Instr :=
  match rows.find? (·.fits w) with
  | none => .error .noRow
  | some r =>
    match r.build (r.unpack w) with
    | none => .error .noRow
    | some i => if i.wf then .ok i else .error .reservedField

/-- Decoding of one instruction word. -/
def decode (w : BitVec 32) : Except DecodeReject Instr := decodeNat w.toNat

/-- An instruction word is stored little-endian (R291). -/
def wordOfBytes : List Byte → Nat
  | [] => 0
  | b :: bs => b.toNat + 256 * wordOfBytes bs

/-- The bytes of a number, little-endian. -/
def bytesOfNat : Nat → Nat → List Byte
  | 0, _ => []
  | n + 1, v => BitVec.ofNat 8 v :: bytesOfNat n (v / 256)

/-- Decoding of bytes: the instruction at the front of the list and the bytes after it. -/
def decodeBytes (bs : List Byte) : Except DecodeReject (Instr × List Byte) :=
  if bs.length < 4 then .error .noRow
  else (decodeNat (wordOfBytes (bs.take 4))).map fun i => (i, bs.drop 4)

/-- A word that may carry K = 1 (R293): majors 0x14 to 0x1D, and MATRIX ops 4 to 7. -/
def chainable (w : BitVec 32) : Bool :=
  let major := w.toNat / 2 ^ 25 % 64
  let op4 := w.toNat / 2 ^ 6 % 16
  (0x14 ≤ major && major ≤ 0x1D) || (major == 0x20 && 4 ≤ op4 && op4 ≤ 7)

/-- Bit 31 of a word: the convoy goes on (R291). -/
def kBit (w : BitVec 32) : Bool := w.getLsbD 31

/-- The word of an instruction; an event has none. -/
def encodeNat : Instr → Option Nat
  | .addReg d a b => some (rowAddReg.pack [d.toNat, a.toNat, b.toNat])
  | .addImm d a i => some (rowAddImm.pack [d.toNat, a.toNat, i.toNat])
  | .andReg d a b => some (rowAndReg.pack [d.toNat, a.toNat, b.toNat])
  | .andImm d a i => some (rowAndImm.pack [d.toNat, a.toNat, i.toNat])
  | .orReg d a b => some (rowOrReg.pack [d.toNat, a.toNat, b.toNat])
  | .orImm d a i => some (rowOrImm.pack [d.toNat, a.toNat, i.toNat])
  | .xorReg d a b => some (rowXorReg.pack [d.toNat, a.toNat, b.toNat])
  | .xorImm d a i => some (rowXorImm.pack [d.toNat, a.toNat, i.toNat])
  | .sub d a b => some (rowSub.pack [d.toNat, a.toNat, b.toNat])
  | .mul d a b => some (rowMul.pack [d.toNat, a.toNat, b.toNat])
  | .mulh d a b z => some (rowMulh.pack [d.toNat, a.toNat, b.toNat, z.toNat])
  | .div d a b z => some (rowDiv.pack [d.toNat, a.toNat, b.toNat, z.toNat])
  | .rem d a b z => some (rowRem.pack [d.toNat, a.toNat, b.toNat, z.toNat])
  | .shlReg d a b => some (rowShlReg.pack [d.toNat, a.toNat, b.toNat])
  | .shrReg d a b => some (rowShrReg.pack [d.toNat, a.toNat, b.toNat])
  | .sraReg d a b => some (rowSraReg.pack [d.toNat, a.toNat, b.toNat])
  | .shlImm d a n => some (rowShlImm.pack [d.toNat, a.toNat, n.toNat])
  | .shrImm d a n => some (rowShrImm.pack [d.toNat, a.toNat, n.toNat])
  | .sraImm d a n => some (rowSraImm.pack [d.toNat, a.toNat, n.toNat])
  | .min d a b z => some (rowMin.pack [d.toNat, a.toNat, b.toNat, z.toNat])
  | .max d a b z => some (rowMax.pack [d.toNat, a.toNat, b.toNat, z.toNat])
  | .clz d a => some (rowClz.pack [d.toNat, a.toNat])
  | .popc d a => some (rowPopc.pack [d.toNat, a.toNat])
  | .sel d a b c => some (rowSel.pack [d.toNat, a.toNat, b.toNat, c.toNat])
  | .cmpReg c a b z r => some (rowCmpReg.pack [c.toNat, a.toNat, b.toNat, z.toNat, r.toNat])
  | .cmpImm c r a z i => some (rowCmpImm.pack [c.toNat, r.toNat, a.toNat, z.toNat, i.toNat])
  | .cbitAnd d a b => some (rowCbitAnd.pack [d.toNat, a.toNat, b.toNat])
  | .cbitOr d a b => some (rowCbitOr.pack [d.toNat, a.toNat, b.toNat])
  | .cbitXor d a b => some (rowCbitXor.pack [d.toNat, a.toNat, b.toNat])
  | .cbitAndn d a b => some (rowCbitAndn.pack [d.toNat, a.toNat, b.toNat])
  | .cbitSet d => some (rowCbitSet.pack [d.toNat])
  | .cbitClear d => some (rowCbitClear.pack [d.toNat])
  | .cbitNot d a => some (rowCbitNot.pack [d.toNat, a.toNat])
  | .cbitMove d a => some (rowCbitMove.pack [d.toNat, a.toNat])
  | .lui d i => some (rowLui.pack [d.toNat, i.toNat])
  | .fadd d a b f => some (rowFadd.pack [d.toNat, a.toNat, b.toNat, f.toNat])
  | .fsub d a b f => some (rowFsub.pack [d.toNat, a.toNat, b.toNat, f.toNat])
  | .fmul d a b f => some (rowFmul.pack [d.toNat, a.toNat, b.toNat, f.toNat])
  | .fma d a b f => some (rowFma.pack [d.toNat, a.toNat, b.toNat, f.toNat])
  | .fdiv d a b f => some (rowFdiv.pack [d.toNat, a.toNat, b.toNat, f.toNat])
  | .fsqrt d a f => some (rowFsqrt.pack [d.toNat, a.toNat, f.toNat])
  | .fmin d a b f => some (rowFmin.pack [d.toNat, a.toNat, b.toNat, f.toNat])
  | .fmax d a b f => some (rowFmax.pack [d.toNat, a.toNat, b.toNat, f.toNat])
  | .fcmp c a b f r => some (rowFcmp.pack [c.toNat, a.toNat, b.toNat, f.toNat, r.toNat])
  | .fcvt d a t f k => some (rowFcvt.pack [d.toNat, a.toNat, t.toNat, f.toNat, k.toNat])
  | .ld d a g s z i => some (rowLd.pack [d.toNat, a.toNat, g.toNat, s.toNat, z.toNat, i.toNat])
  | .st d a g s i => some (rowSt.pack [d.toNat, a.toNat, g.toNat, s.toNat, i.toNat])
  | .ldAcq d a p s => some (rowLdAcq.pack [d.toNat, a.toNat, p.toNat, s.toNat])
  | .stRel a b p s => some (rowStRel.pack [a.toNat, b.toNat, p.toNat, s.toNat])
  | .amoAdd d a b p s => some (rowAmoAdd.pack [d.toNat, a.toNat, b.toNat, p.toNat, s.toNat])
  | .amoAnd d a b p s => some (rowAmoAnd.pack [d.toNat, a.toNat, b.toNat, p.toNat, s.toNat])
  | .amoOr d a b p s => some (rowAmoOr.pack [d.toNat, a.toNat, b.toNat, p.toNat, s.toNat])
  | .amoXor d a b p s => some (rowAmoXor.pack [d.toNat, a.toNat, b.toNat, p.toNat, s.toNat])
  | .amoMin d a b p s => some (rowAmoMin.pack [d.toNat, a.toNat, b.toNat, p.toNat, s.toNat])
  | .amoMax d a b p s => some (rowAmoMax.pack [d.toNat, a.toNat, b.toNat, p.toNat, s.toNat])
  | .amoMinZ d a b p s => some (rowAmoMinZ.pack [d.toNat, a.toNat, b.toNat, p.toNat, s.toNat])
  | .amoMaxZ d a b p s => some (rowAmoMaxZ.pack [d.toNat, a.toNat, b.toNat, p.toNat, s.toNat])
  | .amoSwap d a b p s => some (rowAmoSwap.pack [d.toNat, a.toNat, b.toNat, p.toNat, s.toNat])
  | .amoFadd d a b p s => some (rowAmoFadd.pack [d.toNat, a.toNat, b.toNat, p.toNat, s.toNat])
  | .cas d a b p s => some (rowCas.pack [d.toNat, a.toNat, b.toNat, p.toNat, s.toNat])
  | .b c t h d => some (rowB.pack [c.toNat, t.toNat, h.toNat, d.toNat])
  | .j d => some (rowJ.pack [d.toNat])
  | .jal d => some (rowJal.pack [d.toNat])
  | .jr a => some (rowJr.pack [a.toNat])
  | .jrLink a => some (rowJrLink.pack [a.toNat])
  | .ret => some (rowRet.pack [])
  | .loop a n l => some (rowLoop.pack [a.toNat, n.toNat, l.toNat])
  | .vshape d a b e g t x => some (rowVshape.pack [d.toNat, a.toNat, b.toNat, e.toNat, g.toNat, t.toNat, x.toNat])
  | .vrel => some (rowVrel.pack [])
  | .vaddVV k d a b m q => some (rowVaddVV.pack [k.toNat, d.toNat, a.toNat, b.toNat, m.toNat, q.toNat])
  | .vaddVS k d a b m q => some (rowVaddVS.pack [k.toNat, d.toNat, a.toNat, b.toNat, m.toNat, q.toNat])
  | .vsubVV k d a b m q => some (rowVsubVV.pack [k.toNat, d.toNat, a.toNat, b.toNat, m.toNat, q.toNat])
  | .vsubVS k d a b m q => some (rowVsubVS.pack [k.toNat, d.toNat, a.toNat, b.toNat, m.toNat, q.toNat])
  | .vmulVV k d a b m q => some (rowVmulVV.pack [k.toNat, d.toNat, a.toNat, b.toNat, m.toNat, q.toNat])
  | .vmulVS k d a b m q => some (rowVmulVS.pack [k.toNat, d.toNat, a.toNat, b.toNat, m.toNat, q.toNat])
  | .vmaVV k d a b m q => some (rowVmaVV.pack [k.toNat, d.toNat, a.toNat, b.toNat, m.toNat, q.toNat])
  | .vmaVS k d a b m q => some (rowVmaVS.pack [k.toNat, d.toNat, a.toNat, b.toNat, m.toNat, q.toNat])
  | .vdivVV k d a b m q => some (rowVdivVV.pack [k.toNat, d.toNat, a.toNat, b.toNat, m.toNat, q.toNat])
  | .vdivVS k d a b m q => some (rowVdivVS.pack [k.toNat, d.toNat, a.toNat, b.toNat, m.toNat, q.toNat])
  | .vminVV k d a b m q => some (rowVminVV.pack [k.toNat, d.toNat, a.toNat, b.toNat, m.toNat, q.toNat])
  | .vminVS k d a b m q => some (rowVminVS.pack [k.toNat, d.toNat, a.toNat, b.toNat, m.toNat, q.toNat])
  | .vmaxVV k d a b m q => some (rowVmaxVV.pack [k.toNat, d.toNat, a.toNat, b.toNat, m.toNat, q.toNat])
  | .vmaxVS k d a b m q => some (rowVmaxVS.pack [k.toNat, d.toNat, a.toNat, b.toNat, m.toNat, q.toNat])
  | .vmulhVV k d a b m q => some (rowVmulhVV.pack [k.toNat, d.toNat, a.toNat, b.toNat, m.toNat, q.toNat])
  | .vmulhVS k d a b m q => some (rowVmulhVS.pack [k.toNat, d.toNat, a.toNat, b.toNat, m.toNat, q.toNat])
  | .vandVV k d a b m q => some (rowVandVV.pack [k.toNat, d.toNat, a.toNat, b.toNat, m.toNat, q.toNat])
  | .vandVS k d a b m q => some (rowVandVS.pack [k.toNat, d.toNat, a.toNat, b.toNat, m.toNat, q.toNat])
  | .vorVV k d a b m q => some (rowVorVV.pack [k.toNat, d.toNat, a.toNat, b.toNat, m.toNat, q.toNat])
  | .vorVS k d a b m q => some (rowVorVS.pack [k.toNat, d.toNat, a.toNat, b.toNat, m.toNat, q.toNat])
  | .vxorVV k d a b m q => some (rowVxorVV.pack [k.toNat, d.toNat, a.toNat, b.toNat, m.toNat, q.toNat])
  | .vxorVS k d a b m q => some (rowVxorVS.pack [k.toNat, d.toNat, a.toNat, b.toNat, m.toNat, q.toNat])
  | .vshlVV k d a b m q => some (rowVshlVV.pack [k.toNat, d.toNat, a.toNat, b.toNat, m.toNat, q.toNat])
  | .vshlVS k d a b m q => some (rowVshlVS.pack [k.toNat, d.toNat, a.toNat, b.toNat, m.toNat, q.toNat])
  | .vshrVV k d a b m q => some (rowVshrVV.pack [k.toNat, d.toNat, a.toNat, b.toNat, m.toNat, q.toNat])
  | .vshrVS k d a b m q => some (rowVshrVS.pack [k.toNat, d.toNat, a.toNat, b.toNat, m.toNat, q.toNat])
  | .vsraVV k d a b m q => some (rowVsraVV.pack [k.toNat, d.toNat, a.toNat, b.toNat, m.toNat, q.toNat])
  | .vsraVS k d a b m q => some (rowVsraVS.pack [k.toNat, d.toNat, a.toNat, b.toNat, m.toNat, q.toNat])
  | .vsaddVV k d a b m q => some (rowVsaddVV.pack [k.toNat, d.toNat, a.toNat, b.toNat, m.toNat, q.toNat])
  | .vsaddVS k d a b m q => some (rowVsaddVS.pack [k.toNat, d.toNat, a.toNat, b.toNat, m.toNat, q.toNat])
  | .vssubVV k d a b m q => some (rowVssubVV.pack [k.toNat, d.toNat, a.toNat, b.toNat, m.toNat, q.toNat])
  | .vssubVS k d a b m q => some (rowVssubVS.pack [k.toNat, d.toNat, a.toNat, b.toNat, m.toNat, q.toNat])
  | .vraddVV k d a b m q => some (rowVraddVV.pack [k.toNat, d.toNat, a.toNat, b.toNat, m.toNat, q.toNat])
  | .vraddVS k d a b m q => some (rowVraddVS.pack [k.toNat, d.toNat, a.toNat, b.toNat, m.toNat, q.toNat])
  | .vrsubVV k d a b m q => some (rowVrsubVV.pack [k.toNat, d.toNat, a.toNat, b.toNat, m.toNat, q.toNat])
  | .vrsubVS k d a b m q => some (rowVrsubVS.pack [k.toNat, d.toNat, a.toNat, b.toNat, m.toNat, q.toNat])
  | .vsqrt k d a m q => some (rowVsqrt.pack [k.toNat, d.toNat, a.toNat, m.toNat, q.toNat])
  | .vexp2 k d a m q => some (rowVexp2.pack [k.toNat, d.toNat, a.toNat, m.toNat, q.toNat])
  | .vsgnCopyVV k d a b m q => some (rowVsgnCopyVV.pack [k.toNat, d.toNat, a.toNat, b.toNat, m.toNat, q.toNat])
  | .vsgnCopyVS k d a b m q => some (rowVsgnCopyVS.pack [k.toNat, d.toNat, a.toNat, b.toNat, m.toNat, q.toNat])
  | .vsgnNegVV k d a b m q => some (rowVsgnNegVV.pack [k.toNat, d.toNat, a.toNat, b.toNat, m.toNat, q.toNat])
  | .vsgnNegVS k d a b m q => some (rowVsgnNegVS.pack [k.toNat, d.toNat, a.toNat, b.toNat, m.toNat, q.toNat])
  | .vsgnXorVV k d a b m q => some (rowVsgnXorVV.pack [k.toNat, d.toNat, a.toNat, b.toNat, m.toNat, q.toNat])
  | .vsgnXorVS k d a b m q => some (rowVsgnXorVS.pack [k.toNat, d.toNat, a.toNat, b.toNat, m.toNat, q.toNat])
  | .vsgnAbs k d a m q => some (rowVsgnAbs.pack [k.toNat, d.toNat, a.toNat, m.toNat, q.toNat])
  | .vcmpVV k d a b m q r => some (rowVcmpVV.pack [k.toNat, d.toNat, a.toNat, b.toNat, m.toNat, q.toNat, r.toNat])
  | .vcmpVS k d a b m q r => some (rowVcmpVS.pack [k.toNat, d.toNat, a.toNat, b.toNat, m.toNat, q.toNat, r.toNat])
  | .vmlogAnd k d a b m q => some (rowVmlogAnd.pack [k.toNat, d.toNat, a.toNat, b.toNat, m.toNat, q.toNat])
  | .vmlogOr k d a b m q => some (rowVmlogOr.pack [k.toNat, d.toNat, a.toNat, b.toNat, m.toNat, q.toNat])
  | .vmlogXor k d a b m q => some (rowVmlogXor.pack [k.toNat, d.toNat, a.toNat, b.toNat, m.toNat, q.toNat])
  | .vmlogAndn k d a b m q => some (rowVmlogAndn.pack [k.toNat, d.toNat, a.toNat, b.toNat, m.toNat, q.toNat])
  | .vmlogOrn k d a b m q => some (rowVmlogOrn.pack [k.toNat, d.toNat, a.toNat, b.toNat, m.toNat, q.toNat])
  | .vmlogNot k d a m q => some (rowVmlogNot.pack [k.toNat, d.toNat, a.toNat, m.toNat, q.toNat])
  | .vmlogSet k d m q => some (rowVmlogSet.pack [k.toNat, d.toNat, m.toNat, q.toNat])
  | .vmlogClear k d m q => some (rowVmlogClear.pack [k.toNat, d.toNat, m.toNat, q.toNat])
  | .vmpop k d a m q => some (rowVmpop.pack [k.toNat, d.toNat, a.toNat, m.toNat, q.toNat])
  | .vmfirst k d a m q => some (rowVmfirst.pack [k.toNat, d.toNat, a.toNat, m.toNat, q.toNat])
  | .vmtocAny k c a m q => some (rowVmtocAny.pack [k.toNat, c.toNat, a.toNat, m.toNat, q.toNat])
  | .vmtocAll k c a m q => some (rowVmtocAll.pack [k.toNat, c.toNat, a.toNat, m.toNat, q.toNat])
  | .vmtocNone k c a m q => some (rowVmtocNone.pack [k.toNat, c.toNat, a.toNat, m.toNat, q.toNat])
  | .vcvt k d a m q t => some (rowVcvt.pack [k.toNat, d.toNat, a.toNat, m.toNat, q.toNat, t.toNat])
  | .vbq k d a m q t => some (rowVbq.pack [k.toNat, d.toNat, a.toNat, m.toNat, q.toNat, t.toNat])
  | .vbdq k d a m q t => some (rowVbdq.pack [k.toNat, d.toNat, a.toNat, m.toNat, q.toNat, t.toNat])
  | .vmov k d a m q => some (rowVmov.pack [k.toNat, d.toNat, a.toNat, m.toNat, q.toNat])
  | .vmovSplat k d b m q => some (rowVmovSplat.pack [k.toNat, d.toNat, b.toNat, m.toNat, q.toNat])
  | .vpermRow k d a b m q => some (rowVpermRow.pack [k.toNat, d.toNat, a.toNat, b.toNat, m.toNat, q.toNat])
  | .vpermCol k d a b m q => some (rowVpermCol.pack [k.toNat, d.toNat, a.toNat, b.toNat, m.toNat, q.toNat])
  | .vslideUp k d a b m q => some (rowVslideUp.pack [k.toNat, d.toNat, a.toNat, b.toNat, m.toNat, q.toNat])
  | .vslideDown k d a b m q => some (rowVslideDown.pack [k.toNat, d.toNat, a.toNat, b.toNat, m.toNat, q.toNat])
  | .vxpose k d a m q => some (rowVxpose.pack [k.toNat, d.toNat, a.toNat, m.toNat, q.toNat])
  | .vext k d a b => some (rowVext.pack [k.toNat, d.toNat, a.toNat, b.toNat])
  | .vins k d a b => some (rowVins.pack [k.toNat, d.toNat, a.toNat, b.toNat])
  | .viota k d m q => some (rowViota.pack [k.toNat, d.toNat, m.toNat, q.toNat])
  | .viotaRow k d m q => some (rowViotaRow.pack [k.toNat, d.toNat, m.toNat, q.toNat])
  | .viotaCol k d m q => some (rowViotaCol.pack [k.toNat, d.toNat, m.toNat, q.toNat])
  | .vred k d a m q o => some (rowVred.pack [k.toNat, d.toNat, a.toNat, m.toNat, q.toNat, o.toNat])
  | .vredAll k d a m q o => some (rowVredAll.pack [k.toNat, d.toNat, a.toNat, m.toNat, q.toNat, o.toNat])
  | .vscan k d a m q o => some (rowVscan.pack [k.toNat, d.toNat, a.toNat, m.toNat, q.toNat, o.toNat])
  | .vld k d a b m q g => some (rowVld.pack [k.toNat, d.toNat, a.toNat, b.toNat, m.toNat, q.toNat, g.toNat])
  | .vldSt k d a b m q g => some (rowVldSt.pack [k.toNat, d.toNat, a.toNat, b.toNat, m.toNat, q.toNat, g.toNat])
  | .vldZ k d a b m q g => some (rowVldZ.pack [k.toNat, d.toNat, a.toNat, b.toNat, m.toNat, q.toNat, g.toNat])
  | .vldBc k d a m q g => some (rowVldBc.pack [k.toNat, d.toNat, a.toNat, m.toNat, q.toNat, g.toNat])
  | .vldB k d a b m q g => some (rowVldB.pack [k.toNat, d.toNat, a.toNat, b.toNat, m.toNat, q.toNat, g.toNat])
  | .vgather k d a b m q g => some (rowVgather.pack [k.toNat, d.toNat, a.toNat, b.toNat, m.toNat, q.toNat, g.toNat])
  | .vst k d a b m q g => some (rowVst.pack [k.toNat, d.toNat, a.toNat, b.toNat, m.toNat, q.toNat, g.toNat])
  | .vstSt k d a b m q g => some (rowVstSt.pack [k.toNat, d.toNat, a.toNat, b.toNat, m.toNat, q.toNat, g.toNat])
  | .vstZ k d a b m q g => some (rowVstZ.pack [k.toNat, d.toNat, a.toNat, b.toNat, m.toNat, q.toNat, g.toNat])
  | .vstBc k d a m q g => some (rowVstBc.pack [k.toNat, d.toNat, a.toNat, m.toNat, q.toNat, g.toNat])
  | .vstB k d a b m q g => some (rowVstB.pack [k.toNat, d.toNat, a.toNat, b.toNat, m.toNat, q.toNat, g.toNat])
  | .vscatter k d a b m q g => some (rowVscatter.pack [k.toNat, d.toNat, a.toNat, b.toNat, m.toNat, q.toNat, g.toNat])
  | .vamoAdd k d a b m q g => some (rowVamoAdd.pack [k.toNat, d.toNat, a.toNat, b.toNat, m.toNat, q.toNat, g.toNat])
  | .vamoMin k d a b m q g => some (rowVamoMin.pack [k.toNat, d.toNat, a.toNat, b.toNat, m.toNat, q.toNat, g.toNat])
  | .vamoMax k d a b m q g => some (rowVamoMax.pack [k.toNat, d.toNat, a.toNat, b.toNat, m.toNat, q.toNat, g.toNat])
  | .vamoAnd k d a b m q g => some (rowVamoAnd.pack [k.toNat, d.toNat, a.toNat, b.toNat, m.toNat, q.toNat, g.toNat])
  | .vamoOr k d a b m q g => some (rowVamoOr.pack [k.toNat, d.toNat, a.toNat, b.toNat, m.toNat, q.toNat, g.toNat])
  | .vamoXor k d a b m q g => some (rowVamoXor.pack [k.toNat, d.toNat, a.toNat, b.toNat, m.toNat, q.toNat, g.toNat])
  | .vamoSwap k d a b m q g => some (rowVamoSwap.pack [k.toNat, d.toNat, a.toNat, b.toNat, m.toNat, q.toNat, g.toNat])
  | .vamoFadd k d a b m q g => some (rowVamoFadd.pack [k.toNat, d.toNat, a.toNat, b.toNat, m.toNat, q.toNat, g.toNat])
  | .vcappIdx k a m q g => some (rowVcappIdx.pack [k.toNat, a.toNat, m.toNat, q.toNat, g.toNat])
  | .vcappVal k d a m q g => some (rowVcappVal.pack [k.toNat, d.toNat, a.toNat, m.toNat, q.toNat, g.toNat])
  | .matt d c => some (rowMatt.pack [d.toNat, c.toNat])
  | .mdet => some (rowMdet.pack [])
  | .mclaim d => some (rowMclaim.pack [d.toNat])
  | .mrel a => some (rowMrel.pack [a.toNat])
  | .mldb k a b => some (rowMldb.pack [k.toNat, a.toNat, b.toNat])
  | .mma k d a n => some (rowMma.pack [k.toNat, d.toNat, a.toNat, n.toNat])
  | .mzero k n => some (rowMzero.pack [k.toNat, n.toNat])
  | .mdrain k d b n => some (rowMdrain.pack [k.toNat, d.toNat, b.toNat, n.toNat])
  | .xcopy d a b c n l => some (rowXcopy.pack [d.toNat, a.toNat, b.toNat, c.toNat, n.toNat, l.toNat])
  | .xwait a c => some (rowXwait.pack [a.toNat, c.toNat])
  | .fence m s => some (rowFence.pack [m.toNat, s.toNat])
  | .send v a t => some (rowSend.pack [v.toNat, a.toNat, t.toNat])
  | .recv v t => some (rowRecv.pack [v.toNat, t.toNat])
  | .tend => some (rowTend.pack [])
  | .gspawn s => some (rowGspawn.pack [s.toNat])
  | .gsig s => some (rowGsig.pack [s.toNat])
  | .adj p => some (rowAdj.pack [p.toNat])
  | .uiret => some (rowUiret.pack [])
  | .dcwb s n => some (rowDcwb.pack [s.toNat, n.toNat])
  | .iinv s n => some (rowIinv.pack [s.toNat, n.toNat])
  | .fetchb => some (rowFetchb.pack [])
  | .pref s n => some (rowPref.pack [s.toNat, n.toNat])
  | .trap i => some (rowTrap.pack [i.toNat])
  | .eret => some (rowEret.pack [])
  | .mfs s n => some (rowMfs.pack [s.toNat, n.toNat])
  | .mts s n => some (rowMts.pack [s.toNat, n.toNat])
  | .wait => some (rowWait.pack [])
  | .nop => some (rowNop.pack [])
  | .csave s => some (rowCsave.pack [s.toNat])
  | .cload s => some (rowCload.pack [s.toNat])
  | .tlbinv s k => some (rowTlbinv.pack [s.toNat, k.toNat])
  | _ => none

/-- The bytes of an instruction's word; an event has none. -/
def encode (i : Instr) : Option (List Byte) := (encodeNat i).map (bytesOfNat 4)

/-- The instruction the decoder reads from an instruction whose bits are `w`, for the host's table. -/
def decodeTableWord (_nbits w : Nat) : Option Instr :=
  match decodeBytes (bytesOfNat 4 w) with
  | .ok (i, _) => some i
  | .error _ => none

end Sys2Proof
end

