-- ==== Sys2Proof/Machine/Crypto.lean ====
section
/-! DEFINITION. The two public algorithms that the spec names without restating them: AES-256-XTS over one
64-byte line (R152) and SHA3-256 (R287, R288). PRESUMED from their published standards (FIPS 197,
IEEE 1619, FIPS 202); log entry 16. -/

namespace Sys2Proof.Machine

/-! ### AES-256 -/

/-- Multiplication by x in GF(2^8) with the AES polynomial. -/
def gfDouble (a : Nat) : Nat := if a < 128 then 2 * a else (2 * a) ^^^ 0x11B

/-- Multiplication in GF(2^8); `n` counts the bits of `b` still to do. -/
def gfMulAux : Nat → Nat → Nat → Nat
  | 0, _, _ => 0
  | n + 1, a, b => (if b % 2 = 1 then a else 0) ^^^ gfMulAux n (gfDouble a) (b / 2)

def gfMul (a b : Nat) : Nat := gfMulAux 8 a b

/-- The inverse in GF(2^8), as the power 254; 0 gives 0. -/
def gfInv (a : Nat) : Nat :=
  let a2 := gfMul a a
  let a4 := gfMul a2 a2
  let a8 := gfMul a4 a4
  let a16 := gfMul a8 a8
  let a32 := gfMul a16 a16
  let a64 := gfMul a32 a32
  let a128 := gfMul a64 a64
  gfMul a2 (gfMul a4 (gfMul a8 (gfMul a16 (gfMul a32 (gfMul a64 a128)))))

/-- A byte rotated left by n bits. -/
def rotByte (a n : Nat) : Nat := (a <<< n ||| a >>> (8 - n)) % 256

def aesSub (a : Nat) : Nat :=
  let b := gfInv a
  b ^^^ rotByte b 1 ^^^ rotByte b 2 ^^^ rotByte b 3 ^^^ rotByte b 4 ^^^ 0x63

def aesSubInv (a : Nat) : Nat := gfInv (rotByte a 1 ^^^ rotByte a 3 ^^^ rotByte a 6 ^^^ 0x05)

/-- Exclusive or of two lists of bytes. -/
def xorBytes (a b : List Nat) : List Nat := List.zipWith (· ^^^ ·) a b

/-- One word of the key schedule from the words so far, newest first, of which there are `i`. -/
def aesNextKeyWord (i rcon : Nat) (ws : List (List Nat)) : List Nat :=
  let prev := ws.headD []
  let t :=
    if i % 8 = 0 then
      match prev.map aesSub with
      | [a, b, c, d] => [b ^^^ rcon, c, d, a]
      | l => l
    else if i % 8 = 4 then prev.map aesSub else prev
  xorBytes (ws.getD 7 []) t

/-- The rest of the key schedule: `n` more words. -/
def aesExpandAux : Nat → Nat → Nat → List (List Nat) → List (List Nat)
  | 0, _, _, ws => ws
  | n + 1, i, rcon, ws =>
    aesExpandAux n (i + 1) (if i % 8 = 0 then gfDouble rcon else rcon) (aesNextKeyWord i rcon ws :: ws)

/-- A list cut into pieces of four. -/
def fours : List Nat → List (List Nat)
  | a :: b :: c :: d :: t => [a, b, c, d] :: fours t
  | _ => []

/-- A list of words cut into round keys of sixteen bytes. -/
def roundKeysOf : List (List Nat) → List (List Nat)
  | a :: b :: c :: d :: t => (a ++ b ++ c ++ d) :: roundKeysOf t
  | _ => []

/-- The fifteen round keys of AES-256. -/
def aesRoundKeys (key : List Nat) : List (List Nat) :=
  roundKeysOf (aesExpandAux 52 8 1 (fours key).reverse).reverse

/-- The state's bytes permuted: byte i of the result is byte `p` i of the state. -/
def permBytes (p : List Nat) (st : List Nat) : List Nat := p.map fun i => st.getD i 0

def shiftRows : List Nat → List Nat := permBytes [0, 5, 10, 15, 4, 9, 14, 3, 8, 13, 2, 7, 12, 1, 6, 11]
def shiftRowsInv : List Nat → List Nat := permBytes [0, 13, 10, 7, 4, 1, 14, 11, 8, 5, 2, 15, 12, 9, 6, 3]

/-- One column multiplied by the circulant matrix with first row a, b, c, d. -/
def mixColumn (a b c d : Nat) : List Nat → List Nat
  | [w, x, y, z] =>
    [gfMul a w ^^^ gfMul b x ^^^ gfMul c y ^^^ gfMul d z,
     gfMul d w ^^^ gfMul a x ^^^ gfMul b y ^^^ gfMul c z,
     gfMul c w ^^^ gfMul d x ^^^ gfMul a y ^^^ gfMul b z,
     gfMul b w ^^^ gfMul c x ^^^ gfMul d y ^^^ gfMul a z]
  | l => l

def mixColumns (st : List Nat) : List Nat := (fours st).flatMap (mixColumn 2 3 1 1)
def mixColumnsInv (st : List Nat) : List Nat := (fours st).flatMap (mixColumn 14 11 13 9)

def aesRounds : List (List Nat) → List Nat → List Nat
  | [], st => st
  | [k], st => xorBytes (shiftRows (st.map aesSub)) k
  | k :: ks, st => aesRounds ks (xorBytes (mixColumns (shiftRows (st.map aesSub))) k)

/-- AES-256 encryption of one block. -/
def aesEncrypt (key block : List Nat) : List Nat :=
  match aesRoundKeys key with
  | [] => block
  | k :: ks => aesRounds ks (xorBytes block k)

def aesRoundsInv : List (List Nat) → List Nat → List Nat
  | [], st => st
  | [k], st => xorBytes ((shiftRowsInv st).map aesSubInv) k
  | k :: ks, st => aesRoundsInv ks (mixColumnsInv (xorBytes ((shiftRowsInv st).map aesSubInv) k))

/-- AES-256 decryption of one block. -/
def aesDecrypt (key block : List Nat) : List Nat :=
  match (aesRoundKeys key).reverse with
  | [] => block
  | k :: ks => aesRoundsInv ks (xorBytes block k)

/-! ### XTS over a line -/

/-- The n bytes of a number, least significant first. -/
def natBytes : Nat → Nat → List Nat
  | 0, _ => []
  | n + 1, v => v % 256 :: natBytes n (v / 256)

/-- The number whose bytes these are, least significant first. -/
def bytesNat : List Nat → Nat
  | [] => 0
  | b :: bs => b + 256 * bytesNat bs

/-- Multiplication of a tweak by x in GF(2^128). -/
def xtsDouble (t : Nat) : Nat := if t < 2 ^ 127 then 2 * t else (2 * t - 2 ^ 128) ^^^ 0x87

def xtsBlocks (f : List Nat → List Nat) : Nat → Nat → List Nat → List Nat
  | 0, _, _ => []
  | n + 1, t, line =>
    let tb := natBytes 16 t
    xorBytes (f (xorBytes (line.take 16) tb)) tb ++ xtsBlocks f n (xtsDouble t) (line.drop 16)

/-- The two keys of a key slot: the first in its low 256 bits (R152, R281). -/
def slotKeys (k : BitVec 512) : List Nat × List Nat :=
  (natBytes 32 (k.toNat % 2 ^ 256), natBytes 32 (k.toNat / 2 ^ 256))

/-- The stored bytes of a line under a key slot, for the 48-bit tweak value (R152). -/
def xtsEncryptLine (k : BitVec 512) (tweak : Nat) (line : List Nat) : List Nat :=
  let ks := slotKeys k
  xtsBlocks (aesEncrypt ks.1) 4 (bytesNat (aesEncrypt ks.2 (natBytes 16 tweak))) line

/-- The plain bytes of a stored line under a key slot. -/
def xtsDecryptLine (k : BitVec 512) (tweak : Nat) (line : List Nat) : List Nat :=
  let ks := slotKeys k
  xtsBlocks (aesDecrypt ks.1) 4 (bytesNat (aesEncrypt ks.2 (natBytes 16 tweak))) line

/-! ### SHA3-256 -/

/-- A 64-bit lane rotated left. -/
def rotLane (a n : Nat) : Nat := (a <<< (n % 64) ||| a >>> (64 - n % 64)) % 2 ^ 64

/-- The rotation offsets of the lanes, lane x + 5y at index x + 5y. -/
def keccakOffsets : List Nat :=
  [0, 1, 62, 28, 27, 36, 44, 6, 55, 20, 3, 10, 43, 25, 39, 41, 45, 15, 21, 8, 18, 2, 61, 56, 14]

/-- The round constants. -/
def keccakConstants : List Nat :=
  [0x0000000000000001, 0x0000000000008082, 0x800000000000808A, 0x8000000080008000, 0x000000000000808B,
   0x0000000080000001, 0x8000000080008081, 0x8000000000008009, 0x000000000000008A, 0x0000000000000088,
   0x0000000080008009, 0x000000008000000A] ++
  [0x000000008000808B, 0x800000000000008B, 0x8000000000008089, 0x8000000000008003, 0x8000000000008002,
   0x8000000000000080, 0x000000000000800A, 0x800000008000000A, 0x8000000080008081, 0x8000000000008080,
   0x0000000080000001, 0x8000000080008008]

/-- One round of Keccak-f[1600] on 25 lanes. -/
def keccakRound (a : List Nat) (rc : Nat) : List Nat :=
  let lane (l : List Nat) (x y : Nat) := l.getD (x % 5 + 5 * (y % 5)) 0
  let col (x : Nat) := lane a x 0 ^^^ lane a x 1 ^^^ lane a x 2 ^^^ lane a x 3 ^^^ lane a x 4
  let cols := (List.range 5).map col
  let d (x : Nat) := cols.getD ((x + 4) % 5) 0 ^^^ rotLane (cols.getD ((x + 1) % 5) 0) 1
  let t := (List.range 25).map fun i => a.getD i 0 ^^^ d (i % 5)
  let r := (List.range 25).map fun i => rotLane (t.getD i 0) (keccakOffsets.getD i 0)
  let b := (List.range 25).map fun i =>
    -- position (x, y) takes lane (x + 3y, x)
    let x := i % 5
    let y := i / 5
    lane r (x + 3 * y) x
  let c := (List.range 25).map fun i =>
    let x := i % 5
    let y := i / 5
    lane b x y ^^^ ((lane b (x + 1) y ^^^ (2 ^ 64 - 1)) &&& lane b (x + 2) y)
  match c with
  | [] => []
  | h :: tl => (h ^^^ rc) :: tl

def keccak (a : List Nat) : List Nat := keccakConstants.foldl keccakRound a

/-- The lanes of a block of bytes. -/
def lanesOf : Nat → List Nat → List Nat
  | 0, _ => []
  | n + 1, bs => bytesNat (bs.take 8) :: lanesOf n (bs.drop 8)

/-- The message padded to whole blocks of 136 bytes. -/
def sha3Pad (msg : List Nat) : List Nat :=
  let free := 136 - msg.length % 136
  if free = 1 then msg ++ [0x86] else msg ++ [0x06] ++ List.replicate (free - 2) 0 ++ [0x80]

def sha3Absorb : Nat → List Nat → List Nat → List Nat
  | 0, st, _ => st
  | n + 1, st, bs =>
    sha3Absorb n (keccak (xorBytes st (lanesOf 17 (bs.take 136) ++ List.replicate 8 0))) (bs.drop 136)

/-- SHA3-256 of a message, as a number whose byte 0 is the first byte of the digest. -/
def sha3 (msg : List Nat) : Nat :=
  let p := sha3Pad msg
  let st := sha3Absorb (p.length / 136) (List.replicate 25 0) p
  bytesNat ((st.take 4).flatMap (natBytes 8))

end Sys2Proof.Machine
end

