-- ==== Sys2Proof/Config.lean ====
section
/-! DEFINITION. What this part fixes, and the values the spec leaves open. An `opaque` constant has no
body: nothing in Lean can evaluate it, so a statement about it holds for every value (log entries 3 to 9). -/

namespace Sys2Proof.Config

/-- A value the spec leaves open, one for each count of the machine's own counter (log entries 3, 4). -/
opaque freeWord : Nat → Word

/-- The two 256-bit keys that the boot ROM puts in slot 0 at a reset (R152, R287; log entry 5). -/
opaque nodeKey : Nat → BitVec 512

/-- The SHA3-256 digest of the firmware image (R287; log entry 6). -/
opaque firmwareDigest : BitVec 256

/-- The fused SHA3-256 hash of the firmware's public key (R287; log entry 6). -/
opaque publicKeyHash : BitVec 256

/-- Whether the firmware image's signature verifies (R287; log entry 6). -/
opaque firmwareVerifies : Bool

/-- Byte n of the device identity public key (R288; log entry 6). -/
opaque identityKey : Nat → Byte

/-- Byte n of the quote signature over a digest (R288; log entry 6). -/
opaque quoteSignature : BitVec 256 → Nat → Byte

/-- The keys that an access performed under an emptied slot meets (R153 tests the slot before the access;
log entry 5). -/
opaque emptySlotKey : BitVec 512

/-- Which of the translations that a TLB or the page table holds is used, where they differ (R163; log
entry 8). -/
opaque pickTranslation : Nat → Nat

/-- Which of the values of a code word that a cache, a fetch buffer or memory holds a fetch delivers, where they differ
(R269; log entry 9). -/
opaque pickCodeWord : Nat → Nat

/-- The memory channel that holds a line, among those of all nodes: the interleave is not given (R146, R258; log
entry 37). -/
opaque patrolChannel : Nat → Nat

/-- FEATURES: major 1, minor 0 (R83). -/
def features : Nat := 0x10

end Sys2Proof.Config
end

