-- ==== Sys2Proof/Machine/State.lean ====
section
/-! DEFINITION. The machine's state as plain data: one Rhason A4 module (one node), every context, core,
tile, string and die of it, the mill, the fabric, the host block and memory. Reset values stand in the
`reset` definitions. A `Tab` lists only what has been written; its reader in Ops.lean names what an
unlisted key reads as. -/

namespace Sys2Proof.Machine

/-- What stops the model itself. -/
inductive Fault where
  /-- An event names a context, string, die, launch or register that the module does not have (R13, R14).
  Raised by the events of the family files under Machine/. Safe: no such agent exists to move. -/
  | noSuchPart
  deriving DecidableEq, Repr

/-- What the model declines to answer. -/
inductive Refusal where
  /-- The arm of exec has no meaning yet. Raised by Dispatch.lean only. Safe. -/
  | notModelled (mnemonic : String)
  deriving DecidableEq, Repr

/-! ### A context -/

/-- VTYPE (R75). -/
structure VType where
  ill : Bool
  glog : BitVec 2
  ta : Bool
  ix : Bool
  etype : BitVec 5
  deriving DecidableEq, Repr

/-- FPCTL, FPFLAGS, SRSEED, RQSHIFT, SCOFF (R85). The flags are NV, DZ, OF, UF, NX, SAT from bit 0. -/
structure FpRegs where
  rm : BitVec 3
  ftz : Bool
  sat8 : Bool
  flags : BitVec 6
  seed : BitVec 32
  rqshift : BitVec 8
  scoff : Word
  deriving DecidableEq, Repr

/-- MROWS, MCOLS, MDEPTH, MCFG, MFLAGS (R127). -/
structure MatRegs where
  rows : BitVec 7
  cols : BitVec 8
  depth : BitVec 12
  wide : Bool
  afmt : BitVec 2
  rev : BitVec 8
  flags : BitVec 5
  deriving DecidableEq, Repr

/-- An entry of the loop stack (R68). -/
structure LoopEntry where
  start : Word
  stop : Word
  remaining : Word
  deriving DecidableEq, Repr

/-- The return-address store, newest first, its spill count and RSPILL (R71, R72). -/
structure RetStore where
  entries : List Word
  spilled : BitVec 32
  spill : Word
  deriving DecidableEq, Repr

/-- The user-interrupt registers, held values and shadow set (R192 to R194 engines). Bit c − 1 of `en`
and `pend` belongs to cause c; `held` has the value of cause c at index c − 1. `shadow` is the set of
s24 to s31 that is not in use. -/
structure UserInt where
  vec : Word
  cause : BitVec 8
  epc : Word
  val : Word
  en : BitVec 4
  pend : BitVec 4
  act : Bool
  held : Vector Word 4
  shadow : Vector Word 8
  deriving DecidableEq, Repr

/-- The trap registers (R215). `pol` is the task's adjunct policy, which ERET restores, while a handler runs (R57; log
entry 78). -/
structure TrapRegs where
  vec : Word
  cause : BitVec 8
  epc : Word
  val : Word
  pp : Bool
  cocoon : Bool
  inh : Bool
  wroteRec : Bool
  task : Bool
  frec : Word
  pol : BitVec 2
  deriving DecidableEq, Repr

/-- PTROOT, ASID and KEYDEF: the address space of a context (R161). -/
structure Space where
  ptroot : Word
  asid : BitVec 16
  dkey : BitVec 12
  ckey : BitVec 12
  deriving DecidableEq, Repr

/-- A TLB entry: one leaf's translation (R163). `va` is the page's base, `size` its log2. -/
structure TlbEntry where
  va : Nat
  size : Nat
  asid : BitVec 16
  glob : Bool
  leaf : Nat
  node : Nat
  frame : Nat
  key : Nat
  r : Bool
  w : Bool
  x : Bool
  u : Bool
  cow : Bool
  shd : Bool
  pin : Bool
  verdicts : List (Nat × Bool × Bool)
  deriving DecidableEq, Repr

/-- How a write counts for launch replay (R250). -/
inductive WriteClass where
  /-- A local window, or a write at supervisor level: neither counted nor versioned. -/
  | uncounted
  /-- To an own-node 64 KiB leaf with SHD set: the page is copied before its first write (R252). -/
  | versioned
  /-- To any other translated page: it ends the launch's replayability. -/
  | unversioned
  deriving DecidableEq, Repr

/-- One write of a context: its stream, its place, its effective key index and its bytes, and whether
the memory holds them encrypted. `loose` is a release store's: no later access is ordered after it but those of its bytes (R361).
`nib` is none for whole bytes; a 4-bit element has its code in one byte and
names the nibble it writes, the high one for true (R384). `pin` says that its page is settled (R174). `acc` is when its
plane accepted it, where a FENCE or release has waited for that (R181, R185). -/
structure Write where
  strm : Nat
  loose : Bool
  loc : Nat
  key : Nat
  enc : Bool
  bytes : List Byte
  nib : Option Bool
  pin : Bool
  cls : WriteClass
  acc : Option Nat
  deriving DecidableEq, Repr

/-- One dimension of a copy command: source stride, extent, destination stride (R186). -/
structure CopyDim where
  ss : Word
  ext : Nat
  ds : Word
  deriving DecidableEq, Repr

/-- How far a copy command has come (R187, R188, R190 engines). One that has started holds its translations, the
elements that it has read so far, each with its bytes and whether they are poisoned, and the elements that it has written
(R179, R256). -/
inductive CmdState where
  | queued
  | started (pages : List TlbEntry) (got : Tab (List Byte × Bool)) (put : List Nat)
  | faulted
  | completed
  deriving DecidableEq, Repr

/-- An outstanding copy command with what it captured at issue (R187 engines). -/
structure CopyCmd where
  id : BitVec 32
  src : Word
  dst : Word
  esz : Nat
  dims : List CopyDim
  notify : Bool
  space : Space
  sup : Bool
  st : CmdState
  deriving DecidableEq, Repr

/-- A copy channel: XDONE, XNEXT, XFLT, the outstanding commands in identifier order, and the
identifiers before which a join stands (R182 to R190 engines). -/
structure CopyChan where
  done : BitVec 32
  next : BitVec 32
  cause : BitVec 8
  side : Bool
  dlv : Bool
  fid : BitVec 32
  faddr : Word
  cmds : List CopyCmd
  joins : List (BitVec 32)
  deriving DecidableEq, Repr

/-- A message: the sender's shape, its rows and scale bytes, and who sent it (R206, R207). -/
structure Message where
  rows : Nat
  cols : Nat
  width : Nat
  data : List Row2048
  scales : List Scale
  node : Nat
  sender : Nat
  deriving DecidableEq, Repr

/-- A receive slot (R206). -/
inductive RecvSlot where
  | empty
  | reserved (node sender : Nat)
  | full (m : Message)
  deriving DecidableEq, Repr

/-- What a context waits for. -/
inductive WaitKind where
  | lanes | order | mill | tend | tlbinv | iinv | dcwb | xwait | room | grant | recv | wake | cload
  deriving DecidableEq, Repr

/-- Where a byte lies, and how it is stored. -/
structure Place where
  loc : Nat
  key : Nat
  enc : Bool
  cls : WriteClass
  page : Option TlbEntry
  deriving DecidableEq, Repr

/-- The instruction a context waits in, the identifiers of each channel that it waits for, and the translation that an
atomic or a release store passed its checks with (R320, R361). -/
structure Wait where
  kind : WaitKind
  instr : Instr
  marks : List (Nat × BitVec 32)
  place : Option Place
  deriving DecidableEq, Repr

/-- The index group that a member of a convoy captured when the convoy issued, with the member's number: the rows and the
scale side stores of its registers (R80, R116, R164, R170, R233). -/
structure IndexGroup where
  member : Nat
  rows : List Row2048
  scales : List Scale
  deriving DecidableEq, Repr

/-- The settings that words of the vector queue read: of FPCTL, RQSHIFT, SCOFF, MROWS, MCOLS, MDEPTH and MCFG (R65, R354). -/
structure Settings where
  rm : BitVec 3
  ftz : Bool
  sat8 : Bool
  rqshift : BitVec 8
  scoff : Word
  rows : BitVec 7
  cols : BitVec 8
  depth : BitVec 12
  wide : Bool
  afmt : BitVec 2
  rev : BitVec 8
  deriving DecidableEq, Repr

/-- The convoy a context is executing: its words, where it starts, where fetch goes on, which member
is next, and the loop stack before its loop-end test (R67, R69). A bound convoy carries the scalar operands and the settings
that it read at issue (R65), and one that issues again after a fault the index groups it captured (R116, R164, R170). `passed` says that
its members have passed the checks of this issue, which are not made again while it executes (R294). -/
structure Convoy where
  start : Word
  words : List (BitVec 32)
  next : Word
  idx : Nat
  loops0 : List LoopEntry
  regs : Option (Vector Word 32)
  ctl : Option Settings
  index : List IndexGroup
  passed : Bool
  deriving DecidableEq, Repr

/-- A fault of a member in the vector queue that has not yet been taken (R218): the cause and its value, the
element at which it stopped, the fault record to write, and the faulting convoy, standing at that member. -/
structure QueueFault where
  cause : Nat
  tval : Word
  elem : Nat
  rcd : List Byte
  cvy : Convoy
  deriving DecidableEq, Repr

/-- A threshold that a VCAPP has crossed: whom to notify, the new tail, and the items that must be performed
first (R44). -/
structure Append where
  target : Nat
  tail : Word
  items : List Write
  deriving DecidableEq, Repr

/-- A read that the environment performed for a context before the instruction that makes it: its stream, its place, and
the bytes that its home held then (R178, R183, R184; log entry 68). -/
structure EarlyRead where
  strm : Nat
  loc : Nat
  key : Nat
  bytes : List Byte
  deriving DecidableEq, Repr

/-- The strip checkpoint (R78, R86, R128, R151, R196 engines, R247). -/
structure Checkpoint where
  mask : BitVec 33
  regs : Vector Word 32
  conds : BitVec 7
  loops : List LoopEntry
  vregs : Tab Row2048
  scales : Tab Scale
  vtype : VType
  vrows : Nat
  vcols : Nat
  fp : FpRegs
  mat : MatRegs
  resthr : BitVec 32
  ret : RetStore
  act : Bool
  uiepc : Word
  uicause : BitVec 8
  uival : Word
  shadow : Vector Word 8
  resume : Word
  deriving DecidableEq, Repr

/-- What the current strip has done that a rewind or a forced commit must know: whether it is forced, whether its boundary
instruction has still to retire, the errors pinned in it, slots claimed, slots that an MMA has read, the convoys of its MMAs that the checker may still find
wrong, the bound convoy issued last, registers with a version of their own,
versions captured, spares in use, and interrupts taken (R80, R81, R132, R133, R196 engines, R216, R244, R246). -/
structure Strip where
  forced : Bool
  unopened : Bool
  pinned : Nat
  claimed : List Nat
  readSlots : List Nat
  mmaPcs : List Word
  lastBound : Option Word
  renamed : List Nat
  captured : List Nat
  spares : Nat
  taken : List (Nat × Word)
  deriving DecidableEq, Repr

/-- The task a context holds in the mill's view (R35, R36). -/
structure HeldTask where
  launch : Nat
  rcd : Word
  prio : Nat
  weight : Nat
  deriving DecidableEq, Repr

/-- A task that was dispatched and has not started: its indices, number and start values (R32). -/
structure StartInfo where
  idx : List Nat
  seq : Nat
  entry : Word
  param : Word
  space : Space
  deriving DecidableEq, Repr

/-- A pre-emption notice that is outstanding on a context: the records it was made for, by launch and address,
and the convoys retired since (R225, R226). -/
structure NoticeMark where
  recs : List (Nat × Word)
  evict : Bool
  convoys : Nat
  deriving DecidableEq, Repr

/-- A cap that a notice lowered, until the mill writes it back: the priority the notice was made at, and the
context on which a task of the core was dispatched since (R228). -/
structure CapBack where
  prio : Nat
  on : Option Nat
  deriving DecidableEq, Repr

/-- A word that an L1 instruction cache or a fetch buffer holds, with the key index of its line (R153). -/
structure CodeWord where
  key : Nat
  word : BitVec 32
  deriving DecidableEq, Repr

/-- Traps and user interrupts that a context has taken since module reset: what the core's event counters of these
sources count (R290, R398). -/
structure Tally where
  userTraps : Nat
  supTraps : Nat
  interrupts : Nat
  deriving DecidableEq, Repr

/-- One hardware context (R13, R63 to R84). `queue` holds the convoys of the vector queue behind the one that faulted or
issues again (R218, R223), and `redump` those of the fault cocoon that waits. `pause` is the element before which the
environment interrupts the context's next VAMO (R188, R374), and `defer` holds the copy completions whose user interrupt is
still on its way (R188 engines, R403). `capWaited` says that the other context's wait lowered its lane cap
(R227), `capBack` that a notice did (R228), and `ended` that the mill has ended its task, whose accesses still
drain (R26). `rewaits` is where a WAIT stands in which the task was saved: it executes again before an
interrupt is taken (R389). -/
structure Context where
  regs : Vector Word 32
  conds : BitVec 7
  pc : Word
  sup : Bool
  cvy : Option Convoy
  wait : Option Wait
  stopped : Bool
  lanes : Nat
  vtype : VType
  vrows : Nat
  vcols : Nat
  vregs : Tab Row2048
  scales : Tab Scale
  vsElem : BitVec 17
  vsMember : BitVec 2
  fp : FpRegs
  mat : MatRegs
  mgCount : Nat
  mgFirst : Nat
  resthr : BitVec 32
  ckmask : BitVec 33
  loops : List LoopEntry
  ret : RetStore
  ui : UserInt
  trap : TrapRegs
  chans : Vector CopyChan 4
  recv : Vector RecvSlot 4
  space : Space
  taskseq : Word
  taskrec : Word
  cpol : BitVec 2
  adjV : BitVec 32
  adjM : BitVec 32
  cap : BitVec 5
  capWaited : Bool
  capBack : Option CapBack
  evict : Bool
  saveLen : BitVec 32
  saveKind : BitVec 4
  held : List Write
  pend : List Write
  appends : List Append
  strip : Strip
  ckpt : Checkpoint
  redump : List Convoy
  qfault : Option QueueFault
  queue : List Convoy
  early : List EarlyRead
  pause : Option Nat
  defer : Option (List Word)
  notice : Option NoticeMark
  wake : Bool
  task : Option HeldTask
  start : Option StartInfo
  saving : Bool
  ended : Bool
  rewaits : Option Word
  fetched : Tab (List CodeWord)
  tally : Tally
  deriving DecidableEq, Repr

/-! ### Cores, tiles, strings and dies -/

/-- Core state (R13, R83, R224, R242, R290). CYCLE is `cycle0` and the periods of the string's clock (R18); `seen` is what
each event counter of traps or user interrupts has counted so far (R290). -/
structure Core where
  preemptd : BitVec 5
  preemptwin : BitVec 16
  chkseed : BitVec 16
  cycle0 : Word
  evsel : Vector (BitVec 10) 8
  evcnt : Vector Word 8
  seen : Vector Nat 8
  icache : Tab (List CodeWord)
  deriving DecidableEq, Repr

/-- Who holds a band or a slot: a context, or a task whose state is parked, known by the context it was saved from, its
record, its number and its address space (R239). -/
inductive Holder where
  | ctx (n : Nat)
  | parked (from_ : Nat) (rcd seq : Word) (space : Space)
  deriving DecidableEq, Repr

/-- An operand slot (R125, R132). -/
structure Slot where
  holder : Option Holder
  released : Bool
  rows : Tab Row2048
  scales : Tab Scale
  tag : Option (BitVec 5)
  deriving DecidableEq, Repr

/-- The matrix unit of a tile: the holder of each band, the two copies of the accumulators (key
((band × 4 + set) × 64 + row) × 32 + column), and the slots (R125). -/
structure Tile where
  bands : Vector (Option Holder) 4
  working : Tab Word
  committed : Tab Word
  slots : Tab Slot
  deriving DecidableEq, Repr

/-- A string (R47 to R62, R285, R289); `clock` counts the periods of its clock (R18). -/
structure Str where
  pwr : Bool
  rdy : Bool
  hold : Bool
  step : Nat
  cap : Nat
  floor : Bool
  adjreq : BitVec 4
  clock : Nat
  evsel : Vector (BitVec 10) 8
  evcnt : Vector Word 8
  deriving DecidableEq, Repr

/-- A die (R285, R290). -/
structure Die where
  partsz : Nat
  evsel : Vector (BitVec 10) 16
  evcnt : Vector Word 16
  deriving DecidableEq, Repr

/-! ### The mill -/

/-- A launch (R21 to R28, R250 to R254). `pooled` says that its shadow pool has a directory (R251). -/
structure Launch where
  num : Nat
  master : Nat
  value : Word
  space : Space
  roots : List Word
  msix : Bool
  params : List Byte
  paramAddr : Word
  pool : Word
  poolLen : Word
  mask : BitVec 24
  ceiling : Nat
  word : Word
  replayable : Bool
  pooled : Bool
  replays : Nat
  tearing : Bool
  failed : Option Nat
  deriving DecidableEq, Repr

/-- A record the mill tracks (R29, R30, R34, R38, R39). `readyNo` is its place in the readiness order. -/
structure Rec where
  addr : Word
  launch : Nat
  wasReady : Bool
  readyNo : Option Nat
  entry : Word
  param : Word
  ext : List Nat
  order : BitVec 8
  blocking : List Nat
  prio : Nat
  cls : Nat
  lanes : Nat
  bands : Nat
  flags : BitVec 8
  saveBase : Word
  succCount : Nat
  succList : Word
  dispatched : Nat
  retired : Nat
  deriving DecidableEq, Repr

/-- A task that was saved and holds no context: by the save sequencer, or by CSAVE (R230, R231, R237), with the
space under which its cocoon was written. `flagged` are the offsets in the cocoon of scale bytes that carry the poison flag
(R257; log entry 88), and `inWait` says that the task waited in WAIT (R389). -/
structure SavedTask where
  ctx : Nat
  task : HeldTask
  seq : Word
  lanes : Nat
  space : Space
  whole : Bool
  flagged : List Nat
  inWait : Bool
  deriving DecidableEq, Repr

/-- A TEND retirement on its way to the mill (R38, R46). -/
structure EndMsg where
  ctx : Nat
  task : HeldTask
  deriving DecidableEq, Repr

/-- A part whose events reach the mill over a crossing of its own: a core, a tile or a string (R46). -/
inductive MillPart where
  | core (n : Nat)
  | tile (n : Nat)
  | string (n : Nat)
  deriving DecidableEq, Repr

/-- What has still to cross to the mill (R46): the lanes that the two contexts of a core hold and whether each is busy, the
free bands of a tile, or whether a string is powered and whether it takes tasks, as they stood when the message came onto the
crossing and as the mill sees them until it has passed; a wait of a context for lanes, with its shortfall; and a VREL of a context. -/
inductive LinkMsg where
  | core (n : Nat) (lanes0 lanes1 : Nat) (busy0 busy1 : Bool)
  | tile (n bands : Nat)
  | string (n : Nat) (powered takes : Bool)
  | wait (ctx short : Nat)
  | vrel (ctx : Nat)
  deriving DecidableEq, Repr

/-- The mill (R21, R24 to R46, R225 to R231). `links` holds what is on its way to it, oldest first (R46). -/
structure Mill where
  launches : List Launch
  recs : List Rec
  saved : List SavedTask
  ends : List EndMsg
  nextNum : Nat
  nextReady : Nat
  turns : Tab Nat
  links : List LinkMsg
  deriving DecidableEq, Repr

/-! ### The fabric -/

/-- A SEND grant request (R206): who asks, for which slot of which context. -/
structure GrantReq where
  node : Nat
  sender : Nat
  asid : BitVec 16
  sup : Bool
  dstNode : Nat
  dst : Nat
  tag : Nat
  deriving DecidableEq, Repr

/-- A message in flight, and the plane that it travels on (R205). -/
structure Flight where
  plane : Nat
  dstNode : Nat
  dst : Nat
  tag : Nat
  msg : Message
  deriving DecidableEq, Repr

/-- Planes, ports, the moult and messages (R197 to R213, R286). `dead` are the dead planes, `undealt`
those whose buckets no map has dealt yet; a moult is in progress while `undealt` is not zero. `returned` are grants that
were returned while the reservation they made lay in the cocoon of a saved task (R206). -/
structure Fabric where
  map : BitVec 128
  dead : BitVec 4
  undealt : BitVec 4
  portsDown : List Nat
  requests : List GrantReq
  waiting : List GrantReq
  replies : List (GrantReq × Bool)
  flights : List Flight
  returned : List GrantReq
  deriving DecidableEq, Repr

/-! ### The host block and memory -/

/-- A SPACE entry (R281). -/
structure SpaceEntry where
  ptroot : Word
  asid : Word
  keydef : Word
  valid : Bool
  deriving DecidableEq, Repr

/-- A master of the access tables (R155, R284): its kind is 0 for a device address space, 1 and 2 for the ports and 3 for the
management cores, and the node and ASID name a device address space. -/
structure Master where
  kind : Nat
  node : Nat
  asid : Nat
  deriving DecidableEq, Repr

/-- A move that the environment makes next: a context runs, an event comes about, or something reaches
the module from a peer node, a host or the physical world (log entry 10). -/
inductive Move where
  | run (ctx : Nat)
  | event (i : Instr)
  | deferNotify (ctx : Nat)
  | notify (ctx : Nat)
  | amoPause (ctx elem : Nat)
  | copyElement (ctx chan : Nat) (id : BitVec 32) (elem : Nat)
  | readEarly (ctx strm va bytes : Nat)
  | prefetch (ctx va : Nat)
  | endArrives (ctx : Nat)
  | millLags (part : MillPart)
  | millHears (part : MillPart)
  | adjunctRuns (ctx : Nat)
  | bar2size (log : Nat)
  | msixControl (port : Nat) (on allMasked : Bool)
  | msixVector (port vector : Nat) (masked : Bool)
  | lineCached (line slot : Nat)
  | lineEvicted (line : Nat)
  | peerRequest (r : GrantReq)
  | peerReply (r : GrantReq) (granted : Bool)
  | peerWithdraw (r : GrantReq)
  | peerMessage (f : Flight)
  | peerDelivered (idx : Nat)
  | peerWrite (by_ : Master) (node loc key : Nat) (bytes : List Byte)
  | peerKey (node slot : Nat) (keys : Option (BitVec 512))
  | peerTable (node target entry : Nat) (master range : Word)
  | coreRead (loc bytes : Nat)
  | registerWrite (master offset bytes : Nat) (value : Word)
  | bar2Read (offset bytes : Nat)
  | bar2Write (offset bytes : Nat) (value : Word)
  | busRead (master offset bytes : Nat)
  | busWrite (master offset bytes : Nat) (value : Word)
  deriving DecidableEq, Repr

/-- MSI-X of a port's function, as the host sets it through the PCIe capability: the enable, the mask of the function, and
the mask and the pending bit of each vector (R279; log entry 93). -/
structure MsiPort where
  on : Bool
  allMasked : Bool
  mask : BitVec 8
  pend : BitVec 8
  deriving DecidableEq, Repr

/-- The host block, boot and attestation (R276 to R290). Index m − 1 belongs to master m. `entry` holds the accesses that wait
at the ports until a moult or a migration is over (R211), and `msix` the vectors sent. -/
structure HostBlk where
  owner : Nat
  rej : Bool
  queues : Vector (List Word) 3
  ovf : Vector Bool 3
  bad : Vector Bool 3
  lbad : Vector Word 3
  clsw : Word
  bar2base : Word
  bar2size : Nat
  atflush : Bool
  migbase : Word
  miglen : BitVec 32
  scrubp : BitVec 32
  spaces : Tab SpaceEntry
  keydata : Vector Word 8
  nodeid : BitVec 10
  torus : BitVec 10
  moults : BitVec 32
  accepted : Bool
  bootst : BitVec 2
  booted : Bool
  meas : Vector (BitVec 256) 16
  measin : BitVec 256
  meascmd : BitVec 4
  nonce : BitVec 256
  qsel : BitVec 16
  qgo : Bool
  qsig : List Byte
  ports : Vector MsiPort 2
  msix : List (Nat × Nat)
  entry : List Move
  lastRead : Word
  deriving DecidableEq, Repr

/-- A page migration in progress: the leaf and where its page goes (R173). -/
structure Migration where
  entry : TlbEntry
  moves : Nat
  destNode : Nat
  destFrame : Nat
  deriving DecidableEq, Repr

/-- A line that a cache of its home holds as plain text under a key index, and the keys that its slot had when it was
emptied (R153, R285). -/
structure PlainLine where
  line : Nat
  slot : Nat
  was : Option (BitVec 512)
  deriving DecidableEq, Repr

/-- The state of the machine. `stale` holds, by place, the words that the home of a stored word may still deliver to a fetch,
since no DCWB has come after the store (R267 to R269). `tablesOld` holds the access tables as they were before an edit whose
entries have not all been invalidated (R156). -/
structure State where
  ctxs : Tab Context
  cur : Nat
  cores : Tab Core
  tiles : Tab Tile
  strs : Tab Str
  dies : Tab Die
  mill : Mill
  fab : Fabric
  host : HostBlk
  mem : List Host.Cell
  tlb : List TlbEntry
  keys : Tab (BitVec 512)
  tables : Tab Word
  tablesOld : Option (Tab Word)
  plain : List PlainLine
  poison : Tab (BitVec 128)
  stale : Tab (List CodeWord)
  patrol : List (Nat × Nat)
  pool : List Nat
  migration : Option Migration
  inputs : List Move
  fromContext : Bool
  tick : Nat
  deriving DecidableEq, Repr

/-! ### Reset -/

def VType.reset : VType := { ill := true, glog := 0, ta := false, ix := false, etype := 0 }

def FpRegs.reset : FpRegs :=
  { rm := 0, ftz := false, sat8 := false, flags := 0, seed := 1, rqshift := 0, scoff := 0 }

def MatRegs.reset : MatRegs :=
  { rows := 0, cols := 0, depth := 0, wide := false, afmt := 0, rev := 1, flags := 0 }

def RetStore.reset : RetStore := { entries := [], spilled := 0, spill := 0x007F00000003F000 }

def UserInt.reset : UserInt :=
  { vec := 0, cause := 0, epc := 0, val := 0, en := 0, pend := 0, act := false,
    held := Vector.replicate 4 0, shadow := Vector.replicate 8 0 }

def TrapRegs.reset : TrapRegs :=
  { vec := 0, cause := 0, epc := 0, val := 0, pp := false, cocoon := false, inh := false,
    wroteRec := false, task := false, frec := 0, pol := 3 }

def Space.reset : Space := { ptroot := 0, asid := 0, dkey := 0, ckey := 0 }

def CopyChan.reset : CopyChan :=
  { done := 0, next := 1, cause := 0, side := false, dlv := false, fid := 0, faddr := 0, cmds := [],
    joins := [] }

def Strip.reset : Strip :=
  { forced := false, unopened := false, pinned := 0, claimed := [], readSlots := [], mmaPcs := [], lastBound := none, renamed := [], captured := [],
    spares := 0, taken := [] }

def Checkpoint.reset : Checkpoint :=
  { mask := 0, regs := Vector.replicate 32 0, conds := 0, loops := [], vregs := [], scales := [],
    vtype := .reset, vrows := 0, vcols := 0, fp := .reset, mat := .reset, resthr := 0, ret := .reset,
    act := false, uiepc := 0, uicause := 0, uival := 0, shadow := Vector.replicate 8 0, resume := 0 }

def Tally.reset : Tally := { userTraps := 0, supTraps := 0, interrupts := 0 }

/-- A context right after module reset: it holds no task (R32, R83, R215, R224; log entry 2). -/
def Context.reset : Context :=
  { regs := Vector.replicate 32 0, conds := 0, pc := 0, sup := false, cvy := none, wait := none,
    stopped := false, lanes := 0, vtype := .reset, vrows := 0, vcols := 0, vregs := [], scales := [],
    vsElem := 0, vsMember := 0, fp := .reset, mat := .reset, mgCount := 0, mgFirst := 0, resthr := 0,
    ckmask := 0, loops := [], ret := .reset, ui := .reset, trap := .reset,
    chans := Vector.replicate 4 .reset, recv := Vector.replicate 4 .empty, space := .reset,
    taskseq := 0, taskrec := 0, cpol := 3, adjV := 0, adjM := 0, cap := 16, capWaited := false,
    capBack := none, evict := false,
    saveLen := 0, saveKind := 0, held := [], pend := [], appends := [], strip := .reset, ckpt := .reset,
    redump := [], qfault := none, queue := [], early := [], pause := none, defer := none, notice := none, wake := false, task := none, start := none, saving := false,
    ended := false, rewaits := none, fetched := [], tally := .reset }

/-- A core right after module reset (R224, R242; log entries 2, 3). -/
def Core.reset : Core :=
  { preemptd := 4, preemptwin := 4096, chkseed := 0xACE1, cycle0 := 0, evsel := Vector.replicate 8 0,
    evcnt := Vector.replicate 8 0, seen := Vector.replicate 8 0, icache := [] }

/-- An operand slot that no context holds; its contents are those of R132 (log entry 2). -/
def Slot.reset : Slot := { holder := none, released := false, rows := [], scales := [], tag := none }

def Tile.reset : Tile :=
  { bands := Vector.replicate 4 none, working := [], committed := [], slots := [] }

/-- A string right after module reset: power requested, not yet ready (R285, R287). -/
def Str.reset : Str :=
  { pwr := true, rdy := false, hold := false, step := 0, cap := 0, floor := false, adjreq := 0, clock := 0,
    evsel := Vector.replicate 8 0, evcnt := Vector.replicate 8 0 }

def Die.reset : Die :=
  { partsz := 0, evsel := Vector.replicate 16 0, evcnt := Vector.replicate 16 0 }

def Mill.reset : Mill :=
  { launches := [], recs := [], saved := [], ends := [], nextNum := 0, nextReady := 0, turns := [], links := [] }

/-- PLANEMAP's reset value maps bucket b to plane b mod 4 (R202). -/
def Fabric.reset : Fabric :=
  { map := 0xE4E4E4E4E4E4E4E4E4E4E4E4E4E4E4E4, dead := 0, undealt := 0, portsDown := [],
    requests := [], waiting := [], replies := [], flights := [], returned := [] }

/-- MSI-X of a port right after reset, as PCIe has it (log entry 93). -/
def MsiPort.reset : MsiPort := { on := false, allMasked := false, mask := 0xFF, pend := 0 }

/-- The host block right after module reset (R277, R281, R286, R288). -/
def HostBlk.reset : HostBlk :=
  { owner := 0, rej := false, queues := Vector.replicate 3 [], ovf := Vector.replicate 3 false,
    bad := Vector.replicate 3 false, lbad := Vector.replicate 3 0, clsw := 0x1010101008040201,
    bar2base := 0, bar2size := 30, atflush := false, migbase := 0, miglen := 0, scrubp := 86400,
    spaces := [], keydata := Vector.replicate 8 0, nodeid := 0, torus := 0, moults := 0,
    accepted := false, bootst := 0, booted := false, meas := Vector.replicate 16 0, measin := 0,
    meascmd := 0, nonce := 0, qsel := 0, qgo := false, qsig := [],
    ports := Vector.replicate 2 .reset, msix := [], entry := [], lastRead := 0 }

/-- The machine right after module reset: no task anywhere, memory with nothing listed. -/
def State.reset : State :=
  { ctxs := [], cur := 0, cores := [], tiles := [], strs := [], dies := [], mill := .reset,
    fab := .reset, host := .reset, mem := [], tlb := [], keys := [], tables := [], tablesOld := none, plain := [],
    poison := [], stale := [],
    patrol := [], pool := [], migration := none, inputs := [], fromContext := false, tick := 0 }

end Sys2Proof.Machine
end

