-- ==== Sys2Proof/Machine/Memory.lean ====
section
/-! DEFINITION. Sparse tables, the memory's canonical list of cells, the places of the address space
(R143, R146), and stored bytes under a key (R152, R153). -/

namespace Sys2Proof.Machine

/-! ### Sparse tables -/

/-- What a table holds at a key; `d` where it lists nothing. -/
def tabGet {α : Type} (d : α) : Tab α → Nat → α
  | [], _ => d
  | (k, v) :: t, i => if i = k then v else tabGet d t i

/-- Whether a table lists a key. -/
def tabFind {α : Type} : Tab α → Nat → Option α
  | [], _ => none
  | (k, v) :: t, i => if i = k then some v else tabFind t i

/-- A table with a key's value set; keys stay strictly rising. -/
def tabSet {α : Type} : Tab α → Nat → α → Tab α
  | [], i, x => [(i, x)]
  | (k, v) :: t, i, x =>
    if i < k then (i, x) :: (k, v) :: t
    else if i = k then (i, x) :: t
    else (k, v) :: tabSet t i x

/-- A table without a key. -/
def tabErase {α : Type} : Tab α → Nat → Tab α
  | [], _ => []
  | (k, v) :: t, i => if i = k then t else (k, v) :: tabErase t i

/-! ### Memory cells -/

/-- The byte an address reads as when nothing has been written there: 0 (log entry 1). -/
def unlistedByte : Byte := 0

/-- One byte of memory. -/
def memRead : List Host.Cell → Nat → Byte
  | [], _ => unlistedByte
  | (k, v) :: t, a => if a = k then v else memRead t a

/-- Memory without an address in its list. -/
def memErase : List Host.Cell → Nat → List Host.Cell
  | [], _ => []
  | (k, v) :: t, a => if a = k then t else (k, v) :: memErase t a

/-- Memory with an address listed. -/
def memInsert : List Host.Cell → Nat → Byte → List Host.Cell
  | [], a, b => [(a, b)]
  | (k, v) :: t, a, b =>
    if a < k then (a, b) :: (k, v) :: t
    else if a = k then (a, b) :: t
    else (k, v) :: memInsert t a b

/-- Memory with one byte written; writing what an unlisted address reads as removes the entry. -/
def memWrite (m : List Host.Cell) (a : Nat) (b : Byte) : List Host.Cell :=
  if b = unlistedByte then memErase m a else memInsert m a b

/-- Every address of the list is above `lo`, in rising order, and no byte is the unlisted one. -/
def memSorted : List Host.Cell → Bool
  | [] => true
  | [(_, v)] => v != unlistedByte
  | (k, v) :: (k', v') :: t => v != unlistedByte && decide (k < k') && memSorted ((k', v') :: t)

/-- The memory is in its canonical form. -/
def Memory.wf (m : List Host.Cell) : Bool := memSorted m

/-- n bytes of memory from an address upwards. -/
def memReadN (m : List Host.Cell) (a : Nat) : Nat → List Byte
  | 0 => []
  | n + 1 => memRead m a :: memReadN m (a + 1) n

/-- Bytes written from an address upwards. -/
def memWriteN : List Host.Cell → Nat → List Byte → List Host.Cell
  | m, _, [] => m
  | m, a, b :: bs => memWriteN (memWrite m a b) (a + 1) bs

/-- The number whose little-endian bytes these are (R3). -/
def bytesVal : List Byte → Nat
  | [] => 0
  | b :: bs => b.toNat + 256 * bytesVal bs

/-- The n little-endian bytes of a number (R3). -/
def valBytes : Nat → Nat → List Byte
  | 0, _ => []
  | n + 1, v => BitVec.ofNat 8 v :: valBytes n (v / 256)

/-! ### Places

A place is one number. Node n's physical address p is n · 2^44 + p; the SRAMs that the local windows reach
(R143) stand above: the TCM of a core, the scratchpad of a tile, the partition of a die. -/

def nodePlace (node pa : Nat) : Nat := node * 2 ^ 44 + pa
def tcmPlace (core off : Nat) : Nat := 2 ^ 54 + core * 2 ^ 18 + off
def padPlace (tile off : Nat) : Nat := 2 ^ 55 + tile * 2 ^ 21 + off
def partPlace (die off : Nat) : Nat := 2 ^ 56 + die * 2 ^ 26 + off

/-- The place is a byte of a local window. -/
def isLocalPlace (loc : Nat) : Bool := 2 ^ 54 ≤ loc

/-- The place is tile-carried for a context of this core and tile (R181). -/
def tileCarried (core tile loc : Nat) : Bool :=
  (tcmPlace core 0 ≤ loc && loc < tcmPlace core (2 ^ 18))
    || (padPlace tile 0 ≤ loc && loc < padPlace tile (2 ^ 21))

/-- The ranges of R146. -/
def inHbm (pa : Nat) : Bool := pa < 2 ^ 39
def inBulk (pa : Nat) : Bool := 2 ^ 40 ≤ pa && pa < 3 * 2 ^ 40
def inMmio (pa : Nat) : Bool := 0xF0000000000 ≤ pa && pa < 2 ^ 44

/-- The access table that covers a physical address: 0 to 7 HBM stacks, 8 and 9 bulk halves, 10 MMIO
(R155, R280). -/
def tableOf (pa : Nat) : Nat :=
  if pa < 2 ^ 39 then pa / 2 ^ 36 else if pa < 2 ^ 41 then 8 else if pa < 3 * 2 ^ 40 then 9 else 10

/-! ### Stored bytes under a key -/

/-- The data of a key slot of a node. -/
def slotKey (keys : Tab (BitVec 512)) (node slot : Nat) : BitVec 512 :=
  tabGet Config.emptySlotKey keys (node * 4096 + slot)

/-- The 48-bit tweak value of the line that holds a place: NODE and PA[43:6] (R152). -/
def lineTweak (loc : Nat) : Nat := loc / 64

/-- The node of a place of translated memory. -/
def placeNode (loc : Nat) : Nat := loc / 2 ^ 44

/-- The plain bytes of the line that holds a place, under a key index. -/
def plainLine (keys : Tab (BitVec 512)) (m : List Host.Cell) (loc key : Nat) : List Nat :=
  xtsDecryptLine (slotKey keys (placeNode loc) key) (lineTweak loc)
    ((memReadN m (loc / 64 * 64) 64).map BitVec.toNat)

/-- n bytes from a place, as the memory holds them or decrypted. They lie in one line. -/
def fetchBytes (keys : Tab (BitVec 512)) (m : List Host.Cell) (loc key : Nat) (enc : Bool) (n : Nat) : List Byte :=
  if enc then (((plainLine keys m loc key).drop (loc % 64)).take n).map (BitVec.ofNat 8)
  else memReadN m loc n

/-- Bytes put at a place, as they are or encrypted with the rest of their line. They lie in one line. -/
def putBytes (keys : Tab (BitVec 512)) (m : List Host.Cell) (loc key : Nat) (enc : Bool) (bs : List Byte) :
    List Host.Cell :=
  if enc then
    let line := plainLine keys m loc key
    let line' := line.take (loc % 64) ++ bs.map BitVec.toNat ++ line.drop (loc % 64 + bs.length)
    memWriteN m (loc / 64 * 64)
      ((xtsEncryptLine (slotKey keys (placeNode loc) key) (lineTweak loc) line').map (BitVec.ofNat 8))
  else memWriteN m loc bs

/-- A byte with one of its nibbles replaced by a code (R384). -/
def mergeNibble (hi : Bool) (old code : Byte) : Byte :=
  if hi then (old &&& 0x0F) ||| (code <<< 4) else (old &&& 0xF0) ||| (code &&& 0x0F)

/-- A write performed at its home. -/
def putWrite (keys : Tab (BitVec 512)) (m : List Host.Cell) (w : Write) : List Host.Cell :=
  putBytes keys m w.loc w.key w.enc (match w.nib with
    | none => w.bytes
    | some hi => List.zipWith (mergeNibble hi) (fetchBytes keys m w.loc w.key w.enc w.bytes.length) w.bytes)

/-- The nibbles of its line that a write of n bytes at a place rewrites, lowest first: a write of 4-bit elements names the low
or the high one of each byte (R384). -/
def nibblesOf (nib : Option Bool) (loc n : Nat) : BitVec 128 :=
  let each : Nat := match nib with
    | none => 3
    | some hi => if hi then 2 else 1
  BitVec.ofNat 128 ((List.range n).foldl (fun m i => m + each * 4 ^ (loc % 64 + i)) 0)

/-- Lines with stored poison, after n bytes at a place were rewritten: a line keeps its poison until every nibble of it has
been rewritten (R256). -/
def scrubPoison (p : Tab (BitVec 128)) (nib : Option Bool) (loc n : Nat) : Tab (BitVec 128) :=
  match tabFind p (loc / 64) with
  | none => p
  | some left =>
    let left' := left &&& ~~~(nibblesOf nib loc n)
    if left' = 0 then tabErase p (loc / 64) else tabSet p (loc / 64) left'

end Sys2Proof.Machine
end

