-- ==== Sys2Proof/Machine/Ops.lean ====
section
/-! DEFINITION. The named operations over the state: its parts, the scalar registers and condition bits
(R63), retirement of a convoy member, translation and the checks of R162, reads and writes through the
strip store buffer (R182, R189), the strip checkpoint and forced commits (R78, R81), and taking and
leaving a trap (R219, R223). -/

namespace Sys2Proof.Machine

/-! ### The parts of the module (R14) -/

def coreOf (c : Nat) : Nat := c / 2
def tileOf (c : Nat) : Nat := c / 8
def strOf (c : Nat) : Nat := c / 32
def dieOf (c : Nat) : Nat := c / 384
/-- The other context of the core. -/
def siblingOf (c : Nat) : Nat := if c % 2 = 0 then c + 1 else c - 1

def State.ctxAt (s : State) (c : Nat) : Context := tabGet .reset s.ctxs c
def State.setCtx (s : State) (c : Nat) (x : Context) : State := { s with ctxs := tabSet s.ctxs c x }
/-- The context whose move it is. -/
def State.cx (s : State) : Context := s.ctxAt s.cur
def State.setCx (s : State) (x : Context) : State := s.setCtx s.cur x
def State.coreAt (s : State) (n : Nat) : Core := tabGet .reset s.cores n
def State.setCore (s : State) (n : Nat) (x : Core) : State := { s with cores := tabSet s.cores n x }
def State.tileAt (s : State) (n : Nat) : Tile := tabGet .reset s.tiles n
def State.setTile (s : State) (n : Nat) (x : Tile) : State := { s with tiles := tabSet s.tiles n x }
def State.strAt (s : State) (n : Nat) : Str := tabGet .reset s.strs n
def State.setStr (s : State) (n : Nat) (x : Str) : State := { s with strs := tabSet s.strs n x }
def State.dieAt (s : State) (n : Nat) : Die := tabGet .reset s.dies n
def State.setDie (s : State) (n : Nat) (x : Die) : State := { s with dies := tabSet s.dies n x }

/-- The module's own node number (R286). -/
def State.node (s : State) : Nat := s.host.nodeid.toNat

/-- A node number that names a node (R197): each coordinate lies below its dimension. -/
def State.nodeExists (s : State) (n : Nat) : Bool :=
  let d := s.host.torus.toNat
  n < 1024 && n % 16 ≤ d % 16 && n / 16 % 8 ≤ d / 16 % 8 && n / 128 ≤ d / 128

/-- A free value, and the state whose counter has moved on (log entries 3, 4). -/
def State.draw (s : State) : Word × State := (Config.freeWord s.tick, { s with tick := s.tick + 1 })

/-- A change made with another context current: what an event does to its context. -/
def State.within (s : State) (c : Nat) (f : State → State) : State :=
  { f { s with cur := c } with cur := s.cur }

/-- Apply a change to the current context. -/
def State.mapCx (s : State) (f : Context → Context) : State := s.setCx (f s.cx)

/-! ### Scalar registers and condition bits (R63) -/

/-- A scalar register; s0 reads as zero. -/
def Context.reg (x : Context) (r : BitVec 5) : Word :=
  if r = 0 then 0 else x.regs[r.toNat]'(r.isLt)

/-- A scalar operand of a vector-queue member: the one that its convoy captured when it first issued, which no earlier
member changes (R65, R294), and the register where no convoy was captured. -/
def Context.src (x : Context) (r : BitVec 5) : Word :=
  match x.cvy with
  | some { regs := some rs, .. } => if r = 0 then 0 else rs[r.toNat]'(r.isLt)
  | _ => x.reg r

/-- The settings in force in program order. -/
def Context.settings (x : Context) : Settings :=
  { rm := x.fp.rm, ftz := x.fp.ftz, sat8 := x.fp.sat8, rqshift := x.fp.rqshift, scoff := x.fp.scoff, rows := x.mat.rows,
    cols := x.mat.cols, depth := x.mat.depth, wide := x.mat.wide, afmt := x.mat.afmt, rev := x.mat.rev }

/-- The settings that a vector-queue member reads: those that its convoy captured when it first issued, which no MTS behind it
changes (R65, R354), and the registers where no convoy was captured. -/
def Context.queueSettings (x : Context) : Settings := (x.cvy.bind (·.ctl)).getD x.settings

/-- The floating-point registers as a vector-queue member reads them: flags and generator are those in force. -/
def Context.qfp (x : Context) : FpRegs :=
  let k := x.queueSettings
  { x.fp with rm := k.rm, ftz := k.ftz, sat8 := k.sat8, rqshift := k.rqshift, scoff := k.scoff }

/-- The matrix registers as a vector-queue member reads them. -/
def Context.qmat (x : Context) : MatRegs :=
  let k := x.queueSettings
  { x.mat with rows := k.rows, cols := k.cols, depth := k.depth, wide := k.wide, afmt := k.afmt, rev := k.rev }

/-- A convoy enters the vector queue with the scalar operands and the settings that it reads now; one that issues again keeps
those of its first issue (R65). -/
def Context.captures (x : Context) (v : Convoy) : Convoy :=
  { v with regs := some (v.regs.getD x.regs), ctl := some (v.ctl.getD x.settings) }

/-- A scalar register written; a write to s0 is discarded. -/
def Context.setReg (x : Context) (r : BitVec 5) (v : Word) : Context :=
  if r = 0 then x
  else { x with regs := x.regs.set r.toNat v r.isLt }

/-- A condition bit; c7 reads as 1. -/
def Context.cond (x : Context) (n : BitVec 3) : Bool := n == 7 || x.conds.getLsbD n.toNat

/-- A condition bit written; a write to c7 is discarded. -/
def Context.setCond (x : Context) (n : BitVec 3) (v : Bool) : Context :=
  if n = 7 then x
  else { x with conds := (x.conds &&& ~~~(1#7 <<< n.toNat)) ||| ((if v then 1#7 else 0#7) <<< n.toNat) }

/-- The context belongs to a task, or a handler runs on it: it is not free to the mill (R223, R237). -/
def Context.busy (x : Context) : Bool := x.task.isSome || x.sup

/-- The context can issue a convoy: it is busy, and no double trap, end of its task, task start or wait holds it. A save
holds it at user level only: the handler of a trap taken in its drain runs (R240). -/
def Context.runs (x : Context) : Bool :=
  x.busy && !x.stopped && (x.sup || !x.saving) && !x.ended && x.start.isNone && x.wait.isNone

/-- The waits out of which a victim is saved at once (R226). -/
def WaitKind.savable : WaitKind → Bool
  | .wake | .xwait | .recv | .grant | .order | .lanes | .room => true
  | _ => false

/-- A victim of a notice is saved whole now, and neither issues nor goes on from its wait: it waits, or it stands at a
convoy boundary with its window used up (R226). -/
def saveDue (s : State) (c : Nat) : Bool :=
  let x := s.ctxAt c
  match x.notice with
  | none => false
  | some n =>
    x.task.isSome && x.start.isNone && !x.sup && !x.stopped && !x.saving && !x.ended && x.qfault.isNone
      && x.queue.isEmpty
      && match x.wait with
        | some w => w.kind.savable
        | none => x.cvy.isNone && (s.coreAt (coreOf c)).preemptwin.toNat ≤ n.convoys

/-- Contexts issue: no moult is in progress (R211) and no page migrates (R173). -/
def State.flows (s : State) : Bool := s.fab.undealt == 0 && s.migration.isNone

/-! ### Retirement -/

/-- The start of the convoy that is executing: TEPC of a precise trap (R216). -/
def Context.convoyStart (x : Context) : Word :=
  match x.cvy with
  | some v => v.start
  | none => x.pc

/-- Where fetch goes on after the convoy that is executing: its next sequential convoy, after the
loop-end test (R67, R69). -/
def Context.nextPc (x : Context) : Word :=
  match x.cvy with
  | some v => v.next
  | none => x.pc + 4

/-- The member index of the word that is executing. -/
def Context.member (x : Context) : Nat :=
  match x.cvy with
  | some v => v.idx
  | none => 0

/-- A convoy that retires at user level counts towards PREEMPTWIN while a notice stands (R226). -/
def Context.countConvoy (x : Context) : Context :=
  match x.notice with
  | some n => if x.sup then x else { x with notice := some { n with convoys := n.convoys + 1 } }
  | none => x

/-- The context leaves its convoy for another place: no member remains and it waits for nothing. -/
def Context.goto (x : Context) (pc : Word) : Context :=
  { x.countConvoy with pc := pc, cvy := none, wait := none }

/-- A scalar-class word retires: the PC becomes the next sequential convoy (R67, R69). -/
def Context.retire (x : Context) : Context := x.goto x.nextPc

/-- A chainable word retires. The last member of its convoy retires the convoy, and VSTART then reads 0
(R82, R115). -/
def Context.retireMember (x : Context) : Context :=
  match x.cvy with
  | some v =>
    if v.idx + 1 < v.words.length then { x with cvy := some { v with idx := v.idx + 1 } }
    else { x.goto v.next with vsElem := 0, vsMember := 0 }
  | none => { x.goto (x.pc + 4) with vsElem := 0, vsMember := 0 }

/-- The current context after a change of it and the retirement of its scalar-class word. -/
def State.retireWith (s : State) (f : Context → Context) : State := s.mapCx fun x => (f x).retire

/-! ### Translation (R141 to R146, R155 to R163) -/

/-- What an access does, for the checks of R162. An atomic is a write that also needs R. -/
inductive AccKind where
  | fetch | load | store | atomic
  deriving DecidableEq, Repr

/-- Who makes an access: its address space, its level, and its context (a number of 768 or more names
none: the mill, which reaches no local window). -/
structure Acc where
  space : Space
  sup : Bool
  ctx : Nat
  deriving DecidableEq, Repr

/-- An access of the current context, in its own space and at its own level. -/
def Context.acc (x : Context) (c : Nat) : Acc := { space := x.space, sup := x.sup, ctx := c }

def AccKind.isWrite : AccKind → Bool
  | .store | .atomic => true
  | _ => false

/-- The cause of steps 1 and 2 of R162. -/
def AccKind.noMap : AccKind → Nat
  | .fetch => 0x05
  | .load => 0x06
  | _ => 0x07

/-- The cause of steps 3, 5, 6 and 7 of R162. For a fetch that the access table refuses, R156 names 0x09 and the table of
R162 0x05: the model follows R162 (log entry 81). -/
def AccKind.denied : AccKind → Nat
  | .fetch => 0x05
  | _ => 0x09

/-- The place of an address of a local window (R143, R144). -/
def windowPlace (s : State) (c : Nat) (va : Nat) : Option Nat :=
  let off := va % 2 ^ 48
  if off < 2 ^ 18 then some (tcmPlace (coreOf c) off)
  else if 2 ^ 32 ≤ off && off < 2 ^ 32 + 2 ^ 21 then some (padPlace (tileOf c) (off - 2 ^ 32))
  else if 2 ^ 33 ≤ off && off < 2 ^ 33 + (s.dieAt (dieOf c)).partsz * 2 ^ 23 then
    some (partPlace (dieOf c) (off - 2 ^ 33))
  else if 2 ^ 36 ≤ off && off < 2 ^ 36 + 48 * 2 ^ 21 then
    some (padPlace (dieOf c * 48 + (off - 2 ^ 36) / 2 ^ 21) ((off - 2 ^ 36) % 2 ^ 21))
  else none

/-- Bit n of a number. -/
def bitOf (v n : Nat) : Bool := v / 2 ^ n % 2 == 1

/-- A page-table entry, read as a physical read of the own node under no key (R157). -/
def pteAt (s : State) (pa : Nat) : Nat := bytesVal (memReadN s.mem (nodePlace s.node pa) 8)

/-- Every byte of a leaf's page lies in ranges that hold nothing (R146, R159). -/
def pageEmpty (base size : Nat) : Bool :=
  if size ≤ 29 then !(inHbm base || inBulk base || inMmio base)
  else base / 2 ^ 42 == 1 || base / 2 ^ 42 == 2

/-- The TLB entry that a leaf gives, or none where R159 or R203 makes it invalid. A page with KEY = 0 is of HBM where its
base lies there: the entry holds one key index, also for a 4 TiB page that goes on into bulk DRAM (R152, R163; log
entry 79). -/
def leafEntry (s : State) (sp : Space) (va size pte leaf : Nat) : Option TlbEntry :=
  let frame := pte / 2 ^ 26 % 2 ^ 28
  let node := pte / 2 ^ 54
  let base := frame * 2 ^ 16
  let keyField := pte / 2 ^ 14 % 2 ^ 12
  if bitOf pte 2 && !bitOf pte 1 then none
  else if base % 2 ^ size ≠ 0 then none
  else if pageEmpty base size then none
  else if 4 < pte / 2 ^ 11 % 8 then none
  else if !s.nodeExists node then none
  else some
    { va := va / 2 ^ size * 2 ^ size, size := size, asid := sp.asid, glob := bitOf pte 5,
      leaf := nodePlace s.node leaf, node := node, frame := base,
      key := if keyField ≠ 0 then keyField else if inHbm base then 0 else sp.dkey.toNat,
      r := bitOf pte 1, w := bitOf pte 2, x := bitOf pte 3, u := bitOf pte 4, cow := bitOf pte 8,
      shd := bitOf pte 9, pin := bitOf pte 10, verdicts := [] }

/-- The walk from a table node, over the sizes of the levels that remain (R157, R159). -/
def walkFrom (s : State) (sp : Space) (va : Nat) : List Nat → Nat → Option TlbEntry
  | [], _ => none
  | size :: rest, base =>
    let leaf := base + 8 * (va / 2 ^ size % 8192)
    let pte := pteAt s leaf
    if !bitOf pte 0 then none
    else if bitOf pte 1 || bitOf pte 2 || bitOf pte 3 then leafEntry s sp va size pte leaf
    else if pte / 2 ^ 54 ≠ 0 || pte / 16 % 2 ^ 22 ≠ 0 || rest.isEmpty then none
    else
      let next := pte / 2 ^ 26 % 2 ^ 28 * 2 ^ 16
      if inHbm next then walkFrom s sp va rest next else none

/-- The walk from PTROOT, which must name HBM of the own node (R157). -/
def walk (s : State) (sp : Space) (va : Nat) : Option TlbEntry :=
  let root := sp.ptroot.toNat / 2 ^ 16 % 2 ^ 28 * 2 ^ 16
  if inHbm root then walkFrom s sp va [42, 29, 16] root else none

/-- A TLB entry serves an access: its page holds the address, and it is global or of the same ASID (R163). -/
def TlbEntry.serves (e : TlbEntry) (asid : BitVec 16) (va : Nat) : Bool :=
  va / 2 ^ e.size * 2 ^ e.size == e.va && (e.glob || e.asid == asid)

/-- An entry without its verdicts, to compare translations. -/
def TlbEntry.bare (e : TlbEntry) : TlbEntry := { e with verdicts := [], asid := 0 }

/-- The translation that an access uses: the walk's, or one that a TLB keeps; where they differ the
choice is free (R163; log entry 8). -/
def chooseEntry (s : State) (sp : Space) (va : Nat) : Option TlbEntry :=
  let fresh := walk s sp va
  let kept := s.tlb.filter (·.serves sp.asid va)
  if kept.all fun e => fresh.map TlbEntry.bare = some e.bare then
    match kept with
    | e :: _ => some e
    | [] => fresh
  else
    let cands := fresh :: kept.map some
    cands.getD (Config.pickTranslation (s.tick * 2 ^ 64 + va) % cands.length) fresh

/-- The frames, and the rights, of an access-table entry's second dword cover an access (R284). -/
def tableRight (hi : Nat) (frame : Nat) (write : Bool) : Bool :=
  hi % 2 ^ 28 ≤ frame && frame ≤ hi / 2 ^ 28 % 2 ^ 28 && bitOf hi (if write then 63 else 62)

/-- An access-table entry's first dword names a master: for a device address space its kind, node and
ASID, for the others the kind alone (R284). -/
def tableMaster (lo kind node asid : Nat) : Bool :=
  lo % 4 == kind && (kind ≠ 0 || (lo / 4 % 1024 == node && lo / 2 ^ 12 % 2 ^ 16 == asid))

/-- The key of dword d of entry i of the access table of target t of a node. -/
def tableKey (node t i d : Nat) : Nat := ((node * 11 + t) * 256 + i) * 2 + d

/-- The entries of a target's access table that name a master, as their second dwords; a dword that was never written
is zero. -/
def tableRows (tables : Tab Word) (tnode t kind node asid : Nat) : List Nat :=
  (tables.filter fun e => e.1 / 512 == tnode * 11 + t).filterMap fun e =>
    if e.1 % 2 = 1 then
      if tableMaster (tabGet 0 tables (e.1 - 1)).toNat kind node asid then some e.2.toNat else none
    else if (tabFind tables (e.1 + 1)).isNone && tableMaster e.2.toNat kind node asid then some 0
    else none

/-- The access tables of a target permit a device address space an access (R155, R284). -/
def tablesAllow (s : State) (tables : Tab Word) (tnode pa : Nat) (asid : BitVec 16) (write : Bool) : Bool :=
  (tableRows tables tnode (tableOf pa) 0 s.node asid.toNat).any fun hi => tableRight hi (pa / 2 ^ 16) write

/-- The rights of a device address space in the frames of a TLB entry's page. -/
def TlbEntry.rights (s : State) (tables : Tab Word) (e : TlbEntry) (asid : Nat) : List Nat :=
  (List.range 11).flatMap fun t => (tableRows tables e.node t 0 s.node asid).filter fun hi =>
    hi % 2 ^ 28 * 2 ^ 16 < e.frame + 2 ^ e.size && e.frame ≤ hi / 2 ^ 28 % 2 ^ 28 * 2 ^ 16

/-- An edit of the access tables affects a TLB entry: it holds a verdict that the edit may change (R156). -/
def TlbEntry.affected (s : State) (old : Tab Word) (e : TlbEntry) : Bool :=
  e.verdicts.any fun v => e.rights s old v.1 != e.rights s s.tables v.1

/-- An edit of the access tables is in effect once no TLB entry that it affects is left (R156; log entry 80). -/
def settleTables (s : State) : State :=
  match s.tablesOld with
  | none => s
  | some old => if s.tlb.any (·.affected s old) then s else { s with tablesOld := none }

/-- The tables that device code meets while TLB entries that an edit affects are left: those before the edit while SEMA's holder
still makes it, and then freely those or the edited ones, but never a mixture (R156, R284; log entry 80). -/
def State.tablesInForce (s : State) (pa : Nat) : Tab Word :=
  match s.tablesOld with
  | none => s.tables
  | some old =>
    if (s.host.atflush || s.host.owner = 0) && Config.pickTranslation (s.tick * 2 ^ 64 + pa) % 2 = 1 then s.tables
    else old

/-- The access table of a target permits a device address space an access (R155, R156). -/
def tableAllows (s : State) (tnode pa : Nat) (asid : BitVec 16) (write : Bool) : Bool :=
  tablesAllow s (s.tablesInForce pa) tnode pa asid write

/-- The verdict an access meets: the one kept with its TLB entry or the table's own, free where they
differ (R156; log entry 8). -/
def verdict (s : State) (e : TlbEntry) (asid : BitVec 16) (pa : Nat) (write : Bool) : Bool :=
  let now := tableAllows s e.node pa asid write
  match e.verdicts.find? (·.1 == asid.toNat) with
  | none => now
  | some (_, r, w) =>
    let old := if write then w else r
    if old == now then now
    else if Config.pickTranslation (s.tick * 2 ^ 64 + pa) % 2 = 0 then old else now

/-- Whether translated data at a physical address is stored encrypted under an index (R153). -/
def storedEncrypted (pa key : Nat) : Bool := !(inHbm pa && key == 0)

/-- The checks of R162 from step 2 on, for a byte of a translated page that is reached under a key index. Step 6 refuses
device code every frame of MMIO (R143, R155; log entry 17). -/
def checkUnder (s : State) (a : Acc) (k : AccKind) (e : TlbEntry) (key va : Nat) : Except Nat Place :=
  let pa := e.frame + va % 2 ^ e.size
  if !(inHbm pa || inBulk pa || inMmio pa) then .error k.noMap
  else if k = .fetch && e.node ≠ s.node then .error 0x05
  else if !a.sup && !e.u then .error k.denied
  else if k.isWrite && e.cow then .error 0x0A
  else if (k = .fetch && !e.x) || ((k = .load || k = .atomic) && !e.r) || (k.isWrite && !e.w) then
    .error k.denied
  else if inMmio pa then .error k.denied
  else if !((k.isWrite && k ≠ .atomic) || verdict s e a.space.asid pa false) then .error k.denied
  else if k.isWrite && !verdict s e a.space.asid pa true then .error k.denied
  else if (tabFind s.keys (e.node * 4096 + key)).isNone then .error k.denied
  else .ok
    { loc := nodePlace e.node pa, key := key, enc := storedEncrypted pa key,
      cls := if a.sup then .uncounted
             else if e.node = s.node && e.size = 16 && e.shd then .versioned else .unversioned,
      page := some e }

/-- The checks of R162 for one address: the place, or the cause. A cocoon is stored under an index of its own, whatever
the key of its page (R235). -/
def resolveUnder (index : Option Nat) (s : State) (a : Acc) (k : AccKind) (va : Nat) : Except Nat Place :=
  if 2 ^ 55 ≤ va then .error k.noMap
  else if va / 2 ^ 48 = 0x7F then
    if 768 ≤ a.ctx then .error k.noMap
    else match windowPlace s a.ctx va with
      | none => .error k.noMap
      | some loc =>
        if k = .fetch && tcmPlace 384 0 ≤ loc then .error 0x05
        else .ok { loc := loc, key := 0, enc := false, cls := .uncounted, page := none }
  else
    match chooseEntry s a.space va with
    | none => .error k.noMap
    | some e => checkUnder s a k e (index.getD e.key) va

/-- The checks of R162 for one address under its page's own key index. -/
def resolve (s : State) (a : Acc) (k : AccKind) (va : Nat) : Except Nat Place := resolveUnder none s a k va

/-- A TLB entry kept for later, with the verdict its ASID has met (R156, R163). Where an access table permits only some of
the frames of a 512 MiB or 4 TiB page, the verdict kept is that of the frame first accessed (log entry 95). -/
def keepEntry (s : State) (e : TlbEntry) (asid : BitVec 16) (pa : Nat) : State :=
  let v := (asid.toNat, tableAllows s e.node pa asid false, tableAllows s e.node pa asid true)
  let e' := if (e.verdicts.find? (·.1 == asid.toNat)).isSome then e else { e with verdicts := v :: e.verdicts }
  { s with tlb := e' :: s.tlb.filter (· ≠ e) }

/-- The A bit, and for a write the D bit, set in a leaf by an atomic at its home (R160). -/
def setAD (s : State) (leaf : Nat) (write : Bool) : State :=
  let old := memRead s.mem leaf
  { s with mem := memWrite s.mem leaf (old ||| (if write then 0xC0 else 0x40)) }

/-- The lines of plain text after an access to a line under a key index: one that was cached under another index is written
back and evicted first (R153). -/
def otherKey (p : List PlainLine) (loc key : Nat) : List PlainLine := p.filter fun l => l.line != loc / 64 || l.slot == key

/-- What an access that passed every check leaves in the translation hardware, the page table and the caches of the home
(R153, R160, R163). An access that fails one of steps 3 to 7 leaves no entry (log entry 95). -/
def touch (s : State) (a : Acc) (k : AccKind) (p : Place) : State :=
  match p.page with
  | none => s
  | some e =>
    keepEntry { setAD s e.leaf k.isWrite with plain := otherKey s.plain p.loc p.key } e a.space.asid (p.loc % 2 ^ 44)

/-! ### The context's view of memory (R178, R182, R189) -/

/-- A context's own writes that are not yet performed, oldest first. -/
def Context.ownWrites (x : Context) : List Write := x.pend ++ x.held

/-- Memory as a context sees the line of a place: its own writes come before they are performed. -/
def viewMem (s : State) (x : Context) (loc : Nat) : List Host.Cell :=
  (x.ownWrites.filter fun w => w.loc / 64 == loc / 64).foldl (putWrite s.keys) s.mem

/-- n bytes of one line as a context reads them. -/
def readPlace (s : State) (x : Context) (p : Place) (n : Nat) : List Byte :=
  fetchBytes s.keys (viewMem s x p.loc) p.loc p.key p.enc n

/-- A line holds stored poison (R255). -/
def State.poisoned (s : State) (loc : Nat) : Bool := (tabFind s.poison (loc / 64)).isSome

/-- A write at a resolved place, on a stream. -/
def Place.write (p : Place) (strm : Nat) (bs : List Byte) : Write :=
  { strm := strm, loose := false, loc := p.loc, key := p.key, enc := p.enc, bytes := bs, nib := none,
    pin := (p.page.map (·.pin)).getD false, cls := p.cls, acc := none }

/-- The bytes that a context's strip store buffer holds. -/
def Context.heldBytes (x : Context) : Nat := x.held.foldl (fun n w => n + w.bytes.length) 0

/-! ### Strip checkpoints and commits (R78, R81) -/

/-- The checkpoint of a context's state, resuming at an address (R78, R86, R128, R151, R247). -/
def Context.checkpoint (x : Context) (resume : Word) : Checkpoint :=
  { mask := x.ckmask, regs := x.regs, conds := x.conds, loops := x.loops, vregs := x.vregs,
    scales := x.scales, vtype := x.vtype, vrows := x.vrows, vcols := x.vcols, fp := x.fp, mat := x.mat,
    resthr := x.resthr, ret := x.ret, act := x.ui.act, uiepc := x.ui.epc, uicause := x.ui.cause,
    uival := x.ui.val, shadow := x.ui.shadow, resume := resume }

/-- The place of an accumulator entry in its tile's table (R125). -/
def accKey (band set row col : Nat) : Nat := ((band * 4 + set) * 64 + row) * 32 + col

/-- The bands of a tile that a holder has. -/
def Tile.bandsOf (t : Tile) (h : Holder) : List Nat :=
  (List.range 4).filter fun b => t.bands.toList.getD b none == some h

/-- The entries of a table whose key is of one of the bands, and the others. -/
def ofBands (bands : List Nat) (t : Tab Word) : Tab Word := t.filter fun e => bands.contains (e.1 / 8192)
def notOfBands (bands : List Nat) (t : Tab Word) : Tab Word := t.filter fun e => !bands.contains (e.1 / 8192)

/-- One table's entries of some bands put in place of another's. -/
def copyBands (bands : List Nat) (src dst : Tab Word) : Tab Word :=
  (ofBands bands src).foldl (fun t e => tabSet t e.1 e.2) (notOfBands bands dst)

/-- The working copies of a context's accumulators become the committed ones (R78 step 3, R136). -/
def commitAccumulators (s : State) (c : Nat) : State :=
  let t := s.tileAt (tileOf c)
  let bs := t.bandsOf (.ctx c)
  if bs.isEmpty then s
  else s.setTile (tileOf c) { t with committed := copyBands bs t.working t.committed }

/-- The held writes are committed: they will be performed in stream order (R78 step 2, R189). -/
def Context.commitStores (x : Context) : Context := { x with pend := x.pend ++ x.held, held := [] }

/-- An early commit of the current context's strip, which marks it forced (R81, R189). The slots that an MMA has read are
forgotten: an MLDB over one of them does not commit again (R133; log entry 82). -/
def forceCommit (s : State) : State :=
  (commitAccumulators s s.cur).mapCx fun x =>
    let x := x.commitStores
    { x with
      strip := { x.strip with
        forced := true, renamed := [], captured := [], spares := 0, readSlots := [], mmaPcs := [] }
      ckpt := x.checkpoint x.convoyStart }

/-- A write joins the strip store buffer. The strip is committed early where the buffer lacks room for the write,
and when it reaches 128 KiB of held bytes (R189, R360). -/
def holdWrite (s : State) (w : Write) : State :=
  let s := if 131072 < s.cx.heldBytes + w.bytes.length then forceCommit s else s
  let s := s.mapCx fun x => { x with held := x.held ++ [w] }
  if 131072 ≤ s.cx.heldBytes then forceCommit s else s

/-! ### Taking a trap (R216 to R220) -/

/-- A trap to be taken: its cause, its value, and whether it is queued. -/
structure Trap where
  cause : Nat
  tval : Word
  queued : Bool
  deriving DecidableEq, Repr

/-- A trap raised at issue. -/
def Trap.issue (cause : Nat) (tval : Word) : Trap := { cause := cause, tval := tval, queued := false }

/-- The context stops: no register changes (R220). -/
def doubleTrap (s : State) : State := s.mapCx fun x => { x with stopped := true }

/-- A write performed at its home at once. -/
def performAt (s : State) (w : Write) : State :=
  { s with
    mem := putWrite s.keys s.mem w, poison := scrubPoison s.poison w.nib w.loc w.bytes.length
    plain := otherKey s.plain w.loc w.key }

/-- Bytes cut so that no piece crosses a line: (offset, bytes) pairs from an address. -/
def cutLines (fuel va : Nat) (bs : List Byte) : List (Nat × List Byte) :=
  match fuel with
  | 0 => []
  | n + 1 =>
    if bs.isEmpty then []
    else
      let k := 64 - va % 64
      (va, bs.take k) :: cutLines n (va + k) (bs.drop k)

/-- The pieces of a block of bytes at an address. -/
def pieces (va : Nat) (bs : List Byte) : List (Nat × List Byte) := cutLines (bs.length / 64 + 2) va bs

/-- The places of a block of bytes for an access, or the cause and address of the first that fails.
With a key, the slot of that key is the one tested (R235). -/
def resolveBlock (s : State) (a : Acc) (k : AccKind) (key : Option Nat) :
    List (Nat × List Byte) → Except (Nat × Nat) (List (Place × List Byte))
  | [] => .ok []
  | (va, bs) :: rest =>
    match resolveUnder key s a k va with
    | .error e => .error (e, va)
    | .ok p =>
      match resolveBlock s a k key rest with
      | .error e => .error e
      | .ok ps => .ok ((p, bs) :: ps)

/-- A block of bytes written at supervisor level and performed at once, or none where a check of R162
fails (R229, R235). -/
def writeBlock (s : State) (a : Acc) (key : Option Nat) (va : Nat) (bs : List Byte) : Option State :=
  match resolveBlock s a .store key (pieces va bs) with
  | .error _ => none
  | .ok ps => some (ps.foldl (fun s e => performAt (touch s a .store e.1) (e.1.write 0 e.2)) s)

/-- A block of bytes read, or the cause and address of the first that fails. -/
def readBlock (s : State) (a : Acc) (key : Option Nat) (va n : Nat) : Except (Nat × Nat) (List Byte) :=
  match resolveBlock s a .load key (pieces va (List.replicate n 0)) with
  | .error e => .error e
  | .ok ps => .ok (ps.flatMap fun e => fetchBytes s.keys s.mem e.1.loc e.1.key e.1.enc e.2.length)

/-- What an access to a block that passed every check leaves in the translation hardware and the page table (R160). -/
def touchBlock (s : State) (a : Acc) (k : AccKind) (key : Option Nat) (va n : Nat) : State :=
  match resolveBlock s a k key (pieces va (List.replicate n 0)) with
  | .error _ => s
  | .ok ps => ps.foldl (fun s e => touch s a k e.1) s

/-! ### Registers as groups (R73, R74) -/

/-- G, the registers of a group. -/
def Context.group (x : Context) : Nat := 2 ^ x.vtype.glog.toNat
/-- The group rows in shape. -/
def Context.grows (x : Context) : Nat := x.group * x.vrows

/-- A row whose lane is not held reads as all ones (R73). -/
def deadRow : Row2048 := BitVec.allOnes 2048

/-- Row `row` of register `n`. -/
def Context.vrow (x : Context) (n row : Nat) : Nat :=
  if row < 2 * x.lanes then (tabGet deadRow x.vregs (n * 32 + row)).toNat else deadRow.toNat

/-- The register and row of group row r of the group at `base` (R74). -/
def Context.groupRow (x : Context) (base r : Nat) : Nat := x.vrow (base + r / x.vrows) (r % x.vrows)

/-- The registers of the group at vd. -/
def Context.groupRegs (x : Context) (vd : Nat) : List Nat := (List.range x.group).map (vd + ·)

/-! ### The vector queue -/

/-- The convoys that the vector queue of this part holds at most (log entry 11). -/
def queueDepth : Nat := 16

/-- Zero bytes. -/
def zeros (n : Nat) : List Byte := List.replicate n 0

/-- The settings of a convoy as two dwords of a dump. -/
def settingsBytes (k : Settings) : List Byte :=
  valBytes 1 (k.rm.toNat + k.ftz.toNat * 8 + k.sat8.toNat * 16) ++ valBytes 1 k.rqshift.toNat ++ valBytes 1 k.rows.toNat
    ++ valBytes 1 k.cols.toNat ++ valBytes 2 k.depth.toNat ++ valBytes 2 (k.wide.toNat + k.afmt.toNat * 2 + k.rev.toNat * 256)
    ++ valBytes 8 k.scoff.toNat

/-- The settings that two dwords hold. -/
def settingsOf (bs : List Byte) : Settings :=
  let v (off n : Nat) : Nat := bytesVal ((bs.drop off).take n)
  { rm := BitVec.ofNat 3 (v 0 1), ftz := bitOf (v 0 1) 3, sat8 := bitOf (v 0 1) 4, rqshift := BitVec.ofNat 8 (v 1 1),
    rows := BitVec.ofNat 7 (v 2 1), cols := BitVec.ofNat 8 (v 3 1), depth := BitVec.ofNat 12 (v 4 2),
    wide := bitOf (v 6 2) 0, afmt := BitVec.ofNat 2 (v 6 2 / 2), rev := BitVec.ofNat 8 (v 6 2 / 256), scoff := BitVec.ofNat 64 (v 8 8) }

/-- The settings of a convoy that captured none, which no queue holds. -/
def Settings.none : Settings :=
  { rm := 0, ftz := false, sat8 := false, rqshift := 0, scoff := 0, rows := 0, cols := 0, depth := 0, wide := false, afmt := 0,
    rev := 0 }

/-- One convoy of a queue dump of this part, which is opaque to software (R233; log entry 15): 384 bytes with its length
in words, how far it is, where it starts, where fetch goes on, its words, its captured scalar operands and settings, and the
loop stack. -/
def dumpBytes (v : Convoy) : List Byte :=
  valBytes 4 0x50504D55 ++ valBytes 1 v.words.length ++ valBytes 1 v.idx ++ valBytes 2 v.loops0.length
    ++ valBytes 8 v.start.toNat ++ valBytes 8 v.next.toNat
    ++ ((List.range 4).flatMap fun i => valBytes 4 ((v.words.getD i 0).toNat))
    ++ (((v.regs.getD (Vector.replicate 32 0)).toList.drop 1).flatMap fun r => valBytes 8 r.toNat)
    ++ settingsBytes (v.ctl.getD .none)
    ++ ((v.loops0.flatMap fun l =>
      valBytes 8 l.start.toNat ++ valBytes 8 l.stop.toNat ++ valBytes 8 l.remaining.toNat) ++ zeros 80).take 80

/-- A dword of a queue dump. -/
def dumpWord (bs : List Byte) (off : Nat) : Word := BitVec.ofNat 64 (bytesVal ((bs.drop off).take 8))

/-- The convoy that one entry of a queue dump holds, or none where it is no dump of this part. Its captured index
groups are the context's own (R164). -/
def readConvoy (bs : List Byte) (index : List IndexGroup) : Option Convoy :=
  let byte (off n : Nat) : Nat := bytesVal ((bs.drop off).take n)
  let n := byte 4 1
  if byte 0 4 ≠ 0x50504D55 || n = 0 || 4 < n || 3 < byte 6 2 || n ≤ byte 5 1 then none
  else some
    { start := dumpWord bs 8, next := dumpWord bs 16, idx := byte 5 1,
      words := (List.range n).map fun i => BitVec.ofNat 32 (byte (24 + 4 * i) 4),
      regs := some (Vector.ofFn fun i : Fin 32 => if i.val = 0 then 0 else dumpWord bs (32 + 8 * i.val)),
      ctl := some (settingsOf (bs.drop 288)),
      loops0 := (List.range (byte 6 2)).map fun i =>
        { start := dumpWord bs (304 + 24 * i), stop := dumpWord bs (312 + 24 * i),
          remaining := dumpWord bs (320 + 24 * i) },
      index := index, passed := false }

/-- The convoys of a queue dump of n entries, each with its captured index groups, or none where one of them is no dump of
this part. -/
def readDump (bs : List Byte) (index : List (List IndexGroup)) : Nat → Option (List Convoy)
  | 0 => some []
  | n + 1 =>
    match readConvoy bs (index.headD []), readDump (bs.drop 384) index.tail n with
    | some v, some vs => some (v :: vs)
    | _, _ => none

/-- VTYPE as a register (R75). -/
def VType.word (t : VType) : Word :=
  BitVec.ofNat 64 (t.ill.toNat + t.glog.toNat * 2 + t.ta.toNat * 8 + t.ix.toNat * 16 + t.etype.toNat * 256)

/-- VSTART as a register (R82). -/
def Context.vstartWord (x : Context) : Word :=
  BitVec.ofNat 64 (x.vsElem.toNat + x.vsMember.toNat * 2 ^ 32)

/-- The 256-byte header of a cocoon (R232). `kind` is 0 fault, 1 whole save, 2 CSAVE. -/
def cocoonHeader (x : Context) (c : Nat) (kind features length live : Nat) (pc : Word) (parked : Bool)
    (queue slots : Nat) : List Byte :=
  let recvCode : RecvSlot → Nat
    | .empty => 0
    | .reserved _ _ => 1
    | .full _ => 2
  let loopBytes := x.loops.flatMap fun l =>
    valBytes 8 (l.start.toNat / 4 % 2 ^ 53 + (l.stop.toNat - l.start.toNat + 4) / 4 % 1024 * 2 ^ 53)
      ++ valBytes 8 l.remaining.toNat
  let stored := x.ret.entries.reverse.flatMap fun r => valBytes 8 r.toNat
  valBytes 4 0x4E434F43 ++ [1] ++ valBytes 1 kind ++ valBytes 2 c ++ valBytes 8 features
    ++ valBytes 4 length ++ valBytes 4 live ++ valBytes 8 x.vtype.word.toNat ++ valBytes 8 x.vstartWord.toNat
    ++ valBytes 8 pc.toNat ++ valBytes 1 x.vrows ++ valBytes 1 x.lanes ++ valBytes 2 x.vcols
    ++ valBytes 1 (2 ^ x.vtype.glog.toNat) ++ valBytes 1 x.loops.length ++ valBytes 1 x.ret.entries.length
    ++ valBytes 1 queue ++ valBytes 4 x.ret.spilled.toNat
    ++ valBytes 1 (x.mgCount + x.mgFirst * 16 + (if parked then 128 else 0)) ++ valBytes 1 (tileOf c)
    ++ valBytes 2 ((x.recv.toList.map recvCode).foldr (fun v a => v + 4 * a) 0) ++ valBytes 8 slots
    ++ (loopBytes ++ zeros 48).take 48 ++ valBytes 8 x.ret.spill.toNat ++ (stored ++ zeros 128).take 128

/-- The operand slots of a context's tile that it holds, as the mask of R232. -/
def heldSlots (s : State) (c : Nat) : Nat :=
  (s.tileAt (tileOf c)).slots.foldl (fun m e => if e.2.holder = some (.ctx c) then m + 2 ^ e.1 else m) 0

/-- The save sequencer's accesses are at supervisor level in the context's space (R229). -/
def Context.saverAcc (x : Context) (c : Nat) : Acc := { space := x.space, sup := true, ctx := c }

/-- The fault cocoon of kind 0: the header and the queue dump, from the faulting convoy to the youngest (R218, R219). -/
def faultCocoon (s : State) (x : Context) (c : Nat) (epc : Word) (dump : List Convoy) : List Byte :=
  let d := dump.flatMap dumpBytes
  cocoonHeader x c 0 (if dump.isEmpty then 0 else 8) (256 + d.length) 0 epc false dump.length (heldSlots s c) ++ d

/-- A trap taken at a level is counted (R290). -/
def Tally.trap (t : Tally) (sup : Bool) : Tally :=
  if sup then { t with supTraps := t.supTraps + 1 } else { t with userTraps := t.userTraps + 1 }

/-- What a queued trap writes before its handler: the fault record that a trap 0x08 has, and then the fault cocoon (R167,
R219). The state after what could be written, and whether all of it was. -/
def writeFault (s : State) (epc : Word) (rcd : List Byte) (dump : List Convoy) : State × Bool :=
  let x := s.cx
  let a := x.saverAcc s.cur
  match (if rcd.isEmpty then some s else writeBlock s a none x.trap.frec.toNat rcd) with
  | none => (s, false)
  | some s1 =>
    match writeBlock s1 a (some x.space.ckey.toNat) (x.trap.frec.toNat + 0x2400) (faultCocoon s1 x s.cur epc dump) with
    | none => (s1, false)
    | some s2 => (s2, true)

/-- The registers of trap entry (R219). The policy of the task is kept apart when a trap leaves user level (R57; log entry
78). -/
def enterTrap (t : Trap) (epc : Word) (recorded : Bool) (dump : List Convoy) (y : Context) : Context :=
  { y with
    trap := { y.trap with
      pp := y.sup, inh := true, wroteRec := recorded && t.queued,
      cocoon := y.trap.cocoon || t.queued,
      cause := BitVec.ofNat 8 t.cause, epc := epc &&& 0x007FFFFFFFFFFFFC, val := t.tval,
      pol := if y.sup then y.trap.pol else y.cpol }
    sup := true
    pc := y.trap.vec
    cvy := none
    wait := none
    strip := { y.strip with forced := true }
    tally := y.tally.trap y.sup
    queue := []
    redump := if t.queued then dump else y.redump }

/-- Trap entry (R219): `rcd` is the fault record that a trap 0x08 writes, `epc` what TEPC receives, `dump` the convoys of
the vector queue. A trap with inh set, a queued trap with a cocoon waiting, or a record or cocoon that cannot be written is
a double trap; a record that was written before the cocoon failed stays. The record and the cocoon are written at once, also
where no plane is live (R210; log entry 83). -/
def takeTrapAt (s : State) (t : Trap) (epc : Word) (rcd : List Byte) (dump : List Convoy) : State :=
  if s.cx.trap.inh || (t.queued && s.cx.trap.cocoon) then doubleTrap s
  else
    let w := if t.queued then writeFault s epc rcd dump else (s, true)
    if w.2 then w.1.mapCx (enterTrap t epc (!rcd.isEmpty) dump) else doubleTrap w.1

/-- A precise trap of the convoy that is executing: TEPC is its start, and the loop stack is as it was
before its loop-end test (R216, R217, R294). Convoys that ERET reloaded behind it are not held further: they are fetched
again from there (log entry 15). -/
def takeTrap (s : State) (t : Trap) : State :=
  let x := s.cx
  let s := match x.cvy with
    | some v => s.setCx { x with loops := v.loops0 }
    | none => s
  takeTrapAt s t x.convoyStart [] []

/-- The scale side stores of the registers of a word's index group, whose number is in bits 14:10 (R233, R371). -/
def Context.indexScales (x : Context) (word : BitVec 32) : List Scale :=
  (List.range (64 * x.group)).map fun j => tabGet (0xFF : Scale) x.scales (word.toNat / 1024 % 32 * 64 + j)

/-- The index group that a member of a convoy captured: it keeps the one of its first issue. -/
def Context.captureGroup (x : Context) (v : Convoy) (word : BitVec 32) (rows : List Row2048) : List IndexGroup :=
  if v.index.any (·.member == v.idx) then v.index
  else v.index ++ [{ member := v.idx, rows := rows, scales := x.indexScales word }]

/-- The convoy that is executing, as the vector queue holds it when a member of it faults: with its
scalar operands, and the index group the member captured (R116, R170, R218). -/
def Context.queuedConvoy (x : Context) (word : BitVec 32) (index : Option (List Row2048)) : Convoy :=
  let v := x.cvy.getD { start := x.pc, words := [word], next := x.pc + 4, idx := 0, loops0 := x.loops,
                        regs := none, ctl := none, index := [], passed := true }
  { x.captures v with
    index := match index with
      | none => v.index
      | some rows => x.captureGroup v word rows }

/-- A word takes its addresses from an index group: VGATHER, VSCATTER or VAMO (R308, R309). -/
def takesIndex (w : BitVec 32) : Bool :=
  let major := w.toNat / 2 ^ 25 % 64
  ((major == 0x1B || major == 0x1C) && w.toNat % 32 == 8) || (major == 0x1D && w.toNat % 32 ≤ 7)

/-- A word may write the vector registers that its bits 24:20 name: not a store, and of the matrix words MDRAIN alone. -/
def writesGroup (w : BitVec 32) : Bool :=
  let major := w.toNat / 2 ^ 25 % 64
  major != 0x1C && (major != 0x20 || w.toNat / 64 % 16 == 7)

/-- The index groups of the members of a convoy from a number on, where no member before them that has still to run may write
their registers, and the registers that these may write. -/
def Context.captureMembers (x : Context) :
    List (BitVec 32) → Nat → List Nat → List IndexGroup → List IndexGroup × List Nat
  | [], _, written, gs => (gs, written)
  | w :: ws, j, written, gs =>
    let b := w.toNat / 1024 % 32
    let new := takesIndex w && !gs.any (·.member == j) && !(x.groupRegs b).any written.contains
    let rows := (List.range x.grows).map fun r => BitVec.ofNat 2048 (x.groupRow b r)
    let gs := if new then gs ++ [{ member := j, rows := rows, scales := x.indexScales w }] else gs
    x.captureMembers ws (j + 1) (if writesGroup w then written ++ x.groupRegs (w.toNat / 2 ^ 20 % 32) else written) gs

/-- The convoys of the queue with the index groups that they captured when they issued: a later write to such a group, a
handler's too, changes no address (R164, R170). -/
def Context.captureQueue (x : Context) : List Nat → List Convoy → List Convoy
  | _, [] => []
  | written, v :: vs =>
    let r := x.captureMembers (v.words.drop v.idx) v.idx written v.index
    { v with index := r.1 } :: x.captureQueue r.2 vs

/-- A member faults in the vector queue: its convoy stays there until the trap is taken, and the scalar unit may go on
behind it (R65, R218). -/
def raiseQueued (s : State) (cause : Nat) (tval : Word) (word : BitVec 32) (elem : Nat)
    (index : Option (List Row2048)) (rcd : List Byte) : State :=
  s.mapCx fun x =>
    let v := x.queuedConvoy word index
    { x with qfault := some { cause, tval, elem, rcd, cvy := v }, pc := v.next, cvy := none, wait := none }

/-- The words hold a vector-class or matrix word: VSTART binds their convoy (R82), and it enters the vector queue (R65). -/
def isBound (ws : List (BitVec 32)) : Bool := ws.any chainable

/-- The convoy that is executing has entered the vector queue, again after a fault. -/
def Context.inQueue (x : Context) : Option Convoy :=
  match x.cvy with
  | some v => if isBound v.words then some (x.captures v) else none
  | none => none

/-- The vector queue: a convoy that faulted or issues again, and those behind it. -/
def Context.queued (x : Context) : List Convoy :=
  match x.qfault with
  | some f => f.cvy :: x.queue
  | none =>
    match x.inQueue with
    | some v => v :: x.queue
    | none => x.queue

/-- VSTART names the place where a convoy that is executing has come: its members below that one are complete, and must do
nothing when it issues again (R116). -/
def Context.standAt (x : Context) (v : Convoy) : Context :=
  { x with
    vsElem := if v.idx = x.vsMember.toNat then x.vsElem else 0
    vsMember := BitVec.ofNat 2 v.idx }

/-- The context as a queued trap finds it: VSTART names the place of restart of the convoy that has faulted or stands in
the queue, and a scalar-class convoy that waits counts as not issued (R116, R216, R386). -/
def Context.stopQueue (x : Context) : Context :=
  let x := match x.cvy with
    | some v =>
      if isBound v.words then { x.standAt v with pc := v.next } else { x with pc := v.start, loops := v.loops0 }
    | none => x
  let x := { x with cvy := none, wait := none }
  match x.qfault with
  | some f => { x with vsElem := BitVec.ofNat 17 f.elem, vsMember := BitVec.ofNat 2 f.cvy.idx, qfault := none }
  | none => x

/-- A queued trap is taken: the queue is dumped, and TEPC is the oldest convoy that the scalar unit has not issued
(R216, R218). In a double trap no register changes (R220). -/
def takeQueuedTrap (s : State) (cause : Nat) (tval : Word) (rcd : List Byte) : State :=
  let x := s.cx
  let y := x.stopQueue
  let t := takeTrapAt (s.setCx y) { cause := cause, tval := tval, queued := true } y.pc rcd (x.captureQueue [] x.queued)
  if t.cx.stopped then doubleTrap (t.setCx { x with qfault := none }) else t

/-- The fault of a member is taken (R116, R218). -/
def takeQueued (s : State) (f : QueueFault) : State := takeQueuedTrap s f.cause f.tval f.rcd

/-! ### Returning from a trap (R223) -/

/-- The bytes begin as a fault cocoon does: its magic, format 1 and kind 0 (R232). -/
def isFaultCocoon (bs : List Byte) : Bool := bytesVal (bs.take 6) == 0x00014E434F43

/-- The index groups that the convoys of the dump that waits had captured (R164, R170). -/
def Context.dumpedGroups (x : Context) : List (List IndexGroup) := x.redump.map (·.index)

/-- The number of bytes of the cocoon at TFREC, which its header gives: the header and the dump behind it (R232, R233). -/
def dumpLength (s : State) : Except (Nat × Nat) (List Byte × Nat) :=
  let x := s.cx
  match readBlock s (x.saverAcc s.cur) (some x.space.ckey.toNat) (x.trap.frec.toNat + 0x2400) 256 with
  | .error e => .error e
  | .ok h => .ok (h, if isFaultCocoon h then min (bytesVal ((h.drop 0x37).take 1)) queueDepth else 0)

/-- The bytes of the queue dump of n convoys in the cocoon at TFREC. -/
def dumpAt (s : State) (n : Nat) : Except (Nat × Nat) (List Byte) :=
  let x := s.cx
  readBlock s (x.saverAcc s.cur) (some x.space.ckey.toNat) (x.trap.frec.toNat + 0x2500) (384 * n)

/-- The queue dump of the cocoon that waits at TFREC, or none where it cannot be read as one (R223; log entry 15). -/
def reloadDump (s : State) : Option (List Convoy) :=
  match dumpLength s with
  | .error _ => none
  | .ok (h, n) =>
    if !isFaultCocoon h then none
    else match dumpAt s n with
      | .error _ => none
      | .ok bs => readDump bs s.cx.dumpedGroups n

/-- The reload's accesses to the cocoon at TFREC (R160). -/
def touchDump (s : State) : State :=
  let x := s.cx
  match dumpLength s with
  | .error _ => s
  | .ok (_, n) =>
    touchBlock s (x.saverAcc s.cur) .load (some x.space.ckey.toNat) (x.trap.frec.toNat + 0x2400) (256 + 384 * n)

/-- The registers of ERET: the level and inh from TSTATUS, the PC from TEPC, and the task's adjunct policy (R57; log
entry 78). The convoys of a reloaded dump issue first, the oldest from VSTART.member, and then fetch goes on at TEPC. -/
def leaveTrap (s : State) (dump : List Convoy) : State :=
  s.mapCx fun x =>
    let vs := dump.map fun v => { v with next := x.trap.epc }
    { x with
      trap := { x.trap with inh := false, cocoon := false }
      sup := x.trap.pp
      pc := x.trap.epc
      cpol := if x.trap.pp then x.cpol else x.trap.pol
      cvy := vs.head?.map fun v => { v with idx := x.vsMember.toNat }
      queue := vs.tail
      redump := []
      wait := none }

end Sys2Proof.Machine
end

