-- ==== Sys2Proof/Machine/Flags.lean ====
section
/-! DEFINITION. The flag registers (R85, R127): what FPCTL says to an operation, flags ORed into FPFLAGS and
MFLAGS, the stochastic generator's draws (R96) and the checker's (R243). -/

namespace Sys2Proof.Machine

/-- FPCTL as an operation reads it (R85). -/
def FpRegs.ctl (f : FpRegs) : FpCtl := { rm := f.rm.toNat, ftz := f.ftz, sat8 := f.sat8 }

/-- Flags are sticky: an instruction only sets them (R85). -/
def Context.orFlags (x : Context) (fl : Flags) : Context :=
  { x with fp := { x.fp with flags := x.fp.flags ||| fl } }

/-- The generator value that a rounding uses, and the generator after it: one draw under mode 5, none under
any other mode (R96). -/
def drawSeed (rm : Nat) (seed : BitVec 32) : Nat × BitVec 32 :=
  if rm = 5 then ((lfsrNext seed).toNat, lfsrNext seed) else (0, seed)

/-- A scalar floating operation that rounds once: its result and the registers after it (R330). -/
def FpRegs.roundOnce (f : FpRegs) (op : Nat → Nat × Flags) : Nat × FpRegs :=
  let d := drawSeed f.rm.toNat f.seed
  let r := op d.1
  (r.1, { f with seed := d.2, flags := f.flags ||| r.2 })

/-- The checker draws once for a checked instruction with items to choose from (R243). -/
def checkerDraw (s : State) (items : Nat) : State :=
  if items = 0 then s
  else
    let n := coreOf s.cur
    let k := s.coreAt n
    s.setCore n { k with chkseed := chkNext k.chkseed }

/-- MFLAGS has the flags NV, OF, UF and NX at the places of FPFLAGS (R104, R127). -/
def Context.orMflags (x : Context) (fl : Flags) : Context :=
  { x with mat := { x.mat with flags := x.mat.flags ||| (fl.setWidth 5 &&& 0x1D) } }

/-- Carry-free summary of a scalar comparison (R313). -/
def relOf (n : Nat) : Rel :=
  match n with
  | 0 => .eq
  | 1 => .ne
  | 2 => .lt
  | 3 => .ge
  | 4 => .le
  | 5 => .gt
  | 6 => .uo
  | _ => .ord

/-- The relation codes of FCMP (R313). -/
def fcmpRel (n : Nat) : Rel :=
  match n with
  | 0 => .eq
  | 1 => .lt
  | 2 => .le
  | _ => .uo

end Sys2Proof.Machine
end

