-- ==== Sys2Proof/Machine/Operands.lean ====
section
/-! DEFINITION. Operand forms: element types (R312), register groups and their rows (R73, R74), elements,
mask positions and active elements (R79, R110), destinations element-wise and of mask bits (R110, R111),
scale side stores (R93), and the issue checks that every vector word shares (R363). -/

namespace Sys2Proof.Machine

/-! ### Element types (R312) -/

/-- What an element type is. -/
inductive EKind where
  | int (sgn : Bool)
  | float (f : FFmt)
  | storage (f : FFmt) (blocked : Bool)
  | none
  deriving DecidableEq, Repr

def ekind (t : Nat) : EKind :=
  if t < 4 then .int true
  else if t < 8 then .int false
  else match t with
    | 8 => .float .f16
    | 9 => .float .bf16
    | 10 => .float .f32
    | 11 => .float .f64
    | 12 => .storage .e4 false
    | 13 => .storage .e5 false
    | 14 => .storage .e2 false
    | 16 => .storage .e4 true
    | 17 => .storage .e5 true
    | 18 => .storage .e2 true
    | _ => .none

/-- Element width in bits. -/
def ewidth (t : Nat) : Nat :=
  if t < 8 then 8 * 2 ^ (t % 4)
  else match ekind t with
    | .float f => f.width
    | .storage f _ => f.width
    | _ => 8

def isBlocked (t : Nat) : Bool :=
  match ekind t with
  | .storage _ b => b
  | _ => false

def isStorage (t : Nat) : Bool :=
  match ekind t with
  | .storage _ _ => true
  | _ => false

def isInt (t : Nat) : Bool :=
  match ekind t with
  | .int _ => true
  | _ => false

def isSigned (t : Nat) : Bool :=
  match ekind t with
  | .int s => s
  | _ => false

def isFloat (t : Nat) : Bool :=
  match ekind t with
  | .float _ => true
  | _ => false

/-- The floating format of a floating or storage type. -/
def efmt (t : Nat) : FFmt :=
  match ekind t with
  | .float f => f
  | .storage f _ => f
  | _ => .f64

/-- The largest number of columns of a row (R79). -/
def maxCols (t : Nat) : Nat := 2048 / ewidth t

/-! ### Register groups (R73, R74, R79) -/

def Context.et (x : Context) : Nat := x.vtype.etype.toNat
def Context.width (x : Context) : Nat := ewidth x.et
/-- The in-shape element count. -/
def Context.inShape (x : Context) : Nat := x.grows * x.vcols
/-- A zero shape (R113). -/
def Context.zeroShape (x : Context) : Bool := x.vrows == 0 || x.vcols == 0
/-- VSTART binds a member: its elements below this number are skipped (R117). -/
def Context.startElem (x : Context) : Nat :=
  if x.member = x.vsMember.toNat then x.vsElem.toNat else 0

/-- A row written; a write to a dead row is discarded (R73). -/
def Context.setVrow (x : Context) (n row v : Nat) : Context :=
  if row < 2 * x.lanes then { x with vregs := tabSet x.vregs (n * 32 + row) (BitVec.ofNat 2048 v) } else x

/-- The field of w bits at column c of a row. -/
def rowField (w c row : Nat) : Nat := row / 2 ^ (c * w) % 2 ^ w

/-- A row with the field at column c replaced. -/
def setField (w c v row : Nat) : Nat := row - rowField w c row * 2 ^ (c * w) + v % 2 ^ w * 2 ^ (c * w)

/-- Element (r, c) of the group at `base`, as raw bits of width w. -/
def Context.elem (x : Context) (base w r c : Nat) : Nat := rowField w c (x.groupRow base r)

/-- The mask bit at position p of a register, raw (R79). -/
def Context.maskBit (x : Context) (reg p : Nat) : Bool := bitOf (x.vrow reg (p / 2048)) (p % 2048)

/-- active(r, c) for an in-shape position (R110). -/
def Context.active (x : Context) (m : Bool) (r c : Nat) : Bool :=
  !m || x.maskBit 0 (r * maxCols x.et + c)

/-- The in-shape positions in element-number order: (n, r, c). -/
def Context.positions (x : Context) : List (Nat × Nat × Nat) :=
  (List.range x.grows).flatMap fun r => (List.range x.vcols).map fun c => (r * x.vcols + c, r, c)

/-- The active positions from an element number on. -/
def Context.activeFrom (x : Context) (m : Bool) (start : Nat) : List (Nat × Nat × Nat) :=
  x.positions.filter fun p => start ≤ p.1 && x.active m p.2.1 p.2.2

/-! ### Destinations (R110, R111) -/

/-- An element-wise destination: its group, the width it is laid out in, the mask and ma bits, the elements
skipped at the start, and the element at which the instruction stops. -/
structure Dest where
  vd : Nat
  w : Nat
  m : Bool
  q : Bool
  start : Nat
  stop : Nat

/-- One row of a destination: each column in turn, with what the elements thread through. -/
def rowPass {σ : Type} (x : Context) (d : Dest) (f : σ → Nat → Nat → Nat → Nat × σ) (r old : Nat) :
    List Nat → Nat × σ → Nat × σ
  | [], acc => acc
  | c :: cs, (row, st) =>
    let n := r * x.vcols + c
    if n < d.start || d.stop ≤ n then
      rowPass x d f r old cs (setField d.w c (rowField d.w c old) row, st)
    else if x.active d.m r c then
      let v := f st n r c
      rowPass x d f r old cs (setField d.w c v.1 row, v.2)
    else
      rowPass x d f r old cs (setField d.w c (if d.q then 0 else rowField d.w c old) row, st)

/-- The group rows of a destination in order. Tail columns follow ta; once the instruction has stopped they
stay as they were (R116). -/
def rowsPass {σ : Type} (x : Context) (d : Dest) (f : σ → Nat → Nat → Nat → Nat × σ) :
    List Nat → List (Nat × Nat) × σ → List (Nat × Nat) × σ
  | [], acc => acc
  | r :: rs, (out, st) =>
    let old := x.groupRow d.vd r
    let base := if x.vtype.ta && x.inShape ≤ d.stop then 0 else old
    let v := rowPass x d f r old (List.range x.vcols) (base, st)
    rowsPass x d f rs (out ++ [(r, v.1)], v.2)

/-- The rows of each register at or beyond VROWS: zero under ta (R110). -/
def Context.tailRows (x : Context) (vd : Nat) : Context :=
  if x.vtype.ta then
    (List.range x.group).foldl (fun x k =>
      ((List.range 32).filter fun row => x.vrows ≤ row).foldl (fun x row => x.setVrow (vd + k) row 0) x) x
  else x

/-- An element-wise instruction: `f` gives each active element's bits, in element-number order, and what it
threads through them. Every source is read from the context as it stood (R109). -/
def Context.elementwise {σ : Type} (x : Context) (d : Dest) (f : σ → Nat → Nat → Nat → Nat × σ) (st : σ) :
    Context × σ :=
  if x.zeroShape then (x, st)
  else
    let out := rowsPass x d f (List.range x.grows) ([], st)
    let y := out.1.foldl (fun y e => y.setVrow (d.vd + e.1 / x.vrows) (e.1 % x.vrows) e.2) x
    (if x.inShape ≤ d.stop then y.tailRows d.vd else y, out.2)

/-- A register's raw bits as one number: bit p of a mask is bit p of it (R79). -/
def Context.rawBits (x : Context) (reg : Nat) : Nat :=
  (List.range 32).foldr (fun row acc => x.vrow reg row + 2 ^ 2048 * acc) 0

/-- A bit of a number set to a value. -/
def setBit (v p : Nat) (b : Bool) : Nat :=
  if bitOf v p == b then v else if b then v + 2 ^ p else v - 2 ^ p

/-- The bits of a mask destination, in element-number order (R111). -/
def maskPass {σ : Type} (x : Context) (m q : Bool) (start old : Nat) (f : σ → Nat → Nat → Nat → Bool × σ) :
    List (Nat × Nat × Nat) → Nat × σ → Nat × σ
  | [], acc => acc
  | (n, r, c) :: rest, (bits, st) =>
    let p := r * maxCols x.et + c
    if n < start then maskPass x m q start old f rest (setBit bits p (bitOf old p), st)
    else if x.active m r c then
      let v := f st n r c
      maskPass x m q start old f rest (setBit bits p v.1, v.2)
    else maskPass x m q start old f rest (setBit bits p (!q && bitOf old p), st)

/-- An instruction that writes a mask destination (R111): every bit beyond the in-shape positions is tail. -/
def Context.maskwise {σ : Type} (x : Context) (vd : Nat) (m q : Bool) (start : Nat)
    (f : σ → Nat → Nat → Nat → Bool × σ) (st : σ) : Context × σ :=
  if x.zeroShape then (x, st)
  else
    let old := x.rawBits vd
    let out := maskPass x m q start old f x.positions (if x.vtype.ta then 0 else old, st)
    ((List.range 32).foldl (fun y row => y.setVrow vd row (out.1 / 2 ^ (2048 * row) % 2 ^ 2048)) x, out.2)

/-! ### Scale side stores (R93) -/

/-- Side-store byte j of a register, with its poison flag in bit 8. -/
def Context.scaleByte (x : Context) (reg j : Nat) : Nat := (tabGet (0xFF : Scale) x.scales (reg * 64 + j)).toNat

def Context.setScaleByte (x : Context) (reg j v : Nat) : Context :=
  { x with scales := tabSet x.scales (reg * 64 + j) (BitVec.ofNat 9 v) }

/-- The blocks of a group (R93). -/
def Context.nblk (x : Context) : Nat := (x.inShape + 255) / 256

/-- The scale of block b of the group at `base`. -/
def Context.scale (x : Context) (base b : Nat) : Nat := x.scaleByte (base + b / 64) (b % 64)

/-- The scales of a blocked destination: those of its blocks, and 0xFF or nothing in the tail (R93). -/
def Context.putScales (x : Context) (vd : Nat) (vals : List Nat) : Context :=
  if x.zeroShape then x
  else
    (List.range (64 * x.group)).foldl (fun y b =>
      if b < x.nblk then y.setScaleByte (vd + b / 64) (b % 64) (vals.getD b 0xFF)
      else if x.vtype.ta then y.setScaleByte (vd + b / 64) (b % 64) 0xFF
      else y) x

/-- A scale that was read from poisoned storage: 0xFF with the poison flag (R257). -/
def poisonedScale : Nat := 0x1FF

/-- A scale as an instruction goes on with it that has met the poison flag and takes no trap: never the 0xFF of a NaN
block (R257; log entry 88). -/
def soundScale (tick v : Nat) : Nat := if v < 256 then v else (Config.freeWord tick).toNat % 255

/-! ### Rename versions (R80, R81) -/

/-- The registers that a write to a group must give a new version: those without one of their own in this
strip, and those whose version has been captured. -/
def Strip.toAllocate (t : Strip) (regs : List Nat) : List Nat :=
  regs.filter fun n => !t.renamed.contains n || t.captured.contains n

/-- New versions for the registers a write names; where the spares do not suffice the strip is committed
early first (R81). -/
def allocate (s : State) (regs : List Nat) : State :=
  let need := (s.cx.strip.toAllocate regs).length
  let s := if 16 < s.cx.strip.spares + need then forceCommit s else s
  s.mapCx fun x =>
    let new := x.strip.toAllocate regs
    { x with strip := { x.strip with
        renamed := x.strip.renamed ++ new.filter fun n => !x.strip.renamed.contains n
        captured := x.strip.captured.filter fun n => !regs.contains n
        spares := x.strip.spares + new.length } }

/-- A gather, scatter, VAMO, XCOPY or SEND captures the versions it reads (R80). -/
def Context.capture (x : Context) (regs : List Nat) : Context :=
  { x with strip := { x.strip with
      captured := x.strip.captured ++ regs.filter fun n => !x.strip.captured.contains n } }

/-! ### Issue checks of a vector word (R74, R75, R91, R363) -/

/-- Trap 0x03: TVAL has the word in bits 31:0 and its member index in bits 33:32 (R216). -/
def Context.illegalType (x : Context) (word : Nat) : Trap :=
  .issue 0x03 (BitVec.ofNat 64 (word + x.member * 2 ^ 32))

/-- The checks that every vector word shares: a valid type, operands that are multiples of G, no masked
destination that includes v0, and the entry's own refusal (R363). -/
def Context.vectorCheck (x : Context) (word : Nat) (vregs : List Nat) (dest : Option Nat) (m : Bool)
    (legal : Bool) : Option Trap :=
  if x.vtype.ill then some (x.illegalType word)
  else if vregs.any fun n => n % x.group ≠ 0 then some (x.illegalType word)
  else if m && dest = some 0 then some (x.illegalType word)
  else if !legal then some (x.illegalType word)
  else none

/-- The word of an instruction that is executing, as TVAL holds it. -/
def wordOf (i : Instr) : Nat := (encodeNat i).getD 0

/-! ### Addresses and immediates (R296) -/

/-- The address of form M: sA plus the scaled, sign-extended imm9. -/
def Context.memAddr (x : Context) (a : BitVec 5) (i : BitVec 9) (size : Nat) : Word :=
  x.reg a + i.signExtend 64 <<< size

/-- The target of a branch: the word's address plus 4 times the signed displacement. -/
def branchTarget {w : Nat} (pc : Word) (d : BitVec w) : Word := pc + (d.signExtend 64 <<< 2)

end Sys2Proof.Machine
end

