-- ==== Sys2Proof/Machine/Replay.lean ====
section
/-! DEFINITION. A launch as its tasks meet it: failing it (R26), the writes that count for replay and the
shadow copies they make (R250 to R252), and errors that cannot be pinned (R249). -/

namespace Sys2Proof.Machine

/-- The live launch of a number. -/
def State.launch (s : State) (n : Nat) : Option Launch := s.mill.launches.find? (·.num == n)

/-- A change to one launch. -/
def State.mapLaunch (s : State) (n : Nat) (f : Launch → Launch) : State :=
  { s with mill := { s.mill with launches := s.mill.launches.map fun l => if l.num == n then f l else l } }

/-- A launch fails with a cause in a mill cycle in which it may have failed already: the lowest cause is recorded (R26). -/
def State.failInCycle (s : State) (n cause : Nat) : State :=
  s.mapLaunch n fun l => if l.tearing then l else { l with failed := some ((l.failed.map (min cause)).getD cause) }

/-- A launch fails with a cause; the first cause stands, and a replay's teardown wins (R26, R249). -/
def State.failLaunch (s : State) (n cause : Nat) : State :=
  s.mapLaunch n fun l => if l.failed.isSome || l.tearing then l else { l with failed := some cause }

/-- The launch of the task that a context holds. -/
def Context.launchNo (x : Context) : Nat := (x.task.map (·.launch)).getD 0

/-! ### The shadow pool (R251, R252) -/

/-- The mill's own accesses: at supervisor level in the launch's space (R424). -/
def Launch.acc (l : Launch) : Acc := { space := l.space, sup := true, ctx := 768 }

/-- The slots of a launch's shadow pool. -/
def Launch.slotCount (l : Launch) : Nat := min (l.poolLen.toNat / 2 ^ 16 - 1) 8192

/-- Directory entry i of a launch's shadow pool. -/
def dirEntry (s : State) (l : Launch) (i : Nat) : Nat :=
  match readBlock s l.acc none (l.pool.toNat + 8 * i) 8 with
  | .ok bs => bytesVal bs
  | .error _ => 0

/-- A directory entry that names a page (R251). -/
def dirWord (key page : Nat) : Nat := 1 + key * 2 ^ 14 + page / 2 ^ 16 % 2 ^ 28 * 2 ^ 26

/-- A line lies in the 64 KiB page at a place. -/
def linePaged (page line : Nat) : Bool := page / 64 ≤ line && line < page / 64 + 1024

/-- The poison marks of a page's lines put in place of another's (R256). -/
def movePoison (p : Tab (BitVec 128)) (src dst : Nat) : Tab (BitVec 128) :=
  (p.filter fun e => linePaged src e.1).foldl (fun t e => tabSet t (e.1 - src / 64 + dst / 64) e.2)
    (p.filter fun e => !linePaged dst e.1)

/-- The stored bytes of a 64 KiB page copied to another place, undecrypted. -/
def copyPage (s : State) (src dst : Nat) : State :=
  { s with mem := memWriteN s.mem dst (memReadN s.mem src (2 ^ 16)), poison := movePoison s.poison src dst }

/-- Where slot i of a shadow pool lies. -/
def slotPlace (s : State) (l : Launch) (i : Nat) : Option Place :=
  match resolve s l.acc .store (l.pool.toNat + (i + 1) * 2 ^ 16) with
  | .ok p => some p
  | .error _ => none

/-- The first write of a run to an SHD page: its page goes into the lowest free slot; with no slot free the
launch is no longer replayable (R252). Where the pool can no longer be translated the launch stops being replayable too, and
a directory that cannot be written is left as it is (log entry 95). -/
def shadowCopy (s : State) (l : Launch) (loc key : Nat) : State :=
  let page := loc / 2 ^ 16 * 2 ^ 16
  let s := touchBlock s l.acc .load none l.pool.toNat (8 * l.slotCount)
  let entries := (List.range l.slotCount).map fun i => (i, dirEntry s l i)
  if entries.any fun e => bitOf e.2 0 && e.2 / 2 ^ 26 % 2 ^ 28 == page / 2 ^ 16 % 2 ^ 28 then s
  else
    match entries.find? fun e => !bitOf e.2 0 with
    | none => s.mapLaunch l.num fun l => { l with replayable := false }
    | some (i, _) =>
      match slotPlace s l i with
      | none => s.mapLaunch l.num fun l => { l with replayable := false }
      | some dst =>
        (writeBlock (copyPage (touch s l.acc .store dst) page dst.loc) l.acc none (l.pool.toNat + 8 * i)
          (valBytes 8 (dirWord key page))).getD s

/-- What a write means for its launch's replay, before it is performed (R250, R252). -/
def countWrite (s : State) (launch : Nat) (w : Write) : State :=
  match s.launch launch with
  | none => s
  | some l =>
    if !l.replayable then s
    else match w.cls with
      | .uncounted => s
      | .versioned => shadowCopy s l w.loc w.key
      | .unversioned => s.mapLaunch launch fun l => { l with replayable := false }

/-! ### Reads performed early (R178, R182, R183; log entry 68) -/

/-- An early read shares a byte with n bytes of a place. -/
def EarlyRead.overlaps (e : EarlyRead) (loc n : Nat) : Bool := e.loc < loc + n && loc < e.loc + e.bytes.length

/-- The early reads that stand after context c has made an access of n bytes on a stream: not those of its bytes, since
accesses to one byte are performed in program order (R182), nor those of its stream where both are tile-carried (R183). -/
def Context.dropEarly (x : Context) (c strm loc n : Nat) : Context :=
  let carried (a : Nat) : Bool := tileCarried (coreOf c) (tileOf c) a
  { x with early := x.early.filter fun e => !(e.overlaps loc n || (e.strm == strm && carried e.loc && carried loc)) }

/-- The early reads that stand once one element of an instruction, of n bytes of a place, has been read: the elements of one
instruction are read separately, so that those of its stream stand until all of them have been (R179). -/
def State.dropBytes (s : State) (c loc n : Nat) : State :=
  let x := s.ctxAt c
  if x.early.isEmpty then s else s.setCtx c { x with early := x.early.filter fun e => !e.overlaps loc n }

/-- The context has made an access. -/
def State.dropEarly (s : State) (c strm loc n : Nat) : State :=
  if (s.ctxAt c).early.isEmpty then s else s.setCtx c ((s.ctxAt c).dropEarly c strm loc n)

/-! ### Words of code that a store replaces (R267 to R269) -/

/-- A stored line may lie in a scalar L1 data cache, its home's copy being older: not one of a local window, of a peer node or of
a settled page (R149). -/
def Write.dirties (w : Write) (node : Nat) : Bool := !isLocalPlace w.loc && placeNode w.loc == node && !w.pin

/-- A word kept for a place. -/
def keepWord (t : Tab (List CodeWord)) (loc : Nat) (w : CodeWord) : Tab (List CodeWord) :=
  let ws := tabGet [] t loc
  if ws.contains w then t else tabSet t loc (w :: ws)

/-- The words that a write replaces are among those that their home may still deliver to a fetch, until a DCWB of their lines
(R269; log entry 14). -/
def keepStale (s : State) (w : Write) : State :=
  if !w.dirties s.node then s
  else
    let lo := w.loc / 4 * 4
    let n := (w.loc + w.bytes.length + 3) / 4 - w.loc / 4
    let bs := fetchBytes s.keys s.mem lo w.key w.enc (4 * n)
    let word (i : Nat) : CodeWord := { key := w.key, word := BitVec.ofNat 32 (bytesVal ((bs.drop (4 * i)).take 4)) }
    { s with stale := (List.range n).foldl (fun t i => keepWord t (lo + 4 * i) (word i)) s.stale }

/-- The homes of some lines hold what was stored. -/
def cleanLines (s : State) (lines : List Nat) : State :=
  { s with stale := s.stale.filter fun e => !lines.contains (e.1 / 64) }

/-- A write of a context performed at its home. -/
def performWrite (s : State) (c : Nat) (w : Write) : State :=
  let s := if w.loose then s.dropBytes c w.loc w.bytes.length else s.dropEarly c w.strm w.loc w.bytes.length
  performAt (keepStale (countWrite s (s.ctxAt c).launchNo w) w) w

/-! ### Errors that cannot be pinned (R249) -/

/-- The mill is told: a replayable launch that was replayed fewer than 3 times is torn down, and any other
fails with cause 0x0F. -/
def tellMill (s : State) (n : Nat) : State :=
  s.mapLaunch n fun l =>
    if l.tearing then l
    else if l.replayable && l.replays < 3 then { l with tearing := true, failed := none }
    else if l.failed.isSome then l
    else { l with failed := some 0x0F }

/-- The context takes a trap for an error that cannot be pinned. -/
def Context.takesError (x : Context) : Bool := !x.sup && !x.trap.inh

/-- An error of the current context that cannot be pinned: trap 0x0F or 0x10 where the context is at user
level with inh clear, and in either case the mill is told. -/
def unpinnable (s : State) (cause : Nat) (tval : Word) (queued : Bool) : State :=
  let t := tellMill s s.cx.launchNo
  if !s.cx.takesError then t
  else if queued then takeQueuedTrap t cause tval []
  else takeTrap t (.issue cause tval)

/-- The same for an error that an element of a vector member consumes: its convoy stops there, as at any other fault of
the queue (R116, R218). -/
def unpinnableAt (s : State) (cause : Nat) (tval : Word) (word : BitVec 32) (elem : Nat)
    (index : Option (List Row2048)) : State :=
  let t := tellMill s s.cx.launchNo
  if s.cx.takesError then raiseQueued t cause tval word elem index [] else t

/-- What becomes of a member that consumes scales: one with the poison flag is an error of its block, and where no trap
is taken the member goes on with a free value, which the given count names (R249, R257; log entry 88). -/
def consumeScales (word : BitVec 32) (scales : List Nat) (go : Nat → State → State) (s : State) : State :=
  if scales.all (· < 256) then go s.tick s
  else
    let t := unpinnableAt s 0x10 s.cx.convoyStart word 0 none
    if s.cx.takesError then t else go t.tick { t with tick := t.tick + 1 }

end Sys2Proof.Machine
end

