-- ==== Sys2Proof/Machine/Access.lean ====
section
/-! DEFINITION. Accesses of the scalar unit: alignment, translation and planes (R142, R162, R210), what a
scalar load returns (R182, R245), held stores and atomics at the home (R188, R189, R320). -/

namespace Sys2Proof.Machine

/-! ### Reaching a place -/

/-- No plane is live (R210). -/
def State.planesDead (s : State) : Bool := s.fab.dead == 15

/-- The place of an access, or the cause of its failure. With no live plane an access that is not tile-carried
raises 0x14 (R162, R210). -/
def reach (s : State) (a : Acc) (k : AccKind) (va : Nat) : Except Nat Place :=
  match resolve s a k va with
  | .error e => .error e
  | .ok p =>
    if s.planesDead && !tileCarried (coreOf a.ctx) (tileOf a.ctx) p.loc then .error 0x14 else .ok p

/-- The trap of an access that fails: TVAL is its address, and 0 for cause 0x14 (R216). -/
def accessTrap (cause : Nat) (va : Word) : Trap := .issue cause (if cause = 0x14 then 0 else va)

/-- The place of an aligned scalar access of 2^sz bytes, or its trap (R142, R162). -/
def scalarPlace (s : State) (k : AccKind) (va : Word) (sz : Nat) : Except Trap Place :=
  if va.toNat % 2 ^ sz ≠ 0 then .error (.issue 0x04 va)
  else match reach s (s.cx.acc s.cur) k va.toNat with
    | .error e => .error (accessTrap e va)
    | .ok p => .ok p

/-! ### Loads -/

/-- Every byte of a range of a line comes from the context's own writes. -/
def ownCovers (x : Context) (loc n : Nat) : Bool :=
  (List.range n).all fun i => x.ownWrites.any fun w => w.loc ≤ loc + i && loc + i < w.loc + w.bytes.length

/-- A read of n bytes of a place consumes stored poison (R255, R256). -/
def readsPoison (s : State) (x : Context) (p : Place) (n : Nat) : Bool :=
  s.poisoned p.loc && !ownCovers x p.loc n

/-- The read of n bytes of a place that the environment performed early for a stream of the context (log entry 68). -/
def Context.earlyOf (x : Context) (strm : Nat) (p : Place) (n : Nat) : Option EarlyRead :=
  x.early.find? fun e => e.strm == strm && e.loc == p.loc && e.key == p.key && e.bytes.length == n

/-- n bytes of one line as a load on a stream returns them: what their home holds, or held when the read was performed
early, and the context's own writes over them (R178, R182 to R184). -/
def loadBytes (s : State) (x : Context) (strm : Nat) (p : Place) (n : Nat) : List Byte :=
  match x.earlyOf strm p n with
  | none => readPlace s x p n
  | some e => readPlace { s with mem := putBytes s.keys s.mem p.loc p.key p.enc e.bytes } x p n

/-- What becomes of a value that a scalar read returns: the change it makes, or, where its line is poisoned,
trap 0x10 or, where none is taken, the change with a free value (R245, R249; log entry 18). -/
def consume (s : State) (strm : Nat) (p : Place) (n : Nat) (f : State → Nat → State) : State :=
  let v := bytesVal (loadBytes s s.cx strm p n)
  if readsPoison s s.cx p n then
    let t := unpinnable s 0x10 s.cx.convoyStart false
    if s.cx.takesError then t else f t.draw.2 (t.draw.1.toNat % 2 ^ (8 * n))
  else f (s.dropEarly s.cur strm p.loc n) v

/-! ### Stores and commits -/

/-- A scalar store of 2^sz bytes joins the strip store buffer on a stream (R189, R360). -/
def holdStore (s : State) (p : Place) (strm sz : Nat) (v : Word) : State :=
  holdWrite s (p.write strm (valBytes (2 ^ sz) v.toNat))

/-- A write that is performed later and never held (R361). -/
def postWrite (s : State) (w : Write) : State := s.mapCx fun x => { x with pend := x.pend ++ [w] }

/-- Two writes share a byte. -/
def Write.overlaps (a b : Write) : Bool := a.loc < b.loc + b.bytes.length && b.loc < a.loc + a.bytes.length

end Sys2Proof.Machine
end

