-- ==== Sys2Proof/Machine/Ordering.lean ====
section
/-! DEFINITION. Ordering: performing committed writes (R181 to R183, R189 ordering), copy channels that a
FENCE or release joins or finds stopped (R185 ordering, R190 engines), and the waits of a FENCE, a release
or an atomic (R185, R186 ordering). -/

namespace Sys2Proof.Machine

/-! ### Copy channels as ordering meets them -/

/-- A copy channel of a context. -/
def Context.chan (x : Context) (k : Nat) : CopyChan := x.chans.toList.getD k .reset
def Context.setChan (x : Context) (k : Nat) (c : CopyChan) : Context :=
  { x with chans := x.chans.setIfInBounds k c }

/-- The channel is stopped on a fault (R190 engines). -/
def CopyChan.stopped (c : CopyChan) : Bool := c.cause != 0

/-- Identifier a precedes b in serial-number arithmetic (R184 engines). -/
def precedes (a b : BitVec 32) : Bool := let d := (b - a).toNat; 1 ≤ d && d < 2 ^ 31

/-- The number of elements of a command. -/
def dimCount (dims : List CopyDim) : Nat := dims.foldl (fun n d => n * d.ext) 1

/-- The offset of element m on one side. -/
def dimOffset (side : CopyDim → Word) : List CopyDim → Nat → Word
  | [], _ => 0
  | d :: rest, m => BitVec.ofNat 64 (m % d.ext) * side d + dimOffset side rest (m / d.ext)

/-- A command touches nothing. -/
def CopyCmd.empty (c : CopyCmd) : Bool := c.dims.isEmpty || dimCount c.dims == 0

/-- The source and destination addresses of a command's elements, in element order. -/
def CopyCmd.addrs (c : CopyCmd) : List (Word × Word) :=
  if c.empty then []
  else (List.range (dimCount c.dims)).map fun m =>
    (c.src + dimOffset (·.ss) c.dims m, c.dst + dimOffset (·.ds) c.dims m)

/-- An address lies in a window to a context's own tile (R181). -/
def tileWindow (s : State) (ctx va : Nat) : Bool :=
  va / 2 ^ 48 == 0x7F && match windowPlace s ctx va with
    | some loc => tileCarried (coreOf ctx) (tileOf ctx) loc
    | none => false

/-- Every element of a command is read and written in its context's own tile: it needs no plane (R210). -/
def CopyCmd.carried (s : State) (ctx : Nat) (c : CopyCmd) : Bool :=
  c.addrs.all fun e => tileWindow s ctx e.1.toNat && tileWindow s ctx e.2.toNat

/-- A command of a channel before an identifier that has not completed, and needs a plane (R210). -/
def CopyChan.needsPlane (s : State) (ctx : Nat) (ch : CopyChan) (j : BitVec 32) : Bool :=
  ch.cmds.any fun m => precedes m.id j && m.st != .completed && !m.carried s ctx

/-- Every command of the channel before an identifier has completed. -/
def CopyChan.doneBefore (c : CopyChan) (j : BitVec 32) : Bool :=
  c.cmds.all fun m => !precedes m.id j || m.st = .completed

/-- restart(C): the fault is cleared, and the faulting command will run again (R190 engines). -/
def CopyChan.restart (c : CopyChan) : CopyChan :=
  { c with cause := 0, side := false, dlv := false, fid := 0, faddr := 0,
           cmds := c.cmds.map fun m => if m.st = .faulted then { m with st := .queued } else m }

/-- The trap 0x13 of channel k, which marks its fault delivered (R190 engines). -/
def deliver (s : State) (k : Nat) : State :=
  let ch := s.cx.chan k
  let t := s.mapCx fun x => x.setChan k { ch with dlv := true }
  takeTrap t (.issue 0x13 (BitVec.ofNat 64 (ch.faddr.toNat % 2 ^ 55 + k * 2 ^ 56)))

/-- A join stands in channel k before every command issued from now on. -/
def CopyChan.join (c : CopyChan) : CopyChan := { c with joins := (c.joins ++ [c.next]).dedup }

/-! ### Performing committed writes -/

/-- A write lies in the context's own tile (R181). -/
def Write.carried (w : Write) (c : Nat) : Bool := tileCarried (coreOf c) (tileOf c) w.loc

/-- The node and line of a place as the planes see them: a local window's line is that of its own address on
the issuing node (R201). -/
def globalLine (node loc : Nat) : Nat :=
  if loc < 2 ^ 54 then loc / 64
  else
    let va := if 2 ^ 56 ≤ loc then 2 ^ 33 + (loc - 2 ^ 56) % 2 ^ 26
      else if 2 ^ 55 ≤ loc then 2 ^ 36 + (loc - 2 ^ 55) % (48 * 2 ^ 21)
      else (loc - 2 ^ 54) % 2 ^ 18
    node * 2 ^ 38 + va / 64

/-- The XOR of the 6-bit slices of a number of n slices (R201). -/
def bucket : Nat → Nat → Nat
  | 0, _ => 0
  | n + 1, v => (v % 64) ^^^ bucket n (v / 64)

/-- The plane of a bucket under the map in force (R202). -/
def planeOf (map : BitVec 128) (b : Nat) : Nat := map.toNat / 4 ^ b % 4

/-- The plane that a place's requests take. -/
def State.planeAt (s : State) (loc : Nat) : Nat := planeOf s.fab.map (bucket 8 (globalLine s.node loc))

/-- The home of a place of translated memory, as far as requests to it keep their order of acceptance: a die's shared cache
for the own node, and the memory itself for a peer or a settled page (R177). That memory is one HBM stack or one half of
bulk DRAM (log entry 95). -/
def homeOf (own : Nat) (settled : Bool) (loc : Nat) : Nat :=
  let node := loc / 2 ^ 44
  let t := tableOf (loc % 2 ^ 44)
  if node = own && !settled then node * 16 + (if t < 4 || t = 8 then 0 else 1) else node * 16 + 2 + t

/-- Two accesses have a home in common: each byte of a local window is its own (R177). -/
def sameHome (own : Nat) (e w : Write) : Bool :=
  if isLocalPlace e.loc || isLocalPlace w.loc then e.overlaps w
  else homeOf own e.pin e.loc == homeOf own w.pin w.loc

/-- An earlier write of the same stream that must be performed first where both accesses are tile-carried (R183), but for a
release store (R361). -/
def streamPrecedes (c : Nat) (e w : Write) : Bool := !e.loose && e.strm == w.strm && e.carried c && w.carried c

/-- An earlier write of the same context that must be performed first: of the same byte, or by its stream (R182, R183). -/
def mustPrecede (c : Nat) (e w : Write) : Bool := e.overlaps w || streamPrecedes c e w

/-- A write of the tile that its plane accepted before this one, on the same plane to the same home (R181). -/
def acceptedBefore (s : State) (e w : Write) : Bool :=
  match e.acc with
  | none => false
  | some n =>
    (match w.acc with
      | none => true
      | some m => n < m) && s.planeAt e.loc == s.planeAt w.loc && sameHome s.node e w

/-- The contexts of a context's tile. -/
def tileContexts (c : Nat) : List Nat := (List.range 8).map (tileOf c * 8 + ·)

/-- No write that the context's tile has had accepted is still on its way on the plane and to the home of an access that
is made now (R181). -/
def arrivesLast (s : State) (c : Nat) (w : Write) : Bool :=
  (tileContexts c).all fun d => (s.ctxAt d).pend.all fun e => !acceptedBefore s e w

/-- A read of n bytes by a context on a stream may be performed now: the committed writes of its stream come first where both are
tile-carried (R183), and so do the writes of its tile that are on their way to the same home (R181). Writes that are still
held are not waited for: a load commits nothing (R189). -/
def mayRead (s : State) (c strm : Nat) (p : Place) (n : Nat) : Bool :=
  let w := p.write strm (List.replicate n 0)
  (s.ctxAt c).pend.all (fun e => !streamPrecedes c e w) && arrivesLast s c w

/-- A write or an atomic of a context may be performed now, past none that must come first (R181 to R183). -/
def mayWrite (s : State) (c : Nat) (w : Write) : Bool :=
  (s.ctxAt c).pend.all (fun e => !mustPrecede c e w) && arrivesLast s c w

/-- A plane takes a context's idx-th committed write: none migrates, a plane is live, and during a moult only what a
write that its plane has accepted needs (R173, R210, R211). -/
def planeTakes (s : State) (c idx : Nat) : Bool :=
  !s.planesDead && (s.fab.undealt == 0 || ((s.ctxAt c).pend.drop idx).any (·.acc.isSome))

/-- The idx-th committed write of a context may be performed now. -/
def mayPerform (s : State) (c idx : Nat) : Bool :=
  match (s.ctxAt c).pend[idx]? with
  | none => false
  | some w =>
    s.migration.isNone && (w.carried c || planeTakes s c idx)
      && ((s.ctxAt c).pend.take idx).all (fun e => !mustPrecede c e w) && arrivesLast s c w

/-- The idx-th committed write of a context is performed at its home. -/
def performIdx (s : State) (c idx : Nat) : State :=
  match (s.ctxAt c).pend[idx]? with
  | none => s
  | some w =>
    performWrite (s.setCtx c { s.ctxAt c with pend := (s.ctxAt c).pend.eraseIdx idx }) c w

/-! ### The waits of order_before (R185) -/

/-- How far the channels of a FENCE or release have come: all done, waiting with joins made, or stopped at a
channel whose fault has just been delivered. -/
inductive Joined where
  | done (s : State)
  | waits (s : State) (marks : List (Nat × BitVec 32))
  | stops (s : State)

/-- The copy channels that a FENCE or release names, lowest first. A command that needs a plane keeps it waiting, and no
plane is left (R210). -/
def joinChannels : List Nat → State → Joined
  | [], s => .done s
  | k :: ks, s =>
    let ch := s.cx.chan k
    if ch.stopped && !ch.dlv then .stops (deliver s k)
    else
      let ch := (if ch.stopped then ch.restart else ch).join
      let s := s.mapCx (·.setChan k ch)
      if ch.doneBefore ch.next then joinChannels ks s
      else if s.planesDead && ch.needsPlane s s.cur ch.next then .stops (takeTrap s (.issue 0x14 0))
      else .waits s ((k, ch.next) :: ks.map (·, 0))

/-- A channel mask and a scope. -/
structure Order where
  mask : Nat
  scope : Nat

/-- Every channel, at a scope: what a release names (R186). -/
def Order.all (scope : Nat) : Order := { mask := 0x1FFF, scope := scope }

/-- The copy channels that a mask names. -/
def Order.channels (o : Order) : List Nat := (List.range 4).filter fun k => bitOf o.mask (8 + k)

/-- A write of a stream that the mask names. -/
def Order.names (o : Order) (w : Write) : Bool := bitOf o.mask w.strm

/-- No SEND of a context is still on its way (R185). -/
def State.delivered (s : State) (c : Nat) : Bool :=
  s.fab.flights.all fun f => !(f.msg.node == s.node && f.msg.sender == c)

/-- The streams and the fabric have come as far as the scope asks: performed from die scope on, and accepted
below it, which a tile-carried write is when it is performed (R181, R185). -/
def settled (s : State) (o : Order) : Bool :=
  (!bitOf o.mask 12 || s.delivered s.cur)
    && s.cx.pend.all fun w => !o.names w || (o.scope < 3 && !w.carried s.cur)

/-- The named writes that are not yet performed are accepted now (R181), and reads of the named streams that the
environment performed before do not stand: later accesses of those streams come after this point (R185). -/
def acceptNow (s : State) (o : Order) : State :=
  let mark (w : Write) : Write := if o.names w && w.acc.isNone then { w with acc := some s.tick } else w
  s.mapCx fun x => { x with pend := x.pend.map mark, early := x.early.filter fun e => !bitOf o.mask e.strm }

/-- A wait for the streams and the fabric still needs a plane: from die scope on, for a SEND on its way, or for a write
that no plane has accepted (R210). -/
def needsPlane (s : State) (o : Order) : Bool :=
  3 ≤ o.scope || (bitOf o.mask 12 && !s.delivered s.cur)
    || s.cx.pend.any fun w => o.names w && !w.carried s.cur && w.acc.isNone

/-- The context waits in an instruction. -/
def State.waitIn (s : State) (kind : WaitKind) (i : Instr) (marks : List (Nat × BitVec 32)) : State :=
  s.mapCx fun x => { x with wait := some { kind := kind, instr := i, marks := marks, place := none } }

/-- What an instruction that orders accesses still has to do: its order, the translation of its own access, what must hold
besides, and its effect. -/
structure Pending where
  order : Order
  place : Option Place
  also_ : State → Bool
  k : State → State

/-- An instruction that makes no access of its own. -/
def Pending.plain (order : Order) (k : State → State) : Pending :=
  { order := order, place := none, also_ := fun _ => true, k := k }

/-- The instruction waits in order_before, with the translation that it has. -/
def Pending.wait (q : Pending) (i : Instr) (marks : List (Nat × BitVec 32)) (s : State) : State :=
  s.mapCx fun x => { x with wait := some { kind := .order, instr := i, marks := marks, place := q.place } }

/-- The streams' part of order_before is done. -/
def Pending.ready (q : Pending) (s : State) : Bool := settled s q.order && q.also_ (acceptNow s q.order)

/-- What the instruction waits for, or its own access, needs a plane (R210). -/
def Pending.needsPlane (q : Pending) (s : State) : Bool :=
  Machine.needsPlane s q.order || (q.place.map fun p => !tileCarried (coreOf s.cur) (tileOf s.cur) p.loc).getD false

/-- The streams' part of order_before: the instruction goes on, or waits, or needs a plane and none is live (R210). -/
def Pending.settle (q : Pending) (i : Instr) (s : State) : State :=
  if s.planesDead && q.needsPlane s then takeTrap s (.issue 0x14 0)
  else if q.ready s then q.k (acceptNow s q.order)
  else q.wait i [] s

/-- order_before(mask, s) from the given channels on: then the instruction goes on with `k`, where `also` holds
as well. -/
def Pending.goFrom (q : Pending) (i : Instr) (ks : List Nat) (s : State) : State :=
  match joinChannels ks s with
  | .stops s => s
  | .waits s marks => q.wait i marks s
  | .done s => q.settle i s

/-- order_before(mask, s): an early commit, the channels, the streams (R185). With no live plane, a scope of die
or wider traps at issue (R210). -/
def orderBefore (q : Pending) (i : Instr) (s : State) : State :=
  if s.planesDead && 3 ≤ q.order.scope then takeTrap s (.issue 0x14 0)
  else q.goFrom i q.order.channels (forceCommit s)

/-- A wait of order_before goes on: the join at its head is done or its channel has stopped, or the streams
have settled, or no plane is left. -/
def Pending.goesOn (q : Pending) (s : State) (marks : List (Nat × BitVec 32)) : Bool :=
  match marks with
  | [] => (s.planesDead && q.needsPlane s) || q.ready s
  | (k, j) :: _ =>
    (s.planesDead && (s.cx.chan k).needsPlane s s.cur j) || (s.cx.chan k).stopped || (s.cx.chan k).doneBefore j

/-- What the current context does when such a wait goes on. -/
def Pending.goOn (q : Pending) (i : Instr) (marks : List (Nat × BitVec 32)) (s : State) : State :=
  let t := s.mapCx fun x => { x with wait := none }
  match marks with
  | [] => q.settle i t
  | (n, j) :: rest =>
    if (s.cx.chan n).stopped then deliver t n
    else if (s.cx.chan n).doneBefore j then q.goFrom i (rest.map (·.1)) t
    else takeTrap t (.issue 0x14 0)

/-! ### Reads performed early -/

/-- The environment performs a read of a context now, before the instruction that makes it issues (log entry 68). Its leaf has A
set first (R160), and a line that is present under another key index is evicted (R153). -/
def readEarly (c strm va n : Nat) (s : State) : State :=
  let x := s.ctxAt c
  match resolve s (x.acc c) .load va with
  | .error _ => s
  | .ok p =>
    if x.task.isSome && x.start.isNone && s.flows && mayRead s c strm p n && p.loc % 64 + n ≤ 64 then
      let t := touch s (x.acc c) .load p
      let e : EarlyRead := { strm := strm, loc := p.loc, key := p.key,
                             bytes := fetchBytes t.keys t.mem p.loc p.key p.enc n }
      t.setCtx c { x with early := x.early ++ [e] }
    else s

end Sys2Proof.Machine
end

