-- ==== Sys2Proof/Machine/Engine.lean ====
section
/-! DEFINITION. The copy engine and FENCE (R182 to R191 engines, R185 ordering, R390), and the notification of a
VCAPP (R44). -/

namespace Sys2Proof.Machine

/-! ### Events of a task (R193 engines) -/

/-- An event arrives: its cause is pending with its value; the newest value of a cause is kept (R193). It also
wakes a WAIT (R388). -/
def Context.raise (x : Context) (cause : Nat) (v : Word) : Context :=
  { x with
    wake := true
    ui := { x.ui with
      pend := x.ui.pend ||| (1#4 <<< (cause - 1)), held := x.ui.held.setIfInBounds (cause - 1) v } }

/-! ### Channels -/

/-- A channel holds at most 16 outstanding commands (R182). -/
def CopyChan.full (c : CopyChan) : Bool := 16 ≤ c.cmds.length

/-- An identifier is pending on a channel (R184). -/
def CopyChan.pending (c : CopyChan) (i : BitVec 32) : Bool := (i - c.done - 1).toNat < (c.next - c.done - 1).toNat

/-- XDONE advances over the completed prefix: the channel after, and the identifiers passed that notify (R183,
R188). -/
def advanceDone (c : CopyChan) : List CopyCmd → CopyChan × List (BitVec 32)
  | [] => ({ c with cmds := [] }, [])
  | m :: ms =>
    if m.st = .completed then
      let r := advanceDone { c with done := m.id } ms
      (r.1, if m.notify then m.id :: r.2 else r.2)
    else ({ c with cmds := m :: ms }, [])

/-- The value of user interrupt 0x01 (R193). -/
def copyValue (k : Nat) (id : BitVec 32) : Word := BitVec.ofNat 64 (id.toNat + k * 2 ^ 32)

/-- A command that notifies is done: user interrupt 0x01 is pending, now or when the environment lets it arrive. -/
def Context.noteCopy (x : Context) (v : Word) : Context :=
  match x.defer with
  | none => x.raise 0x01 v
  | some l => { x with defer := some (l ++ [v]) }

/-- Completions whose interrupt was on its way are pending. -/
def Context.undefer (x : Context) : Context :=
  match x.defer with
  | none => x
  | some l => l.foldl (fun y v => y.raise 0x01 v) { x with defer := none }

/-- A channel after some of its commands have completed: XDONE advances and notifies, and joins that all commands
have passed are gone. -/
def Context.advance (x : Context) (k : Nat) : Context :=
  let c := x.chan k
  let r := advanceDone c c.cmds
  let c' := { r.1 with joins := r.1.joins.filter fun j => !r.1.doneBefore j }
  r.2.foldl (fun y id => y.noteCopy (copyValue k id)) (x.setChan k c')

/-! ### The layout of an XCOPY (R186) -/

/-- Dimension i of a layout register: source stride and extent from row 0, destination stride from row 1. -/
def layoutDim (x : Context) (l i : Nat) : CopyDim :=
  let src := rowField 64 i (x.vrow l 0)
  let dst := rowField 64 i (x.vrow l 1)
  { ss := BitVec.ofInt 64 (intOf 40 true (src / 2 ^ 24)), ext := src % 2 ^ 24,
    ds := BitVec.ofInt 64 (intOf 40 true (dst / 2 ^ 24)) }

/-- Packed destination strides. -/
def packDims : Word → List CopyDim → List CopyDim
  | _, [] => []
  | ds, d :: rest => { d with ds := ds } :: packDims (ds * BitVec.ofNat 64 d.ext) rest

/-- The dimensions of an XCOPY under the shape in force. -/
def layoutDims (x : Context) (l : BitVec 5) : List CopyDim :=
  let dims := (List.range x.vcols).map (layoutDim x l.toNat)
  if 2 ≤ x.vrows then dims else packDims (BitVec.ofNat 64 (x.width / 8)) dims

/-- The lowest and highest byte of a list of element addresses (R188). -/
def interval (esz : Nat) (as : List Word) : Option (Nat × Nat) :=
  match as.map (·.toNat) with
  | [] => none
  | v :: vs => some (vs.foldl min v, vs.foldl max v + esz - 1)

/-- Two intervals meet. -/
def meets (a b : Option (Nat × Nat)) : Bool :=
  match a, b with
  | some (l, h), some (l', h') => l ≤ h' && l' ≤ h
  | _, _ => false

/-- A command conflicts with an earlier one of its channel (R188). -/
def conflicts (e c : CopyCmd) : Bool :=
  let es := interval e.esz (e.addrs.map (·.1))
  let ed := interval e.esz (e.addrs.map (·.2))
  let cs := interval c.esz (c.addrs.map (·.1))
  let cd := interval c.esz (c.addrs.map (·.2))
  meets cd es || meets cd ed || meets cs ed

/-! ### XCOPY (R187) -/

/-- The operands of XCOPY as read at issue. -/
structure CopyReq where
  d : BitVec 5
  src : Word
  dst : Word
  chan : Nat
  notify : Bool
  layout : BitVec 5

/-- The refusals of XCOPY that raise trap 0x03. -/
def CopyReq.legal (r : CopyReq) (x : Context) : Bool :=
  x.width ≠ 4 && x.vcols ≤ 8 && dimCount (layoutDims x r.layout) * (x.width / 8) < 2 ^ 40

/-- The first misaligned value of an XCOPY. -/
def CopyReq.misaligned (r : CopyReq) (x : Context) : Option Word :=
  let dims := layoutDims x r.layout
  ([r.src, r.dst] ++ dims.map (·.ss) ++ dims.map (·.ds)).find? fun v => v.toNat % (x.width / 8) != 0

/-- The command of an XCOPY, with the space and level captured at issue. -/
def CopyReq.command (r : CopyReq) (x : Context) (id : BitVec 32) : CopyCmd :=
  let c : CopyCmd := { id := id, src := r.src, dst := r.dst, esz := x.width / 8, dims := layoutDims x r.layout,
                       notify := r.notify, space := x.space, sup := x.sup, st := .queued }
  if x.zeroShape || c.empty then { c with st := .completed } else c

/-- A channel with room takes the command: the identifier goes to sd. -/
def enqueue (r : CopyReq) (s : State) : State :=
  s.retireWith fun x =>
    let c := x.chan r.chan
    let y := x.setChan r.chan { c with next := c.next + 1, cmds := c.cmds ++ [r.command x c.next] }
    (y.advance r.chan).setReg r.d (BitVec.ofNat 64 c.next.toNat)

/-- XCOPY at its channel: a delivered fault restarts it, an undelivered one of a full channel traps, and a full
channel makes it wait. -/
def enterChannel (i : Instr) (r : CopyReq) (s : State) : State :=
  let c := s.cx.chan r.chan
  if c.stopped && !c.dlv && c.full then deliver s r.chan
  else
    let c' := if c.stopped && c.dlv then c.restart else c
    let s := s.mapCx (·.setChan r.chan c')
    if c'.full then s.waitIn .room i [] else enqueue r s

/-- The operands of an XCOPY word. -/
def copyReq (d a b : BitVec 5) (c : BitVec 2) (n : BitVec 1) (l : BitVec 5) (x : Context) : CopyReq :=
  { d := d, src := x.reg a, dst := x.reg b, chan := c.toNat, notify := n == 1, layout := l }

/-- XCOPY (R187, R390). -/
def execXcopy (d a b : BitVec 5) (c : BitVec 2) (n : BitVec 1) (l : BitVec 5) (s : State) :
    Host.Outcome State Fault Refusal :=
  let i : Instr := .xcopy d a b c n l
  let r := copyReq d a b c n l s.cx
  match s.cx.vectorCheck (wordOf i) [l.toNat] none false (r.legal s.cx) with
  | some t => .next (takeTrap s t)
  | none =>
    match r.misaligned s.cx with
    | some v => .next (takeTrap s (.issue 0x04 v))
    | none =>
      if s.planesDead then .next (takeTrap s (.issue 0x14 0))
      else .next (enterChannel i r ((forceCommit s).mapCx (·.capture [l.toNat])))

/-- XCOPY_ENQUEUE (R187): a stalled XCOPY finds room, or finds that its channel has stopped. -/
def execXcopyEnqueue (c : Nat) (s : State) : Host.Outcome State Fault Refusal :=
  if !ctxInRange c then .fault .noSuchPart
  else if saveDue s c then .next s
  else match (s.ctxAt c).wait with
    | some { kind := .room, instr := .xcopy d a b k n l, .. } =>
      let ch := (s.ctxAt c).chan k.toNat
      if s.planesDead then .next (s.within c fun s => takeTrap s (.issue 0x14 0))
      else if ch.full && !ch.stopped then .next s
      else .next (s.within c fun s =>
        enterChannel (.xcopy d a b k n l) (copyReq d a b k n l s.cx) (s.mapCx fun x => { x with wait := none }))
    | _ => .next s

/-! ### XWAIT (R189): when it retires, no later access has been performed (R190 ordering) -/

/-- XWAIT on a channel that is not stopped, or whose delivered fault it restarts. A pending command may need a plane
(R210). -/
def waitId (i : Instr) (k : Nat) (id : BitVec 32) (s : State) : State :=
  let c := s.cx.chan k
  if c.stopped && !c.dlv then deliver s k
  else
    let c' := if c.stopped then c.restart else c
    let s := s.mapCx (·.setChan k c')
    if !c'.pending id then s.mapCx fun x => { x with early := [] }.retire
    else if s.planesDead && c'.needsPlane s s.cur (id + 1) then takeTrap s (.issue 0x14 0)
    else s.waitIn .xwait i [(k, id)]

/-- XWAIT (R189 engines). -/
def execXwait (a : BitVec 5) (c : BitVec 2) (s : State) : Host.Outcome State Fault Refusal :=
  .next (waitId (.xwait a c) c.toNat ((s.cx.reg a).setWidth 32) s)

/-- XWAIT_RETIRE (R189 engines): the identifier is no longer pending, or the channel has stopped. A moult suspends the wait
(R211). -/
def execXwaitRetire (c : Nat) (s : State) : Host.Outcome State Fault Refusal :=
  if !ctxInRange c then .fault .noSuchPart
  else if saveDue s c then .next s
  else match (s.ctxAt c).wait with
    | some { kind := .xwait, marks := (k, id) :: _, .. } =>
      let ch := (s.ctxAt c).chan k
      if !s.flows then .next s
      else if ch.stopped then .next (s.within c fun s => deliver (s.mapCx fun x => { x with wait := none }) k)
      else if !ch.pending id then .next (s.within c fun s => s.mapCx fun x => { x with early := [] }.retire)
      else if s.planesDead && ch.needsPlane s c (id + 1) then .next (s.within c fun s => takeTrap s (.issue 0x14 0))
      else .next s
    | _ => .next s

/-! ### FENCE (R185 ordering) -/

/-- The channels and scope of a FENCE word. -/
def fenceOrder (m : BitVec 13) (p : BitVec 3) : Order := { mask := m.toNat, scope := p.toNat }

/-- FENCE (R185): an empty mask has no effect. -/
def execFence (m : BitVec 13) (p : BitVec 3) (s : State) : Host.Outcome State Fault Refusal :=
  if m = 0 then .next (s.mapCx (·.retire))
  else .next (orderBefore (.plain (fenceOrder m p) (·.mapCx (·.retire))) (.fence m p) s)

/-! ### A command runs (R188, R190) -/

/-- The accesses of a command: under the space and level captured at issue. -/
def CopyCmd.acc (c : CopyCmd) (ctx : Nat) : Acc := { space := c.space, sup := c.sup, ctx := ctx }

/-- A command of a channel. -/
def CopyChan.cmd (c : CopyChan) (id : BitVec 32) : Option CopyCmd := c.cmds.find? (·.id == id)

/-- A change to one command of a channel. -/
def CopyChan.setCmd (c : CopyChan) (id : BitVec 32) (st : CmdState) : CopyChan :=
  { c with cmds := c.cmds.map fun m => if m.id == id then { m with st := st } else m }

/-- A command may start: its channel runs, the commands before it have started, those it conflicts with have
completed, and no join stands before it (R188). -/
def mayStart (ch : CopyChan) (c : CopyCmd) : Bool :=
  c.st == .queued && !ch.stopped
    && (ch.cmds.takeWhile (·.id != c.id)).all (fun e => e.st != .queued && (!conflicts e c || e.st == .completed))
    && ch.joins.all fun j => precedes c.id j || ch.doneBefore j

/-- The failing bytes of a command: address, whether on the destination side, cause (R190). -/
def copyFailures (s : State) (a : Acc) (c : CopyCmd) : List (Nat × Bool × Nat) :=
  c.addrs.flatMap fun e =>
    (match resolve s a .load e.1.toNat with
      | .error k => [(e.1.toNat, false, k)]
      | .ok _ => [])
      ++ (match resolve s a .store e.2.toNat with
        | .error k => [(e.2.toNat, true, k)]
        | .ok _ => [])

/-- The failing byte that XFLT records: the lowest address, and at one address the source byte. -/
def lowestFault : List (Nat × Bool × Nat) → Option (Nat × Bool × Nat)
  | [] => none
  | f :: fs =>
    match lowestFault fs with
    | none => some f
    | some g => if g.1 < f.1 || (g.1 = f.1 && f.2.1 && !g.2.1) then some g else some f

/-- The channel stops on a command's fault. -/
def CopyChan.stop (ch : CopyChan) (id : BitVec 32) (f : Nat × Bool × Nat) : CopyChan :=
  { ch.setCmd id .faulted with
    cause := BitVec.ofNat 8 f.2.2, side := f.2.1, dlv := false, fid := id, faddr := BitVec.ofNat 64 f.1 }

/-- A command's translations, made and kept: A and D are set, and the entries used stay with the command. -/
def touchCopy (a : Acc) : List (Word × Word) → State → List TlbEntry × State
  | [], s => ([], s)
  | e :: es, s =>
    let one (k : AccKind) (va : Word) (r : List TlbEntry × State) : List TlbEntry × State :=
      match resolve r.2 a k va.toNat with
      | .error _ => r
      | .ok p => (r.1 ++ p.page.toList, touch r.2 a k p)
    let r := one .store e.2 (one .load e.1 ([], s))
    let t := touchCopy a es r.2
    ((r.1 ++ t.1).dedup, t.2)

/-- COPY_COMMAND_START's effect on channel k of the current context; a channel that stops wakes a WAIT (R388). -/
def startCommand (k : Nat) (c : CopyCmd) (s : State) : State :=
  let a := c.acc s.cur
  match lowestFault (copyFailures s a c) with
  | some f => s.mapCx fun x => { x.setChan k ((x.chan k).stop c.id f) with wake := true }
  | none =>
    let t := touchCopy a c.addrs s
    t.2.mapCx fun x => x.setChan k ((x.chan k).setCmd c.id (.started t.1 [] []))

/-- The fabric and the translations run: no moult, no migration, a live plane. -/
def State.busOpen (s : State) : Bool := s.flows && !s.planesDead

/-- A command may go on at all: the fabric and the translations run, or it stays in its tile and nothing migrates (R210,
R211 step 1). -/
def copyRuns (s : State) (ctx : Nat) (c : CopyCmd) : Bool := s.busOpen || (s.migration.isNone && c.carried s ctx)

/-- COPY_COMMAND_START (R188, R190). -/
def execCopyCommandStart (ctx chan : Nat) (id : BitVec 32) (s : State) : Host.Outcome State Fault Refusal :=
  if !(ctxInRange ctx && chan < 4) then .fault .noSuchPart
  else
    let ch := (s.ctxAt ctx).chan chan
    match ch.cmd id with
    | some c => if mayStart ch c && copyRuns s ctx c then .next (s.within ctx (startCommand chan c)) else .next s
    | none => .next s

/-- The place of an address by a kept entry, or in a local window. -/
def keptPlace (s : State) (a : Acc) (pages : List TlbEntry) (va : Nat) : Option Place :=
  match pages.find? fun e => va / 2 ^ e.size * 2 ^ e.size == e.va with
  | some e =>
    let pa := e.frame + va % 2 ^ e.size
    some { loc := nodePlace e.node pa, key := e.key, enc := storedEncrypted pa e.key,
           cls := if a.sup then .uncounted
                  else if e.node = s.node && e.size = 16 && e.shd then .versioned else .unversioned,
           page := some e }
  | none =>
    (windowPlace s a.ctx va).map fun loc => { loc := loc, key := 0, enc := false, cls := .uncounted, page := none }

/-- What a read of one element's bytes gives, and whether a byte is poisoned. -/
def copyData (s : State) (a : Acc) (pages : List TlbEntry) (c : CopyCmd) (va : Word) : Option (List Byte × Bool) :=
  (keptPlace s a pages va.toNat).map fun p =>
    (fetchBytes s.keys s.mem p.loc p.key p.enc c.esz, s.poisoned p.loc)

/-- A read of a command evicts a line that is present under another key index (R153). -/
def copyTouch (s : State) (a : Acc) (pages : List TlbEntry) (va : Word) : State :=
  match keptPlace s a pages va.toNat with
  | none => s
  | some p => { s with plain := otherKey s.plain p.loc p.key }

/-- What a command has still to write: for each element its destination, its bytes, and whether a byte is poisoned. -/
def copyRest (s : State) (a : Acc) (pages : List TlbEntry) (c : CopyCmd) (got : Tab (List Byte × Bool))
    (put : List Nat) : List (Word × List Byte × Bool) :=
  c.addrs.zipIdx.filterMap fun e =>
    if put.contains e.2 then none
    else ((tabFind got e.2).or (copyData s a pages c e.1.1)).map fun d => (e.1.2, d.1, d.2)

/-- One element written at its home in a copy channel; poison goes with the data (R256). Reads of the context that were
performed early stand: a copy orders nothing (R184, R187). -/
def copyWrite (ctx k : Nat) (a : Acc) (pages : List TlbEntry) (s : State) (e : Word × List Byte × Bool) : State :=
  match keptPlace s a pages e.1.toNat with
  | none => s
  | some p =>
    let w := p.write (8 + k) e.2.1
    let t := performAt (countWrite s (s.ctxAt ctx).launchNo w) w
    if e.2.2 then { t with poison := tabSet t.poison (p.loc / 64) (BitVec.allOnes 128) } else t

/-- An access of a command reaches its home behind every write of the tile that was accepted before it (R181). -/
def copyArrives (s : State) (ctx k : Nat) (a : Acc) (pages : List TlbEntry) (c : CopyCmd) (va : Word) : Bool :=
  match keptPlace s a pages va.toNat with
  | none => true
  | some p => arrivesLast s ctx (p.write (8 + k) (List.replicate c.esz 0))

/-- One access of a command may be made now: it stays in its tile, or the fabric runs (R210, R211 step 1). -/
def copyReaches (s : State) (ctx k : Nat) (a : Acc) (pages : List TlbEntry) (c : CopyCmd) (va : Word) : Bool :=
  (s.busOpen || (s.migration.isNone && tileWindow s ctx va.toNat)) && copyArrives s ctx k a pages c va

/-- No write of the context's tile is accepted and not yet performed. -/
def noneAccepted (s : State) (ctx : Nat) : Bool := (tileContexts ctx).all fun d => (s.ctxAt d).pend.all (·.acc.isNone)

/-- All that a started command still does may be done now. -/
def mayComplete (s : State) (ctx k : Nat) (c : CopyCmd) (pages : List TlbEntry) : Bool :=
  noneAccepted s ctx || c.addrs.all fun e =>
    copyArrives s ctx k (c.acc ctx) pages c e.1 && copyArrives s ctx k (c.acc ctx) pages c e.2

/-- COPY_COMMAND_COMPLETE's effect: what is left to read is read, and then what is left to write is written in element
order; XDONE advances, and those that notify raise user interrupt 0x01 (R187, R188). -/
def completeCommand (k : Nat) (c : CopyCmd) (pages : List TlbEntry) (got : Tab (List Byte × Bool)) (put : List Nat)
    (s : State) : State :=
  let a := c.acc s.cur
  let u := c.addrs.zipIdx.foldl (fun u e => if (tabFind got e.2).isSome then u else copyTouch u a pages e.1.1) s
  let t := (copyRest s a pages c got put).foldl (copyWrite s.cur k a pages) u
  t.mapCx fun x => (x.setChan k ((x.chan k).setCmd c.id .completed)).advance k

/-- COPY_COMMAND_COMPLETE (R188). -/
def execCopyCommandComplete (ctx chan : Nat) (id : BitVec 32) (s : State) : Host.Outcome State Fault Refusal :=
  if !(ctxInRange ctx && chan < 4) then .fault .noSuchPart
  else
    match ((s.ctxAt ctx).chan chan).cmd id with
    | some c =>
      match c.st with
      | .started pages got put =>
        if copyRuns s ctx c && mayComplete s ctx chan c pages then .next (s.within ctx (completeCommand chan c pages got put))
        else .next s
      | _ => .next s
    | none => .next s

/-- Two elements of a command write a byte in common, by one address or by two of the same place. -/
def sameByte (s : State) (a : Acc) (pages : List TlbEntry) (c : CopyCmd) (m e : Word × Word) : Bool :=
  match keptPlace s a pages m.2.toNat, keptPlace s a pages e.2.toNat with
  | some p, some q => p.loc < q.loc + c.esz && q.loc < p.loc + c.esz
  | _, _ => false

/-- Element m of a started command is read, or, once every element is read, written: the elements of a copy are performed
separately (R179, R187, R188). Of two that write one byte the higher number comes last. -/
def copyElement (k : Nat) (id : BitVec 32) (m : Nat) (s : State) : State :=
  let ch := s.cx.chan k
  match ch.cmd id with
  | none => s
  | some c =>
    match c.st, c.addrs[m]? with
    | .started pages got put, some e =>
      let a := c.acc s.cur
      match tabFind got m with
      | none =>
        match (if copyReaches s s.cur k a pages c e.1 then copyData s a pages c e.1 else none) with
        | none => s
        | some d =>
          (copyTouch s a pages e.1).mapCx (·.setChan k (ch.setCmd id (.started pages (tabSet got m d) put)))
      | some d =>
        let first := (c.addrs.take m).zipIdx.all fun f => put.contains f.2 || !sameByte s a pages c f.1 e
        if got.length = c.addrs.length && !put.contains m && first && copyReaches s s.cur k a pages c e.2 then
          (copyWrite s.cur k a pages s (e.2, d)).mapCx
            (·.setChan k (ch.setCmd id (.started pages got (m :: put))))
        else s
    | _, _ => s

/-! ### The notification of a VCAPP (R44) -/

/-- An item of an append is not yet performed. -/
def Append.waits (a : Append) (x : Context) : Bool :=
  x.pend.any fun w => a.items.any fun i => w.loc == i.loc && w.strm == i.strm && w.bytes == i.bytes

/-- VCAPP_THRESHOLD_NOTIFY (R44). -/
def execVcappThresholdNotify (ctx idx : Nat) (s : State) : Host.Outcome State Fault Refusal :=
  if !ctxInRange ctx then .fault .noSuchPart
  else
    let x := s.ctxAt ctx
    match x.appends[idx]? with
    | none => .next s
    | some a =>
      if a.waits x then .next s
      else
        let s := s.setCtx ctx { x with appends := x.appends.eraseIdx idx }
        .next (s.setCtx a.target ((s.ctxAt a.target).raise 0x02 a.tail))

end Sys2Proof.Machine
end

