-- ==== Sys2Proof/Machine/Fabric.lean ====
section
/-! DEFINITION. Messages between contexts: SEND and RECV, grant requests, grants, and arrivals (R204 to R208, R356). -/

namespace Sys2Proof.Machine

/-! ### Receive slots -/

def Context.slot (x : Context) (t : Nat) : RecvSlot := x.recv.toList.getD t .empty
def Context.setSlot (x : Context) (t : Nat) (k : RecvSlot) : Context :=
  { x with recv := x.recv.setIfInBounds t k }

/-- A started task is on the context (R206). -/
def Context.holdsTask (x : Context) : Bool := x.task.isSome && x.start.isNone

/-- What becomes of a grant request at its destination (R206). -/
inductive Verdict where
  | grant | refuse | hold
  deriving DecidableEq, Repr

/-- The conditions of a grant. -/
def judge (x : Context) (r : GrantReq) : Verdict :=
  if !x.holdsTask then .hold
  else if !(r.sup || x.space.asid == r.asid) then .refuse
  else if x.slot r.tag = .empty then .grant
  else .hold

/-- A reply goes back to a sender of this node; that to a peer leaves the module, where a grant stands until its message
comes or it is returned. -/
def State.reply (s : State) (r : GrantReq) (ok : Bool) : State :=
  if r.node = s.node || ok then { s with fab := { s.fab with replies := s.fab.replies ++ [(r, ok)] } } else s

/-- A request served at its destination: true where it is settled. -/
def serve (s : State) (r : GrantReq) : Bool × State :=
  let x := s.ctxAt r.dst
  match judge x r with
  | .hold => (false, s)
  | .refuse => (true, s.reply r false)
  | .grant => (true, (s.setCtx r.dst (x.setSlot r.tag (.reserved r.node r.sender))).reply r true)

/-- Waiting requests in their order of arrival: those that are settled leave the list. A request of another ASID is refused
when it is looked at, also while an earlier one for its slot still waits (R206; log entry 95). -/
def serveAll : List GrantReq → State → List GrantReq × State
  | [], s => ([], s)
  | r :: rs, s =>
    let v := serve s r
    let t := serveAll rs v.2
    (if v.1 then t.1 else r :: t.1, t.2)

/-- The requests that wait at this node are looked at again: a slot was freed, or a context took up a task. -/
def serveWaiting (s : State) : State :=
  let t := serveAll s.fab.waiting s
  { t.2 with fab := { t.2.fab with waiting := t.1 } }

/-- A task saved off a context may hold a reservation of a slot of it (R208). -/
def State.savedFrom (s : State) (ctx : Nat) : Bool := s.mill.saved.any (·.ctx == ctx)

/-- A grant is returned: its slot is no longer reserved, or will not be once the task that holds the reservation in its
cocoon is on the context again (R206, R208). -/
def returnGrant (s : State) (r : GrantReq) : State :=
  let x := s.ctxAt r.dst
  if x.slot r.tag = .reserved r.node r.sender then s.setCtx r.dst (x.setSlot r.tag .empty)
  else if s.savedFrom r.dst then { s with fab := { s.fab with returned := s.fab.returned ++ [r] } }
  else s

/-- The requests of some senders are withdrawn, and the grants that they had received of this node are returned (R206). -/
def withdrawAll (mine : GrantReq → Bool) (s : State) : State :=
  let granted := s.fab.replies.filter fun e => mine e.1 && e.2 && e.1.dstNode == s.node
  let t := { s with fab := { s.fab with
    requests := s.fab.requests.filter fun r => !mine r
    waiting := s.fab.waiting.filter fun r => !mine r
    replies := s.fab.replies.filter fun e => !mine e.1 } }
  serveWaiting (granted.foldl (fun t e => returnGrant t e.1) t)

/-- A context's own request is withdrawn, and a grant it had received is returned (R206). -/
def withdraw (c : Nat) (s : State) : State := withdrawAll (fun r => r.node == s.node && r.sender == c) s

/-- Reservations that a context's task brings back, and whose grants were returned meanwhile, are gone (R206). -/
def dropReturned (c : Nat) (s : State) : State :=
  s.fab.returned.foldl (fun t r =>
    let x := t.ctxAt c
    if r.dst = c && x.slot r.tag = .reserved r.node r.sender then
      let u := t.setCtx c (x.setSlot r.tag .empty)
      { u with fab := { u.fab with returned := u.fab.returned.erase r } }
    else t) s

/-! ### SEND (R205, R206) -/

/-- The destination context of a destination word. -/
def destContext (w : Nat) : Nat :=
  2 * (192 * (w / 2 ^ 10 % 2) + 4 * (w / 2 ^ 11 % 64) + w / 2 ^ 17 % 4) + w / 2 ^ 19 % 2

/-- A destination word names a slot of a context of a node (R205, R206). -/
def destLegal (s : State) (w tag : Nat) : Bool :=
  w < 2 ^ 22 && w / 2 ^ 20 == tag && w / 2 ^ 11 % 64 ≤ 47 && s.nodeExists (w % 1024)

/-- The plane of a message or grant request for a slot: that of the bucket of its 24-bit value (R205). -/
def messagePlane (map : BitVec 128) (node dst tag : Nat) : Nat :=
  planeOf map (bucket 4 (node * 4096 + dst / 2 * 8 + dst % 2 * 4 + tag))

/-- The plane of a grant request. -/
def GrantReq.plane (r : GrantReq) (s : State) : Nat := messagePlane s.fab.map r.dstNode r.dst r.tag

/-- Two grant requests come from one tile, to one context, on one plane: they arrive in order (R200). -/
def GrantReq.ordered (s : State) (a b : GrantReq) : Bool :=
  a.node == b.node && tileOf a.sender == tileOf b.sender && a.dstNode == b.dstNode && a.dst == b.dst
    && a.plane s == b.plane s

/-- The message that a SEND captures. -/
def captured (s : State) (v : BitVec 5) : Message :=
  let x := s.cx
  { rows := x.vrows, cols := x.vcols, width := x.width,
    data := (List.range x.vrows).map fun r => BitVec.ofNat 2048 (x.vrow v.toNat r % 2 ^ (x.vcols * x.width)),
    scales := if isBlocked x.et then
        (List.range (min x.nblk 64)).map fun b => BitVec.ofNat 9 (x.scaleByte v.toNat b)
      else [],
    node := s.node, sender := s.cur }

/-- The grant request of a SEND. -/
def grantReq (s : State) (w tag : Nat) : GrantReq :=
  { node := s.node, sender := s.cur, asid := s.cx.space.asid, sup := s.cx.sup, dstNode := w % 1024,
    dst := destContext w, tag := tag }

/-- SEND (R206, R356). -/
def execSend (v a : BitVec 5) (t : BitVec 2) (s : State) : Host.Outcome State Fault Refusal :=
  let i : Instr := .send v a t
  let w := s.cx.reg a
  match s.cx.vectorCheck (wordOf i) [v.toNat] none false true with
  | some tr => .next (takeTrap s tr)
  | none =>
    if !destLegal s w.toNat t.toNat then .next (takeTrap s (.issue 0x09 w))
    else if s.planesDead then .next (takeTrap s (.issue 0x14 0))
    else
      let s := (forceCommit s).mapCx (·.capture [v.toNat])
      let r := grantReq s w.toNat t.toNat
      .next ({ s with fab := { s.fab with requests := s.fab.requests ++ [r] } }.waitIn .grant i [])

/-- GRANT_REQUEST (R200, R206): a request reaches its destination on this node, behind those that wait there and after
those of its tile that it must not pass. -/
def execGrantRequest (idx : Nat) (s : State) : Host.Outcome State Fault Refusal :=
  match s.fab.requests[idx]? with
  | none => .next s
  | some r =>
    if r.dstNode ≠ s.node || !s.flows || s.planesDead || (s.fab.requests.take idx).any (·.ordered s r) then .next s
    else .next (serveWaiting { s with fab := { s.fab with
      requests := s.fab.requests.eraseIdx idx, waiting := s.fab.waiting ++ [r] } })

/-- The message of a granted SEND sets out, and the SEND retires. -/
def sendMessage (v a : BitVec 5) (t : BitVec 2) (s : State) : State :=
  let w := (s.cx.reg a).toNat
  let f : Flight := { plane := messagePlane s.fab.map (w % 1024) (destContext w) t.toNat, dstNode := w % 1024,
                      dst := destContext w, tag := t.toNat, msg := captured s v }
  { s with fab := { s.fab with flights := s.fab.flights ++ [f] } }.mapCx (·.retire)

/-- A reply answers the request of the SEND that the current context waits in. -/
def repliesTo (s : State) (a : BitVec 5) (t : BitVec 2) (granted : Bool) (e : GrantReq × Bool) : Bool :=
  e.1 == grantReq s (s.cx.reg a).toNat t.toNat && e.2 == granted

/-- GRANT_REPLY (R206): a grant, or a refusal, reaches the SEND; with no live plane it traps (R210). -/
def execGrantReply (ctx : Nat) (granted : Bool) (s : State) : Host.Outcome State Fault Refusal :=
  if !ctxInRange ctx then .fault .noSuchPart
  else if saveDue s ctx then .next s
  else
    match (s.ctxAt ctx).wait with
    | some { kind := .grant, instr := .send v a t, .. } =>
      if s.planesDead then .next (s.within ctx fun s => takeTrap (withdraw ctx s) (.issue 0x14 0))
      else match s.fab.replies.find? (repliesTo { s with cur := ctx } a t granted) with
        | some e =>
          if !s.flows then .next s
          else
            let s := { s with fab := { s.fab with replies := s.fab.replies.erase e } }
            .next (s.within ctx fun s =>
              if granted then sendMessage v a t s else takeTrap s (.issue 0x09 (s.cx.reg a)))
        | none => .next s
    | _ => .next s

/-- A message of this module can reach its slot. -/
def arrives (s : State) (f : Flight) : Bool :=
  f.dstNode == s.node && ((s.ctxAt f.dst).slot f.tag == .reserved f.msg.node f.msg.sender || !s.savedFrom f.dst)

/-- The message that a slot takes next: the first one on its way to it that it is reserved for, or that can only be
discarded (R207, R208). -/
def nextArrival (s : State) (ctx tag : Nat) : Option Flight :=
  s.fab.flights.find? fun f => f.dst == ctx && f.tag == tag && arrives s f

/-- MESSAGE_ARRIVAL (R207): the message of the reservation's holder fills the slot; one whose slot is no longer
reserved for it is discarded (R208), but waits while a task saved off the context may hold its reservation. A moult delivers
what was accepted before it (R211 steps 2 and 3). -/
def execMessageArrival (ctx tag : Nat) (s : State) : Host.Outcome State Fault Refusal :=
  if !(ctxInRange ctx && tag < 4) then .fault .noSuchPart
  else
    match nextArrival s ctx tag with
    | none => .next s
    | some f =>
      if s.migration.isSome || s.planesDead then .next s
      else
        let x := s.ctxAt ctx
        let t := { s with fab := { s.fab with flights := s.fab.flights.erase f } }
        if x.slot tag = .reserved f.msg.node f.msg.sender then
          let v := BitVec.ofNat 64 (tag + f.msg.node * 4 + f.msg.sender * 2 ^ 12)
          .next (t.setCtx ctx ((x.setSlot tag (.full f.msg)).raise 0x03 v))
        else .next t

/-! ### RECV (R207) -/

/-- Row r of the register that a RECV writes: its in-shape bits come from the message, its tail follows ta. Of an element
that straddles the end of the message's row the bits below that end come from it, and the others are zero (log entry 95). -/
def recvRow (x : Context) (m : Message) (v r : Nat) : Nat :=
  let n := x.vcols * x.width
  let bits := if r < m.rows then (m.data.getD r 0).toNat % 2 ^ (m.cols * m.width) else 0
  let tail := if x.vtype.ta then 0 else x.vrow v r / 2 ^ n * 2 ^ n
  bits % 2 ^ n + tail

/-- The register after a RECV: only vD itself is written, whatever G holds. -/
def Context.receive (x : Context) (v : Nat) (m : Message) : Context :=
  if x.zeroShape then x
  else
    let y := (List.range x.vrows).foldl (fun y r => y.setVrow v r (recvRow x m v r)) x
    let y := if x.vtype.ta then
        ((List.range 32).filter fun r => x.vrows ≤ r).foldl (fun y r => y.setVrow v r 0) y
      else y
    if isBlocked x.et then
      (List.range 64).foldl (fun y b =>
        if b < x.nblk then y.setScaleByte v b (m.scales.getD b 127).toNat
        else if x.vtype.ta then y.setScaleByte v b 0xFF else y) y
    else y

/-- RECV consumes a message: the slot is empty, and the oldest waiting request is granted. -/
def consumeSlot (v : BitVec 5) (t : Nat) (m : Message) (s : State) : State :=
  serveWaiting ((allocate s [v.toNat]).retireWith fun x => (x.receive v.toNat m).setSlot t .empty)

/-- RECV (R207, R356). -/
def execRecv (v : BitVec 5) (t : BitVec 2) (s : State) : Host.Outcome State Fault Refusal :=
  let i : Instr := .recv v t
  match s.cx.vectorCheck (wordOf i) [v.toNat] none false true with
  | some tr => .next (takeTrap s tr)
  | none =>
    if s.planesDead then .next (takeTrap s (.issue 0x14 0))
    else
      let s := forceCommit s
      match s.cx.slot t.toNat with
      | .full m => .next (consumeSlot v t.toNat m s)
      | _ => .next (s.waitIn .recv i [])

/-- RECV_SLOT_FULL (R207). -/
def execRecvSlotFull (ctx : Nat) (s : State) : Host.Outcome State Fault Refusal :=
  if !ctxInRange ctx then .fault .noSuchPart
  else if saveDue s ctx then .next s
  else match (s.ctxAt ctx).wait with
    | some { kind := .recv, instr := .recv v t, .. } =>
      match (s.ctxAt ctx).slot t.toNat with
      | .full m => if s.flows then .next (s.within ctx (consumeSlot v t.toNat m)) else .next s
      | _ => if s.planesDead then .next (s.within ctx fun s => takeTrap s (.issue 0x14 0)) else .next s
    | _ => .next s

end Sys2Proof.Machine
end

