-- ==== Sys2Proof/Machine/UserInt.lean ====
section
/-! DEFINITION. User interrupts: taking one and UIRET (R192 to R195 engines). -/

namespace Sys2Proof.Machine

/-- s24 to s31 and the shadow set change places (R194, R195). -/
def Context.swapShadow (x : Context) : Context :=
  { x with
    regs := Vector.ofFn fun r : Fin 32 => if h : 24 ≤ r.val then x.ui.shadow[r.val - 24] else x.regs[r]
    ui := { x.ui with shadow := Vector.ofFn fun r : Fin 8 => x.regs[r.val + 24] } }

/-- A wait that a user interrupt may break off: XWAIT, RECV, SEND, a FENCE or release, VSHAPE and XCOPY. A WAIT
retires first (R194, R388). -/
def WaitKind.breaks : WaitKind → Bool
  | .xwait | .recv | .grant | .order | .lanes | .room => true
  | _ => false

/-- The context stands before a convoy that has not issued, or in a wait that an interrupt may break off. A WAIT out of which
its task was saved executes again first (R389). -/
def Context.interruptible (x : Context) : Bool :=
  x.task.isSome && x.start.isNone && !x.stopped && !x.saving && !x.ended && x.rewaits != some x.convoyStart && x.qfault.isNone
    && x.queue.isEmpty && match x.wait with
    | some w => w.kind.breaks
    | none =>
      match x.cvy with
      | some v => v.regs.isNone
      | none => true

/-- The lowest cause that is pending and enabled, if any. -/
def UserInt.next (u : UserInt) : Option Nat :=
  [1, 2, 3, 4].find? fun c => (u.pend &&& u.en).getLsbD (c - 1)

/-- The interrupt of a cause is taken (R194): the instruction that waited, or the convoy not yet issued, is where
the task resumes. -/
def takeInterrupt (c : Nat) (s : State) : State :=
  s.mapCx fun x =>
    let loops := match x.cvy with
      | some v => v.loops0
      | none => x.loops
    let v := x.ui.held.toList.getD (c - 1) 0
    let y := { x with
      loops := loops, pc := x.ui.vec, cvy := none, wait := none
      tally := { x.tally with interrupts := x.tally.interrupts + 1 }
      strip := { x.strip with taken := x.strip.taken ++ [(c, v)] }
      ui := { x.ui with
        pend := x.ui.pend &&& ~~~(1#4 <<< (c - 1)), epc := x.convoyStart, cause := BitVec.ofNat 8 c, val := v,
        act := true } }
    y.swapShadow

/-- A user interrupt may be taken now. A moult does not hold it up (R213), and a save that is due comes first (R226). -/
def interruptReady (s : State) (ctx : Nat) : Bool :=
  let x := s.ctxAt ctx
  !x.sup && !x.ui.act && x.interruptible && s.migration.isNone && !saveDue s ctx && x.ui.next.isSome

/-- USER_INTERRUPT_TAKE (R194). -/
def execUserInterruptTake (ctx : Nat) (s : State) : Host.Outcome State Fault Refusal :=
  if !ctxInRange ctx then .fault .noSuchPart
  else
    match (s.ctxAt ctx).ui.next with
    | none => .next s
    | some c =>
      if interruptReady s ctx then .next (s.within ctx fun s => takeInterrupt c (withdraw ctx s)) else .next s

/-- UIRET (R195, R362). -/
def execUiret (s : State) : Host.Outcome State Fault Refusal :=
  if s.cx.sup || !s.cx.ui.act then .next (takeTrap s (.issue 0x01 (BitVec.ofNat 64 (wordOf .uiret))))
  else .next (s.mapCx fun x =>
    let y := x.swapShadow
    { y.goto x.ui.epc with ui := { y.ui with act := false } })

end Sys2Proof.Machine
end

