-- ==== Sys2Proof/Machine/Code.lean ====
section
/-! DEFINITION. Code maintenance and hints: DCWB, IINV, FETCHB, PREF, NOP (R267, R268, R311, R355), and WAIT
(R388, R389). -/

namespace Sys2Proof.Machine

/-! ### The range of a code word (R267) -/

/-- The addresses of the n + 1 blocks from the one that holds an address, upward modulo 2^55. Bits 63:55 of the
address stay with each, so that no such block translates (R141). -/
def codeBlocks (a : Word) (n : BitVec 12) : List Nat :=
  let lo := a.toNat % 2 ^ 55 / 64 * 64
  (List.range (n.toNat + 1)).map fun i => a.toNat / 2 ^ 55 * 2 ^ 55 + (lo + 64 * i) % 2 ^ 55

/-- The lines that the blocks of a DCWB lie in, or the trap of the first that does not translate as a read. -/
def blockLines (s : State) (a : Acc) : List Nat → Except Trap (List Nat)
  | [] => .ok []
  | va :: rest =>
    match resolve s a .load va with
    | .error e => .error (.issue e (BitVec.ofNat 64 va))
    | .ok p =>
      match blockLines s a rest with
      | .error t => .error t
      | .ok ls => .ok (p.loc / 64 :: ls)

/-- The lines that the blocks of an IINV lie in: those that translate as a fetch and are no local window. -/
def codeLines (s : State) (a : Acc) (blocks : List Nat) : List Nat :=
  blocks.filterMap fun va =>
    match resolve s a .fetch va with
    | .error _ => none
    | .ok p => if isLocalPlace p.loc then none else some (p.loc / 64)

/-! ### DCWB -/

/-- Every earlier write of the context to the lines is performed. -/
def linesDone (x : Context) (lines : List Nat) : Bool := x.pend.all fun w => !lines.contains (w.loc / 64)

/-- A write to the lines that is not yet performed needs a plane, and none is live (R210). -/
def linesStuck (s : State) (lines : List Nat) : Bool :=
  s.planesDead && s.cx.pend.any fun w => lines.contains (w.loc / 64) && !w.carried s.cur

/-- DCWB's wait: it retires with the lines written back, goes on waiting, or traps where no plane is left. -/
def waitLines (i : Instr) (lines : List Nat) (s : State) : State :=
  if linesDone s.cx lines then (cleanLines s lines).mapCx (·.retire)
  else if linesStuck s lines then takeTrap s (.issue 0x14 0)
  else s.waitIn .dcwb i (lines.map fun l => (l, 0))

/-- DCWB (R267). What an L1 data cache keeps from a line's home shows in fetches alone (log entry 14). -/
def execDcwb (r : BitVec 5) (n : BitVec 12) (s : State) : Host.Outcome State Fault Refusal :=
  match blockLines s (s.cx.acc s.cur) (codeBlocks (s.cx.reg r) n) with
  | .error t => .next (takeTrap s t)
  | .ok lines => .next (waitLines (.dcwb r n) lines (forceCommit s))

/-- DCWB_COMPLETE (R267). -/
def execDcwbComplete (c : Nat) (s : State) : Host.Outcome State Fault Refusal :=
  if !ctxInRange c then .fault .noSuchPart
  else match (s.ctxAt c).wait with
    | some { kind := .dcwb, instr := i, marks := ms, .. } =>
      if s.flows then .next (s.within c (waitLines i (ms.map (·.1)))) else .next s
    | _ => .next s

/-! ### IINV and FETCHB -/

/-- A core's L1 instruction cache without the words of some lines. -/
def Core.dropCode (k : Core) (lines : List Nat) : Core :=
  { k with icache := k.icache.filter fun e => !lines.contains (e.1 / 64) }

/-- The lines removed from the L1 instruction cache of every core of the module. -/
def dropCode (s : State) (lines : List Nat) : State :=
  { s with cores := s.cores.map fun e => (e.1, e.2.dropCode lines) }

/-- IINV (R267): it waits until every core has acknowledged. -/
def execIinv (r : BitVec 5) (n : BitVec 12) (s : State) : Host.Outcome State Fault Refusal :=
  if s.planesDead then .next (takeTrap s (.issue 0x14 0))
  else
    let lines := codeLines s (s.cx.acc s.cur) (codeBlocks (s.cx.reg r) n)
    .next (s.waitIn .iinv (.iinv r n) (lines.map fun l => (l, 0)))

/-- IINV_COMPLETE (R267): after a moult where one is in progress. -/
def execIinvComplete (c : Nat) (s : State) : Host.Outcome State Fault Refusal :=
  if !ctxInRange c then .fault .noSuchPart
  else match (s.ctxAt c).wait with
    | some { kind := .iinv, marks := ms, .. } =>
      if !s.flows then .next s
      else if s.planesDead then .next (s.within c fun s => takeTrap s (.issue 0x14 0))
      else .next (s.within c fun s => (dropCode s (ms.map (·.1))).mapCx (·.retire))
    | _ => .next s

/-- FETCHB (R267): every word that the context has fetched is fetched afresh. -/
def execFetchb (s : State) : Host.Outcome State Fault Refusal :=
  .next (s.retireWith fun x => { x with fetched := [] })

/-! ### Words of no effect -/

/-- PREF (R311): a hint of no architectural effect. -/
def execPref (_r : BitVec 5) (_n : BitVec 12) (s : State) : Host.Outcome State Fault Refusal :=
  .next (s.mapCx (·.retire))

/-- NOP (R355). -/
def execNop (s : State) : Host.Outcome State Fault Refusal := .next (s.mapCx (·.retire))

/-! ### WAIT (R388) -/

/-- Some cause is pending and enabled. -/
def UserInt.calls (u : UserInt) : Bool := u.pend &&& u.en != 0

/-- WAIT: events before its issue do not count. One out of which its task was saved has now executed again (R389). -/
def execWait (s : State) : Host.Outcome State Fault Refusal :=
  if s.cx.ui.calls then .next (s.retireWith fun x => { x with rewaits := none })
  else .next ((s.mapCx fun x => { x with wake := false, rewaits := none }).waitIn .wake .wait [])

/-- WAIT_WAKE (R388). -/
def execWaitWake (c : Nat) (s : State) : Host.Outcome State Fault Refusal :=
  if !ctxInRange c then .fault .noSuchPart
  else if saveDue s c then .next s
  else match (s.ctxAt c).wait with
    | some { kind := .wake, .. } =>
      if s.flows && ((s.ctxAt c).wake || (s.ctxAt c).ui.calls) then .next (s.within c fun s => s.mapCx (·.retire))
      else .next s
    | _ => .next s

end Sys2Proof.Machine
end

