-- ==== Sys2Proof/Machine/SysReg.lean ====
section
/-! DEFINITION. The state registers that MFS and MTS name (R83, R84, R353, R354), with their layouts (R58 to R60,
R72, R75, R76, R82, R85, R127, R151, R161, R183 and R192 engines, R202, R215, R224, R236, R242, R290). -/

namespace Sys2Proof.Machine

/-! ### Access (R83, R84) -/

/-- What R83 permits for a number. -/
inductive RegAccess where
  | userRead | userWrite | supWrite | priv
  deriving DecidableEq, Repr

/-- The access of a number, or none where R83 assigns no register. -/
def regAccess (n : Nat) : Option RegAccess :=
  if n < 0x100 then
    if n = 3 || (0x0A ≤ n && n ≤ 0x0D) || (0x11 ≤ n && n ≤ 0x15) || n = 0x18 || n = 0x2C || n = 0x30 || n = 0x33
        || n = 0x39 || n = 0x48 then some .userWrite
    else if n ≤ 5 || n = 0x10 || (0x20 ≤ n && n ≤ 0x2B) || n = 0x31 || n = 0x32 || n = 0x34 || n = 0x38
        || n = 0x40 || n = 0x41 || (0x50 ≤ n && n ≤ 0x52) || n = 0x58 || n = 0x60 || n = 0x68 || n = 0x69 then
      some .userRead
    else none
  else if n ≤ 0x105 || (0x110 ≤ n && n ≤ 0x112) || (0x120 ≤ n && n ≤ 0x122) || n = 0x130 || n = 0x140 then some .priv
  else if 0x200 ≤ n && n ≤ 0x20F then some .supWrite
  else none

/-- The cause that an access at a level raises, or none where it is permitted (R84). -/
def regFault (acc : Option RegAccess) (sup write : Bool) : Option Nat :=
  match acc with
  | none => some 0x01
  | some .priv => if sup then none else some 0x11
  | some .userWrite => none
  | some .userRead => if !write then none else if sup then some 0x11 else some 0x01
  | some .supWrite => if !write || sup then none else some 0x01

/-! ### Strings as registers (R50, R51, R54, R58 to R61) -/

/-- The effective throttle step: the larger of the balance step and the management cap, of which 3 acts as 2
(R54, R285). -/
def Str.effective (t : Str) : Nat := max t.step (min t.cap 2)

/-- The policy of a context in its tile: 3 for a task that has not started (R57). -/
def Context.policy (x : Context) : BitVec 2 := if x.start.isSome then 3 else x.cpol

/-- The effective policy of a tile: the AND over its contexts that hold a task (R51). -/
def tilePolicy (s : State) (tile : Nat) : BitVec 2 :=
  ((List.range 8).map fun i => s.ctxAt (tile * 8 + i)).foldl (fun p x => if x.task.isSome then p &&& x.policy else p) 3

/-- The tiles of a string that run adjunct: a request is latched, and their policy permits some (R51, R59). -/
def adjRun (s : State) (n : Nat) : Nat :=
  ((List.range 4).filter fun p => (s.strAt n).adjreq.getLsbD p && tilePolicy s (n * 4 + p) != 0).foldl
    (fun m p => m + 2 ^ p) 0

/-- A demand of STRIMB: a free value in its range (R58, R61). -/
def freeDemand (w k : Nat) : Nat := (w / 2 ^ (20 * k) % 2 ^ 20 % 1025 + (2 ^ 16 - 512)) % 2 ^ 16

/-- STRIMB: the demands are physical readings (R58, R61; log entry 4). -/
def strimb (s : State) : Word × State :=
  let d := s.draw
  let w := d.1.toNat
  (BitVec.ofNat 64 (freeDemand w 0 + freeDemand w 1 * 2 ^ 16 + freeDemand w 2 * 2 ^ 32
    + (s.strAt (strOf s.cur)).effective * 2 ^ 48), d.2)

/-- STRSTAT: which nodes are over is a physical reading (R59, R61). -/
def strstat (s : State) : Word × State :=
  let n := strOf s.cur
  let t := s.strAt n
  let d := s.draw
  (BitVec.ofNat 64 (t.effective + min t.cap 2 * 4 + t.adjreq.toNat * 2 ^ 4 + adjRun s n * 2 ^ 8
    + d.1.toNat % 8 * 2 ^ 12 + t.floor.toNat * 2 ^ 15 + tileOf s.cur % 4 * 2 ^ 16
    + (tilePolicy s (tileOf s.cur)).toNat * 2 ^ 18 + s.cx.cpol.toNat * 2 ^ 20 + n * 2 ^ 24), d.2)

/-- The kinds of adjunct that run in a tile: those its effective policy permits, where a request is latched; bit 0 is
matrix adjunct and bit 1 vector adjunct (R51). -/
def adjKinds (s : State) (tile : Nat) : BitVec 2 :=
  if (s.strAt (tile / 4)).adjreq.getLsbD (tile % 4) then tilePolicy s tile else 0

/-- ADJCNT of the current context after adjunct issue that cannot be foretold: a count stands while no adjunct of its kind
runs (R51, R60, R61). -/
def countAdjunct (s : State) : State :=
  let d := s.draw
  let kinds := adjKinds s (tileOf s.cur)
  d.2.mapCx fun x => { x with
    adjV := if kinds.getLsbD 1 then x.adjV + d.1.setWidth 32 else x.adjV
    adjM := if kinds.getLsbD 0 then x.adjM + (d.1 >>> 32).setWidth 32 else x.adjM }

/-- Adjunct issue of a context's core and tile up to now, while the context holds a task (R60, R61; log entry 4). -/
def adjunctRuns (c : Nat) (s : State) : State := if (s.ctxAt c).task.isSome then s.within c countAdjunct else s

/-- A string's clock after periods that cannot be foretold; it never runs back (R18; log entry 3). -/
def countCycles (s : State) : State :=
  let d := s.draw
  let t := d.2.strAt (strOf s.cur)
  d.2.setStr (strOf s.cur) { t with clock := t.clock + d.1.toNat % 2 ^ 63 }

/-- CYCLE of the current context's core: the cores of a string count the same clock, each from a value of its own (R18). -/
def State.cycles (s : State) : Word :=
  (s.coreAt (coreOf s.cur)).cycle0 + BitVec.ofNat 64 (s.strAt (strOf s.cur)).clock

/-! ### Event counters of a core (R290) -/

/-- EVSEL counts a source of core counters. -/
def coreCounts (sel : BitVec 10) : Bool := sel.getLsbD 8 && 1 ≤ sel.toNat % 256 && sel.toNat % 256 ≤ 9

/-- What a context adds to a source that counts traps taken (0x07) or user interrupts (0x08); bit 9 counts at user level
only. -/
def Tally.count (t : Tally) (sel : BitVec 10) : Nat :=
  if sel.toNat % 256 = 8 then t.interrupts
  else if sel.getLsbD 9 then t.userTraps
  else t.userTraps + t.supTraps

/-- The source is of traps taken or user interrupts: a count that no physical reading settles (R398). -/
def countsExactly (sel : BitVec 10) : Bool := sel.toNat % 256 == 7 || sel.toNat % 256 == 8

/-- What both contexts of a core have counted of such a source since module reset. -/
def tallyOf (s : State) (core : Nat) (sel : BitVec 10) : Nat :=
  (s.ctxAt (2 * core)).tally.count sel + (s.ctxAt (2 * core + 1)).tally.count sel

/-- EVCNT n of a core brought up to date: by the traps or user interrupts taken since it was last, and for every other
source by a physical amount (R61, R290, R398). -/
def countCore (s : State) (core n : Nat) : State :=
  let k := s.coreAt core
  let sel := k.evsel.toList.getD n 0
  let old := k.evcnt.toList.getD n 0
  if !coreCounts sel then s
  else if countsExactly sel then
    let now := tallyOf s core sel
    s.setCore core { k with
      evcnt := k.evcnt.setIfInBounds n (old + BitVec.ofNat 64 (now - k.seen.toList.getD n 0))
      seen := k.seen.setIfInBounds n now }
  else
    let d := s.draw
    d.2.setCore core { k with evcnt := k.evcnt.setIfInBounds n (old + d.1) }

/-- EVCNT n of a core counts from now on, whatever its source has counted before. -/
def countFrom (s : State) (core n : Nat) : State :=
  let k := s.coreAt core
  s.setCore core { k with seen := k.seen.setIfInBounds n (tallyOf s core (k.evsel.toList.getD n 0)) }

/-! ### What MFS reads -/

/-- A number of flags and fields as a register. -/
def regWord (n : Nat) : Word := BitVec.ofNat 64 n

/-- Registers 0x000 to 0x018. -/
def Context.readShape (x : Context) (n : Nat) : Word :=
  match n with
  | 0x00 => x.vtype.word
  | 0x01 => regWord x.vrows
  | 0x02 => regWord x.vcols
  | 0x03 => x.vstartWord
  | 0x04 => regWord (2 * x.cap.toNat)
  | 0x05 => regWord x.lanes
  | 0x0A => regWord (x.fp.rm.toNat + x.fp.ftz.toNat * 8 + x.fp.sat8.toNat * 16)
  | 0x0B => x.fp.flags.setWidth 64
  | 0x0C => x.fp.seed.setWidth 64
  | 0x0D => x.fp.rqshift.setWidth 64
  | 0x10 => regWord (x.mgCount + x.mgFirst * 16)
  | 0x11 => x.mat.rows.setWidth 64
  | 0x12 => x.mat.cols.setWidth 64
  | 0x13 => x.mat.depth.setWidth 64
  | 0x14 => regWord (x.mat.wide.toNat + x.mat.afmt.toNat * 2 + x.mat.rev.toNat * 256)
  | 0x15 => x.mat.flags.setWidth 64
  | _ => x.fp.scoff

/-- XFLT of a channel. -/
def CopyChan.fltWord (c : CopyChan) : Word :=
  regWord (c.cause.toNat + c.side.toNat * 2 ^ 8 + c.dlv.toNat * 2 ^ 9 + c.fid.toNat * 2 ^ 32)

/-- UIMASK. -/
def UserInt.maskWord (u : UserInt) : Word :=
  regWord (u.en.toNat * 2 + u.pend.toNat * 2 ^ 9 + u.act.toNat * 2 ^ 63)

/-- RSDEPTH. -/
def RetStore.depthWord (r : RetStore) : Word := regWord (r.entries.length + r.spilled.toNat * 2 ^ 32)

/-- Registers 0x020 to 0x048. -/
def Context.readTask (x : Context) (n : Nat) : Word :=
  if n < 0x24 then (x.chan (n - 0x20)).done.setWidth 64
  else if n < 0x28 then (x.chan (n - 0x24)).next.setWidth 64
  else if n < 0x2C then (x.chan (n - 0x28)).fltWord
  else match n with
    | 0x2C => x.resthr.setWidth 64
    | 0x30 => x.ui.vec
    | 0x31 => x.ui.cause.setWidth 64
    | 0x32 => x.ui.epc
    | 0x33 => x.ui.maskWord
    | 0x34 => x.ui.val
    | 0x38 => x.ret.depthWord
    | 0x39 => x.ret.spill
    | 0x40 => x.taskseq
    | 0x41 => x.taskrec
    | _ => x.ckmask.setWidth 64

/-- TSTATUS (R215). -/
def TrapRegs.statusWord (t : TrapRegs) : Word :=
  regWord (t.pp.toNat + t.cocoon.toNat * 2 + t.inh.toNat * 4 + t.wroteRec.toNat * 8 + t.task.toNat * 16)

/-- KEYDEF (R161). -/
def Space.keydef (p : Space) : Word := regWord (p.dkey.toNat + p.ckey.toNat * 2 ^ 16)

/-- The P registers of a context. -/
def Context.readPriv (x : Context) (n : Nat) : Word :=
  match n with
  | 0x100 => x.trap.vec
  | 0x101 => x.trap.cause.setWidth 64
  | 0x102 => x.trap.epc
  | 0x103 => x.trap.val
  | 0x104 => x.trap.statusWord
  | 0x105 => x.trap.frec
  | 0x110 => x.space.ptroot
  | 0x111 => x.space.asid.setWidth 64
  | 0x112 => x.space.keydef
  | 0x120 => regWord (x.cap.toNat + x.evict.toNat * 256)
  | _ => regWord (x.saveLen.toNat + x.saveKind.toNat * 2 ^ 32)

/-- The registers of a core: PREEMPTD, PREEMPTWIN, CHKSEED, EVSEL and EVCNT. -/
def Core.read (k : Core) (n : Nat) : Word :=
  match n with
  | 0x121 => k.preemptd.setWidth 64
  | 0x122 => k.preemptwin.setWidth 64
  | 0x130 => k.chkseed.setWidth 64
  | _ => if n < 0x208 then (k.evsel.toList.getD (n - 0x200) 0).setWidth 64 else k.evcnt.toList.getD (n - 0x208) 0

/-- A state register that R83 assigns, and the state after reading it: the physical readings draw free values. -/
def readState (s : State) (n : Nat) : Word × State :=
  let x := s.cx
  if n < 0x20 then (x.readShape n, s)
  else if n < 0x50 then (x.readTask n, s)
  else if n = 0x50 then strimb s
  else if n = 0x51 then
    let t := adjunctRuns s.cur s
    (t.cx.adjV.setWidth 64 ||| (t.cx.adjM.setWidth 64 <<< 32), t)
  else if n = 0x52 then strstat s
  else if n = 0x58 then
    let t := countCycles s
    (t.cycles, t)
  else if n = 0x60 then (regWord Config.features, s)
  else if n = 0x68 then (s.fab.map.setWidth 64, s)
  else if n = 0x69 then ((s.fab.map >>> 64).setWidth 64, s)
  else if n = 0x121 || n = 0x122 || n = 0x130 then ((s.coreAt (coreOf s.cur)).read n, s)
  else if n < 0x200 then (x.readPriv n, s)
  else if n < 0x208 then ((s.coreAt (coreOf s.cur)).read n, s)
  else
    let t := countCore s (coreOf s.cur) (n - 0x208)
    ((t.coreAt (coreOf s.cur)).read n, t)

/-! ### What MTS writes -/

/-- Registers 0x003 to 0x018; FPCTL.rm keeps its value for 6 and 7, and SRSEED is never 0 (R82, R85, R127). -/
def Context.writeShape (x : Context) (n : Nat) (v : Word) : Context :=
  match n with
  | 0x03 => { x with vsElem := v.setWidth 17, vsMember := (v >>> 32).setWidth 2 }
  | 0x0A =>
    { x with fp := { x.fp with
        rm := if 6 ≤ v.toNat % 8 then x.fp.rm else v.setWidth 3, ftz := v.getLsbD 3, sat8 := v.getLsbD 4 } }
  | 0x0B => { x with fp := { x.fp with flags := v.setWidth 6 } }
  | 0x0C => { x with fp := { x.fp with seed := if v.setWidth 32 = 0#32 then 1 else v.setWidth 32 } }
  | 0x0D => { x with fp := { x.fp with rqshift := v.setWidth 8 } }
  | 0x11 => { x with mat := { x.mat with rows := v.setWidth 7 } }
  | 0x12 => { x with mat := { x.mat with cols := v.setWidth 8 } }
  | 0x13 => { x with mat := { x.mat with depth := v.setWidth 12 } }
  | 0x14 =>
    { x with mat := { x.mat with
        wide := v.getLsbD 0, afmt := (v >>> 1).setWidth 2, rev := (v >>> 8).setWidth 8 } }
  | 0x15 => { x with mat := { x.mat with flags := v.setWidth 5 &&& 0x1D } }
  | _ => { x with fp := { x.fp with scoff := v } }

/-- Registers 0x02C to 0x048. -/
def Context.writeTask (x : Context) (n : Nat) (v : Word) : Context :=
  match n with
  | 0x2C => { x with resthr := v.setWidth 32 }
  | 0x30 => { x with ui := { x.ui with vec := v &&& 0x007FFFFFFFFFFFFC } }
  | 0x33 => { x with ui := { x.ui with en := (v >>> 1).setWidth 4 } }
  | 0x39 => { x with ret := { x.ret with spill := v &&& 0x007FFFFFFFFFFFF8 } }
  | _ => { x with ckmask := v.setWidth 33 &&& 0x1FFFFFFFE }

/-- The images of PTROOT, ASID and KEYDEF as their fields (R161). -/
def rootField (v : Word) : Word := v &&& 0x00000FFFFFFF0000

/-- The P registers of a context: RO fields keep their values. -/
def Context.writePriv (x : Context) (n : Nat) (v : Word) : Context :=
  match n with
  | 0x100 => { x with trap := { x.trap with vec := v &&& 0x007FFFFFFFFFFFFC } }
  | 0x101 => { x with trap := { x.trap with cause := v.setWidth 8 } }
  | 0x102 => { x with trap := { x.trap with epc := v &&& 0x007FFFFFFFFFFFFC } }
  | 0x103 => { x with trap := { x.trap with val := v } }
  | 0x104 => { x with trap := { x.trap with pp := v.getLsbD 0, inh := v.getLsbD 2 } }
  | 0x105 => { x with trap := { x.trap with frec := v &&& 0x007FFFFFFFFF8000 } }
  | 0x110 => { x with space := { x.space with ptroot := rootField v } }
  | 0x111 => { x with space := { x.space with asid := v.setWidth 16 } }
  | 0x112 => { x with space := { x.space with dkey := v.setWidth 12, ckey := (v >>> 16).setWidth 12 } }
  | 0x120 => if 1 ≤ v.toNat % 32 && v.toNat % 32 ≤ 16 then { x with cap := v.setWidth 5 } else x
  | _ => x

/-- The registers of a core; CHKSEED is never 0 (R242). -/
def Core.write (k : Core) (n : Nat) (v : Word) : Core :=
  match n with
  | 0x121 => { k with preemptd := v.setWidth 5 }
  | 0x122 => { k with preemptwin := v.setWidth 16 }
  | 0x130 => { k with chkseed := if v.setWidth 16 = 0#16 then 1 else v.setWidth 16 }
  | _ =>
    if n < 0x208 then { k with evsel := k.evsel.setIfInBounds (n - 0x200) (v.setWidth 10) }
    else { k with evcnt := k.evcnt.setIfInBounds (n - 0x208) v }

/-- A register of the current core written; a counter whose source changes has counted up to here, and one that is written
counts from here. -/
def writeCore (s : State) (core n : Nat) (v : Word) : State :=
  let t := if 0x200 ≤ n && n < 0x208 then countCore s core (n - 0x200) else s
  let u := t.setCore core ((t.coreAt core).write n v)
  if 0x200 ≤ n then countFrom u core (n % 8) else u

/-- A state register written, each field under its own rule. -/
def writeState (s : State) (n : Nat) (v : Word) : State :=
  if n < 0x20 then s.mapCx (·.writeShape n v)
  else if n < 0x50 then s.mapCx (·.writeTask n v)
  else if n = 0x121 || n = 0x122 || n = 0x130 || 0x200 ≤ n then writeCore s (coreOf s.cur) n v
  else s.mapCx (·.writePriv n v)

/-! ### MFS and MTS -/

/-- MFS (R353). -/
def execMfs (r : BitVec 5) (n : BitVec 12) (s : State) : Host.Outcome State Fault Refusal :=
  match regFault (regAccess n.toNat) s.cx.sup false with
  | some c => .next (takeTrap s (.issue c (BitVec.ofNat 64 (wordOf (.mfs r n)))))
  | none =>
    let v := readState s n.toNat
    .next (v.2.retireWith fun x => x.setReg r v.1)

/-- MTS (R353). -/
def execMts (r : BitVec 5) (n : BitVec 12) (s : State) : Host.Outcome State Fault Refusal :=
  match regFault (regAccess n.toNat) s.cx.sup true with
  | some c => .next (takeTrap s (.issue c (BitVec.ofNat 64 (wordOf (.mts r n)))))
  | none => .next ((writeState s n.toNat (s.cx.reg r)).mapCx (·.retire))

/-- ADJ (R56). -/
def execAdj (p : BitVec 2) (s : State) : Host.Outcome State Fault Refusal :=
  .next (s.retireWith fun x => { x with cpol := p })

end Sys2Proof.Machine
end

