-- ==== Sys2Proof/Machine/ScalarMem.lean ====
section
/-! DEFINITION. Scalar loads and stores and the ordered accesses: LD, ST, LD acquire, ST release, AMO and CAS
(R300, R319 to R323, R343 to R345, R359 to R361; R186, R188 ordering). -/

namespace Sys2Proof.Machine

/-- The bytes of a loaded value extended to 64 bits: zero-extended for z = 1, else sign-extended (R300). -/
def extend (sz : Nat) (z : Bool) (v : Nat) : Word :=
  if z then BitVec.ofNat 64 v else BitVec.ofInt 64 (intOf (8 * 2 ^ sz) true v)

/-- A scalar load from an address on a stream (R344). It stays at issue while an access that must be performed first is
not (R181, R183). `after_` is what the load does besides. -/
def loadScalar (d : BitVec 5) (va : Word) (strm sz : Nat) (z : Bool) (after_ : Context → Context) (s : State) : State :=
  match scalarPlace s .load va sz with
  | .error t => takeTrap s t
  | .ok p =>
    if !mayRead s s.cur strm p (2 ^ sz) then s
    else
      consume (touch s (s.cx.acc s.cur) .load p) strm p (2 ^ sz) fun s v =>
        s.retireWith fun x => (after_ x).setReg d (extend sz z v)

/-- A scalar store to an address, on a stream: it is held in the strip store buffer (R360). -/
def storeScalar (va : Word) (strm sz : Nat) (v : Word) (s : State) : State :=
  match scalarPlace s .store va sz with
  | .error t => takeTrap s t
  | .ok p => (holdStore (touch s (s.cx.acc s.cur) .store p) p strm sz v).mapCx (·.retire)

/-- LD (R344). -/
def execLd (d a : BitVec 5) (g : BitVec 3) (u : BitVec 2) (z : BitVec 1) (i : BitVec 9) (s : State) :
    Host.Outcome State Fault Refusal :=
  .next (loadScalar d (s.cx.memAddr a i u.toNat) g.toNat u.toNat (z == 1) id s)

/-- ST (R360). -/
def execSt (d a : BitVec 5) (g : BitVec 3) (u : BitVec 2) (i : BitVec 9) (s : State) :
    Host.Outcome State Fault Refusal :=
  .next (storeScalar (s.cx.memAddr a i u.toNat) g.toNat u.toNat (s.cx.reg d) s)

/-- LD acquire: a load on stream g0 (R180), performed before any later access of the context; reads that were performed
early before it do not stand (R186, R345). -/
def execLdAcq (d a : BitVec 5) (_p : BitVec 3) (u : BitVec 2) (s : State) : Host.Outcome State Fault Refusal :=
  .next (loadScalar d (s.cx.reg a) 0 u.toNat true (fun x => { x with early := [] }) s)

/-! ### ST release -/

/-- No plane is left for an access that has waited (R210). -/
def State.cutOff (s : State) (p : Place) : Bool := s.planesDead && !tileCarried (coreOf s.cur) (tileOf s.cur) p.loc

/-- The store of ST release, once its release is done: it is never held, and later accesses are ordered after it only where they
share a byte with it (R361; log entry 98). -/
def releaseStore (b : BitVec 5) (sz : Nat) (p : Place) (s : State) : State :=
  if s.cutOff p then takeTrap s (.issue 0x14 0)
  else (postWrite s { p.write 0 (valBytes (2 ^ sz) (s.cx.reg b).toNat) with loose := true }).mapCx (·.retire)

/-- The rest of a release store whose address has passed its checks. -/
def releaseRest (b : BitVec 5) (p : BitVec 3) (u : BitVec 2) (q : Place) : Pending :=
  { order := .all p.toNat, place := some q, also_ := fun _ => true, k := releaseStore b u.toNat q }

/-- ST release: every check, then the release, then the store to the place checked (R361). -/
def execStRel (a b : BitVec 5) (p : BitVec 3) (u : BitVec 2) (s : State) : Host.Outcome State Fault Refusal :=
  match scalarPlace s .store (s.cx.reg a) u.toNat with
  | .error t => .next (takeTrap s t)
  | .ok q => .next (orderBefore (releaseRest b p u q) (.stRel a b p u) (touch s (s.cx.acc s.cur) .store q))

/-! ### AMO and CAS -/

/-- The size of an ordered access: sz 2 or 3 (R319). The field of AMO and CAS holds its low bit. -/
def atomicSize (u : BitVec 1) : Nat := 2 + u.toNat

/-- What an atomic writes: a function of the old value, the operand and the expected value, each of w bits. -/
abbrev AtomicOp := Nat → Nat → Nat → Nat → Option Nat

/-- The atomic itself, once its release is done: performed at its home, the old value zero-extended into the
destination (R188, R320, R323). It is an acquire too (R186). -/
def performAtomic (op : AtomicOp) (d b : BitVec 5) (sz : Nat) (p : Place) (s : State) : State :=
  let w := 8 * 2 ^ sz
  if s.cutOff p then takeTrap s (.issue 0x14 0)
  else
    consume s 0 p (2 ^ sz) fun s old =>
      let new := op w old ((s.cx.reg b).toNat % 2 ^ w) ((s.cx.reg d).toNat % 2 ^ w)
      let s := match new with
        | none => s
        | some v => performWrite s s.cur (p.write 0 (valBytes (2 ^ sz) v))
      s.retireWith fun x => x.setReg d (BitVec.ofNat 64 old)

/-- The rest of an AMO or CAS whose address has passed its checks: its release, the accesses that come before it (R181 to
R183), and the atomic at the place checked. -/
def atomicRest (op : AtomicOp) (d b : BitVec 5) (p : BitVec 3) (u : BitVec 1) (q : Place) : Pending :=
  let sz := atomicSize u
  { order := .all p.toNat, place := some q
    also_ := fun s => mayWrite s s.cur (q.write 0 (zeros (2 ^ sz))), k := performAtomic op d b sz q }

/-- AMO or CAS: every check, then the release, then the atomic (R320). -/
def atomicScalar (op : AtomicOp) (i : Instr) (d a b : BitVec 5) (p : BitVec 3) (u : BitVec 1) (s : State) :
    Host.Outcome State Fault Refusal :=
  match scalarPlace s .atomic (s.cx.reg a) (atomicSize u) with
  | .error t => .next (takeTrap s t)
  | .ok q => .next (orderBefore (atomicRest op d b p u q) i (touch s (s.cx.acc s.cur) .atomic q))

/-- amo.add: new := (old + opnd) mod 2^w (R319, R320). -/
def amoAddOp : AtomicOp := fun w o b _ => some ((o + b) % 2 ^ w)

/-- amo.and: new := old AND opnd (R319, R320). -/
def amoAndOp : AtomicOp := fun _ o b _ => some (o &&& b)

/-- amo.or: new := old OR opnd (R319, R320). -/
def amoOrOp : AtomicOp := fun _ o b _ => some (o ||| b)

/-- amo.xor: new := old XOR opnd (R319, R320). -/
def amoXorOp : AtomicOp := fun _ o b _ => some (o ^^^ b)

/-- amo.min: the signed minimum (R319, R320). -/
def amoMinOp : AtomicOp := fun w o b _ => some (if intOf w true b < intOf w true o then b else o)

/-- amo.max: the signed maximum (R319, R320). -/
def amoMaxOp : AtomicOp := fun w o b _ => some (if intOf w true o < intOf w true b then b else o)

/-- amo.minz: the unsigned minimum (R319, R320). -/
def amoMinZOp : AtomicOp := fun _ o b _ => some (if b < o then b else o)

/-- amo.maxz: the unsigned maximum (R319, R320). -/
def amoMaxZOp : AtomicOp := fun _ o b _ => some (if o < b then b else o)

/-- amo.swap: new := opnd (R319, R320). -/
def amoSwapOp : AtomicOp := fun _ _ b _ => some b

/-- amo.fadd: the sum of two f32 or f64 values under RNE, subnormals kept, no flag (R319, R320). -/
def amoFaddOp : AtomicOp := fun w o b _ => some (fpArith .add (if w = 32 then .f32 else .f64) .rne 0 o b 0).1

/-- cas: the new value where the old one is the expected one, bit for bit (R323). -/
def casOp : AtomicOp := fun _ o b e => if o = e then some b else none

/-- AMO_Add (R320). -/
def execAmoAdd (d a b : BitVec 5) (p : BitVec 3) (u : BitVec 1) (s : State) :
    Host.Outcome State Fault Refusal :=
  atomicScalar amoAddOp (.amoAdd d a b p u) d a b p u s

/-- AMO_And (R320). -/
def execAmoAnd (d a b : BitVec 5) (p : BitVec 3) (u : BitVec 1) (s : State) :
    Host.Outcome State Fault Refusal :=
  atomicScalar amoAndOp (.amoAnd d a b p u) d a b p u s

/-- AMO_Or (R320). -/
def execAmoOr (d a b : BitVec 5) (p : BitVec 3) (u : BitVec 1) (s : State) :
    Host.Outcome State Fault Refusal :=
  atomicScalar amoOrOp (.amoOr d a b p u) d a b p u s

/-- AMO_Xor (R320). -/
def execAmoXor (d a b : BitVec 5) (p : BitVec 3) (u : BitVec 1) (s : State) :
    Host.Outcome State Fault Refusal :=
  atomicScalar amoXorOp (.amoXor d a b p u) d a b p u s

/-- AMO_Min (R320). -/
def execAmoMin (d a b : BitVec 5) (p : BitVec 3) (u : BitVec 1) (s : State) :
    Host.Outcome State Fault Refusal :=
  atomicScalar amoMinOp (.amoMin d a b p u) d a b p u s

/-- AMO_Max (R320). -/
def execAmoMax (d a b : BitVec 5) (p : BitVec 3) (u : BitVec 1) (s : State) :
    Host.Outcome State Fault Refusal :=
  atomicScalar amoMaxOp (.amoMax d a b p u) d a b p u s

/-- AMO_MinZ (R320). -/
def execAmoMinZ (d a b : BitVec 5) (p : BitVec 3) (u : BitVec 1) (s : State) :
    Host.Outcome State Fault Refusal :=
  atomicScalar amoMinZOp (.amoMinZ d a b p u) d a b p u s

/-- AMO_MaxZ (R320). -/
def execAmoMaxZ (d a b : BitVec 5) (p : BitVec 3) (u : BitVec 1) (s : State) :
    Host.Outcome State Fault Refusal :=
  atomicScalar amoMaxZOp (.amoMaxZ d a b p u) d a b p u s

/-- AMO_Swap (R320). -/
def execAmoSwap (d a b : BitVec 5) (p : BitVec 3) (u : BitVec 1) (s : State) :
    Host.Outcome State Fault Refusal :=
  atomicScalar amoSwapOp (.amoSwap d a b p u) d a b p u s

/-- AMO_Fadd (R320). -/
def execAmoFadd (d a b : BitVec 5) (p : BitVec 3) (u : BitVec 1) (s : State) :
    Host.Outcome State Fault Refusal :=
  atomicScalar amoFaddOp (.amoFadd d a b p u) d a b p u s

/-- CAS (R323). -/
def execCas (d a b : BitVec 5) (p : BitVec 3) (u : BitVec 1) (s : State) :
    Host.Outcome State Fault Refusal :=
  atomicScalar casOp (.cas d a b p u) d a b p u s

end Sys2Proof.Machine
end

