-- ==== Sys2Proof/Machine/VectorArith.lean ====
section
/-! DEFINITION. Element-wise vector arithmetic, majors 0x14 and 0x15 (R303, R363 to R365, R376 to R378). -/

namespace Sys2Proof.Machine

/-! ### A vector word -/

/-- The members of the convoy that is executing have passed their checks at its issue (R294). -/
def Context.passed (x : Context) : Bool :=
  match x.cvy with
  | some v => v.passed
  | none => false

/-- A vector word acts where its issue checks pass, and traps where they do not (R363). In a convoy that has issued they
have passed, and what an earlier member does changes them no more (R294). -/
def vectorWord (check : Option Trap) (act : State → State) (s : State) : Host.Outcome State Fault Refusal :=
  match (if s.cx.passed then none else check) with
  | some t => .next (takeTrap s t)
  | none => .next (act s)

/-- The scalar state that elements thread through: the generator and the flags (R85, R96). -/
structure Thread where
  seed : BitVec 32
  flags : Flags

def FpRegs.thread (f : FpRegs) : Thread := { seed := f.seed, flags := 0 }

/-- The registers after an instruction's elements. -/
def FpRegs.after (f : FpRegs) (t : Thread) : FpRegs := { f with seed := t.seed, flags := f.flags ||| t.flags }

/-- One element: a draw where it rounds under mode 5, and its flags ORed in. -/
def Thread.step (t : Thread) (rm : Nat) (rounds : Bool) (f : Nat → Nat × Flags) : Nat × Thread :=
  let dr := if rounds then drawSeed rm t.seed else (0, t.seed)
  let r := f dr.1
  (r.1, { seed := dr.2, flags := t.flags ||| r.2 })

/-- The elements of an instruction written, from one element up to another, in the layout of w-bit elements. `f`
gives an element's bits and flags from the context as it stood, the generator value, and the element's number and
place. -/
def writeUpTo (start stop w : Nat) (vd : BitVec 5) (m q : BitVec 1) (rounds : Bool)
    (f : Context → Nat → Nat → Nat → Nat → Nat × Flags) (s : State) : State :=
  let s := allocate s (s.cx.groupRegs vd.toNat)
  let x := s.cx
  let d : Dest := { vd := vd.toNat, w := w, m := m == 1, q := q == 1, start := start, stop := stop }
  let out := x.elementwise d (fun t n r c => t.step x.qfp.rm.toNat rounds fun g => f x g n r c) x.fp.thread
  s.setCx { out.1 with fp := x.fp.after out.2 }

/-- The elements of an instruction written from an element on. -/
def writeElements (start w : Nat) (vd : BitVec 5) (m q : BitVec 1) (rounds : Bool)
    (f : Context → Nat → Nat → Nat → Nat → Nat × Flags) (s : State) : State :=
  writeUpTo start s.cx.inShape w vd m q rounds f s

/-- The active elements of the current context from a number on. -/
def State.activeCount (s : State) (m : BitVec 1) (start : Nat) : Nat := (s.cx.activeFrom (m == 1) start).length

/-- An element-wise instruction that the checker tests: it does nothing where VSTART lies beyond its elements
(R117), and otherwise writes its destination and has one active element checked (R243). -/
def elementwiseOp (vd : BitVec 5) (m q : BitVec 1) (rounds : Bool)
    (f : Context → Nat → Nat → Nat → Nat → Nat × Flags) (s : State) : State :=
  let start := s.cx.startElem
  if s.cx.inShape ≤ start then s.mapCx (·.retireMember)
  else
    (checkerDraw (writeElements start s.cx.width vd m q rounds f s) (s.activeCount m start)).mapCx
      (·.retireMember)

/-! ### The operations of R303 -/

/-- VARITH's operations. -/
inductive VFn where
  | add | sub | mul | ma | div | min | max | mulh | and | or | xor | shl | shr | sra | sadd | ssub
  | radd | rsub | sqrt | exp2 | sgnCopy | sgnNeg | sgnXor | sgnAbs
  deriving DecidableEq, Repr

/-- The types under which an operation is legal (R303). -/
def VFn.legal (fn : VFn) (t : Nat) : Bool :=
  match fn with
  | .add | .sub | .mul | .ma | .div | .min | .max => isInt t || isFloat t
  | .mulh | .and | .or | .xor | .shl | .shr | .sra | .sadd | .ssub => isInt t
  | .radd | .rsub => isInt t && ewidth t != 8
  | .sqrt | .exp2 | .sgnCopy | .sgnNeg | .sgnXor | .sgnAbs => isFloat t

/-- The operation rounds, and so draws under mode 5 (R96, R365, R377). -/
def VFn.rounds (fn : VFn) (t : Nat) : Bool :=
  isFloat t && match fn with
    | .add | .sub | .mul | .ma | .div | .sqrt | .exp2 => true
    | _ => false

/-- The floating format that VRADD and VRSUB read b in (R378). -/
def residueFmt (w : Nat) : FFmt := if w = 16 then .f16 else if w = 32 then .f32 else .f64

/-- RQSHIFT.q, a signed number (R85). -/
def FpRegs.shift (f : FpRegs) : Int := f.rqshift.toInt

/-- An integer reading on w-bit values (R364, R376, R378). -/
def VFn.evalInt (fn : VFn) (w : Nat) (sgn : Bool) (q : Int) (a b d : Nat) : Nat × Flags :=
  let x := intOf w sgn a
  let y := intOf w sgn b
  let wrap (v : Int) : Nat × Flags := (intCode w v, 0)
  let clamp (v : Int) : Nat × Flags :=
    let k := clampInt w sgn v
    (intCode w k.1, if k.2 then flagSAT else 0)
  match fn with
  | .add => wrap (x + y)
  | .sub => wrap (x - y)
  | .mul => wrap (x * y)
  | .ma => wrap (x * y + intOf w sgn d)
  | .div => wrap (intDiv w sgn x y)
  | .min => wrap (if y < x then y else x)
  | .max => wrap (if x < y then y else x)
  | .mulh => wrap (x * y / 2 ^ w)
  | .and => (a &&& b, 0)
  | .or => (a ||| b, 0)
  | .xor => (a ^^^ b, 0)
  | .shl => (a * 2 ^ (b % w) % 2 ^ w, 0)
  | .shr => (a / 2 ^ (b % w), 0)
  | .sra => wrap (intOf w true a / 2 ^ (b % w))
  | .sadd => clamp (x + y)
  | .ssub => clamp (x - y)
  | .radd =>
    let k := residueFix w sgn q (residueFmt w) b
    (intCode w (x + k.1), k.2)
  | .rsub =>
    let k := residueFix w sgn q (residueFmt w) b
    (intCode w (x - k.1), k.2)
  | _ => (a, 0)

/-- A sign operation of R303 on raw bits: the magnitude of a under a sign. -/
def withSign (f : FFmt) (a : Nat) (neg : Bool) : Nat := a % f.signBit + (if neg then f.signBit else 0)

/-- A floating reading (R365, R376). -/
def VFn.evalFloat (fn : VFn) (f : FFmt) (c : FpCtl) (g a b d : Nat) : Nat × Flags :=
  let sa := bitOf a (f.width - 1)
  let sb := bitOf b (f.width - 1)
  match fn with
  | .add => fpArith .add f c g a b d
  | .sub => fpArith .sub f c g a b d
  | .mul => fpArith .mul f c g a b d
  | .ma => fpArith .fma f c g a b d
  | .div => fpArith .div f c g a b d
  | .min => fpMinMax false f c.ftz a b
  | .max => fpMinMax true f c.ftz a b
  | .sqrt => fpArith .sqrt f c g a b d
  | .exp2 => fpExp2 f c g a
  | .sgnCopy => (withSign f a sb, 0)
  | .sgnNeg => (withSign f a !sb, 0)
  | .sgnXor => (withSign f a (sa != sb), 0)
  | .sgnAbs => (withSign f a false, 0)
  | _ => (a, 0)

/-- One element of an operation, under the type in force. -/
def VFn.eval (fn : VFn) (x : Context) (g a b d : Nat) : Nat × Flags :=
  if isFloat x.et then fn.evalFloat (efmt x.et) x.qfp.ctl g a b d
  else fn.evalInt x.width (isSigned x.et) x.qfp.shift a b d

/-- The second operand of a VARITH word: a group, a scalar's low bits, or none. -/
inductive Second where
  | vec (b : BitVec 5)
  | scalar (b : BitVec 5)
  | none
  deriving DecidableEq, Repr

/-- The vector registers that a second operand names. -/
def Second.regs : Second → List Nat
  | .vec b => [b.toNat]
  | _ => []

/-- The bits of a second operand at a place (R363). -/
def Second.bits (k : Second) (x : Context) (w r c : Nat) : Nat :=
  match k with
  | .vec b => x.elem b.toNat w r c
  | .scalar b => (x.src b).toNat % 2 ^ w
  | .none => 0

/-- The issue check of a VARITH word (R303, R363). -/
def arithCheck (fn : VFn) (i : Instr) (d a : BitVec 5) (k : Second) (m : BitVec 1) (x : Context) : Option Trap :=
  x.vectorCheck (wordOf i) ([d.toNat, a.toNat] ++ k.regs) (some d.toNat) (m == 1) (fn.legal x.et)

/-- A VARITH word's effect on the elements. -/
def arithAct (fn : VFn) (d a : BitVec 5) (k : Second) (m q : BitVec 1) (s : State) : State :=
  elementwiseOp d m q (fn.rounds s.cx.et) (fun x g _ r c =>
    fn.eval x g (x.elem a.toNat x.width r c) (k.bits x x.width r c) (x.elem d.toNat x.width r c)) s

/-- A VARITH word (R365, R377, R378). -/
def vecArith (fn : VFn) (i : Instr) (d a : BitVec 5) (k : Second) (m q : BitVec 1) (s : State) :
    Host.Outcome State Fault Refusal :=
  vectorWord (arithCheck fn i d a k m s.cx) (arithAct fn d a k m q) s

/-- VADD_VV (R303). -/
def execVaddVV (k : BitVec 1) (d a b : BitVec 5) (m q : BitVec 1) (s : State) :
    Host.Outcome State Fault Refusal :=
  vecArith .add (.vaddVV k d a b m q) d a (.vec b) m q s

/-- VADD_VS (R303). -/
def execVaddVS (k : BitVec 1) (d a b : BitVec 5) (m q : BitVec 1) (s : State) :
    Host.Outcome State Fault Refusal :=
  vecArith .add (.vaddVS k d a b m q) d a (.scalar b) m q s

/-- VSUB_VV (R303). -/
def execVsubVV (k : BitVec 1) (d a b : BitVec 5) (m q : BitVec 1) (s : State) :
    Host.Outcome State Fault Refusal :=
  vecArith .sub (.vsubVV k d a b m q) d a (.vec b) m q s

/-- VSUB_VS (R303). -/
def execVsubVS (k : BitVec 1) (d a b : BitVec 5) (m q : BitVec 1) (s : State) :
    Host.Outcome State Fault Refusal :=
  vecArith .sub (.vsubVS k d a b m q) d a (.scalar b) m q s

/-- VMUL_VV (R303). -/
def execVmulVV (k : BitVec 1) (d a b : BitVec 5) (m q : BitVec 1) (s : State) :
    Host.Outcome State Fault Refusal :=
  vecArith .mul (.vmulVV k d a b m q) d a (.vec b) m q s

/-- VMUL_VS (R303). -/
def execVmulVS (k : BitVec 1) (d a b : BitVec 5) (m q : BitVec 1) (s : State) :
    Host.Outcome State Fault Refusal :=
  vecArith .mul (.vmulVS k d a b m q) d a (.scalar b) m q s

/-- VMA_VV (R303). -/
def execVmaVV (k : BitVec 1) (d a b : BitVec 5) (m q : BitVec 1) (s : State) :
    Host.Outcome State Fault Refusal :=
  vecArith .ma (.vmaVV k d a b m q) d a (.vec b) m q s

/-- VMA_VS (R303). -/
def execVmaVS (k : BitVec 1) (d a b : BitVec 5) (m q : BitVec 1) (s : State) :
    Host.Outcome State Fault Refusal :=
  vecArith .ma (.vmaVS k d a b m q) d a (.scalar b) m q s

/-- VDIV_VV (R303). -/
def execVdivVV (k : BitVec 1) (d a b : BitVec 5) (m q : BitVec 1) (s : State) :
    Host.Outcome State Fault Refusal :=
  vecArith .div (.vdivVV k d a b m q) d a (.vec b) m q s

/-- VDIV_VS (R303). -/
def execVdivVS (k : BitVec 1) (d a b : BitVec 5) (m q : BitVec 1) (s : State) :
    Host.Outcome State Fault Refusal :=
  vecArith .div (.vdivVS k d a b m q) d a (.scalar b) m q s

/-- VMIN_VV (R303). -/
def execVminVV (k : BitVec 1) (d a b : BitVec 5) (m q : BitVec 1) (s : State) :
    Host.Outcome State Fault Refusal :=
  vecArith .min (.vminVV k d a b m q) d a (.vec b) m q s

/-- VMIN_VS (R303). -/
def execVminVS (k : BitVec 1) (d a b : BitVec 5) (m q : BitVec 1) (s : State) :
    Host.Outcome State Fault Refusal :=
  vecArith .min (.vminVS k d a b m q) d a (.scalar b) m q s

/-- VMAX_VV (R303). -/
def execVmaxVV (k : BitVec 1) (d a b : BitVec 5) (m q : BitVec 1) (s : State) :
    Host.Outcome State Fault Refusal :=
  vecArith .max (.vmaxVV k d a b m q) d a (.vec b) m q s

/-- VMAX_VS (R303). -/
def execVmaxVS (k : BitVec 1) (d a b : BitVec 5) (m q : BitVec 1) (s : State) :
    Host.Outcome State Fault Refusal :=
  vecArith .max (.vmaxVS k d a b m q) d a (.scalar b) m q s

/-- VMULH_VV (R303). -/
def execVmulhVV (k : BitVec 1) (d a b : BitVec 5) (m q : BitVec 1) (s : State) :
    Host.Outcome State Fault Refusal :=
  vecArith .mulh (.vmulhVV k d a b m q) d a (.vec b) m q s

/-- VMULH_VS (R303). -/
def execVmulhVS (k : BitVec 1) (d a b : BitVec 5) (m q : BitVec 1) (s : State) :
    Host.Outcome State Fault Refusal :=
  vecArith .mulh (.vmulhVS k d a b m q) d a (.scalar b) m q s

/-- VAND_VV (R303). -/
def execVandVV (k : BitVec 1) (d a b : BitVec 5) (m q : BitVec 1) (s : State) :
    Host.Outcome State Fault Refusal :=
  vecArith .and (.vandVV k d a b m q) d a (.vec b) m q s

/-- VAND_VS (R303). -/
def execVandVS (k : BitVec 1) (d a b : BitVec 5) (m q : BitVec 1) (s : State) :
    Host.Outcome State Fault Refusal :=
  vecArith .and (.vandVS k d a b m q) d a (.scalar b) m q s

/-- VOR_VV (R303). -/
def execVorVV (k : BitVec 1) (d a b : BitVec 5) (m q : BitVec 1) (s : State) :
    Host.Outcome State Fault Refusal :=
  vecArith .or (.vorVV k d a b m q) d a (.vec b) m q s

/-- VOR_VS (R303). -/
def execVorVS (k : BitVec 1) (d a b : BitVec 5) (m q : BitVec 1) (s : State) :
    Host.Outcome State Fault Refusal :=
  vecArith .or (.vorVS k d a b m q) d a (.scalar b) m q s

/-- VXOR_VV (R303). -/
def execVxorVV (k : BitVec 1) (d a b : BitVec 5) (m q : BitVec 1) (s : State) :
    Host.Outcome State Fault Refusal :=
  vecArith .xor (.vxorVV k d a b m q) d a (.vec b) m q s

/-- VXOR_VS (R303). -/
def execVxorVS (k : BitVec 1) (d a b : BitVec 5) (m q : BitVec 1) (s : State) :
    Host.Outcome State Fault Refusal :=
  vecArith .xor (.vxorVS k d a b m q) d a (.scalar b) m q s

/-- VSHL_VV (R303). -/
def execVshlVV (k : BitVec 1) (d a b : BitVec 5) (m q : BitVec 1) (s : State) :
    Host.Outcome State Fault Refusal :=
  vecArith .shl (.vshlVV k d a b m q) d a (.vec b) m q s

/-- VSHL_VS (R303). -/
def execVshlVS (k : BitVec 1) (d a b : BitVec 5) (m q : BitVec 1) (s : State) :
    Host.Outcome State Fault Refusal :=
  vecArith .shl (.vshlVS k d a b m q) d a (.scalar b) m q s

/-- VSHR_VV (R303). -/
def execVshrVV (k : BitVec 1) (d a b : BitVec 5) (m q : BitVec 1) (s : State) :
    Host.Outcome State Fault Refusal :=
  vecArith .shr (.vshrVV k d a b m q) d a (.vec b) m q s

/-- VSHR_VS (R303). -/
def execVshrVS (k : BitVec 1) (d a b : BitVec 5) (m q : BitVec 1) (s : State) :
    Host.Outcome State Fault Refusal :=
  vecArith .shr (.vshrVS k d a b m q) d a (.scalar b) m q s

/-- VSRA_VV (R303). -/
def execVsraVV (k : BitVec 1) (d a b : BitVec 5) (m q : BitVec 1) (s : State) :
    Host.Outcome State Fault Refusal :=
  vecArith .sra (.vsraVV k d a b m q) d a (.vec b) m q s

/-- VSRA_VS (R303). -/
def execVsraVS (k : BitVec 1) (d a b : BitVec 5) (m q : BitVec 1) (s : State) :
    Host.Outcome State Fault Refusal :=
  vecArith .sra (.vsraVS k d a b m q) d a (.scalar b) m q s

/-- VSADD_VV (R303). -/
def execVsaddVV (k : BitVec 1) (d a b : BitVec 5) (m q : BitVec 1) (s : State) :
    Host.Outcome State Fault Refusal :=
  vecArith .sadd (.vsaddVV k d a b m q) d a (.vec b) m q s

/-- VSADD_VS (R303). -/
def execVsaddVS (k : BitVec 1) (d a b : BitVec 5) (m q : BitVec 1) (s : State) :
    Host.Outcome State Fault Refusal :=
  vecArith .sadd (.vsaddVS k d a b m q) d a (.scalar b) m q s

/-- VSSUB_VV (R303). -/
def execVssubVV (k : BitVec 1) (d a b : BitVec 5) (m q : BitVec 1) (s : State) :
    Host.Outcome State Fault Refusal :=
  vecArith .ssub (.vssubVV k d a b m q) d a (.vec b) m q s

/-- VSSUB_VS (R303). -/
def execVssubVS (k : BitVec 1) (d a b : BitVec 5) (m q : BitVec 1) (s : State) :
    Host.Outcome State Fault Refusal :=
  vecArith .ssub (.vssubVS k d a b m q) d a (.scalar b) m q s

/-- VRADD_VV (R303). -/
def execVraddVV (k : BitVec 1) (d a b : BitVec 5) (m q : BitVec 1) (s : State) :
    Host.Outcome State Fault Refusal :=
  vecArith .radd (.vraddVV k d a b m q) d a (.vec b) m q s

/-- VRADD_VS (R303). -/
def execVraddVS (k : BitVec 1) (d a b : BitVec 5) (m q : BitVec 1) (s : State) :
    Host.Outcome State Fault Refusal :=
  vecArith .radd (.vraddVS k d a b m q) d a (.scalar b) m q s

/-- VRSUB_VV (R303). -/
def execVrsubVV (k : BitVec 1) (d a b : BitVec 5) (m q : BitVec 1) (s : State) :
    Host.Outcome State Fault Refusal :=
  vecArith .rsub (.vrsubVV k d a b m q) d a (.vec b) m q s

/-- VRSUB_VS (R303). -/
def execVrsubVS (k : BitVec 1) (d a b : BitVec 5) (m q : BitVec 1) (s : State) :
    Host.Outcome State Fault Refusal :=
  vecArith .rsub (.vrsubVS k d a b m q) d a (.scalar b) m q s

/-- VSGNCOPY_VV (R303). -/
def execVsgnCopyVV (k : BitVec 1) (d a b : BitVec 5) (m q : BitVec 1) (s : State) :
    Host.Outcome State Fault Refusal :=
  vecArith .sgnCopy (.vsgnCopyVV k d a b m q) d a (.vec b) m q s

/-- VSGNCOPY_VS (R303). -/
def execVsgnCopyVS (k : BitVec 1) (d a b : BitVec 5) (m q : BitVec 1) (s : State) :
    Host.Outcome State Fault Refusal :=
  vecArith .sgnCopy (.vsgnCopyVS k d a b m q) d a (.scalar b) m q s

/-- VSGNNEG_VV (R303). -/
def execVsgnNegVV (k : BitVec 1) (d a b : BitVec 5) (m q : BitVec 1) (s : State) :
    Host.Outcome State Fault Refusal :=
  vecArith .sgnNeg (.vsgnNegVV k d a b m q) d a (.vec b) m q s

/-- VSGNNEG_VS (R303). -/
def execVsgnNegVS (k : BitVec 1) (d a b : BitVec 5) (m q : BitVec 1) (s : State) :
    Host.Outcome State Fault Refusal :=
  vecArith .sgnNeg (.vsgnNegVS k d a b m q) d a (.scalar b) m q s

/-- VSGNXOR_VV (R303). -/
def execVsgnXorVV (k : BitVec 1) (d a b : BitVec 5) (m q : BitVec 1) (s : State) :
    Host.Outcome State Fault Refusal :=
  vecArith .sgnXor (.vsgnXorVV k d a b m q) d a (.vec b) m q s

/-- VSGNXOR_VS (R303). -/
def execVsgnXorVS (k : BitVec 1) (d a b : BitVec 5) (m q : BitVec 1) (s : State) :
    Host.Outcome State Fault Refusal :=
  vecArith .sgnXor (.vsgnXorVS k d a b m q) d a (.scalar b) m q s

/-- VSQRT (R303). -/
def execVsqrt (k : BitVec 1) (d a : BitVec 5) (m q : BitVec 1) (s : State) : Host.Outcome State Fault Refusal :=
  vecArith .sqrt (.vsqrt k d a m q) d a .none m q s

/-- VEXP2 (R303). -/
def execVexp2 (k : BitVec 1) (d a : BitVec 5) (m q : BitVec 1) (s : State) : Host.Outcome State Fault Refusal :=
  vecArith .exp2 (.vexp2 k d a m q) d a .none m q s

/-- VSGNABS (R303). -/
def execVsgnAbs (k : BitVec 1) (d a : BitVec 5) (m q : BitVec 1) (s : State) : Host.Outcome State Fault Refusal :=
  vecArith .sgnAbs (.vsgnAbs k d a m q) d a .none m q s

end Sys2Proof.Machine
end

