-- ==== Sys2Proof/Machine/VectorMem.lean ====
section
/-! DEFINITION. Vector memory, majors 0x1B and 0x1C: VLD, VGATHER, VST and VSCATTER (R94, R139, R140, R142, R164 to
R170, R308, R372, R373, R383, R384). -/

namespace Sys2Proof.Machine

/-! ### Addresses (R372) -/

/-- How a vector memory word forms its addresses (R308). -/
inductive VMode where
  | unit | strided | zorder | bcast | blocked | index
  deriving DecidableEq, Repr

/-- A vector memory operand: the base, the scalar of the b field, and the rows of the index group. -/
structure VMem where
  mode : VMode
  base : Word
  opnd : Word
  index : List Row2048

/-- The element width in whole bytes. -/
def Context.esz (x : Context) : Nat := max (x.width / 8) 1

/-- The index width (R75). -/
def Context.ixWidth (x : Context) : Nat := if x.vtype.ix then 64 else 32

/-- The rows of an index group: those that this member captured when the convoy first issued, where it issues again
(R164, R170), and the group's own otherwise. -/
def Context.indexRows (x : Context) (b : BitVec 5) : List Row2048 :=
  let live := (List.range x.grows).map fun r => BitVec.ofNat 2048 (x.groupRow b.toNat r)
  match x.cvy.bind fun v => v.index.find? (·.member == v.idx) with
  | some g => g.rows
  | none => live

/-- The operand of a word with its a and b fields. -/
def Context.vmem (x : Context) (mode : VMode) (a b : BitVec 5) : VMem :=
  { mode := mode, base := x.src a, opnd := x.src b, index := if mode = .index then x.indexRows b else [] }

/-- The interleaving of leaf coordinates: bits of C below those of R up to bit m, then the rest of the longer. -/
def interleave (R C : Nat) : Nat → Nat
  | 0 => 0
  | i + 1 => interleave R C i + (R / 2 ^ i % 2) * 2 ^ (2 * i + 1) + (C / 2 ^ i % 2) * 2 ^ (2 * i)

/-- zoff(r', c') of a tile of 2^lr by 2^lc elements (R140). -/
def zoff (lr lc r c : Nat) : Nat :=
  let m := min lr lc - 2
  let L := interleave (r / 4) (c / 4) m + (r / 4 / 2 ^ m + c / 4 / 2 ^ m) * 2 ^ (2 * m)
  16 * L + 4 * (r % 4) + c % 4

/-- The element offset that a Z-order layout word gives group element (r, c). -/
def zElement (layout : Nat) (r c : Nat) : Nat :=
  let lr := layout % 16
  let lc := layout / 16 % 16
  if bitOf layout 16 then zoff lr lc c r else zoff lr lc r c

/-- A layout word is legal for the shape (R139). -/
def zLegal (x : Context) (layout : Nat) : Bool :=
  let lr := layout % 16
  let lc := layout / 16 % 16
  let rows := if bitOf layout 16 then x.vcols else x.grows
  let cols := if bitOf layout 16 then x.grows else x.vcols
  2 ≤ lr && lr ≤ 8 && 2 ≤ lc && lc ≤ 9 && 2 ^ (layout / 256 % 8) == x.width && layout / 2 ^ 11 % 32 == 0
    && layout / 2 ^ 17 == 0 && rows ≤ 2 ^ lr && cols ≤ 2 ^ lc

/-- The address of element n at (r, c), and whether a 4-bit element is the high nibble of its byte. All sums are
modulo 2^64. -/
def VMem.address (k : VMem) (x : Context) (n r c : Nat) : Word × Bool :=
  let w := x.width
  let odd (v : Nat) : Bool := w == 4 && v % 2 == 1
  match k.mode with
  | .unit | .blocked =>
    let stride : Word := if k.opnd = 0 then BitVec.ofNat 64 ((x.vcols * w + 7) / 8) else k.opnd
    (k.base + BitVec.ofNat 64 r * stride + BitVec.ofNat 64 (c * w / 8), odd c)
  | .strided => (k.base + BitVec.ofNat 64 n * k.opnd, false)
  | .zorder =>
    let z := zElement k.opnd.toNat r c
    (k.base + BitVec.ofNat 64 (z * w / 8), odd z)
  | .bcast => (k.base + BitVec.ofNat 64 (c * w / 8), odd c)
  | .index =>
    let v := rowField x.ixWidth c (k.index.getD r 0).toNat
    (k.base + BitVec.ofNat 64 (v * x.esz), false)

/-- One element's access: its number and place in the group, its address, and its nibble. -/
structure VElem where
  n : Nat
  r : Nat
  c : Nat
  va : Word
  hi : Bool

/-- The accesses of the active elements from a number on (R112). -/
def VMem.elements (k : VMem) (x : Context) (m : BitVec 1) (start : Nat) : List VElem :=
  (x.activeFrom (m == 1) start).map fun p =>
    let v := k.address x p.1 p.2.1 p.2.2
    { n := p.1, r := p.2.1, c := p.2.2, va := v.1, hi := v.2 }

/-- The addresses of the scale bytes of a blocked access (R94). -/
def VMem.scaleAddrs (k : VMem) (x : Context) : List Word :=
  if isBlocked x.et then (List.range x.nblk).map fun b => k.base + x.qfp.scoff + BitVec.ofNat 64 b else []

/-- The address that trap 0x04 names: a misaligned Z-order base, or the lowest misaligned active element
(R139, R142). -/
def VMem.misaligned (k : VMem) (x : Context) (es : List VElem) : Option Word :=
  if k.mode = .zorder && k.base.toNat % (2 * x.width) ≠ 0 then some k.base
  else (es.find? fun e => e.va.toNat % x.esz != 0).map (·.va)

/-! ### Issue checks (R308, R363) -/

/-- The element types of a mode. -/
def VMode.legal (mode : VMode) (t : Nat) : Bool :=
  match mode with
  | .unit | .bcast => !isBlocked t
  | .strided | .index => !isBlocked t && ewidth t != 4
  | .zorder => true
  | .blocked => isBlocked t

/-- The rest of an entry's own refusal: the layout word, and the width of the index rows (R139, R372). -/
def VMem.legal (k : VMem) (x : Context) : Bool :=
  k.mode.legal x.et && (k.mode ≠ .zorder || zLegal x k.opnd.toNat)
    && (k.mode ≠ .index || x.vcols ≤ 2048 / x.ixWidth)

/-- An access of an address would leave the tile (R181, R210). -/
def planeCarried (s : State) (k : AccKind) (va : Word) : Bool :=
  match resolve s (s.cx.acc s.cur) k va.toNat with
  | .ok p => !tileCarried (coreOf s.cur) (tileOf s.cur) p.loc
  | .error _ => false

/-- With no live plane, a word with an access that needs one raises trap 0x14 (R210). -/
def planeCheck (s : State) (k : AccKind) (vas : List Word) : Option Trap :=
  if s.planesDead && vas.any (planeCarried s k) then some (.issue 0x14 0) else none

/-- The issue check of a vector memory word. -/
def vmemCheck (mode : VMode) (ak : AccKind) (i : Instr) (a b : BitVec 5) (vregs : List Nat) (dest : Option Nat)
    (m : BitVec 1) (legal : Nat → Bool) (s : State) : Option Trap :=
  let x := s.cx
  let k := x.vmem mode a b
  match x.vectorCheck (wordOf i) vregs dest (m == 1) (k.legal x && legal x.et) with
  | some t => some t
  | none => planeCheck s ak ((k.elements x m x.startElem).map (·.va) ++ k.scaleAddrs x)

/-! ### Translation of a whole access (R164) -/

/-- Each address translated in turn; each that passes sets A, and D for a write (R160). -/
def translateAll (k : AccKind) : List Word → State → List (Except Nat Place) × State
  | [], s => ([], s)
  | va :: vas, s =>
    let a := s.cx.acc s.cur
    let p := resolve s a k va.toNat
    let s := match p with
      | .ok p => touch s a k p
      | .error _ => s
    let t := translateAll k vas s
    (p :: t.1, t.2)

/-- The addresses that fail, each with its cause. -/
def failures {α : Type} (es : List (α × Except Nat Place)) : List (α × Nat) :=
  es.filterMap fun e => match e.2 with
    | .ok _ => none
    | .error c => some (e.1, c)

/-- Those that pass, each with its place. -/
def passing {α : Type} (es : List (α × Except Nat Place)) : List (α × Place) :=
  es.filterMap fun e => match e.2 with
    | .ok p => some (e.1, p)
    | .error _ => none

/-- The translated access of an instruction: its elements, its scale bytes, and the state after. -/
structure Translated where
  elems : List (VElem × Except Nat Place)
  scales : List (Word × Except Nat Place)
  after : State

def VMem.translate (k : VMem) (ak : AccKind) (es : List VElem) (s : State) : Translated :=
  let sc := k.scaleAddrs s.cx
  let r := translateAll ak (es.map (·.va) ++ sc) s
  { elems := es.zip (r.1.take es.length), scales := sc.zip (r.1.drop es.length), after := r.2 }

/-- The first failing byte, scale bytes counted after every element (R165). -/
def Translated.firstFailure (t : Translated) : Option (Word × Nat) :=
  match failures t.elems, failures t.scales with
  | e :: _, _ => some (e.1.va, e.2)
  | [], f :: _ => some f
  | [], [] => none

/-! ### The fault record (R166 to R169) -/

/-- The page that a failing address is reported under: its base and size code (R168). One that fails step 1 of R162 lies in
no page; it is reported under the 64 KiB page of its low 55 bits (log entry 87). -/
def faultPage (s : State) (va : Word) : Nat × Nat :=
  let small := (va.toNat % 2 ^ 55 / 2 ^ 16 * 2 ^ 16, 0)
  if 2 ^ 55 ≤ va.toNat || va.toNat / 2 ^ 48 = 0x7F then small
  else match chooseEntry s s.cx.space va.toNat with
    | none => small
    | some e => (e.va, if e.size = 16 then 0 else if e.size = 29 then 1 else 2)

/-- The distinct failing pages in increasing order, each with its size code and the cause of its lowest-numbered
element. -/
def faultPages (s : State) (fs : List (VElem × Nat)) : Tab Nat :=
  fs.foldl (fun t f =>
    let p := faultPage s f.1.va
    if (tabFind t p.1).isSome then t else tabSet t p.1 (p.1 + f.2 * 256 + p.2)) []

/-- The 8,832 bytes of a fault record; kind is 0 VGATHER, 1 VSCATTER, 2 VAMO. -/
def faultRecord (s : State) (kind : Nat) (fs : List (VElem × Nat)) : List Byte :=
  let x := s.cx
  let pages := faultPages s fs
  let e := (fs.head?.map (·.1.n)).getD 0
  let mask := fs.foldl (fun v f => setBit v f.1.n true) 0
  valBytes 4 ((fs.head?.map (·.2)).getD 0) ++ valBytes 4 pages.length ++ valBytes 8 x.convoyStart.toNat
    ++ valBytes 1 x.member ++ valBytes 1 (if 64 < pages.length then 1 else 0) ++ valBytes 1 kind ++ valBytes 1 1
    ++ zeros 4 ++ valBytes 8 (e + x.member * 2 ^ 32) ++ valBytes 4 e ++ valBytes 4 fs.length
    ++ valBytes 2 x.space.asid.toNat ++ zeros 86
    ++ ((List.range 64).flatMap fun j => valBytes 8 ((pages[j]?.map (·.2)).getD 0))
    ++ valBytes 8192 mask

/-- A member's fault, queued with its word and what its index group held (R116, R170). -/
def memFault (s : State) (i : Instr) (k : VMem) (cause : Nat) (tval : Word) (elem : Nat) (rcd : List Byte) : State :=
  raiseQueued s cause tval (BitVec.ofNat 32 (wordOf i)) elem (if k.mode = .index then some k.index else none) rcd

/-- What a vector memory member does with its translated accesses: what comes before them, whether one of n bytes may be
performed now, which of them consume poison in n bytes of a place, and the accesses of the elements below a number. -/
structure VAct where
  prep : State → State
  ready : State → Place → Nat → Bool
  poison : State → Place → Nat → Bool
  act : Nat → List (VElem × Place) → List (Word × Place) → State → State

/-- Poison is met, and the member goes on with free values: the mill is told (R249; log entry 18). -/
def goOnPoisoned (met : Bool) (s : State) : State := if met then tellMill s s.cx.launchNo else s

/-- The elements of an index group from the first to a stop are performed (R166). -/
def VAct.perform (v : VAct) (stop : Nat) (es : List (VElem × Place)) (s : State) : State :=
  let es := es.filter fun e => e.1.n < stop
  v.act stop es [] (goOnPoisoned (es.any fun e => v.poison s e.2 s.cx.esz) s)

/-- A VAMO stops between two of its atomics: it goes on at element e when the context runs again (R188, R374). -/
def Context.pauseAt (x : Context) (e : Nat) (word : BitVec 32) (rows : List Row2048) : Context :=
  { x with
    pause := none
    vsElem := BitVec.ofNat 17 e
    vsMember := BitVec.ofNat 2 x.member
    cvy := x.cvy.map fun c => { c with index := x.captureGroup c word rows } }

/-- An index group: the elements below the first that fails, or that consumes an error, or before which the environment
interrupts a VAMO; then the fault (R116, R166, R218). While one of them must wait for an earlier access, the member waits. -/
def VAct.indexed (v : VAct) (i : Instr) (k : VMem) (kind : Nat) (t : Translated) (s : State) : State :=
  let u := v.prep t.after
  let fails := failures t.elems
  let stop := (fails.head?.map (·.1.n)).getD u.cx.inShape
  let es := (passing t.elems).filter fun e => e.1.n < stop
  let error := if u.cx.takesError then es.find? fun e => v.poison u e.2 u.cx.esz else none
  let last := (error.map (·.1.n)).getD stop
  if !(es.all fun e => last ≤ e.1.n || v.ready u e.2 u.cx.esz) then v.prep s
  else match (if kind = 2 then u.cx.pause.filter (· < last) else none) with
    | some p => (v.perform p es u).mapCx (·.pauseAt p (BitVec.ofNat 32 (wordOf i)) k.index)
    | none =>
      let w := v.perform last es u
      match error, fails with
      | some e, _ =>
        unpinnableAt w 0x10 w.cx.convoyStart (BitVec.ofNat 32 (wordOf i)) e.1.n (some k.index)
      | none, f :: rest => memFault w i k 0x08 f.1.va f.1.n (faultRecord s kind (f :: rest))
      | none, [] => w

/-- The other modes: all or nothing (R165). An error that an access consumes stops the member before its first element
(R116, R218). -/
def VAct.whole (v : VAct) (i : Instr) (k : VMem) (t : Translated) (s : State) : State :=
  match t.firstFailure with
  | some (va, cause) => memFault t.after i k cause va 0 []
  | none =>
    let u := t.after
    let es := passing t.elems
    let sc := passing t.scales
    let met := es.any (fun e => v.poison u e.2 u.cx.esz) || sc.any fun e => v.poison u e.2 1
    if met && u.cx.takesError then
      unpinnableAt u 0x10 u.cx.convoyStart (BitVec.ofNat 32 (wordOf i)) 0 none
    else if !(es.all (fun e => v.ready u e.2 u.cx.esz) && sc.all fun e => v.ready u e.2 1) then s
    else v.act u.cx.inShape es sc (goOnPoisoned met u)

/-- A vector memory member: nothing where VSTART lies beyond its elements and it has no scale bytes, trap 0x04 for a
misaligned element, and else its translated accesses (R117, R142). Scale bytes are moved whatever VSTART.elem holds
(R373, R384; log entry 89). -/
def vmemAct (mode : VMode) (ak : AccKind) (kind : Nat) (i : Instr) (a b : BitVec 5) (m : BitVec 1)
    (v : VAct) (s : State) : State :=
  let x := s.cx
  let start := x.startElem
  let k := x.vmem mode a b
  if x.inShape ≤ start && (k.scaleAddrs x).isEmpty then s.mapCx (·.retireMember)
  else
    let es := k.elements x m start
    match k.misaligned x es with
    | some va => memFault s i k 0x04 va start []
    | none =>
      let s := if mode = .index then s.mapCx fun x => x.capture (x.groupRegs b.toNat) else s
      let t := k.translate ak es s
      if mode = .index then v.indexed i k kind t s else v.whole i k t s

/-- The member retires unless its action left it waiting for a trap. -/
def retireAll (stop : Nat) (s : State) : State :=
  if s.cx.inShape ≤ stop then s.mapCx (·.retireMember) else s

/-! ### Loads (R373) -/

/-- The bytes of a place, as an element read on a stream finds them, and the state after. -/
def readBytes (g : Nat) (s : State) (p : Place) : Nat × State :=
  (bytesVal (loadBytes s s.cx g p s.cx.esz), s.dropBytes s.cur p.loc s.cx.esz)

/-- The byte that a 4-bit element has been read from, where its other nibble is still to come: a byte of two e2 elements is
read once (R179). The key names the place and the nibble to come. -/
def nibbleKey (p : Place) (hi : Bool) : Nat := p.loc * 2 + hi.toNat

/-- The value of an element read on a stream: a free value where its line is poisoned (log entry 18). `half` holds the
bytes of 4-bit elements whose other nibble has not been read. -/
def readElem (g : Nat) (half : Tab Nat) (s : State) (e : VElem) (p : Place) : Nat × Tab Nat × State :=
  let x := s.cx
  if readsPoison s x p x.esz then (s.draw.1.toNat % 2 ^ x.width, half, s.draw.2)
  else if x.width = 4 then
    let nibble (v : Nat) : Nat := if e.hi then v / 16 else v % 16
    match tabFind half (nibbleKey p e.hi) with
    | some v => (nibble v, tabErase half (nibbleKey p e.hi), s)
    | none =>
      let v := readBytes g s p
      (nibble v.1, tabSet half (nibbleKey p (!e.hi)) v.1, v.2)
  else
    let v := readBytes g s p
    (v.1, half, v.2)

/-- The values of elements read in order, by element number. -/
def readFrom (g : Nat) : List (VElem × Place) → Tab Nat → State → Tab Nat × State
  | [], _, s => ([], s)
  | e :: es, half, s =>
    let v := readElem g half s e.1 e.2
    let t := readFrom g es v.2.1 v.2.2
    ((e.1.n, v.1) :: t.1, t.2)

/-- The values of the elements of an instruction, by element number. -/
def readElems (g : Nat) (es : List (VElem × Place)) (s : State) : Tab Nat × State := readFrom g es [] s

/-- A scale byte read on a stream: 0xFF with the poison flag where its storage is poisoned (R257). -/
def readScale (g : Nat) (s : State) (p : Place) : Nat :=
  if readsPoison s s.cx p 1 then poisonedScale else bytesVal (loadBytes s s.cx g p 1)

/-- The early reads that stand after the accesses of an instruction, of n bytes each, have been made (R182, R183). -/
def State.dropAll (g n : Nat) (ps : List Place) (s : State) : State :=
  ps.foldl (fun s p => s.dropEarly s.cur g p.loc n) s

/-- The elements below a number, and the scale bytes, loaded into a group. -/
def loadElems (start : Nat) (d : BitVec 5) (m q : BitVec 1) (g stop : Nat) (es : List (VElem × Place))
    (sc : List (Word × Place)) (s : State) : State :=
  let r := readElems g es s
  let b := sc.map fun e => readScale g r.2 e.2
  let u := (r.2.dropAll g s.cx.esz (es.map (·.2))).dropAll g 1 (sc.map (·.2))
  let t := if u.cx.inShape ≤ start then allocate u (u.cx.groupRegs d.toNat)
    else writeUpTo start stop s.cx.width d m q false (fun _ _ n _ _ => (tabGet 0 r.1 n, 0)) u
  let t := if isBlocked t.cx.et then t.mapCx (·.putScales d.toNat b) else t
  retireAll stop t

/-- What a vector load does: reads on a stream at their homes. -/
def loadAct (start : Nat) (d : BitVec 5) (m q : BitVec 1) (g : Nat) : VAct :=
  { prep := id, ready := fun s p n => mayRead s s.cur g p n, poison := fun s p n => readsPoison s s.cx p n,
    act := loadElems start d m q g }

/-- A vector load (R373). -/
def vecLoad (mode : VMode) (i : Instr) (d a b : BitVec 5) (m q : BitVec 1) (g : BitVec 3) (check : Option Trap)
    (s : State) : Host.Outcome State Fault Refusal :=
  vectorWord check (vmemAct mode .load 0 i a b m (loadAct s.cx.startElem d m q g.toNat)) s

/-- The issue check of a vector load. -/
def loadCheck (mode : VMode) (i : Instr) (d a b : BitVec 5) (m : BitVec 1) (s : State) : Option Trap :=
  vmemCheck mode .load i a b (if mode = .index then [d.toNat, b.toNat] else [d.toNat]) (some d.toNat) m
    (fun _ => true) s

/-! ### Stores (R383, R384) -/

/-- The held write of one element of a data group. -/
def elemWrite (x : Context) (d : BitVec 5) (g : Nat) (e : VElem) (p : Place) : Write :=
  let v := x.elem d.toNat x.width e.r e.c
  { p.write g (valBytes x.esz v) with nib := if x.width = 4 then some e.hi else none }

/-- The held write of a scale byte. -/
def scaleWrite (x : Context) (free : Nat) (d : BitVec 5) (g b : Nat) (p : Place) : Write :=
  p.write g (valBytes 1 (soundScale free (x.scale d.toNat b)))

/-- The high nibble of a byte joins the low one that was written last, where one was: a byte that holds two e2 elements
is written at once (R179). -/
def joinNibble (w : Write) : List Write → Option (List Write)
  | [] => none
  | v :: vs =>
    if v.loc = w.loc then
      if v.nib = some false then
        some ({ v with nib := none, bytes := List.zipWith (fun a b => mergeNibble true a b) v.bytes w.bytes } :: vs)
      else none
    else (joinNibble w vs).map (v :: ·)

/-- Writes with the two elements of each byte joined. -/
def pairNibbles (ws : List Write) : List Write :=
  (ws.foldl (fun acc w =>
    if w.nib = some true then (joinNibble w acc).getD (w :: acc) else w :: acc) []).reverse

/-- The elements below a number, and then the scale bytes, held in the strip store buffer; where it lacks room the
strip is committed first. -/
def holdElems (d : BitVec 5) (g stop : Nat) (es : List (VElem × Place)) (sc : List (Word × Place)) (free : Nat)
    (s : State) : State :=
  let x := s.cx
  let ws := pairNibbles (es.map fun e => elemWrite x d g e.1 e.2)
    ++ (sc.zipIdx.map fun e => scaleWrite x free d g e.2 e.1.2)
  let n := ws.foldl (fun n w => n + w.bytes.length) 0
  let s := if 131072 < x.heldBytes + n then forceCommit s else s
  retireAll stop (ws.foldl holdWrite s)

/-- The same, where every scale that is stored is sound (R257). -/
def storeElems (i : Instr) (d : BitVec 5) (g stop : Nat) (es : List (VElem × Place)) (sc : List (Word × Place))
    (s : State) : State :=
  consumeScales (BitVec.ofNat 32 (wordOf i)) ((List.range sc.length).map (s.cx.scale d.toNat))
    (holdElems d g stop es sc) s

/-- What a vector store does: it holds its writes, and reads nothing. -/
def storeAct (i : Instr) (d : BitVec 5) (g : Nat) : VAct :=
  { prep := id, ready := fun _ _ _ => true, poison := fun _ _ _ => false, act := storeElems i d g }

/-- A vector store (R383). -/
def vecStore (mode : VMode) (i : Instr) (d a b : BitVec 5) (m : BitVec 1) (g : BitVec 3) (check : Option Trap)
    (s : State) : Host.Outcome State Fault Refusal :=
  vectorWord check (vmemAct mode .store 1 i a b m (storeAct i d g.toNat)) s

/-- The issue check of a vector store. -/
def storeCheck (mode : VMode) (i : Instr) (d a b : BitVec 5) (m : BitVec 1) (s : State) : Option Trap :=
  vmemCheck mode .store i a b (if mode = .index then [d.toNat, b.toNat] else [d.toNat]) none m (fun _ => true) s

/-- VLD (R373). -/
def execVld (k : BitVec 1) (d a b : BitVec 5) (m q : BitVec 1) (g : BitVec 3) (s : State) :
    Host.Outcome State Fault Refusal :=
  vecLoad .unit (.vld k d a b m q g) d a b m q g (loadCheck .unit (.vld k d a b m q g) d a b m s) s

/-- VLD_ST (R373). -/
def execVldSt (k : BitVec 1) (d a b : BitVec 5) (m q : BitVec 1) (g : BitVec 3) (s : State) :
    Host.Outcome State Fault Refusal :=
  vecLoad .strided (.vldSt k d a b m q g) d a b m q g (loadCheck .strided (.vldSt k d a b m q g) d a b m s) s

/-- VLD_Z (R373). -/
def execVldZ (k : BitVec 1) (d a b : BitVec 5) (m q : BitVec 1) (g : BitVec 3) (s : State) :
    Host.Outcome State Fault Refusal :=
  vecLoad .zorder (.vldZ k d a b m q g) d a b m q g (loadCheck .zorder (.vldZ k d a b m q g) d a b m s) s

/-- VLD_BC (R373). -/
def execVldBc (k : BitVec 1) (d a : BitVec 5) (m q : BitVec 1) (g : BitVec 3) (s : State) :
    Host.Outcome State Fault Refusal :=
  vecLoad .bcast (.vldBc k d a m q g) d a 0 m q g (loadCheck .bcast (.vldBc k d a m q g) d a 0 m s) s

/-- VLD_B (R373). -/
def execVldB (k : BitVec 1) (d a b : BitVec 5) (m q : BitVec 1) (g : BitVec 3) (s : State) :
    Host.Outcome State Fault Refusal :=
  vecLoad .blocked (.vldB k d a b m q g) d a b m q g (loadCheck .blocked (.vldB k d a b m q g) d a b m s) s

/-- VGATHER (R373). -/
def execVgather (k : BitVec 1) (d a b : BitVec 5) (m q : BitVec 1) (g : BitVec 3) (s : State) :
    Host.Outcome State Fault Refusal :=
  vecLoad .index (.vgather k d a b m q g) d a b m q g (loadCheck .index (.vgather k d a b m q g) d a b m s) s

/-- VST (R383, R384). -/
def execVst (k : BitVec 1) (d a b : BitVec 5) (m q : BitVec 1) (g : BitVec 3) (s : State) :
    Host.Outcome State Fault Refusal :=
  vecStore .unit (.vst k d a b m q g) d a b m g (storeCheck .unit (.vst k d a b m q g) d a b m s) s

/-- VST_ST (R383, R384). -/
def execVstSt (k : BitVec 1) (d a b : BitVec 5) (m q : BitVec 1) (g : BitVec 3) (s : State) :
    Host.Outcome State Fault Refusal :=
  vecStore .strided (.vstSt k d a b m q g) d a b m g (storeCheck .strided (.vstSt k d a b m q g) d a b m s) s

/-- VST_Z (R383, R384). -/
def execVstZ (k : BitVec 1) (d a b : BitVec 5) (m q : BitVec 1) (g : BitVec 3) (s : State) :
    Host.Outcome State Fault Refusal :=
  vecStore .zorder (.vstZ k d a b m q g) d a b m g (storeCheck .zorder (.vstZ k d a b m q g) d a b m s) s

/-- VST_BC (R383, R384). -/
def execVstBc (k : BitVec 1) (d a : BitVec 5) (m q : BitVec 1) (g : BitVec 3) (s : State) :
    Host.Outcome State Fault Refusal :=
  vecStore .bcast (.vstBc k d a m q g) d a 0 m g (storeCheck .bcast (.vstBc k d a m q g) d a 0 m s) s

/-- VST_B (R383, R384). -/
def execVstB (k : BitVec 1) (d a b : BitVec 5) (m q : BitVec 1) (g : BitVec 3) (s : State) :
    Host.Outcome State Fault Refusal :=
  vecStore .blocked (.vstB k d a b m q g) d a b m g (storeCheck .blocked (.vstB k d a b m q g) d a b m s) s

/-- VSCATTER (R383, R384). -/
def execVscatter (k : BitVec 1) (d a b : BitVec 5) (m q : BitVec 1) (g : BitVec 3) (s : State) :
    Host.Outcome State Fault Refusal :=
  vecStore .index (.vscatter k d a b m q g) d a b m g (storeCheck .index (.vscatter k d a b m q g) d a b m s) s

end Sys2Proof.Machine
end

