-- ==== Sys2Proof/Machine/Ahead.lean ====
section
/-! DEFINITION. Which convoys the scalar unit may issue ahead of a vector queue whose oldest convoy has faulted: one waits
only for what an older member has still to give or to access (R65, R182, R183, R218; log entry 11). -/

namespace Sys2Proof.Machine

/-! ### What a word reads and gives (R295, R303 to R309) -/

/-- A register field of a word, by its lowest bit. -/
def regField (w : BitVec 32) (lo : Nat) : BitVec 5 := (w >>> lo).setWidth 5

/-- The major of a word. -/
def majorOf (w : BitVec 32) : Nat := w.toNat / 2 ^ 25 % 64

/-- The scalar registers that a vector or matrix word reads when it enters the queue. -/
def queueReads (w : BitVec 32) : List (BitVec 5) :=
  let low := w.toNat % 256
  match majorOf w with
  | 0x15 | 0x17 => [regField w 10]
  | 0x19 =>
    if low = 8 then [regField w 15, regField w 10]
    else if low = 1 || low = 4 || low = 5 || low = 7 then [regField w 10] else []
  | 0x1B | 0x1C =>
    if low % 32 = 3 || low % 32 = 8 then [regField w 15] else [regField w 15, regField w 10]
  | 0x1D => [regField w 15]
  | _ =>
    match decode w with
    | .ok (.mldb _ a _) | .ok (.mma _ _ a _) => [a]
    | .ok (.mdrain _ _ b _) => [b]
    | _ => []

/-- The scalar registers that a scalar word reads or writes. -/
def scalarRegs (w : BitVec 32) (i : Instr) : List (BitVec 5) :=
  match i with
  | .cmpReg _ a b _ _ | .fcmp _ a b _ _ => [a, b]
  | .cbitAnd .. | .cbitOr .. | .cbitXor .. | .cbitAndn .. | .cbitSet .. | .cbitClear .. | .cbitNot .. | .cbitMove .. => []
  | _ =>
    match majorOf w with
    | 0x01 | 0x09 => [regField w 20, regField w 15, regField w 10]
    | 0x02 | 0x03 | 0x04 | 0x05 | 0x06 | 0x0A | 0x0B | 0x21 => [regField w 20, regField w 15]
    | 0x07 => [regField w 14]
    | 0x10 => [regField w 15]
    | 0x08 | 0x11 | 0x25 | 0x26 => [regField w 20]
    | _ => []

/-- The condition bits that a scalar word reads or writes. -/
def scalarConds : Instr → List (BitVec 3)
  | .sel _ _ _ c | .cmpReg c _ _ _ _ | .cmpImm c _ _ _ _ | .fcmp c _ _ _ _ | .b c _ _ _ | .cbitSet c | .cbitClear c => [c]
  | .cbitAnd d a b | .cbitOr d a b | .cbitXor d a b | .cbitAndn d a b => [d, a, b]
  | .cbitNot d a | .cbitMove d a => [d, a]
  | _ => []

/-- The scalar register that a word in the queue has still to write (R64). -/
def resultReg : Instr → Option (BitVec 5)
  | .vmpop _ d _ _ _ | .vmfirst _ d _ _ _ | .vext _ d _ _ => if d = 0 then none else some d
  | _ => none

/-- The condition bit that a word in the queue has still to write (R64). -/
def resultCond : Instr → Option (BitVec 3)
  | .vmtocAny _ c _ _ _ | .vmtocAll _ c _ _ _ | .vmtocNone _ c _ _ _ => if c = 7 then none else some c
  | _ => none

/-! ### The members that have still to run -/

/-- A member that has still to run: its convoy, standing at it, its instruction, and whether it is the one that faulted. -/
structure Behind where
  cvy : Convoy
  word : BitVec 32
  instr : Instr
  first : Bool

/-- The members of a convoy from the one it stands at on. -/
def Convoy.behind (v : Convoy) (first : Bool) : List Behind :=
  ((v.words.drop v.idx).zipIdx v.idx).filterMap fun e =>
    match decode e.1 with
    | .ok i => some { cvy := { v with idx := e.2 }, word := e.1, instr := i, first := first && e.2 = v.idx }
    | .error _ => none

/-- The members that have still to run behind a fault, its own first. -/
def Context.behind (x : Context) (f : QueueFault) : List Behind :=
  f.cvy.behind true ++ x.queue.flatMap (·.behind false)

/-- A member may draw from the generator under the rounding mode that its convoy captured (R96): one of any major but those of
masks, moves, loads, stores and atomics. -/
def Behind.draws (b : Behind) : Bool :=
  [0x14, 0x15, 0x18, 0x1A, 0x20].contains (majorOf b.word) && ((b.cvy.ctl.map (·.rm)).getD 5 == 5)

/-! ### Memory -/

/-- How a vector memory word forms its addresses, and its stream. -/
def memoryOf : Instr → Option (VMode × BitVec 5 × BitVec 5 × BitVec 3)
  | .vld _ _ a b _ _ g | .vst _ _ a b _ _ g => some (.unit, a, b, g)
  | .vldSt _ _ a b _ _ g | .vstSt _ _ a b _ _ g => some (.strided, a, b, g)
  | .vldZ _ _ a b _ _ g | .vstZ _ _ a b _ _ g => some (.zorder, a, b, g)
  | .vldBc _ _ a _ _ g | .vstBc _ _ a _ _ g => some (.bcast, a, 0, g)
  | .vldB _ _ a b _ _ g | .vstB _ _ a b _ _ g => some (.blocked, a, b, g)
  | .vgather _ _ a b _ _ g | .vscatter _ _ a b _ _ g => some (.index, a, b, g)
  | .vamoAdd _ _ a b _ _ g | .vamoMin _ _ a b _ _ g | .vamoMax _ _ a b _ _ g | .vamoAnd _ _ a b _ _ g
  | .vamoOr _ _ a b _ _ g | .vamoXor _ _ a b _ _ g | .vamoSwap _ _ a b _ _ g | .vamoFadd _ _ a b _ _ g =>
    some (.index, a, b, g)
  | _ => none

/-- A word that appends to a queue in memory. -/
def isAppend : Instr → Bool
  | .vcappIdx .. | .vcappVal .. => true
  | _ => false

/-- A word that writes memory. -/
def Behind.writes (b : Behind) : Bool := [0x1C, 0x1D].contains (majorOf b.word)

/-- The accesses that a member may still make, whatever its mask: its stream, and addresses with their lengths. None where
they are not known before it runs: those of an append, and of an index group that an older member may still write. -/
def Context.spans (x : Context) (b : Behind) : Option (List (Nat × Word × Nat)) :=
  match memoryOf b.instr with
  | some (mode, a, o, g) =>
    if mode = .index && !b.first then none
    else
      let y := { x with cvy := some b.cvy }
      let k := y.vmem mode a o
      some ((y.positions.map fun p => (g.toNat, (k.address y p.1 p.2.1 p.2.2).1, y.esz))
        ++ (k.scaleAddrs y).map fun va => (g.toNat, va, 1))
  | none => if isAppend b.instr then none else some []

/-- The access that a scalar word makes: its stream, kind, address and length (R71, R180). -/
def scalarAccess (x : Context) : Instr → Option (Nat × AccKind × Word × Nat)
  | .ld _ a g u _ i => some (g.toNat, .load, x.memAddr a i u.toNat, 2 ^ u.toNat)
  | .st _ a g u i => some (g.toNat, .store, x.memAddr a i u.toNat, 2 ^ u.toNat)
  | .jal _ | .jrLink _ => if x.ret.entries.length < 16 then none else some (0, .store, x.ret.spill, 8)
  | .ret => if x.ret.entries.isEmpty then some (0, .load, (x.ret.spill - 8) &&& 0x007FFFFFFFFFFFF8, 8) else none
  | _ => none

/-- Two ranges share a byte. -/
def rangesMeet (a n b m : Nat) : Bool := a < b + m && b < a + n

/-- An access of n bytes of a place must come after one that a member may still make: they share a byte (R182), or their
stream keeps them in order, since both are tile-carried (R183). -/
def comesAfter (s : State) (strm : Nat) (va : Word) (p : Place) (n : Nat) (e : Nat × Word × Nat) : Bool :=
  rangesMeet va.toNat n e.2.1.toNat e.2.2 ||
    match resolve s (s.cx.acc s.cur) .load e.2.1.toNat with
    | .ok q =>
      let carried (l : Nat) : Bool := tileCarried (coreOf s.cur) (tileOf s.cur) l
      rangesMeet p.loc n q.loc e.2.2 || (e.1 == strm && carried p.loc && carried q.loc)
    | .error _ => false

/-- A scalar access may be made before the members that have still to run. -/
def accessFree (s : State) (bs : List Behind) (a : Nat × AccKind × Word × Nat) : Bool :=
  match resolve s (s.cx.acc s.cur) a.2.1 a.2.2.1.toNat with
  | .error _ => false
  | .ok p => bs.all fun b =>
    match s.cx.spans b with
    | none => false
    | some es => es.all fun e => !comesAfter s a.1 a.2.2.1 p a.2.2.2 e

/-! ### Which words need not wait -/

/-- A register that MFS reads without waiting for the queue (R65). -/
def readsFreely (n : Nat) : Bool := !([0x03, 0x0B, 0x0C, 0x15].contains n)

/-- A register that MTS writes without waiting for the queue: no word of the queue reads it, or those that do have captured it
(R65, R354). -/
def writesFreely (n : Nat) : Bool :=
  [0x0A, 0x0D, 0x11, 0x12, 0x13, 0x14, 0x18, 0x2C, 0x30, 0x33, 0x39, 0x48].contains n

/-- A scalar word that is no strip boundary, forces no commit and orders nothing. -/
def plainScalar (x : Context) (bs : List Behind) (w : BitVec 32) (i : Instr) : Bool :=
  match i with
  | .mfs _ n => readsFreely n.toNat
  | .mts _ n => writesFreely n.toNat
  | .nop | .pref .. | .adj _ | .xwait .. => true
  | _ =>
    let major := majorOf w
    (1 ≤ major && major ≤ 8) || major == 0x0A || major == 0x0B || (0x0D ≤ major && major ≤ 0x11)
      || (major == 9 && (x.fp.rm != 5 || !bs.any (·.draws)))

/-- A scalar word may retire before the members that have still to run: it uses no result that one of them gives, and makes
no access that must come after theirs. -/
def scalarFree (s : State) (bs : List Behind) (w : BitVec 32) : Bool :=
  match decode w with
  | .error _ => false
  | .ok i =>
    plainScalar s.cx bs w i
      && !(scalarRegs w i).any (fun r => bs.any fun b => resultReg b.instr == some r)
      && !(scalarConds i).any (fun c => bs.any fun b => resultCond b.instr == some c)
      && (match scalarAccess s.cx i with
        | none => true
        | some a => accessFree s bs a)

/-- A vector or matrix word may enter the queue behind them: the scalar operands it reads are not results still to come, and
its checks read nothing that an older member writes: a slot's tag, or a queue descriptor (R65, R129, R294). -/
def queueFree (bs : List Behind) (w : BitVec 32) : Bool :=
  !(queueReads w).any (fun r => bs.any fun b => resultReg b.instr == some r)
    && match decode w with
    | .ok (.mma ..) | .ok (.mdrain ..) => bs.all fun b => match b.instr with
      | .mldb .. => false
      | _ => true
    | .ok i => !isAppend i || !bs.any (·.writes)
    | .error _ => false

end Sys2Proof.Machine
end

