-- ==== Sys2Proof/Machine/Branch.lean ====
section
/-! DEFINITION. Control transfers, the return-address store and hardware loops (R66 to R72, R301, R322, R341,
R342, R346, R358). -/

namespace Sys2Proof.Machine

/-- The loop stack after a transfer to a target: every innermost loop whose body does not hold the target is
popped (R70). -/
def popLoops (target : Word) : List LoopEntry → List LoopEntry
  | [] => []
  | l :: ls =>
    if l.start.toNat ≤ target.toNat && target.toNat ≤ l.stop.toNat then l :: ls else popLoops target ls

/-- A taken transfer that leaves loops (R67, R70). -/
def Context.jump (x : Context) (target : Word) : Context :=
  { x.goto target with loops := popLoops target x.loops }

/-- B: the hint changes only time (R66, R322). -/
def execB (c : BitVec 3) (t _h : BitVec 1) (d : BitVec 20) (s : State) : Host.Outcome State Fault Refusal :=
  .next (s.mapCx fun x =>
    if x.cond c = (t == 1) then x.jump (branchTarget x.convoyStart d) else x.retire)

/-- J (R341). -/
def execJ (d : BitVec 25) (s : State) : Host.Outcome State Fault Refusal :=
  .next (s.mapCx fun x => x.jump (branchTarget x.convoyStart d))

/-! ### The return-address store (R71, R72) -/

/-- RSPILL keeps bits 54:3 (R72). -/
def alignSpill (a : Word) : Word := a &&& 0x007FFFFFFFFFFFF8

/-- The spill count saturates (R72). -/
def countUp (n : BitVec 32) : BitVec 32 := if n = BitVec.allOnes 32 then n else n + 1

/-- The trap of a spill or refill that fails (R71, R210). -/
def spillTrap (cause : Nat) (va : Word) : Trap := if cause = 0x14 then .issue 0x14 0 else .issue 0x15 va

/-- The oldest of a full store's 16 entries spilled to RSPILL on g0, as a held store (R71). -/
def spillOldest (s : State) : Except Trap State :=
  let x := s.cx
  if x.ret.entries.length < 16 then .ok s
  else
    let va := x.ret.spill
    let a := x.acc s.cur
    match reach s a .store va.toNat with
    | .error e => .error (spillTrap e va)
    | .ok p =>
      let t := holdStore (touch s a .store p) p 0 3 (x.ret.entries.getLastD 0)
      .ok (t.mapCx fun y => { y with ret :=
        { entries := y.ret.entries.dropLast, spilled := countUp y.ret.spilled, spill := alignSpill (va + 8) } })

/-- A return address pushed, and then a transfer that pops no loop (R70, R71). -/
def pushAndGo (target : Context → Word) (s : State) : State :=
  match spillOldest s with
  | .error t => takeTrap s t
  | .ok t => t.mapCx fun x =>
    { x.goto (target x) with ret := { x.ret with entries := (x.convoyStart + 4) :: x.ret.entries } }

/-- JAL (R341). -/
def execJal (d : BitVec 25) (s : State) : Host.Outcome State Fault Refusal :=
  .next (pushAndGo (fun x => branchTarget x.convoyStart d) s)

/-- JR without link (R342). -/
def execJr (a : BitVec 5) (s : State) : Host.Outcome State Fault Refusal :=
  let t := s.cx.reg a
  if t.toNat % 4 ≠ 0 then .next (takeTrap s (.issue 0x04 t)) else .next (s.mapCx (·.jump t))

/-- JR with link (R342). -/
def execJrLink (a : BitVec 5) (s : State) : Host.Outcome State Fault Refusal :=
  let t := s.cx.reg a
  if t.toNat % 4 ≠ 0 then .next (takeTrap s (.issue 0x04 t)) else .next (pushAndGo (fun _ => t) s)

/-- RET goes to an entry, or traps where it is misaligned; the store is then as given (R358). -/
def returnTo (t : Word) (ret : RetStore) (s : State) : State :=
  if t.toNat % 4 ≠ 0 then takeTrap s (.issue 0x04 t)
  else s.mapCx fun x => { x.jump t with ret := ret }

/-- RET (R71, R358); a refill is a load on stream g0 (R180). Its address RSPILL - 8 wraps at 55 bits, as RSPILL itself does: where
RSPILL is 0 it is 0x007F_FFFF_FFFF_FFF8 (log entry 97). -/
def execRet (s : State) : Host.Outcome State Fault Refusal :=
  let x := s.cx
  match x.ret.entries with
  | t :: rest => .next (returnTo t { x.ret with entries := rest } s)
  | [] =>
    if x.ret.spilled = 0 then .next (takeTrap s (.issue 0x0D 0))
    else
      let va := alignSpill (x.ret.spill - 8)
      let a := x.acc s.cur
      match reach s a .load va.toNat with
      | .error e => .next (takeTrap s (spillTrap e va))
      | .ok p =>
        if !mayRead s s.cur 0 p 8 then .next s
        else
          .next (consume (touch s a .load p) 0 p 8 fun t v =>
            returnTo (BitVec.ofNat 64 v) { entries := [], spilled := x.ret.spilled - 1, spill := va } t)

/-! ### LOOP -/

/-- LOOP (R68, R346). -/
def execLoop (a : BitVec 5) (n l : BitVec 10) (s : State) : Host.Outcome State Fault Refusal :=
  let x := s.cx
  let count : Word := if a = 0 then n.setWidth 64 else x.reg a
  let start := x.convoyStart + 4
  let stop := x.convoyStart + BitVec.ofNat 64 (4 * l.toNat)
  if count = 0 then .next (s.mapCx fun x => x.goto (stop + 4))
  else if 3 ≤ x.loops.length then .next (takeTrap s (.issue 0x0C 1))
  else .next (s.retireWith fun x =>
    { x with loops := { start := start, stop := stop, remaining := count } :: x.loops })

end Sys2Proof.Machine
end

