-- ==== Sys2Proof/Machine/Strip.lean ====
section
/-! DEFINITION. The strip boundary (R78), lanes (R73, R77, R227), VSHAPE and VREL (R41, R77, R302, R385 to
R387), and what a notice does at a boundary (R226). -/

namespace Sys2Proof.Machine

/-! ### The boundary -/

/-- The slots of a tile after a boundary of a context: those it had marked released are free (R132). -/
def Tile.freeReleased (t : Tile) (c : Nat) : Tile :=
  let free (k : Slot) : Slot :=
    if k.holder = some (.ctx c) && k.released then { k with holder := none, released := false } else k
  { t with slots := t.slots.map fun e => (e.1, free e.2) }

/-- The loop stack as it was before the loop-end test of the convoy that is executing. -/
def Context.loopsAtStart (x : Context) : List LoopEntry :=
  match x.cvy with
  | some v => v.loops0
  | none => x.loops

/-- The strip that a boundary instruction opens. One that issues again before it has retired keeps the errors pinned so
far (R246). -/
def Strip.opened (p : Strip) : Strip :=
  { Strip.reset with unopened := true, pinned := if p.unopened then p.pinned else 0 }

/-- strip_boundary() of the current context (R78, R132); MDET leaves the accumulators uncommitted (R131). The
checkpoint resumes at the boundary instruction itself, before its loop-end test. -/
def boundary (commitAcc : Bool) (s : State) : State :=
  let s := if commitAcc then commitAccumulators s s.cur else s
  let n := tileOf s.cur
  let s := s.setTile n ((s.tileAt n).freeReleased s.cur)
  s.mapCx fun x =>
    let x := x.commitStores
    { x with strip := x.strip.opened, ckpt := { x with loops := x.loopsAtStart }.checkpoint x.convoyStart }

/-- A boundary instruction retires: its results enter the checkpoint, which resumes after it (R78). -/
def retireBoundary (f : Context → Context) (s : State) : State :=
  s.mapCx fun x =>
    let y := (f x).retire
    { y with strip := { y.strip with unopened := false, pinned := 0 }, ckpt := y.checkpoint y.pc }

/-- An eviction notice takes effect at this boundary: the task leaves at user level (R226). -/
def Context.leaves (x : Context) : Bool := x.evict && !x.sup && x.task.isSome

/-- The context stops at its boundary instruction, or in its wait, to be saved whole (R226, R229). -/
def stopForSave (s : State) : State :=
  s.mapCx fun x =>
    { x with
      saving := true, pc := x.convoyStart, cvy := none, wait := none, loops := x.loopsAtStart
      rewaits :=
        if (x.wait.map (·.kind)) == some .wake || x.rewaits == some x.convoyStart then some x.convoyStart else none }

/-- A boundary instruction: the boundary, and then its own effect, unless the task leaves here: the save commits the strip
again, forced, with the accumulators that MDET would discard (R229, R239). -/
def atBoundary (commitAcc : Bool) (k : State → State) (s : State) : State :=
  let t := boundary commitAcc s
  if s.cx.leaves then stopForSave (forceCommit t) else k t

/-! ### Lanes -/

/-- Lanes of the current context's core that no context holds. -/
def State.freeLanes (s : State) (c : Nat) : Nat := 16 - (s.ctxAt c).lanes - (s.ctxAt (siblingOf c)).lanes

/-- Logical lanes at or above a number released: their rows become dead (R73). -/
def Context.releaseTo (x : Context) (n : Nat) : Context :=
  if n < x.lanes then { x with lanes := n, vregs := x.vregs.filter fun e => e.1 % 32 < 2 * n } else x

/-! ### What the mill sees of lanes, and what it does about waits for them (R46, R227) -/

/-- The core that a message to the mill comes from, if it comes from one. -/
def LinkMsg.core? : LinkMsg → Option Nat
  | .core n _ _ _ _ => some n
  | .wait c _ | .vrel c => some (coreOf c)
  | .tile .. | .string .. => none

/-- A message of a core is still on its way to the mill. -/
def State.coreLags (s : State) (n : Nat) : Bool := s.mill.links.any fun m => m.core? == some n

/-- A message comes onto the crossing to the mill. -/
def State.sendMill (s : State) (m : LinkMsg) : State := { s with mill := { s.mill with links := s.mill.links ++ [m] } }

/-- The lanes and the busy contexts of a core as the oldest message on its crossing gives them. -/
def seenCore (n : Nat) : List LinkMsg → Option ((Nat × Nat) × Bool × Bool)
  | [] => none
  | .core k a b p q :: ms => if k = n then some ((a, b), p, q) else seenCore n ms
  | _ :: ms => seenCore n ms

/-- The lanes that the mill takes a context to hold: what it acquired or released since its core's message came onto the
crossing has not reached the mill (R46; log entry 77). -/
def lanesSeen (s : State) (c : Nat) : Nat :=
  match seenCore (coreOf c) s.mill.links with
  | none => (s.ctxAt c).lanes
  | some (l, _) => if c % 2 = 0 then l.1 else l.2

/-- The wait of a context lowers the other context's cap to its held lanes less the shortfall, but not below 1
(R227). -/
def lowerCap (s : State) (c short : Nat) : State :=
  let o := siblingOf c
  let y := s.ctxAt o
  let cap := max 1 (lanesSeen s o - short)
  if cap < y.cap.toNat then s.setCtx o { y with cap := BitVec.ofNat 5 cap, capWaited := true } else s

/-- A cap that this context's wait had lowered returns to 16 (R227). -/
def restoreCap (s : State) (c : Nat) : State :=
  let o := siblingOf c
  let y := s.ctxAt o
  if y.capWaited then s.setCtx o { y with cap := 16, capWaited := false } else s

/-- The mill hears of a wait for lanes: at once, or behind what is still on the core's crossing (R46). -/
def tellWait (s : State) (c short : Nat) : State :=
  if s.coreLags (coreOf c) then s.sendMill (.wait c short) else lowerCap s c short

/-- The mill hears of a VREL in the same way. -/
def tellRel (s : State) (c : Nat) : State :=
  if s.coreLags (coreOf c) then s.sendMill (.vrel c) else restoreCap s c

/-! ### VSHAPE -/

/-- The operands of VSHAPE. -/
structure ShapeReq where
  d : BitVec 5
  rows : Nat
  cols : Nat
  etype : BitVec 5
  glog : BitVec 2
  ta : Bool
  ix : Bool

/-- A reserved type, or 4-bit elements in groups of 8 (R77). -/
def ShapeReq.bad (r : ShapeReq) : Bool :=
  !etypeDefined r.etype || (ewidth r.etype.toNat == 4 && r.glog == 3)

def ShapeReq.vtype (r : ShapeReq) (ill : Bool) : VType :=
  { ill := ill, glog := r.glog, ta := r.ta, ix := r.ix, etype := r.etype }

/-- VSHAPE retires with a grant; VSTART then reads 0, as R386 states for it, where R82 lets scalar-class words leave VSTART
unchanged (R77; log entry 85). -/
def Context.granted (x : Context) (r : ShapeReq) (rows cols : Nat) (ill : Bool) : Context :=
  { x.setReg r.d (BitVec.ofNat 64 (cols * 2 ^ 32 + rows)) with
    vrows := rows, vcols := cols, vtype := r.vtype ill, vsElem := 0, vsMember := 0 }

/-- The rows that a request can have under the cap (R77). -/
def Context.wanted (x : Context) (r : ShapeReq) : Nat := min r.rows (min 32 (2 * x.cap.toNat))

/-- VSHAPE acquires lanes for the rows it wants, which its boundary has fixed, and is granted, or waits where the context can
hold no lane (R77). -/
def takeLanes (i : Instr) (r : ShapeReq) (want : Nat) (s : State) : State :=
  let need := (want + 1) / 2
  let held := max s.cx.lanes (min need (s.cx.lanes + s.freeLanes s.cur))
  if held = 0 then tellWait (s.waitIn .lanes i [(want, 0)]) s.cur 1
  else
    retireBoundary (fun x =>
      let y := { x with lanes := held }.releaseTo need
      y.granted r (min want (2 * y.lanes)) (min r.cols (2048 / ewidth r.etype.toNat)) false) s

/-- The grant of VSHAPE after its boundary (R77). -/
def grantShape (i : Instr) (r : ShapeReq) (s : State) : State :=
  let s := s.mapCx fun x =>
    let x := x.releaseTo x.cap.toNat
    { x with notice := if x.evict then x.notice else none }
  if r.bad || r.rows = 0 || r.cols = 0 then retireBoundary (fun x => x.granted r 0 0 r.bad) s
  else takeLanes i r (s.cx.wanted r) s

/-- What VSHAPE requests. -/
def shapeReq (d a b e : BitVec 5) (g : BitVec 2) (t u : BitVec 1) (x : Context) : ShapeReq :=
  { d := d, rows := (x.reg a).toNat, cols := (x.reg b).toNat, etype := e, glog := g, ta := t == 1, ix := u == 1 }

/-- VSHAPE (R77, R386). -/
def execVshape (d a b e : BitVec 5) (g : BitVec 2) (t x : BitVec 1) (s : State) :
    Host.Outcome State Fault Refusal :=
  .next (atBoundary true (fun s => grantShape (.vshape d a b e g t x) (shapeReq d a b e g t x s.cx) s) s)

/-- VREL (R41, R387). -/
def execVrel (s : State) : Host.Outcome State Fault Refusal :=
  .next (atBoundary true (fun s =>
    retireBoundary (fun x =>
      { x.releaseTo 0 with vrows := 0, vcols := 0, vtype := { x.vtype with ill := true } })
      (tellRel s s.cur)) s)

end Sys2Proof.Machine
end

