-- ==== Sys2Proof/Machine/VectorConv.lean ====
section
/-! DEFINITION. Conversions, major 0x18: VCVT, VBQ and VBDQ (R99 to R101, R305, R369). -/

namespace Sys2Proof.Machine

/-- The layout limits of a conversion to a type (R100). -/
def layoutFits (x : Context) (t : Nat) : Bool :=
  (ewidth t ≤ x.width || x.vcols ≤ 2048 / ewidth t) && (ewidth t != 4 || x.vtype.glog != 3)

/-- The issue check of a conversion to a type: its pairing and its layout (R305, R363). -/
def convCheck (pair : Nat → Nat → Bool) (i : Instr) (d a : BitVec 5) (m : BitVec 1) (t : BitVec 5) (x : Context) :
    Option Trap :=
  x.vectorCheck (wordOf i) [d.toNat, a.toNat] (some d.toNat) (m == 1) (pair x.et t.toNat && layoutFits x t.toNat)

/-- A conversion that has passed its checks: it runs in full, whatever VSTART holds (R369; log entry 21), and one
active element is checked (R241). -/
def convAct (d : BitVec 5) (m q : BitVec 1) (t : BitVec 5) (rounds : Bool)
    (f : Context → Nat → Nat → Nat → Nat → Nat × Flags) (after : State → State) (s : State) : State :=
  if s.cx.zeroShape then s.mapCx (·.retireMember)
  else
    (checkerDraw (after (writeElements 0 (ewidth t.toNat) d m q rounds f s)) (s.activeCount m 0)).mapCx
      (·.retireMember)

/-! ### VCVT -/

/-- A pairing of VCVT: neither type is blocked. -/
def cvtPair (src dst : Nat) : Bool := !isBlocked src && !isBlocked dst

/-- One element of VCVT (R369). A signalling NaN source of a floating target sets NV (R89; log entry 19). A conversion of e5 to
itself rounds as any other does: with sat8 set an infinity becomes the largest finite value with SAT, as R97 has it (log
entry 97). -/
def convertElem (src dst : Nat) (c : FpCtl) (g bits : Nat) : Nat × Flags :=
  if isInt src then
    let v := intOf (ewidth src) (isSigned src) bits
    if isInt dst then (intCode (ewidth dst) v, 0)
    else roundTo (efmt dst) c g ((efmt dst).saturates c.sat8) (exactOfInteger v)
  else
    let o := (efmt src).decode c.ftz bits
    if isInt dst then floatToInt (ewidth dst) (isSigned dst) c.rm g o.val
    else
      let r := roundTo (efmt dst) c g ((efmt dst).saturates c.sat8) o.val
      (r.1, r.2 ||| (if o.snan then flagNV else 0))

/-- VCVT between two integer types rounds nothing, and draws nothing (R96). -/
def cvtRounds (src dst : Nat) : Bool := !(isInt src && isInt dst)

/-! ### VBQ and VBDQ (R101) -/

/-- A pairing of VBQ: a floating type to a blocked one. -/
def bqPair (src dst : Nat) : Bool := isFloat src && isBlocked dst

/-- A pairing of VBDQ: a blocked type to a floating one. -/
def bdqPair (src dst : Nat) : Bool := isBlocked src && isFloat dst

/-- The exponent of the largest value of a blocked type's element format. -/
def blockEmax : FFmt → Int
  | .e4 => 8
  | .e5 => 15
  | _ => 2

/-- floor(log2 |v|) of a finite value, or none for zero. -/
def Exact.exponent : Exact → Option Int
  | .fin _ num den exp => if num = 0 then none else some (log2Ratio num den + exp)
  | _ => none

/-- The active elements of block b of the source of VBQ. -/
def blockValues (x : Context) (a : Nat) (m : BitVec 1) (b : Nat) : List Operand :=
  ((x.activeFrom (m == 1) 0).filter fun p => p.1 / 256 == b).map fun p =>
    (efmt x.et).decode x.qfp.ftz (x.elem a x.width p.2.1 p.2.2)

/-- The scale byte that VBQ gives a block. -/
def blockScale (f : FFmt) (vs : List Operand) : Nat :=
  if vs.any fun o => o.val.isNan || o.val.isInf then 0xFF
  else
    match (vs.filterMap fun o => o.val.exponent).max? with
    | none => 127
    | some e => (min (max (e - blockEmax f + 127) 0) 254).toNat

/-- The scale bytes of VBQ, one a block. -/
def blockScales (x : Context) (a : Nat) (m : BitVec 1) (f : FFmt) : List Nat :=
  (List.range x.nblk).map fun b => blockScale f (blockValues x a m b)

/-- NV where a block of the source holds an infinity or a signalling NaN. -/
def blockFlags (x : Context) (a : Nat) (m : BitVec 1) : Flags :=
  if (x.activeFrom (m == 1) 0).any fun p =>
    let o := (efmt x.et).decode x.qfp.ftz (x.elem a x.width p.2.1 p.2.2)
    o.val.isInf || o.snan
  then flagNV else 0

/-- A value times 2^k. -/
def Exact.scaled (v : Exact) (k : Int) : Exact :=
  match v with
  | .fin neg num den exp => .fin neg num den (exp + k)
  | other => other

/-- One code of VBQ: overflow saturates whatever sat8 holds. -/
def quantElem (src : Nat) (f : FFmt) (c : FpCtl) (scale g bits : Nat) : Nat × Flags :=
  if scale = 0xFF then (0, 0)
  else roundTo f c g true (((efmt src).decode c.ftz bits).val.scaled (127 - (scale : Int)))

/-- One element of VBDQ. -/
def dequantElem (src dst : Nat) (c : FpCtl) (scale g bits : Nat) : Nat × Flags :=
  let o := (efmt src).decode c.ftz bits
  if scale = 0xFF || o.val.isNan then ((efmt dst).nanCode, 0)
  else roundTo (efmt dst) c g ((efmt dst).saturates c.sat8) (o.val.scaled ((scale : Int) - 127))

/-- The scales of the blocks that VBDQ's active elements are in. -/
def Context.blocksRead (x : Context) (a : Nat) (m : BitVec 1) : List Nat :=
  ((x.activeFrom (m == 1) 0).map fun p => p.1 / 256).dedup.map (x.scale a)

/-- VCVT (R369). -/
def execVcvt (k : BitVec 1) (d a : BitVec 5) (m q : BitVec 1) (t : BitVec 5) (s : State) :
    Host.Outcome State Fault Refusal :=
  vectorWord (convCheck cvtPair (.vcvt k d a m q t) d a m t s.cx)
    (convAct d m q t (cvtRounds s.cx.et t.toNat)
      (fun x g _ r c => convertElem x.et t.toNat x.qfp.ctl g (x.elem a.toNat x.width r c)) id) s

/-- VBQ (R101, R369). -/
def execVbq (k : BitVec 1) (d a : BitVec 5) (m q : BitVec 1) (t : BitVec 5) (s : State) :
    Host.Outcome State Fault Refusal :=
  let scales := blockScales s.cx a.toNat m (efmt t.toNat)
  let flags := blockFlags s.cx a.toNat m
  vectorWord (convCheck bqPair (.vbq k d a m q t) d a m t s.cx)
    (convAct d m q t true
      (fun x g n r c =>
        quantElem x.et (efmt t.toNat) x.qfp.ctl (scales.getD (n / 256) 0xFF) g (x.elem a.toNat x.width r c))
      (·.mapCx fun x => (x.putScales d.toNat scales).orFlags flags)) s

/-- VBDQ (R101, R369). -/
def execVbdq (k : BitVec 1) (d a : BitVec 5) (m q : BitVec 1) (t : BitVec 5) (s : State) :
    Host.Outcome State Fault Refusal :=
  vectorWord (convCheck bdqPair (.vbdq k d a m q t) d a m t s.cx)
    (consumeScales (BitVec.ofNat 32 (wordOf (.vbdq k d a m q t))) (s.cx.blocksRead a.toNat m) fun free =>
      convAct d m q t true
        (fun x g n r c =>
          dequantElem x.et t.toNat x.qfp.ctl (soundScale free (x.scale a.toNat (n / 256))) g
            (x.elem a.toNat x.width r c)) id) s

end Sys2Proof.Machine
end

