-- ==== Sys2Proof/Machine/Matrix.lean ====
section
/-! DEFINITION. The matrix unit, major 0x20 (R104, R125 to R137, R348 to R350): bands and their accumulator sets,
operand slots, the product chain and the drain. -/

namespace Sys2Proof.Machine

/-! ### Types (R104, R129) -/

/-- The type is one of the matrix types. -/
def isMatrixType (t : Nat) : Bool := isFloat t || isStorage t || t == 0

/-- The products a processing element takes a cycle. -/
def productsPerPe (t : Nat) : Nat := 64 / ewidth t

/-- The depth of one band, D. -/
def bandDepth (t : Nat) : Nat := 32 * productsPerPe t

/-- The accumulator format that R104 gives a type, as MCFG.afmt codes it. -/
def accFormat (t : Nat) : Nat := if isInt t then 2 else if t = 11 then 1 else 0

/-- The floating format of an accumulator code. -/
def accFmt (afmt : Nat) : FFmt := if afmt = 1 then .f64 else .f32

/-! ### Slots and bands of a tile -/

def Tile.slot (t : Tile) (f : Nat) : Slot := tabGet .reset t.slots f
def Tile.setSlot (t : Tile) (f : Nat) (k : Slot) : Tile := { t with slots := tabSet t.slots f k }
def Tile.setBand (t : Tile) (b : Nat) (h : Option Holder) : Tile := { t with bands := t.bands.setIfInBounds b h }

/-- Row j of a slot, and its scale byte (R132). -/
def Slot.row (k : Slot) (j : Nat) : Nat := (tabGet 0 k.rows j).toNat
def Slot.scale (k : Slot) (j : Nat) : Nat := (tabGet (127 : Scale) k.scales j).toNat

/-- The tile of the current context. -/
def State.myTile (s : State) : Tile := s.tileAt (tileOf s.cur)
def State.setMyTile (s : State) (t : Tile) : State := s.setTile (tileOf s.cur) t

/-- A slot number that the current context may use: held by it and not marked released (R129). -/
def slotUsable (s : State) (f : Nat) : Bool :=
  let k := s.myTile.slot f
  f < 64 && k.holder == some (.ctx s.cur) && !k.released

/-- Trap 0x0B with a condition of R129. -/
def matrixTrap (n : Nat) : Trap := .issue 0x0B (BitVec.ofNat 64 n)

/-! ### MATT and MDET (R131) -/

/-- The first band of the lowest run of g free bands. -/
def freeRun (t : Tile) (g : Nat) : Option Nat :=
  (List.range (5 - g)).find? fun f => (List.range g).all fun k => t.bands.toList.getD (f + k) none == none

/-- The largest grant up to c, and its first band. -/
def grantBands (t : Tile) : Nat → Nat × Nat
  | 0 => (0, 0)
  | c + 1 =>
    match freeRun t (c + 1) with
    | some f => (c + 1, f)
    | none => grantBands t c

/-- Bands given a holder, or freed, with both copies of their sets cleared. -/
def Tile.takeBands (t : Tile) (bands : List Nat) (h : Option Holder) : Tile :=
  let u := bands.foldl (fun t b => t.setBand b h) t
  { u with working := notOfBands bands u.working, committed := notOfBands bands u.committed }

/-- MATT after its boundary. -/
def attach (d : BitVec 5) (c : Nat) (s : State) : State :=
  let g := grantBands s.myTile c
  let bands := (List.range g.1).map (g.2 + ·)
  retireBoundary (fun x => { x.setReg d (BitVec.ofNat 64 g.1) with mgCount := g.1, mgFirst := g.2 })
    (s.setMyTile (s.myTile.takeBands bands (some (.ctx s.cur))))

/-- MATT (R131, R349): the check comes before the boundary. -/
def execMatt (d : BitVec 5) (c : BitVec 3) (s : State) : Host.Outcome State Fault Refusal :=
  if s.cx.mgCount ≠ 0 then .next (takeTrap s (matrixTrap 0x02))
  else .next (atBoundary true (attach d c.toNat) s)

/-- MDET (R131): the accumulators are discarded, not committed. -/
def execMdet (s : State) : Host.Outcome State Fault Refusal :=
  .next (atBoundary false (fun s =>
    retireBoundary (fun x => { x with mgCount := 0, mgFirst := 0 })
      (s.setMyTile (s.myTile.takeBands (s.myTile.bandsOf (.ctx s.cur)) none))) s)

/-! ### MCLAIM and MREL (R132) -/

/-- MCLAIM (R132). -/
def execMclaim (d : BitVec 5) (s : State) : Host.Outcome State Fault Refusal :=
  match (List.range 64).find? fun f => (s.myTile.slot f).holder == none with
  | none => .next (s.retireWith fun x => x.setReg d (BitVec.allOnes 64))
  | some f =>
    .next ((s.setMyTile (s.myTile.setSlot f { Slot.reset with holder := some (.ctx s.cur) })).retireWith fun x =>
      { x.setReg d (BitVec.ofNat 64 f) with strip := { x.strip with claimed := f :: x.strip.claimed } })

/-- MREL (R132). -/
def execMrel (a : BitVec 5) (s : State) : Host.Outcome State Fault Refusal :=
  let f := (s.cx.reg a).toNat
  if !slotUsable s f then .next (takeTrap s (matrixTrap 0x09))
  else
    .next ((s.setMyTile (s.myTile.setSlot f { s.myTile.slot f with released := true })).mapCx (·.retire))

/-! ### MLDB (R133) -/

/-- The checks of R129 for MLDB: trap 0x03 first, then trap 0x0B. -/
def mldbCheck (i : Instr) (a b : BitVec 5) (s : State) : Option Trap :=
  let x := s.cx
  match x.vectorCheck (wordOf i) [b.toNat] none false (isMatrixType x.et) with
  | some t => some t
  | none =>
    if !slotUsable s (x.src a).toNat then some (matrixTrap 0x09)
    else if !x.zeroShape && isBlocked x.et && x.vcols ≠ bandDepth x.et then some (matrixTrap 0x0B)
    else none

/-- The contents that MLDB gives a slot. -/
def loadedSlot (x : Context) (b : BitVec 5) (k : Slot) : Slot :=
  { k with
    rows := (List.range x.vrows).map fun r =>
      (r, BitVec.ofNat 2048 (x.vrow b.toNat r % 2 ^ (x.vcols * x.width)))
    scales := if isBlocked x.et then
        (List.range (min x.nblk 64)).map fun j => (j, BitVec.ofNat 9 (x.scaleByte b.toNat j))
      else []
    tag := some x.vtype.etype }

/-- MLDB's effect; a slot that an MMA of the strip has read makes the strip forced. -/
def mldbAct (a b : BitVec 5) (s : State) : State :=
  let f := (s.cx.src a).toNat
  let s := if s.cx.strip.readSlots.contains f then forceCommit s else s
  (s.setMyTile (s.myTile.setSlot f (loadedSlot s.cx b (s.myTile.slot f)))).mapCx (·.retireMember)

/-- MLDB (R133). -/
def execMldb (k : BitVec 1) (a b : BitVec 5) (s : State) : Host.Outcome State Fault Refusal :=
  vectorWord (mldbCheck (.mldb k a b) a b s) (mldbAct a b) s

/-- The tag that an MLDB writes, as later checks of its convoy see it (R129, R294). -/
def mldbTag (a : BitVec 5) (s : State) : State :=
  let f := (s.cx.src a).toNat
  s.setMyTile (s.myTile.setSlot f { s.myTile.slot f with tag := some s.cx.vtype.etype })

/-! ### MMA (R104, R134) -/

/-- The chain positions that a product uses (R128). -/
def Context.positionsUsed (x : Context) : List Nat :=
  let D := bandDepth x.et
  if x.qmat.wide then List.range ((x.qmat.cols.toNat + 31) / 32)
  else (List.range x.mgCount).filter fun q => q * D < x.qmat.depth.toNat

/-- The checks of R129 for MMA. -/
def mmaCheck (i : Instr) (d a : BitVec 5) (s : State) : Option Trap :=
  let x := s.cx
  let D := bandDepth x.et
  let f := (x.src a).toNat
  let used := x.positionsUsed
  match x.vectorCheck (wordOf i) [d.toNat] none false (isMatrixType x.et) with
  | some t => some t
  | none =>
    if x.zeroShape then none
    else if x.mgCount = 0 then some (matrixTrap 0x01)
    else if x.qmat.rev ≠ 1 then some (matrixTrap 0x03)
    else if x.qmat.afmt.toNat ≠ accFormat x.et then some (matrixTrap 0x04)
    else if 64 < x.qmat.rows.toNat || x.grows < x.qmat.rows.toNat then some (matrixTrap 0x05)
    else if (if x.qmat.wide then 32 * x.mgCount else 32) < x.qmat.cols.toNat then some (matrixTrap 0x06)
    else if (if x.qmat.wide then D else D * x.mgCount) < x.qmat.depth.toNat then some (matrixTrap 0x07)
    else if !x.qmat.wide && used.any (fun q => 32 < d.toNat + (q + 1) * x.group) then some (matrixTrap 0x08)
    else if used.any (fun q => !slotUsable s (f + q)) then some (matrixTrap 0x09)
    else if used.any (fun q => (s.myTile.slot (f + q)).tag ≠ some x.vtype.etype) then some (matrixTrap 0x0A)
    else if isBlocked x.et && x.vcols ≠ D then some (matrixTrap 0x0B)
    else none

/-- A matrix operand: its exact value under its block's scale; a NaN block reads as NaN (R92). -/
def matrixOperand (t bits scale : Nat) : Exact :=
  if isInt t then exactOfInteger (intOf (ewidth t) true bits)
  else if isBlocked t then
    if scale = 0xFF then .nan else ((efmt t).decode false bits).val.scaled ((scale : Int) - 127)
  else ((efmt t).decode false bits).val

/-- A[i][kk] of position q with depth index c in the band. -/
def matrixA (x : Context) (free d q i c : Nat) : Exact :=
  let base := if x.qmat.wide then d else d + q * x.group
  if x.vcols ≤ c then matrixOperand x.et 0 127
  else matrixOperand x.et (x.elem base x.width i c) (soundScale free (x.scale base ((i * x.vcols + c) / 256)))

/-- B[kk][j] of a slot with depth index c in the band. -/
def matrixB (x : Context) (free : Nat) (k : Slot) (j c : Nat) : Exact :=
  matrixOperand x.et (rowField x.width c (k.row (j % 32)))
    (soundScale free (k.scale (j % 32 * (bandDepth x.et / 256) + c / 256)))

/-- A product of one finite zero and one infinity. -/
def invalidProduct (a b : Exact) : Bool := (a.isInf && b.isZero) || (a.isZero && b.isInf)

/-- pe_step on a floating accumulator: the sum of the accumulator and exact products, rounded once (R104). -/
def peFloat (f : FFmt) (s : Nat) (prods : List (Exact × Exact)) : Nat × Flags :=
  let v := (f.decode false s).val
  let ps := prods.map fun p => exactMul p.1 p.2
  let infs := (v :: ps).filter (·.isInf)
  let nan := v.isNan || prods.any fun p => p.1.isNan || p.2.isNan
  let bad := prods.any (fun p => invalidProduct p.1 p.2) || (infs.any (·.isNeg) && infs.any fun e => !e.isNeg)
  if nan || bad then (f.nanCode, if bad then flagNV else 0)
  else roundTo f .rne 0 false (ps.foldl (exactAdd 0) v)

/-- The integer of an exact value that is one. -/
def intValue : Exact → Int
  | .fin neg num _ exp => signed neg (num * 2 ^ exp.toNat)
  | _ => 0

/-- One step of a processing element on an accumulator word. -/
def peStep (t : Nat) (s : Nat) (prods : List (Exact × Exact)) : Nat × Flags :=
  if isInt t then
    (intCode 32 (intOf 32 true s + (prods.map fun p => intValue p.1 * intValue p.2).foldl (· + ·) 0), 0)
  else peFloat (accFmt (accFormat t)) (s % 2 ^ (accFmt (accFormat t)).width) prods

/-- The processing elements of a band in order, on the depth indices below MDEPTH. -/
def bandChain (x : Context) (free : Nat) (k : Slot) (d q base i j : Nat) : List Nat → Nat × Flags → Nat × Flags
  | [], acc => acc
  | p :: ps, (s, fl) =>
    let n := productsPerPe x.et
    let cs := ((List.range n).map (p * n + ·)).filter fun c => base + c < x.qmat.depth.toNat
    if cs.isEmpty then bandChain x free k d q base i j ps (s, fl)
    else
      let r := peStep x.et s (cs.map fun c => (matrixA x free d q i c, matrixB x free k j c))
      bandChain x free k d q base i j ps (r.1, fl ||| r.2)

/-- The bands of the chain in order. -/
def chain (x : Context) (free : Nat) (t : Tile) (d f i j : Nat) : List Nat → Nat × Flags → Nat × Flags
  | [], acc => acc
  | q :: qs, acc =>
    let base := if x.qmat.wide then 0 else q * bandDepth x.et
    chain x free t d f i j qs (bandChain x free (t.slot (f + q)) d q base i j (List.range 32) acc)

/-- One output cell of an MMA: its place, its new value and the flags of its steps. -/
def mmaCell (x : Context) (free : Nat) (t : Tile) (d f n i j : Nat) : Nat × Nat × Flags :=
  let key := if x.qmat.wide then accKey (x.mgFirst + j / 32) n i (j % 32) else accKey x.mgFirst n i j
  let qs := if x.qmat.wide then [j / 32] else List.range x.mgCount
  let r := chain x free t d f i j qs ((tabGet 0 t.working key).toNat, 0)
  (key, r.1, r.2)

/-- The cells of an MMA. -/
def mmaCells (x : Context) (free : Nat) (t : Tile) (d f n : Nat) : List (Nat × Nat × Flags) :=
  (List.range x.qmat.rows.toNat).flatMap fun i => (List.range x.qmat.cols.toNat).map fun j =>
    mmaCell x free t d f n i j

/-- The scales of the blocks that an MMA reads: of its rows of A, and of its rows of the slots. -/
def mmaScales (x : Context) (t : Tile) (d f : Nat) : List Nat :=
  if !isBlocked x.et then []
  else
    x.positionsUsed.flatMap fun q =>
      let depth := min (bandDepth x.et) (x.qmat.depth.toNat - (if x.qmat.wide then 0 else q * bandDepth x.et))
      let blocks := List.range ((depth + 255) / 256)
      ((List.range x.qmat.rows.toNat).flatMap fun i => blocks.map fun b =>
        x.scale (if x.qmat.wide then d else d + q * x.group) (i * x.vcols / 256 + b))
        ++ (List.range (min 32 (x.qmat.cols.toNat - (if x.qmat.wide then 32 * q else 0)))).flatMap fun j => blocks.map fun b =>
          (t.slot (f + q)).scale (j * (bandDepth x.et / 256) + b)

/-- The cells of an MMA whose scales are sound, or free where the given count names a free one. -/
def multiply (d f : Nat) (n : BitVec 2) (free : Nat) (s : State) : State :=
  let x := s.cx
  let cells := mmaCells x free s.myTile d f n.toNat
  let w := cells.foldl (fun w c => tabSet w c.1 (BitVec.ofNat 64 c.2.1)) s.myTile.working
  let s := s.setMyTile { s.myTile with working := w }
  let s := s.mapCx fun x =>
    { x.orMflags (cells.foldl (fun fl c => fl ||| c.2.2) 0) with
      strip := { x.strip with
        readSlots := x.strip.readSlots ++ x.positionsUsed.map (f + ·)
        mmaPcs := x.strip.mmaPcs ++ [x.convoyStart] } }
  (checkerDraw s (x.qmat.rows.toNat * x.qmat.cols.toNat)).mapCx (·.retireMember)

/-- MMA's effect (R134). -/
def mmaAct (k : BitVec 1) (d a : BitVec 5) (n : BitVec 2) (s : State) : State :=
  let x := s.cx
  if x.zeroShape || x.qmat.rows = 0 || x.qmat.cols = 0 || x.qmat.depth = 0 then s.mapCx (·.retireMember)
  else
    let f := (x.src a).toNat
    consumeScales (BitVec.ofNat 32 (wordOf (.mma k d a n))) (mmaScales x s.myTile d.toNat f) (multiply d.toNat f n) s

/-- MMA (R134). -/
def execMma (k : BitVec 1) (d a : BitVec 5) (n : BitVec 2) (s : State) : Host.Outcome State Fault Refusal :=
  vectorWord (mmaCheck (.mma k d a n) d a s) (mmaAct k d a n) s

/-! ### MZERO and MDRAIN (R135, R137) -/

/-- The check of MZERO: it needs an attached band and no valid type. -/
def mzeroCheck (s : State) : Option Trap := if s.cx.mgCount = 0 then some (matrixTrap 0x01) else none

/-- The working copies of set n of some bands cleared. -/
def Tile.clearSet (t : Tile) (bands : List Nat) (n : Nat) : Tile :=
  { t with working := t.working.filter fun e => !(bands.contains (e.1 / 8192) && e.1 / 2048 % 4 == n) }

/-- MZERO (R135). -/
def execMzero (k : BitVec 1) (n : BitVec 2) (s : State) : Host.Outcome State Fault Refusal :=
  let _ := k
  vectorWord (mzeroCheck s) (fun s =>
    (s.setMyTile (s.myTile.clearSet (s.myTile.bandsOf (.ctx s.cur)) n.toNat)).mapCx (·.retireMember)) s

/-- The checks of R129 for MDRAIN. -/
def mdrainCheck (i : Instr) (d : BitVec 5) (s : State) : Option Trap :=
  let x := s.cx
  match x.vectorCheck (wordOf i) [d.toNat] none false (!isBlocked x.et) with
  | some t => some t
  | none =>
    if x.zeroShape then none
    else if x.mgCount = 0 then some (matrixTrap 0x01)
    else if x.qmat.rev ≠ 1 then some (matrixTrap 0x03)
    else if x.qmat.afmt.toNat = 3 then some (matrixTrap 0x04)
    else none

/-- The accumulator entry that element (r, c) of a drain from a row reads; 0 beyond the sets. -/
def drainEntry (x : Context) (t : Tile) (n start r c : Nat) : Nat :=
  let i := start + r
  if 64 ≤ i then 0
  else if x.qmat.wide then
    (if c / 32 < x.mgCount then (tabGet 0 t.working (accKey (x.mgFirst + c / 32) n i (c % 32))).toNat else 0)
  else if c < 32 then (tabGet 0 t.working (accKey x.mgFirst n i c)).toNat else 0

/-- convert(x, t) of MDRAIN: an accumulator is read exactly, whatever ftz holds (R137; log entry 19). -/
def drainConvert (afmt t : Nat) (c : FpCtl) (g v : Nat) : Nat × Flags :=
  if afmt = 2 then
    let n := intOf 32 true v
    if isInt t then
      let k := clampInt (ewidth t) (isSigned t) n
      (intCode (ewidth t) k.1, if k.2 then flagSAT else 0)
    else roundTo (efmt t) c g ((efmt t).saturates c.sat8) (exactOfInteger n)
  else
    let o := (accFmt afmt).decode false (v % 2 ^ (accFmt afmt).width)
    if isInt t then floatToInt (ewidth t) (isSigned t) c.rm g o.val
    else
      let r := roundTo (efmt t) c g ((efmt t).saturates c.sat8) o.val
      (r.1, r.2 ||| (if o.snan then flagNV else 0))

/-- MDRAIN's effect (R137). -/
def mdrainAct (d b : BitVec 5) (n : BitVec 2) (s : State) : State :=
  let x := s.cx
  if x.zeroShape then s.mapCx (·.retireMember)
  else
    let start := (x.src b).toNat
    let afmt := x.qmat.afmt.toNat
    let t := s.myTile
    (writeElements 0 x.width d 0 0 (afmt ≠ 2 || !isInt x.et) (fun y g _ r c =>
      drainConvert afmt y.et y.qfp.ctl g (drainEntry y t n.toNat start r c)) s).mapCx (·.retireMember)

/-- MDRAIN (R137). -/
def execMdrain (k : BitVec 1) (d b : BitVec 5) (n : BitVec 2) (s : State) : Host.Outcome State Fault Refusal :=
  vectorWord (mdrainCheck (.mdrain k d b n) d s) (mdrainAct d b n) s

end Sys2Proof.Machine
end

