-- ==== Sys2Proof/Machine/VectorAtomic.lean ====
section
/-! DEFINITION. Vector atomics and appends, major 0x1D: VAMO and VCAPP (R42 to R44, R188, R309, R374, R375). -/

namespace Sys2Proof.Machine

/-! ### VAMO -/

/-- Operations of VAMO. -/
inductive VAmo where
  | add | min | max | and | or | xor | swap | fadd
  deriving DecidableEq, Repr

/-- The types of an operation (R309). -/
def VAmo.legal (op : VAmo) (t : Nat) : Bool :=
  (ewidth t == 32 || ewidth t == 64) && match op with
    | .swap => isInt t || isFloat t
    | .fadd => isFloat t
    | _ => isInt t

/-- The new value of one element, as R319 computes it. -/
def VAmo.op (op : VAmo) (t : Nat) : AtomicOp :=
  match op with
  | .add => amoAddOp
  | .min => if isSigned t then amoMinOp else amoMinZOp
  | .max => if isSigned t then amoMaxOp else amoMaxZOp
  | .and => amoAndOp
  | .or => amoOrOp
  | .xor => amoXorOp
  | .swap => amoSwapOp
  | .fadd => amoFaddOp

/-- One element's atomic at its home: its old value, a free value where its line is poisoned (log entry 18). -/
def amoElem (op : VAmo) (d : BitVec 5) (g : Nat) (e : VElem) (p : Place) (s : State) : Nat × State :=
  let x := s.cx
  let w := x.width
  let poison := s.poisoned p.loc
  let old := if poison then s.draw.1.toNat % 2 ^ w else bytesVal (fetchBytes s.keys s.mem p.loc p.key p.enc x.esz)
  let s := if poison then s.draw.2 else s
  (old, match op.op x.et w old (x.elem d.toNat w e.r e.c) 0 with
    | none => s
    | some v => performWrite s s.cur (p.write g (valBytes x.esz v)))

/-- The atomics of elements in order, with their old values. -/
def amoElems (op : VAmo) (d : BitVec 5) (g : Nat) : List (VElem × Place) → State → Tab Nat × State
  | [], s => ([], s)
  | e :: es, s =>
    let v := amoElem op d g e.1 e.2 s
    let t := amoElems op d g es v.2
    ((e.1.n, v.1) :: t.1, t.2)

/-- The elements of a VAMO below a number (R374). -/
def amoAct (op : VAmo) (start : Nat) (d : BitVec 5) (m q : BitVec 1) (g : Nat) (stop : Nat)
    (es : List (VElem × Place)) (_ : List (Word × Place)) (s : State) : State :=
  let r := amoElems op d g es s
  retireAll stop (writeUpTo start stop s.cx.width d m q false (fun _ _ n _ _ => (tabGet 0 r.1 n, 0)) r.2)

/-- An atomic of n bytes may be made now, past no earlier write that must come first (R181 to R183). -/
def mayAtomic (s : State) (g n : Nat) (p : Place) : Bool := mayWrite s s.cur (p.write g (List.replicate n 0))

/-- What a VAMO does: a forced commit, and an atomic for each element at its home. -/
def vamoAct (op : VAmo) (start : Nat) (d : BitVec 5) (m q : BitVec 1) (g : Nat) : VAct :=
  { prep := forceCommit, ready := fun s p n => mayAtomic s g n p,
    poison := fun s p _ => s.poisoned p.loc, act := amoAct op start d m q g }

/-- The issue check of a VAMO. -/
def amoCheck (op : VAmo) (i : Instr) (d a b : BitVec 5) (m : BitVec 1) (s : State) : Option Trap :=
  vmemCheck .index .atomic i a b [d.toNat, b.toNat] (some d.toNat) m op.legal s

/-- VAMO (R374). -/
def vecAmo (op : VAmo) (i : Instr) (d a b : BitVec 5) (m q : BitVec 1) (g : BitVec 3) (s : State) :
    Host.Outcome State Fault Refusal :=
  vectorWord (amoCheck op i d a b m s)
    (vmemAct .index .atomic 2 i a b m (vamoAct op s.cx.startElem d m q g.toNat)) s

/-! ### VCAPP -/

/-- The fields of a queue descriptor that an append reads once (R42). -/
structure Queue where
  base : Nat
  capacity : Nat
  size : Nat

/-- A descriptor's first 16 bytes as a queue. -/
def queueOf (bs : List Byte) : Queue :=
  { base := bytesVal (bs.take 8), capacity := bytesVal ((bs.drop 8).take 4), size := bytesVal ((bs.drop 12).take 4) }

/-- The addresses of a queue, one a 64 KiB page. -/
def Queue.pages (k : Queue) : List Word :=
  let n := k.capacity * k.size
  (List.range (if n = 0 then 0 else (k.base % 2 ^ 16 + n + 65535) / 2 ^ 16)).map fun i =>
    BitVec.ofNat 64 (if i = 0 then k.base else (k.base / 2 ^ 16 + i) * 2 ^ 16)

/-- The tail's bytes lie at 0x10 of the descriptor. -/
def tailPlace (p : Place) : Place := { p with loc := p.loc + 0x10 }

/-- The 32 bytes of a descriptor as the context reads them: free ones where its line is poisoned (log entry 18). -/
def queueBytes (s : State) (p : Place) : List Byte :=
  if readsPoison s s.cx p 32 then (List.range 4).flatMap fun i => valBytes 8 (Config.freeWord (s.tick + i)).toNat
  else readPlace s s.cx p 32

/-- The place of a descriptor and its bytes. -/
def readQueue (s : State) (va : Word) : Except Nat (Place × List Byte) :=
  match resolve s (s.cx.acc s.cur) .load va.toNat with
  | .ok p => .ok (p, queueBytes s p)
  | .error e => .error (match resolve s (s.cx.acc s.cur) .atomic va.toNat with
    | .error c => c
    | .ok _ => e)

/-- The read of a descriptor on a stream has been made: its leaf has A set, and no earlier read of its bytes stands (R160,
R178). -/
def touchQueue (g : Nat) (va : Word) (s : State) : State :=
  if va.toNat % 32 ≠ 0 then s
  else match resolve s (s.cx.acc s.cur) .load va.toNat with
    | .error _ => s
    | .ok p => (touch s (s.cx.acc s.cur) .load p).dropEarly s.cur g p.loc 32

/-- The read of a descriptor may be made now, past no write that must come first (R181, R183). -/
def queueReadable (g : Nat) (va : Word) (s : State) : Bool :=
  va.toNat % 32 ≠ 0 || match resolve s (s.cx.acc s.cur) .load va.toNat with
    | .ok p => mayRead s s.cur g p 32
    | .error _ => true

/-- The element size that an append requires (R375). -/
def sizeFits (x : Context) (val : Bool) (size : Nat) : Bool := if val then size == x.esz else size == 4 || size == 8

/-- The issue check of a VCAPP: its type, a live plane for its descriptor, the element size that this gives, and a live plane
for the queue (R210). The descriptor is read under a zero shape too (R113, R375; log entry 22). -/
def cappCheck (i : Instr) (v : Option (BitVec 5)) (a : BitVec 5) (s : State) : Option Trap :=
  let x := s.cx
  let va := x.src a
  match x.vectorCheck (wordOf i) (v.toList.map (·.toNat)) none false (v.isNone || !isBlocked x.et) with
  | some t => some t
  | none =>
    if va.toNat % 32 ≠ 0 then none
    else match readQueue s va with
      | .error _ => none
      | .ok (p, bs) =>
        let k := queueOf bs
        if s.planesDead && planeCarried s .load va then some (.issue 0x14 0)
        else if readsPoison s x p 32 && x.takesError then none
        else if !sizeFits x v.isSome k.size then some (x.illegalType (wordOf i))
        else planeCheck s .store (va :: k.pages)

/-- The item of an element: its number, or its bits. -/
def itemBytes (x : Context) (v : Option (BitVec 5)) (size : Nat) (p : Nat × Nat × Nat) : List Byte :=
  match v with
  | none => valBytes size p.1
  | some d => valBytes size (x.elem d.toNat x.width p.2.1 p.2.2)

/-- The writes of the items from tail t on, on a stream. -/
def itemWrites (s : State) (k : Queue) (v : Option (BitVec 5)) (g t : Nat) (ps : List (Nat × Nat × Nat)) :
    List Write :=
  ps.zipIdx.filterMap fun e =>
    match resolve s (s.cx.acc s.cur) .store (k.base + (t + e.2) * k.size) with
    | .ok p => some (p.write g (itemBytes s.cx v k.size e.1))
    | .error _ => none

/-- The notification that an append owes when its tail crosses a threshold (R44). -/
def crossed (bs : List Byte) (t t' : Nat) (items : List Write) : Option Append :=
  let threshold := bytesVal ((bs.drop 0x14).take 4)
  let target := bytesVal ((bs.drop 0x18).take 2)
  let flags := bytesVal ((bs.drop 0x1A).take 2)
  if threshold ≠ 0 && t / threshold < t' / threshold && flags % 2 == 1 && target < 768 then
    some { target := target, tail := BitVec.ofNat 64 t', items := items }
  else none

/-- The append itself, after its forced commit: the tail's atomic at its home, and the items, which are never held (R43,
R375). -/
def append (k : Queue) (v : Option (BitVec 5)) (g : Nat) (p : Place) (ps : List (Nat × Nat × Nat)) (s : State) :
    State :=
  let bs := queueBytes s p
  let t := bytesVal ((bs.drop 0x10).take 4)
  let t' := t + ps.length
  if k.capacity < t' then s.mapCx fun x => (x.orFlags flagSAT).retireMember
  else
    let s := performWrite s s.cur ((tailPlace p).write g (valBytes 4 t'))
    let items := itemWrites s k v g t ps
    (items.foldl postWrite s).mapCx fun x =>
      { x with appends := x.appends ++ (crossed bs t t' items).toList }.retireMember

/-- The append of the active elements, or nothing where there are none (R43). The commit comes first, and while an earlier
access must come before the atomic the member waits behind it (log entry 90). -/
def appendActive (k : Queue) (v : Option (BitVec 5)) (g : Nat) (p : Place) (ps : List (Nat × Nat × Nat))
    (s : State) : State :=
  if ps.isEmpty then s.mapCx (·.retireMember)
  else
    let s := forceCommit s
    if mayAtomic s g 4 (tailPlace p) then
      if readsPoison s s.cx p 32 then append k v g p ps { goOnPoisoned true s with tick := s.tick + 4 }
      else append k v g p ps s
    else s

/-- The lowest failing address of a list, with its cause. -/
def lowestFailure : List (Word × Nat) → Option (Word × Nat)
  | [] => none
  | f :: fs =>
    match lowestFailure fs with
    | none => some f
    | some h => if h.1.toNat < f.1.toNat then some h else some f

/-- VCAPP after its issue checks (R375): it stays at its place while its read of the descriptor must wait (R181, R183). -/
def cappAct (i : Instr) (v : Option (BitVec 5)) (a : BitVec 5) (m : BitVec 1) (g : BitVec 3) (s : State) : State :=
  let x := s.cx
  let va := x.src a
  let k0 : VMem := { mode := .unit, base := va, opnd := 0, index := [] }
  if va.toNat % 32 ≠ 0 then memFault s i k0 0x04 va x.startElem []
  else if !queueReadable g.toNat va s then s
  else match readQueue s va with
    | .error c => memFault s i k0 c va 0 []
    | .ok (p, bs) =>
      let k := queueOf bs
      let met := readsPoison s x p 32
      let s := touchQueue g.toNat va s
      if met && x.takesError then
        unpinnableAt s 0x10 x.convoyStart (BitVec.ofNat 32 (wordOf i)) 0 none
      else if k.base % k.size ≠ 0 then memFault s i k0 0x04 (BitVec.ofNat 64 k.base) x.startElem []
      else
        let d := translateAll .atomic [va] s
        let t := translateAll .store k.pages d.2
        match lowestFailure (failures ([va].zip d.1 ++ k.pages.zip t.1)) with
        | some (f, cause) => memFault t.2 i k0 cause f 0 []
        | none =>
          appendActive k v g.toNat p (x.activeFrom (m == 1) 0) t.2

/-- VAMO_ADD (R374). -/
def execVamoAdd (k : BitVec 1) (d a b : BitVec 5) (m q : BitVec 1) (g : BitVec 3) (s : State) :
    Host.Outcome State Fault Refusal :=
  vecAmo .add (.vamoAdd k d a b m q g) d a b m q g s

/-- VAMO_MIN (R374). -/
def execVamoMin (k : BitVec 1) (d a b : BitVec 5) (m q : BitVec 1) (g : BitVec 3) (s : State) :
    Host.Outcome State Fault Refusal :=
  vecAmo .min (.vamoMin k d a b m q g) d a b m q g s

/-- VAMO_MAX (R374). -/
def execVamoMax (k : BitVec 1) (d a b : BitVec 5) (m q : BitVec 1) (g : BitVec 3) (s : State) :
    Host.Outcome State Fault Refusal :=
  vecAmo .max (.vamoMax k d a b m q g) d a b m q g s

/-- VAMO_AND (R374). -/
def execVamoAnd (k : BitVec 1) (d a b : BitVec 5) (m q : BitVec 1) (g : BitVec 3) (s : State) :
    Host.Outcome State Fault Refusal :=
  vecAmo .and (.vamoAnd k d a b m q g) d a b m q g s

/-- VAMO_OR (R374). -/
def execVamoOr (k : BitVec 1) (d a b : BitVec 5) (m q : BitVec 1) (g : BitVec 3) (s : State) :
    Host.Outcome State Fault Refusal :=
  vecAmo .or (.vamoOr k d a b m q g) d a b m q g s

/-- VAMO_XOR (R374). -/
def execVamoXor (k : BitVec 1) (d a b : BitVec 5) (m q : BitVec 1) (g : BitVec 3) (s : State) :
    Host.Outcome State Fault Refusal :=
  vecAmo .xor (.vamoXor k d a b m q g) d a b m q g s

/-- VAMO_SWAP (R374). -/
def execVamoSwap (k : BitVec 1) (d a b : BitVec 5) (m q : BitVec 1) (g : BitVec 3) (s : State) :
    Host.Outcome State Fault Refusal :=
  vecAmo .swap (.vamoSwap k d a b m q g) d a b m q g s

/-- VAMO_FADD (R374). -/
def execVamoFadd (k : BitVec 1) (d a b : BitVec 5) (m q : BitVec 1) (g : BitVec 3) (s : State) :
    Host.Outcome State Fault Refusal :=
  vecAmo .fadd (.vamoFadd k d a b m q g) d a b m q g s

/-- VCAPP_IDX (R375). -/
def execVcappIdx (k : BitVec 1) (a : BitVec 5) (m q : BitVec 1) (g : BitVec 3) (s : State) :
    Host.Outcome State Fault Refusal :=
  vectorWord (cappCheck (.vcappIdx k a m q g) none a s) (cappAct (.vcappIdx k a m q g) none a m g) s

/-- VCAPP_VAL (R375). -/
def execVcappVal (k : BitVec 1) (d a : BitVec 5) (m q : BitVec 1) (g : BitVec 3) (s : State) :
    Host.Outcome State Fault Refusal :=
  vectorWord (cappCheck (.vcappVal k d a m q g) (some d) a s) (cappAct (.vcappVal k d a m q g) (some d) a m g) s

end Sys2Proof.Machine
end

