-- ==== Sys2Proof/Machine/VectorMask.lean ====
section
/-! DEFINITION. Mask instructions, majors 0x16 and 0x17: compares, mask logic, and the routes from a mask to
scalar state (R111, R124, R304, R366 to R368). -/

namespace Sys2Proof.Machine

/-- An instruction that writes a mask destination from an element on (R111, R117): `f` gives a bit and its flags. -/
def maskOp (vd : BitVec 5) (m q : BitVec 1) (f : Context → Nat → Nat → Bool × Flags) (s : State) : State :=
  let start := s.cx.startElem
  if s.cx.inShape ≤ start then s.mapCx (·.retireMember)
  else
    let s := allocate s [vd.toNat]
    let x := s.cx
    let out := x.maskwise vd.toNat (m == 1) (q == 1) start (fun fl _ r c =>
      let v := f x r c
      (v.1, fl ||| v.2)) (0 : Flags)
    s.setCx (out.1.orFlags out.2).retireMember

/-- The mask bit of a register at group row r, column c, under the type in force (R79). -/
def Context.bitAt (x : Context) (reg : Nat) (r c : Nat) : Bool := x.maskBit reg (r * maxCols x.et + c)

/-! ### VCMP (R366) -/

/-- A relation under a type: unordered and ordered need a floating type, and no storage type is legal. -/
def cmpLegal (r : BitVec 3) (t : Nat) : Bool := isFloat t || (isInt t && r.toNat < 6)

/-- The issue check of VCMP (R304, R363). -/
def cmpCheck (i : Instr) (d a : BitVec 5) (k : Second) (m : BitVec 1) (r : BitVec 3) (x : Context) : Option Trap :=
  x.vectorCheck (wordOf i) ([d.toNat, a.toNat] ++ k.regs) (some d.toNat) (m == 1) (cmpLegal r x.et)

/-- One comparison of VCMP on raw bits. -/
def compareBits (r : Rel) (x : Context) (a b : Nat) : Bool × Flags :=
  if isFloat x.et then fpCompare r (efmt x.et) x.qfp.ftz a b
  else (intCompare r (intOf x.width (isSigned x.et) a) (intOf x.width (isSigned x.et) b), 0)

/-- VCMP (R366). -/
def vecCompare (i : Instr) (d a : BitVec 5) (k : Second) (m q : BitVec 1) (r : BitVec 3) (s : State) :
    Host.Outcome State Fault Refusal :=
  vectorWord (cmpCheck i d a k m r s.cx) (maskOp d m q fun x row col =>
    compareBits (relOf r.toNat) x (x.elem a.toNat x.width row col) (k.bits x x.width row col)) s

/-! ### VMLOG (R367) -/

/-- The issue check of VMLOG, which is legal under every type. -/
def logCheck (i : Instr) (d : BitVec 5) (srcs : List Nat) (m : BitVec 1) (x : Context) : Option Trap :=
  x.vectorCheck (wordOf i) (d.toNat :: srcs) (some d.toNat) (m == 1) true

/-- VMLOG on the bits of two masks. -/
def maskLogic (op : Bool → Bool → Bool) (i : Instr) (d a b : BitVec 5) (m q : BitVec 1) (s : State) :
    Host.Outcome State Fault Refusal :=
  vectorWord (logCheck i d [a.toNat, b.toNat] m s.cx) (maskOp d m q fun x r c =>
    (op (x.bitAt a.toNat r c) (x.bitAt b.toNat r c), 0)) s

/-! ### From a mask to scalar state (R124, R368) -/

/-- The issue check of VMPOP, VMFIRST and VMTOC: storage types are not legal. -/
def countCheck (i : Instr) (a : BitVec 5) (x : Context) : Option Trap :=
  x.vectorCheck (wordOf i) [a.toNat] none false (!isStorage x.et)

/-- The active positions whose bit in a mask is 1 (R124). -/
def Context.counted (x : Context) (a m : Nat) : List (Nat × Nat × Nat) :=
  (x.activeFrom (m == 1) 0).filter fun p => x.bitAt a p.2.1 p.2.2

/-- The smallest counted element number, or −1. -/
def firstNumber : List (Nat × Nat × Nat) → Word
  | [] => BitVec.allOnes 64
  | p :: _ => BitVec.ofNat 64 p.1

/-- A mask reduced to a scalar register. -/
def maskToReg (f : List (Nat × Nat × Nat) → Word) (i : Instr) (d a : BitVec 5) (m : BitVec 1) (s : State) :
    Host.Outcome State Fault Refusal :=
  vectorWord (countCheck i a s.cx) (·.mapCx fun x =>
    (x.setReg d (f (x.counted a.toNat m.toNat))).retireMember) s

/-- A mask reduced to a condition bit: `f` sees the numbers of counted and of active positions. -/
def maskToCond (f : Nat → Nat → Bool) (i : Instr) (c : BitVec 3) (a : BitVec 5) (m : BitVec 1) (s : State) :
    Host.Outcome State Fault Refusal :=
  vectorWord (countCheck i a s.cx) (·.mapCx fun x =>
    (x.setCond c (f (x.counted a.toNat m.toNat).length (x.activeFrom (m == 1) 0).length)).retireMember) s

/-- VCMP_VV (R366). -/
def execVcmpVV (k : BitVec 1) (d a b : BitVec 5) (m q : BitVec 1) (r : BitVec 3) (s : State) :
    Host.Outcome State Fault Refusal :=
  vecCompare (.vcmpVV k d a b m q r) d a (.vec b) m q r s

/-- VCMP_VS (R366). -/
def execVcmpVS (k : BitVec 1) (d a b : BitVec 5) (m q : BitVec 1) (r : BitVec 3) (s : State) :
    Host.Outcome State Fault Refusal :=
  vecCompare (.vcmpVS k d a b m q r) d a (.scalar b) m q r s

/-- VMLOG_AND (R367). -/
def execVmlogAnd (k : BitVec 1) (d a b : BitVec 5) (m q : BitVec 1) (s : State) :
    Host.Outcome State Fault Refusal :=
  maskLogic (fun p r => p && r) (.vmlogAnd k d a b m q) d a b m q s

/-- VMLOG_OR (R367). -/
def execVmlogOr (k : BitVec 1) (d a b : BitVec 5) (m q : BitVec 1) (s : State) :
    Host.Outcome State Fault Refusal :=
  maskLogic (fun p r => p || r) (.vmlogOr k d a b m q) d a b m q s

/-- VMLOG_XOR (R367). -/
def execVmlogXor (k : BitVec 1) (d a b : BitVec 5) (m q : BitVec 1) (s : State) :
    Host.Outcome State Fault Refusal :=
  maskLogic (fun p r => p != r) (.vmlogXor k d a b m q) d a b m q s

/-- VMLOG_ANDN (R367). -/
def execVmlogAndn (k : BitVec 1) (d a b : BitVec 5) (m q : BitVec 1) (s : State) :
    Host.Outcome State Fault Refusal :=
  maskLogic (fun p r => p && !r) (.vmlogAndn k d a b m q) d a b m q s

/-- VMLOG_ORN (R367). -/
def execVmlogOrn (k : BitVec 1) (d a b : BitVec 5) (m q : BitVec 1) (s : State) :
    Host.Outcome State Fault Refusal :=
  maskLogic (fun p r => p || !r) (.vmlogOrn k d a b m q) d a b m q s

/-- VMLOG_NOT (R367). -/
def execVmlogNot (k : BitVec 1) (d a : BitVec 5) (m q : BitVec 1) (s : State) :
    Host.Outcome State Fault Refusal :=
  vectorWord (logCheck (.vmlogNot k d a m q) d [a.toNat] m s.cx) (maskOp d m q fun x r c =>
    (!x.bitAt a.toNat r c, 0)) s

/-- VMLOG_SET (R367). -/
def execVmlogSet (k : BitVec 1) (d : BitVec 5) (m q : BitVec 1) (s : State) :
    Host.Outcome State Fault Refusal :=
  vectorWord (logCheck (.vmlogSet k d m q) d [] m s.cx) (maskOp d m q fun _ _ _ => (true, 0)) s

/-- VMLOG_CLEAR (R367). -/
def execVmlogClear (k : BitVec 1) (d : BitVec 5) (m q : BitVec 1) (s : State) :
    Host.Outcome State Fault Refusal :=
  vectorWord (logCheck (.vmlogClear k d m q) d [] m s.cx) (maskOp d m q fun _ _ _ => (false, 0)) s

/-- VMPOP (R368). -/
def execVmpop (k : BitVec 1) (d a : BitVec 5) (m q : BitVec 1) (s : State) :
    Host.Outcome State Fault Refusal :=
  maskToReg (fun ps => BitVec.ofNat 64 ps.length) (.vmpop k d a m q) d a m s

/-- VMFIRST (R368). -/
def execVmfirst (k : BitVec 1) (d a : BitVec 5) (m q : BitVec 1) (s : State) :
    Host.Outcome State Fault Refusal :=
  maskToReg firstNumber (.vmfirst k d a m q) d a m s

/-- VMTOC_ANY (R368). -/
def execVmtocAny (k : BitVec 1) (c : BitVec 3) (a : BitVec 5) (m q : BitVec 1) (s : State) :
    Host.Outcome State Fault Refusal :=
  maskToCond (fun n _ => 0 < n) (.vmtocAny k c a m q) c a m s

/-- VMTOC_ALL (R368). -/
def execVmtocAll (k : BitVec 1) (c : BitVec 3) (a : BitVec 5) (m q : BitVec 1) (s : State) :
    Host.Outcome State Fault Refusal :=
  maskToCond (fun n t => n == t) (.vmtocAll k c a m q) c a m s

/-- VMTOC_NONE (R368). -/
def execVmtocNone (k : BitVec 1) (c : BitVec 3) (a : BitVec 5) (m q : BitVec 1) (s : State) :
    Host.Outcome State Fault Refusal :=
  maskToCond (fun n _ => n == 0) (.vmtocNone k c a m q) c a m s

end Sys2Proof.Machine
end

