-- ==== Sys2Proof/Machine/VectorMove.lean ====
section
/-! DEFINITION. Moves and permutes, major 0x19: VMOV, VPERM, VSLIDE, VXPOSE, VEXT, VINS and VIOTA (R118 to R122,
R306, R370, R371, R379, R380). They move raw bits, set no flag, draw nothing and are not checked. -/

namespace Sys2Proof.Machine

/-- The issue check of a move (R306, R363). -/
def moveCheck (legal : Context → Bool) (i : Instr) (d : BitVec 5) (srcs : List Nat) (m : BitVec 1) (x : Context) :
    Option Trap :=
  x.vectorCheck (wordOf i) (d.toNat :: srcs) (some d.toNat) (m == 1) (legal x)

/-- A move's elements written from an element on; at or beyond the in-shape count nothing happens (R117). -/
def moveAct (start : Nat) (d : BitVec 5) (m q : BitVec 1) (f : Context → Nat → Nat → Nat → Nat)
    (after : State → State) (s : State) : State :=
  if s.cx.inShape ≤ start then s.mapCx (·.retireMember)
  else
    (after (writeElements start s.cx.width d m q false (fun x _ n r c => (f x n r c, 0)) s)).mapCx
      (·.retireMember)

/-- The scale bytes of a group copied to another under a blocked type (R93, R370, R380). -/
def copyScales (a d : BitVec 5) (x : Context) (s : State) : State :=
  if isBlocked x.et then
    s.mapCx fun y => y.putScales d.toNat ((List.range x.nblk).map fun b => x.scale a.toNat b)
  else s

/-- Any type is legal. -/
def anyType (_ : Context) : Bool := true

/-- Every type that is not blocked is legal. -/
def notBlocked (x : Context) : Bool := !isBlocked x.et

/-- VPERM.col also needs at most 128 columns (R119). -/
def permColLegal (x : Context) : Bool := notBlocked x && x.vcols ≤ 128

/-- VXPOSE also needs groups of one (R121). -/
def xposeLegal (x : Context) : Bool := notBlocked x && x.group == 1

/-- VIOTA needs an integer type (R122). -/
def iotaLegal (x : Context) : Bool := isInt x.et

/-- The element of a number in a group. -/
def Context.elemNo (x : Context) (base n : Nat) : Nat := x.elem base x.width (n / x.vcols) (n % x.vcols)

/-- What VPERM.row gives element (r, c) (R118). -/
def permRow (x : Context) (a b : Nat) (r c : Nat) : Nat :=
  let k := r / x.vrows
  let i := x.vrow (b + k) (r % x.vrows) % 256
  if bitOf i 7 || x.vrows ≤ i % 32 then 0 else rowField x.width c (x.vrow (a + k) (i % 32))

/-- What VPERM.col gives element (r, c) (R119). -/
def permCol (x : Context) (a b : Nat) (r c : Nat) : Nat :=
  let i := rowField 16 c (x.groupRow b r)
  if bitOf i 15 || x.vcols ≤ i % 512 then 0 else x.elem a x.width r (i % 512)

/-- What VSLIDE gives element n (R120). -/
def slide (up : Bool) (x : Context) (a amount n : Nat) : Nat :=
  if up then (if amount ≤ n then x.elemNo a (n - amount) else 0)
  else if n + amount < x.inShape then x.elemNo a (n + amount) else 0

/-- What VXPOSE gives element (r, c) (R121). -/
def transposed (x : Context) (a r c : Nat) : Nat := if c < x.vrows && r < x.vcols then x.elem a x.width c r else 0

/-- The issue check of VEXT and VINS: the element number of the scalar lies in shape (R371). -/
def elementCheck (i : Instr) (v b : BitVec 5) (x : Context) : Option Trap :=
  x.vectorCheck (wordOf i) [v.toNat] none false (notBlocked x && (x.src b).toNat < x.inShape)

/-- An element's bits as a scalar: sign-extended under a signed integer type (R371). -/
def extendElem (t v : Nat) : Word :=
  if isSigned t then BitVec.ofInt 64 (intOf (ewidth t) true v) else BitVec.ofNat 64 v

/-- One element of a group replaced (R371). -/
def Context.putElem (x : Context) (base n v : Nat) : Context :=
  let r := n / x.vcols
  x.setVrow (base + r / x.vrows) (r % x.vrows) (setField x.width (n % x.vcols) v (x.groupRow base r))

/-- VMOV (R370). -/
def execVmov (k : BitVec 1) (d a : BitVec 5) (m q : BitVec 1) (s : State) :
    Host.Outcome State Fault Refusal :=
  vectorWord (moveCheck anyType (.vmov k d a m q) d [a.toNat] m s.cx)
    (moveAct s.cx.startElem d m q (fun x _ r c => x.elem a.toNat x.width r c) (copyScales a d s.cx)) s

/-- VMOV_SPLAT (R370). -/
def execVmovSplat (k : BitVec 1) (d b : BitVec 5) (m q : BitVec 1) (s : State) :
    Host.Outcome State Fault Refusal :=
  vectorWord (moveCheck notBlocked (.vmovSplat k d b m q) d [] m s.cx)
    (moveAct s.cx.startElem d m q (fun x _ _ _ => (x.src b).toNat % 2 ^ x.width) id) s

/-- VPERM_ROW (R118, R380). -/
def execVpermRow (k : BitVec 1) (d a b : BitVec 5) (m q : BitVec 1) (s : State) :
    Host.Outcome State Fault Refusal :=
  vectorWord (moveCheck anyType (.vpermRow k d a b m q) d [a.toNat, b.toNat] m s.cx)
    (moveAct 0 d m q (fun x _ r c => permRow x a.toNat b.toNat r c) (copyScales a d s.cx)) s

/-- VPERM_COL (R119). -/
def execVpermCol (k : BitVec 1) (d a b : BitVec 5) (m q : BitVec 1) (s : State) :
    Host.Outcome State Fault Refusal :=
  vectorWord (moveCheck permColLegal (.vpermCol k d a b m q) d [a.toNat, b.toNat] m s.cx)
    (moveAct 0 d m q (fun x _ r c => permCol x a.toNat b.toNat r c) id) s

/-- VSLIDE_UP (R120). -/
def execVslideUp (k : BitVec 1) (d a b : BitVec 5) (m q : BitVec 1) (s : State) :
    Host.Outcome State Fault Refusal :=
  vectorWord (moveCheck notBlocked (.vslideUp k d a b m q) d [a.toNat] m s.cx)
    (moveAct 0 d m q (fun x n _ _ => slide true x a.toNat (x.src b).toNat n) id) s

/-- VSLIDE_DOWN (R120). -/
def execVslideDown (k : BitVec 1) (d a b : BitVec 5) (m q : BitVec 1) (s : State) :
    Host.Outcome State Fault Refusal :=
  vectorWord (moveCheck notBlocked (.vslideDown k d a b m q) d [a.toNat] m s.cx)
    (moveAct 0 d m q (fun x n _ _ => slide false x a.toNat (x.src b).toNat n) id) s

/-- VXPOSE (R121). -/
def execVxpose (k : BitVec 1) (d a : BitVec 5) (m q : BitVec 1) (s : State) :
    Host.Outcome State Fault Refusal :=
  vectorWord (moveCheck xposeLegal (.vxpose k d a m q) d [a.toNat] m s.cx)
    (moveAct 0 d m q (fun x _ r c => transposed x a.toNat r c) id) s

/-- VEXT (R371). -/
def execVext (k : BitVec 1) (d a b : BitVec 5) (s : State) :
    Host.Outcome State Fault Refusal :=
  vectorWord (elementCheck (.vext k d a b) a b s.cx) (·.mapCx fun x =>
    (x.setReg d (extendElem x.et (x.elemNo a.toNat (x.src b).toNat))).retireMember) s

/-- VINS (R371). -/
def execVins (k : BitVec 1) (d a b : BitVec 5) (s : State) :
    Host.Outcome State Fault Refusal :=
  vectorWord (elementCheck (.vins k d a b) d b s.cx) (fun s =>
    (allocate s (s.cx.groupRegs d.toNat)).mapCx fun x =>
      (x.putElem d.toNat (x.src b).toNat (x.src a).toNat).retireMember) s

/-- VIOTA (R122). -/
def execViota (k : BitVec 1) (d : BitVec 5) (m q : BitVec 1) (s : State) :
    Host.Outcome State Fault Refusal :=
  vectorWord (moveCheck iotaLegal (.viota k d m q) d [] m s.cx)
    (moveAct s.cx.startElem d m q (fun _ n _ _ => n) id) s

/-- VIOTA_ROW (R122). -/
def execViotaRow (k : BitVec 1) (d : BitVec 5) (m q : BitVec 1) (s : State) :
    Host.Outcome State Fault Refusal :=
  vectorWord (moveCheck iotaLegal (.viotaRow k d m q) d [] m s.cx)
    (moveAct s.cx.startElem d m q (fun _ _ r _ => r) id) s

/-- VIOTA_COL (R122). -/
def execViotaCol (k : BitVec 1) (d : BitVec 5) (m q : BitVec 1) (s : State) :
    Host.Outcome State Fault Refusal :=
  vectorWord (moveCheck iotaLegal (.viotaCol k d m q) d [] m s.cx)
    (moveAct s.cx.startElem d m q (fun _ _ _ c => c) id) s

end Sys2Proof.Machine
end

