-- ==== Sys2Proof/Machine/VectorReduce.lean ====
section
/-! DEFINITION. Reductions and scans, major 0x1A (R102, R103, R123, R307, R381, R382). -/

namespace Sys2Proof.Machine

/-- The operation of VRED and VSCAN, as VARITH names it. -/
def redFn (o : BitVec 3) : VFn :=
  match o.toNat with
  | 0 => .add
  | 1 => .min
  | 2 => .max
  | 3 => .and
  | 4 => .or
  | _ => .xor

/-- The identity of an operation under a type, as bits (R103). -/
def identityBits (fn : VFn) (t : Nat) : Nat :=
  let w := ewidth t
  if isFloat t then
    let f := efmt t
    match fn with
    | .min => f.infCode
    | .max => f.signBit + f.infCode
    | _ => f.signBit
  else
    match fn with
    | .min => intCode w (intMax w (isSigned t))
    | .max => intCode w (intMin w (isSigned t))
    | .and => 2 ^ w - 1
    | _ => 0

/-- One combine: a floating sum rounds and draws, and nothing else does (R102). -/
def combine (fn : VFn) (x : Context) (th : Thread) (a b : Nat) : Nat × Thread :=
  th.step x.qfp.rm.toNat (fn.rounds x.et) fun g => fn.eval x g a b 0

/-- One level of the tree: neighbours combined in increasing order. -/
def treeLevel (fn : VFn) (x : Context) : List Nat → Thread → List Nat × Thread
  | a :: b :: rest, th =>
    let v := combine fn x th a b
    let t := treeLevel fn x rest v.2
    (v.1 :: t.1, t.2)
  | l, th => (l, th)

/-- A value that becomes a result with no combine, in column 0 of a scan or where one value is reduced: a NaN is the
canonical one (R89), and every other value passes as its bits, a subnormal one under ftz too (R95, R102; log entry 86). -/
def passValue (x : Context) (v : Nat) : Nat :=
  if isFloat x.et && ((efmt x.et).decode false v).val.isNan then (efmt x.et).nanCode else v

/-- The levels of the tree; `fuel` bounds them. -/
def treeLevels (fn : VFn) (x : Context) : Nat → List Nat → Thread → Nat × Thread
  | 0, l, th => (l.headD 0, th)
  | fuel + 1, l, th =>
    match l with
    | _ :: _ :: _ =>
      let t := treeLevel fn x l th
      treeLevels fn x fuel t.1 t.2
    | _ => (l.headD 0, th)

/-- The smallest power of two that is not below a number. -/
def powerAtLeast (n : Nat) : Nat := if n ≤ 1 then 1 else 2 ^ (Nat.log2 (n - 1) + 1)

/-- tree_sum: the values padded with the identity to a power of two (R102). -/
def treeSum (fn : VFn) (x : Context) (l : List Nat) (th : Thread) : Nat × Thread :=
  match l with
  | [v] => (passValue x v, th)
  | _ =>
    let id := identityBits fn x.et
    treeLevels fn x 17 (l ++ List.replicate (powerAtLeast l.length - l.length) id) th

/-- The values of a group row, inactive elements replaced by the identity. -/
def rowValues (fn : VFn) (x : Context) (a : Nat) (m : BitVec 1) (r : Nat) : List Nat :=
  (List.range x.vcols).map fun c =>
    if x.active (m == 1) r c then x.elem a x.width r c else identityBits fn x.et

/-- The results of rows in order. -/
def rowSums (fn : VFn) (x : Context) (a : Nat) (m : BitVec 1) : List Nat → Thread → List Nat × Thread
  | [], th => ([], th)
  | r :: rs, th =>
    let v := treeSum fn x (rowValues fn x a m r) th
    let t := rowSums fn x a m rs v.2
    (v.1 :: t.1, t.2)

/-- The destination of VRED: result i in column 0 of group row i, and every other element is tail (R123). -/
def Context.putResults (x : Context) (vd : Nat) (vals : List Nat) : Context :=
  let old (r : Nat) : Nat := if x.vtype.ta then 0 else x.groupRow vd r
  let y := (List.range x.grows).foldl (fun y r =>
    let row := match vals[r]? with
      | some v => setField x.width 0 v (old r)
      | none => old r
    y.setVrow (vd + r / x.vrows) (r % x.vrows) row) x
  y.tailRows vd

/-- The prefixes of a row after its first value (R102). -/
def scanFrom (fn : VFn) (x : Context) : Nat → List Nat → Thread → List Nat × Thread
  | _, [], th => ([], th)
  | acc, v :: vs, th =>
    let k := combine fn x th acc v
    let t := scanFrom fn x k.1 vs k.2
    (k.1 :: t.1, t.2)

/-- The inclusive prefix of a row. A signalling NaN in column 0 is canonical before the first combination, so that it raises no NV
there (log entry 86). -/
def scanRow (fn : VFn) (x : Context) (l : List Nat) (th : Thread) : List Nat × Thread :=
  match l with
  | [] => ([], th)
  | v :: vs =>
    let y := passValue x v
    let t := scanFrom fn x y vs th
    (y :: t.1, t.2)

/-- The prefixes of rows in order. -/
def scanRows (fn : VFn) (x : Context) (a : Nat) (m : BitVec 1) : List Nat → Thread → List (List Nat) × Thread
  | [], th => ([], th)
  | r :: rs, th =>
    let v := scanRow fn x (rowValues fn x a m r) th
    let t := scanRows fn x a m rs v.2
    (v.1 :: t.1, t.2)

/-- The issue check of VRED and VSCAN (R381). -/
def redCheck (i : Instr) (d a : BitVec 5) (m : BitVec 1) (o : BitVec 3) (x : Context) : Option Trap :=
  x.vectorCheck (wordOf i) [d.toNat, a.toNat] (some d.toNat) (m == 1) ((redFn o).legal x.et)

/-- VRED of each row, or of the rows' results too (R123, R382). -/
def reduceAct (whole : Bool) (d a : BitVec 5) (m : BitVec 1) (o : BitVec 3) (s : State) : State :=
  if s.cx.zeroShape then s.mapCx (·.retireMember)
  else
    let s := allocate s (s.cx.groupRegs d.toNat)
    let x := s.cx
    let fn := redFn o
    let rows := rowSums fn x a.toNat m (List.range x.grows) x.fp.thread
    let out := if whole then
        let v := treeSum fn x rows.1 rows.2
        ([v.1], v.2)
      else rows
    let s := s.setCx { x.putResults d.toNat out.1 with fp := x.fp.after out.2 }
    (checkerDraw s (if whole then 1 else x.grows)).mapCx (·.retireMember)

/-- VSCAN: its destination is masked element by element (R123, R382). -/
def scanAct (d a : BitVec 5) (m q : BitVec 1) (o : BitVec 3) (s : State) : State :=
  if s.cx.zeroShape then s.mapCx (·.retireMember)
  else
    let x := s.cx
    let out := scanRows (redFn o) x a.toNat m (List.range x.grows) x.fp.thread
    let t := writeElements 0 x.width d m q false (fun _ _ _ r c => ((out.1.getD r []).getD c 0, 0)) s
    let t := t.mapCx fun y => { y with fp := x.fp.after out.2 }
    (checkerDraw t (s.activeCount m 0)).mapCx (·.retireMember)

/-- VRED (R123, R382). -/
def execVred (k : BitVec 1) (d a : BitVec 5) (m q : BitVec 1) (o : BitVec 3) (s : State) :
    Host.Outcome State Fault Refusal :=
  vectorWord (redCheck (.vred k d a m q o) d a m o s.cx) (reduceAct false d a m o) s

/-- VRED_ALL (R123, R382). -/
def execVredAll (k : BitVec 1) (d a : BitVec 5) (m q : BitVec 1) (o : BitVec 3) (s : State) :
    Host.Outcome State Fault Refusal :=
  vectorWord (redCheck (.vredAll k d a m q o) d a m o s.cx) (reduceAct true d a m o) s

/-- VSCAN (R123, R382). -/
def execVscan (k : BitVec 1) (d a : BitVec 5) (m q : BitVec 1) (o : BitVec 3) (s : State) :
    Host.Outcome State Fault Refusal :=
  vectorWord (redCheck (.vscan k d a m q o) d a m o s.cx) (scanAct d a m q o) s

end Sys2Proof.Machine
end

