-- ==== Sys2Proof/Machine/Checks.lean ====
section
/-! DEFINITION. The issue checks that a convoy's members pass before any of them acts (R294 step 6): those of each
chainable word, the same that its meaning makes. -/

namespace Sys2Proof.Machine

/-- The issue check of a chainable word at its place in the convoy; no other word needs one here, since its
meaning checks before it acts. -/
def memberCheck (i : Instr) (s : State) : Option Trap :=
  match i with
  | .vaddVV k d a b m q => arithCheck .add (.vaddVV k d a b m q) d a (.vec b) m s.cx
  | .vaddVS k d a b m q => arithCheck .add (.vaddVS k d a b m q) d a (.scalar b) m s.cx
  | .vsubVV k d a b m q => arithCheck .sub (.vsubVV k d a b m q) d a (.vec b) m s.cx
  | .vsubVS k d a b m q => arithCheck .sub (.vsubVS k d a b m q) d a (.scalar b) m s.cx
  | .vmulVV k d a b m q => arithCheck .mul (.vmulVV k d a b m q) d a (.vec b) m s.cx
  | .vmulVS k d a b m q => arithCheck .mul (.vmulVS k d a b m q) d a (.scalar b) m s.cx
  | .vmaVV k d a b m q => arithCheck .ma (.vmaVV k d a b m q) d a (.vec b) m s.cx
  | .vmaVS k d a b m q => arithCheck .ma (.vmaVS k d a b m q) d a (.scalar b) m s.cx
  | .vdivVV k d a b m q => arithCheck .div (.vdivVV k d a b m q) d a (.vec b) m s.cx
  | .vdivVS k d a b m q => arithCheck .div (.vdivVS k d a b m q) d a (.scalar b) m s.cx
  | .vminVV k d a b m q => arithCheck .min (.vminVV k d a b m q) d a (.vec b) m s.cx
  | .vminVS k d a b m q => arithCheck .min (.vminVS k d a b m q) d a (.scalar b) m s.cx
  | .vmaxVV k d a b m q => arithCheck .max (.vmaxVV k d a b m q) d a (.vec b) m s.cx
  | .vmaxVS k d a b m q => arithCheck .max (.vmaxVS k d a b m q) d a (.scalar b) m s.cx
  | .vmulhVV k d a b m q => arithCheck .mulh (.vmulhVV k d a b m q) d a (.vec b) m s.cx
  | .vmulhVS k d a b m q => arithCheck .mulh (.vmulhVS k d a b m q) d a (.scalar b) m s.cx
  | .vandVV k d a b m q => arithCheck .and (.vandVV k d a b m q) d a (.vec b) m s.cx
  | .vandVS k d a b m q => arithCheck .and (.vandVS k d a b m q) d a (.scalar b) m s.cx
  | .vorVV k d a b m q => arithCheck .or (.vorVV k d a b m q) d a (.vec b) m s.cx
  | .vorVS k d a b m q => arithCheck .or (.vorVS k d a b m q) d a (.scalar b) m s.cx
  | .vxorVV k d a b m q => arithCheck .xor (.vxorVV k d a b m q) d a (.vec b) m s.cx
  | .vxorVS k d a b m q => arithCheck .xor (.vxorVS k d a b m q) d a (.scalar b) m s.cx
  | .vshlVV k d a b m q => arithCheck .shl (.vshlVV k d a b m q) d a (.vec b) m s.cx
  | .vshlVS k d a b m q => arithCheck .shl (.vshlVS k d a b m q) d a (.scalar b) m s.cx
  | .vshrVV k d a b m q => arithCheck .shr (.vshrVV k d a b m q) d a (.vec b) m s.cx
  | .vshrVS k d a b m q => arithCheck .shr (.vshrVS k d a b m q) d a (.scalar b) m s.cx
  | .vsraVV k d a b m q => arithCheck .sra (.vsraVV k d a b m q) d a (.vec b) m s.cx
  | .vsraVS k d a b m q => arithCheck .sra (.vsraVS k d a b m q) d a (.scalar b) m s.cx
  | .vsaddVV k d a b m q => arithCheck .sadd (.vsaddVV k d a b m q) d a (.vec b) m s.cx
  | .vsaddVS k d a b m q => arithCheck .sadd (.vsaddVS k d a b m q) d a (.scalar b) m s.cx
  | .vssubVV k d a b m q => arithCheck .ssub (.vssubVV k d a b m q) d a (.vec b) m s.cx
  | .vssubVS k d a b m q => arithCheck .ssub (.vssubVS k d a b m q) d a (.scalar b) m s.cx
  | .vraddVV k d a b m q => arithCheck .radd (.vraddVV k d a b m q) d a (.vec b) m s.cx
  | .vraddVS k d a b m q => arithCheck .radd (.vraddVS k d a b m q) d a (.scalar b) m s.cx
  | .vrsubVV k d a b m q => arithCheck .rsub (.vrsubVV k d a b m q) d a (.vec b) m s.cx
  | .vrsubVS k d a b m q => arithCheck .rsub (.vrsubVS k d a b m q) d a (.scalar b) m s.cx
  | .vsgnCopyVV k d a b m q => arithCheck .sgnCopy (.vsgnCopyVV k d a b m q) d a (.vec b) m s.cx
  | .vsgnCopyVS k d a b m q => arithCheck .sgnCopy (.vsgnCopyVS k d a b m q) d a (.scalar b) m s.cx
  | .vsgnNegVV k d a b m q => arithCheck .sgnNeg (.vsgnNegVV k d a b m q) d a (.vec b) m s.cx
  | .vsgnNegVS k d a b m q => arithCheck .sgnNeg (.vsgnNegVS k d a b m q) d a (.scalar b) m s.cx
  | .vsgnXorVV k d a b m q => arithCheck .sgnXor (.vsgnXorVV k d a b m q) d a (.vec b) m s.cx
  | .vsgnXorVS k d a b m q => arithCheck .sgnXor (.vsgnXorVS k d a b m q) d a (.scalar b) m s.cx
  | .vsqrt k d a m q => arithCheck .sqrt (.vsqrt k d a m q) d a .none m s.cx
  | .vexp2 k d a m q => arithCheck .exp2 (.vexp2 k d a m q) d a .none m s.cx
  | .vsgnAbs k d a m q => arithCheck .sgnAbs (.vsgnAbs k d a m q) d a .none m s.cx
  | .vcmpVV k d a b m q r => cmpCheck (.vcmpVV k d a b m q r) d a (.vec b) m r s.cx
  | .vcmpVS k d a b m q r => cmpCheck (.vcmpVS k d a b m q r) d a (.scalar b) m r s.cx
  | .vmlogAnd k d a b m q => logCheck (.vmlogAnd k d a b m q) d [a.toNat, b.toNat] m s.cx
  | .vmlogOr k d a b m q => logCheck (.vmlogOr k d a b m q) d [a.toNat, b.toNat] m s.cx
  | .vmlogXor k d a b m q => logCheck (.vmlogXor k d a b m q) d [a.toNat, b.toNat] m s.cx
  | .vmlogAndn k d a b m q => logCheck (.vmlogAndn k d a b m q) d [a.toNat, b.toNat] m s.cx
  | .vmlogOrn k d a b m q => logCheck (.vmlogOrn k d a b m q) d [a.toNat, b.toNat] m s.cx
  | .vmlogNot k d a m q => logCheck (.vmlogNot k d a m q) d [a.toNat] m s.cx
  | .vmlogSet k d m q => logCheck (.vmlogSet k d m q) d [] m s.cx
  | .vmlogClear k d m q => logCheck (.vmlogClear k d m q) d [] m s.cx
  | .vmpop k d a m q => countCheck (.vmpop k d a m q) a s.cx
  | .vmfirst k d a m q => countCheck (.vmfirst k d a m q) a s.cx
  | .vmtocAny k c a m q => countCheck (.vmtocAny k c a m q) a s.cx
  | .vmtocAll k c a m q => countCheck (.vmtocAll k c a m q) a s.cx
  | .vmtocNone k c a m q => countCheck (.vmtocNone k c a m q) a s.cx
  | .vcvt k d a m q t => convCheck cvtPair (.vcvt k d a m q t) d a m t s.cx
  | .vbq k d a m q t => convCheck bqPair (.vbq k d a m q t) d a m t s.cx
  | .vbdq k d a m q t => convCheck bdqPair (.vbdq k d a m q t) d a m t s.cx
  | .vmov k d a m q => moveCheck anyType (.vmov k d a m q) d [a.toNat] m s.cx
  | .vmovSplat k d b m q => moveCheck notBlocked (.vmovSplat k d b m q) d [] m s.cx
  | .vpermRow k d a b m q => moveCheck anyType (.vpermRow k d a b m q) d [a.toNat, b.toNat] m s.cx
  | .vpermCol k d a b m q => moveCheck permColLegal (.vpermCol k d a b m q) d [a.toNat, b.toNat] m s.cx
  | .vslideUp k d a b m q => moveCheck notBlocked (.vslideUp k d a b m q) d [a.toNat] m s.cx
  | .vslideDown k d a b m q => moveCheck notBlocked (.vslideDown k d a b m q) d [a.toNat] m s.cx
  | .vxpose k d a m q => moveCheck xposeLegal (.vxpose k d a m q) d [a.toNat] m s.cx
  | .vext k d a b => elementCheck (.vext k d a b) a b s.cx
  | .vins k d a b => elementCheck (.vins k d a b) d b s.cx
  | .viota k d m q => moveCheck iotaLegal (.viota k d m q) d [] m s.cx
  | .viotaRow k d m q => moveCheck iotaLegal (.viotaRow k d m q) d [] m s.cx
  | .viotaCol k d m q => moveCheck iotaLegal (.viotaCol k d m q) d [] m s.cx
  | .vred k d a m q o => redCheck (.vred k d a m q o) d a m o s.cx
  | .vredAll k d a m q o => redCheck (.vredAll k d a m q o) d a m o s.cx
  | .vscan k d a m q o => redCheck (.vscan k d a m q o) d a m o s.cx
  | .vld k d a b m q g => loadCheck .unit (.vld k d a b m q g) d a b m s
  | .vldSt k d a b m q g => loadCheck .strided (.vldSt k d a b m q g) d a b m s
  | .vldZ k d a b m q g => loadCheck .zorder (.vldZ k d a b m q g) d a b m s
  | .vldBc k d a m q g => loadCheck .bcast (.vldBc k d a m q g) d a 0 m s
  | .vldB k d a b m q g => loadCheck .blocked (.vldB k d a b m q g) d a b m s
  | .vgather k d a b m q g => loadCheck .index (.vgather k d a b m q g) d a b m s
  | .vst k d a b m q g => storeCheck .unit (.vst k d a b m q g) d a b m s
  | .vstSt k d a b m q g => storeCheck .strided (.vstSt k d a b m q g) d a b m s
  | .vstZ k d a b m q g => storeCheck .zorder (.vstZ k d a b m q g) d a b m s
  | .vstBc k d a m q g => storeCheck .bcast (.vstBc k d a m q g) d a 0 m s
  | .vstB k d a b m q g => storeCheck .blocked (.vstB k d a b m q g) d a b m s
  | .vscatter k d a b m q g => storeCheck .index (.vscatter k d a b m q g) d a b m s
  | .vamoAdd k d a b m q g => amoCheck .add (.vamoAdd k d a b m q g) d a b m s
  | .vamoMin k d a b m q g => amoCheck .min (.vamoMin k d a b m q g) d a b m s
  | .vamoMax k d a b m q g => amoCheck .max (.vamoMax k d a b m q g) d a b m s
  | .vamoAnd k d a b m q g => amoCheck .and (.vamoAnd k d a b m q g) d a b m s
  | .vamoOr k d a b m q g => amoCheck .or (.vamoOr k d a b m q g) d a b m s
  | .vamoXor k d a b m q g => amoCheck .xor (.vamoXor k d a b m q g) d a b m s
  | .vamoSwap k d a b m q g => amoCheck .swap (.vamoSwap k d a b m q g) d a b m s
  | .vamoFadd k d a b m q g => amoCheck .fadd (.vamoFadd k d a b m q g) d a b m s
  | .vcappIdx k a m q g => cappCheck (.vcappIdx k a m q g) none a s
  | .vcappVal k d a m q g => cappCheck (.vcappVal k d a m q g) (some d) a s
  | .mldb k a b => mldbCheck (.mldb k a b) a b s
  | .mma k d a n => mmaCheck (.mma k d a n) d a s
  | .mzero _ _ => mzeroCheck s
  | .mdrain k d b n => mdrainCheck (.mdrain k d b n) d s
  | _ => none

/-- What a later member's check sees of an earlier member: the slot tag that an MLDB writes (R129, R294). -/
def memberTag (i : Instr) (s : State) : State :=
  match i with
  | .mldb _ a _ => mldbTag a s
  | _ => s

end Sys2Proof.Machine
end

