-- ==== Sys2Proof/Machine/Fetch.lean ====
section
/-! DEFINITION. Fetching and framing a convoy: code words (R162, R267 to R269), framing (R292, R293), the
loop-end test (R69) and the checks of R294. -/

namespace Sys2Proof.Machine

/-! ### Code words -/

/-- The words kept for a place under a key index: a line that is present under another index is no hit (R153). -/
def wordsUnder (key : Nat) (t : Tab (List CodeWord)) (loc : Nat) : List (BitVec 32) :=
  ((tabGet [] t loc).filter (·.key == key)).map (·.word)

/-- The core's L1 instruction cache may hold a place: not one of a local window, nor of a settled page (R149, R174, R267). -/
def codeCached (p : Place) : Bool := !isLocalPlace p.loc && !(p.page.map (·.pin)).getD false

/-- The word that the home of a place holds. A context's own held stores to a local window are seen by its fetches: code
in TCM needs no more than FETCHB (R269). -/
def homeWord (s : State) (c : Nat) (p : Place) : BitVec 32 :=
  BitVec.ofNat 32 (bytesVal
    (if isLocalPlace p.loc then readPlace s (s.ctxAt c) p 4 else fetchBytes s.keys s.mem p.loc p.key p.enc 4))

/-- The older words that the home of a place may still deliver: a store has replaced them, and no DCWB has followed (R267,
R269). -/
def staleWords (s : State) (p : Place) : List (BitVec 32) := if codeCached p then wordsUnder p.key s.stale p.loc else []

/-- The words that a context's fetch may deliver from a place, the home's first: the older ones that the home may still hold, the
one that the context's own writes on their way there leave, and those of its fetch buffer and of the core's L1 instruction
cache that were kept (R267 to R269). -/
def codeChoices (s : State) (c : Nat) (p : Place) : List (BitVec 32) :=
  let home := homeWord s c p
  let own := BitVec.ofNat 32 (bytesVal (readPlace s (s.ctxAt c) p 4))
  let kept := own :: staleWords s p ++ wordsUnder p.key (s.ctxAt c).fetched p.loc
    ++ (if codeCached p then wordsUnder p.key (s.coreAt (coreOf c)).icache p.loc else [])
  home :: (kept.filter (· ≠ home)).dedup

/-- The word that a fetch delivers: any of those, chosen for each word and each fetch (R269; log entry 9). -/
def codeWord (s : State) (c : Nat) (p : Place) : BitVec 32 :=
  match codeChoices s c p with
  | [] => 0
  | [w] => w
  | w :: ws => (w :: ws).getD (Config.pickCodeWord (s.tick * 2 ^ 60 + p.loc) % (ws.length + 1)) w

/-- A cache line without the words of other key indices (R153). -/
def evictOther (t : Tab (List CodeWord)) (loc key : Nat) : Tab (List CodeWord) :=
  if t.any fun e => e.1 / 64 == loc / 64 && e.2.any (·.key != key) then
    t.filterMap fun e =>
      if e.1 / 64 == loc / 64 then
        match e.2.filter (·.key == key) with
        | [] => none
        | ws => some (e.1, ws)
      else some e
  else t

/-- What a fetch leaves: its word in the fetch buffer, and the home's word in the L1 instruction cache, which a fetch
fills from the home alone: with the word delivered, where the home may have given that one. -/
def keepCode (s : State) (c : Nat) (p : Place) (w : BitVec 32) : State :=
  let home := homeWord s c p
  let s := s.setCtx c { s.ctxAt c with fetched := keepWord (s.ctxAt c).fetched p.loc { key := p.key, word := w } }
  if codeCached p then
    let k := s.coreAt (coreOf c)
    let filled := keepWord (evictOther k.icache p.loc p.key) p.loc { key := p.key, word := home }
    s.setCore (coreOf c)
      { k with icache := if (staleWords s p).contains w then keepWord filled p.loc { key := p.key, word := w } else filled }
  else s

/-- One word of code fetched by the current context, or the trap 0x05 (R162, R292). A fetch goes on where no plane is live
(R210; log entry 91). -/
def fetchWord (s : State) (va : Word) : Except Trap (State × BitVec 32) :=
  let a := s.cx.acc s.cur
  match resolve s a .fetch va.toNat with
  | .error e => .error (.issue e va)
  | .ok p =>
    let t := touch s a .fetch p
    let w := codeWord t s.cur p
    .ok (keepCode t s.cur p w, w)

/-! ### Framing (R292) -/

/-- The words of the convoy that starts at `a0`, from word n on; `fuel` counts the words that may follow. -/
def frameFrom (a0 : Word) : Nat → Nat → State → List (BitVec 32) → State × Except Trap (List (BitVec 32))
  | 0, _, s, ws => (s, .ok ws)
  | fuel + 1, n, s, ws =>
    let a := a0 + BitVec.ofNat 64 (4 * n)
    match fetchWord s a with
    | .error t => (s, .error t)
    | .ok (s, w) =>
      if !chainable w && (kBit w || n ≠ 0) then (s, .error (.issue 0x02 a))
      else if kBit w && n = 3 then (s, .error (.issue 0x02 a))
      else if kBit w then frameFrom a0 fuel (n + 1) s (ws ++ [w])
      else (s, .ok (ws ++ [w]))

/-! ### The loop-end test (R69) -/

/-- A word that may not end a loop: B, J, JAL, JREG, LOOP, TRAP, ERET, UIRET or TEND, by its major and its
op4 (R69). -/
def isTransfer (w : BitVec 32) : Bool :=
  let major := w.toNat / 2 ^ 25 % 64
  let op4 := w.toNat / 2 ^ 4 % 16
  (0x0D ≤ major && major ≤ 0x11) || (major == 0x26 && op4 ≤ 1) || (major == 0x24 && (op4 == 0 || op4 == 4))

/-- The loop-end test of a convoy whose last word is at `a`: the loop stack, innermost first, and the next
PC. -/
def loopEnd (a : Word) (transfer : Bool) : List LoopEntry → Except Trap (List LoopEntry × Word)
  | [] => .ok ([], a + 4)
  | l :: ls =>
    if a = l.stop then
      if transfer then .error (.issue 0x0C 0)
      else if l.remaining - 1 ≠ 0 then .ok ({ l with remaining := l.remaining - 1 } :: ls, l.start)
      else loopEnd a transfer ls
    else .ok (l :: ls, a + 4)

/-- A convoy that holds the end word of the innermost live loop and does not end on it (R69). -/
def insideEnd (a0 : Word) (n : Nat) (loops : List LoopEntry) : Option Word :=
  match loops with
  | [] => none
  | l :: _ =>
    if ((List.range (n - 1)).map fun i => a0 + BitVec.ofNat 64 (4 * i)).contains l.stop then some l.stop else none

/-! ### The checks of R294 -/

/-- Step 3: each word is an instruction. -/
def encodingCheck : List (BitVec 32) → Option Trap
  | [] => none
  | w :: ws =>
    match decode w with
    | .ok _ => encodingCheck ws
    | .error _ => some (.issue 0x01 (w.setWidth 64))

/-- The instructions of supervisor level only (R214). -/
def isPrivileged : Instr → Bool
  | .eret | .csave _ | .cload _ | .tlbinv _ _ => true
  | _ => false

/-- Step 4: the first privileged word at user level. -/
def privilegeCheck (sup : Bool) : List (BitVec 32) → Option Trap
  | [] => none
  | w :: ws =>
    match decode w with
    | .ok i => if isPrivileged i && !sup then some (.issue 0x11 (w.setWidth 64)) else privilegeCheck sup ws
    | .error _ => privilegeCheck sup ws

/-- Step 6: the members from the one that executes next on, each seeing the tags that earlier ones write. -/
def membersCheck : List (BitVec 32) → State → Option Trap
  | [], _ => none
  | w :: ws, s =>
    match decode w with
    | .error _ => membersCheck ws s
    | .ok i =>
      match memberCheck i s with
      | some t => some t
      | none =>
        membersCheck ws ((memberTag i s).mapCx fun x => { x with cvy := x.cvy.map fun v => { v with idx := v.idx + 1 } })

/-- The member of a convoy of some words that issues first: VSTART binds those of vector and matrix words (R82). -/
def firstMember (x : Context) (ws : List (BitVec 32)) : Nat := if isBound ws then x.vsMember.toNat else 0

/-- Steps 2 to 5 for framed words: the context with its convoy, or the first check that fails. -/
def beforeMembers (s : State) (a0 : Word) (ws : List (BitVec 32)) : Except Trap State :=
  let x := s.cx
  let n := ws.length
  let a := a0 + BitVec.ofNat 64 (4 * (n - 1))
  match insideEnd a0 n x.loops with
  | some e => .error (.issue 0x02 e)
  | none =>
    match loopEnd a (isTransfer (ws.getLastD 0)) x.loops with
    | .error t => .error t
    | .ok (loops, next) =>
      match encodingCheck ws with
      | some t => .error t
      | none =>
        match privilegeCheck x.sup ws with
        | some t => .error t
        | none =>
          let first := firstMember x ws
          if n ≤ first then .error (.issue 0x02 (a0 + BitVec.ofNat 64 (4 * first)))
          else
            let v : Convoy := { start := a0, words := ws, next := next, idx := first, loops0 := x.loops,
                                regs := none, ctl := none, index := [], passed := false }
            .ok (s.setCx { x with cvy := some v, loops := loops })

/-- Steps 2 to 6: the context with its convoy, or the first check that fails. -/
def passChecks (s : State) (a0 : Word) (ws : List (BitVec 32)) : Except Trap State :=
  match beforeMembers s a0 ws with
  | .error t => .error t
  | .ok t =>
    match membersCheck (ws.drop (firstMember s.cx ws)) t with
    | some e => .error e
    | none => .ok t

/-- The read that a member's check makes: a VCAPP's, of its descriptor (R375). -/
def memberReads (i : Instr) (s : State) : State :=
  match i with
  | .vcappIdx _ a _ _ g | .vcappVal _ _ a _ _ g => if s.cx.vtype.ill then s else touchQueue g.toNat (s.cx.src a) s
  | _ => s

/-- The reads of the checks of some members, up to the first that fails. -/
def checksRead : List (BitVec 32) → State → State
  | [], s => s
  | w :: ws, s =>
    match decode w with
    | .error _ => checksRead ws s
    | .ok i =>
      let t := memberReads i s
      match memberCheck i s with
      | some _ => t
      | none =>
        checksRead ws ((memberTag i t).mapCx fun x => { x with cvy := x.cvy.map fun v => { v with idx := v.idx + 1 } })

/-- A state with what the checks of some members have read: the access bits, the translations, the lines and the early reads that
they leave, which a trap of one of them does not undo (R160, R178). -/
def withChecks (s t : State) (ws : List (BitVec 32)) : State :=
  let u := checksRead ws t
  { s with mem := u.mem, tlb := u.tlb, plain := u.plain }.mapCx fun x => { x with early := u.cx.early }

/-- The same for a convoy that is framed. -/
def withReads (s : State) (a0 : Word) (ws : List (BitVec 32)) : State :=
  match beforeMembers s a0 ws with
  | .error _ => s
  | .ok t => withChecks s t (ws.drop (firstMember s.cx ws))

/-- The reads that the checks of some members make may be made now (R181, R183). -/
def checksMayRead (ws : List (BitVec 32)) (s : State) : Bool :=
  ws.all fun w => match decode w with
    | .ok (.vcappIdx _ a _ _ g) | .ok (.vcappVal _ _ a _ _ g) => queueReadable g.toNat (s.cx.src a) s
    | _ => true

/-- Fetch of the current context: its next convoy is framed and checked, or its trap is taken (R292, R294). A convoy whose
checks read a queue descriptor stays at fetch while an access that must be performed first is not (R181, R183). -/
def fetchConvoy (s : State) : State :=
  let a0 := s.cx.pc
  match frameFrom a0 4 0 s [] with
  | (s, .error t) => takeTrap s t
  | (s, .ok ws) =>
    if !checksMayRead ws s then s
    else match passChecks s a0 ws with
    | .error t => takeTrap (withReads s a0 ws) t
    | .ok t => t

/-- The environment brings a code word into the fetch buffer of a context, and into its core's instruction cache, before
the context fetches it (R268, R269; log entry 9). Its leaf has A set first (R160). -/
def prefetch (c va : Nat) (s : State) : State :=
  match resolve s ((s.ctxAt c).acc c) .fetch va with
  | .error _ => s
  | .ok p =>
    if va % 4 = 0 && s.flows then
      let t := touch s ((s.ctxAt c).acc c) .fetch p
      keepCode t c p (codeWord t c p)
    else s

/-- CONVOY_FETCH (R292): a context that runs and executes no convoy frames its next one. -/
def execConvoyFetch (c : Nat) (s : State) : Host.Outcome State Fault Refusal :=
  if !ctxInRange c then .fault .noSuchPart
  else if (s.ctxAt c).runs && (s.ctxAt c).cvy.isNone && (s.ctxAt c).queue.isEmpty && (s.ctxAt c).qfault.isNone
      && !saveDue s c && s.flows then .next (s.within c fetchConvoy)
  else .next s

end Sys2Proof.Machine
end

