-- ==== Sys2Proof/Machine/Cocoon.lean ====
section
/-! DEFINITION. Cocoons of kinds 1 and 2 (R229 to R239): what a save writes, what a load checks and reinstates,
and the parking of matrix state. Layouts that the spec calls opaque or leaves to this part are log entry 15. -/

namespace Sys2Proof.Machine

/-! ### Matrix state across switches (R239) -/

/-- The holders of a tile's bands and slots renamed. -/
def Tile.rename (t : Tile) (old : Holder) (new : Option Holder) : Tile :=
  { t with
    bands := t.bands.map fun h => if h = some old then new else h
    slots := t.slots.map fun e => (e.1, if e.2.holder = some old then { e.2 with holder := new } else e.2) }

/-- The context holds a band or a slot of its tile. -/
def holdsMatrix (s : State) (c : Nat) : Bool :=
  !((s.tileAt (tileOf c)).bandsOf (.ctx c)).isEmpty || (s.tileAt (tileOf c)).slots.any (·.2.holder == some (.ctx c))

/-- What the parked state of a context's task is known by: where it was parked from, and the task. -/
def Context.parkedBy (x : Context) (from_ : Nat) : Holder := .parked from_ x.taskrec x.taskseq x.space

/-- The bands and slots of a context stay bound to its task on the tile. -/
def park (s : State) (c : Nat) : State :=
  s.setTile (tileOf c) ((s.tileAt (tileOf c)).rename (.ctx c) (some ((s.ctxAt c).parkedBy c)))

/-! ### The areas of a cocoon (R233) -/

/-- The adjunct policy of a context's task, which ERET restores while a handler runs (R57; log entry 78). -/
def Context.taskPolicy (x : Context) : BitVec 2 := if x.sup then x.trap.pol else x.cpol

/-- The scalar area: condition bits, adjunct policy and s1 to s31. -/
def scalarArea (x : Context) : List Byte :=
  valBytes 8 (x.conds.toNat + x.taskPolicy.toNat * 256) ++ (x.regs.toList.drop 1).flatMap fun r => valBytes 8 r.toNat

/-- The state area's dwords 0 to 48 in their order. -/
def stateDwords (x : Context) : List Word :=
  [0x0A, 0x0B, 0x0C, 0x0D, 0x18].map x.readShape ++ [x.readTask 0x2C, x.readTask 0x48]
    ++ [0x11, 0x12, 0x13, 0x14, 0x15].map x.readShape ++ [0x30, 0x31, 0x32, 0x33, 0x34].map x.readTask
    ++ x.ui.held.toList ++ x.ui.shadow.toList
    ++ [x.taskseq, x.taskrec, x.adjV.setWidth 64 ||| (x.adjM.setWidth 64 <<< 32)]
    ++ [0x110, 0x111, 0x112, 0x120].map x.readPriv ++ (List.range 12).map (fun i => x.readTask (0x20 + i))
    ++ [x.readShape 0x10]

/-- Dwords as bytes. -/
def dwordBytes (ws : List Word) : List Byte := ws.flatMap fun w => valBytes 8 w.toNat

/-- Bytes followed by zeros up to a length. -/
def padTo (n : Nat) (bs : List Byte) : List Byte := (bs ++ zeros n).take n

/-- A command of a channel that rests: its identifier, addresses, layout and space (R233). One that has completed behind a
command that stopped has no dimension (log entry 15). -/
def commandEntry (c : CopyCmd) : List Byte :=
  let dims := if c.st = .completed then [] else c.dims
  let row (f : CopyDim → Nat) : List Byte := padTo 64 (dims.flatMap fun d => valBytes 8 (f d))
  valBytes 4 c.id.toNat ++ valBytes 1 c.esz ++ valBytes 1 c.notify.toNat ++ valBytes 1 c.sup.toNat
    ++ valBytes 1 dims.length ++ valBytes 8 c.src.toNat ++ valBytes 8 c.dst.toNat
    ++ row (fun d => d.ext + d.ss.toNat % 2 ^ 40 * 2 ^ 24) ++ row (fun d => d.ds.toNat % 2 ^ 40 * 2 ^ 24)
    ++ valBytes 8 c.space.ptroot.toNat ++ valBytes 8 c.space.asid.toNat ++ valBytes 8 c.space.keydef.toNat

/-- The area of commands: sixteen entries a channel. The commands of a channel that rests are those that did not start
and those that XDONE has not passed because one before them stopped (R191). -/
def commandArea (x : Context) : List Byte :=
  x.chans.toList.flatMap fun c => padTo (16 * 176) (c.cmds.flatMap commandEntry)

/-- Some command is outstanding. -/
def commandsLive (x : Context) : Bool := x.chans.toList.any fun c => !c.cmds.isEmpty

/-- Scale bytes as a cocoon holds them: the flag of a poisoned scale is not among its areas, and is kept beside it (R257;
log entry 88). -/
def scaleBytes (l : List Scale) : List Byte := l.map (·.setWidth 8)

/-- A row of a message or register as bytes. -/
def rowBytes (r : Nat) : List Byte := valBytes 256 r

/-- The sender of a slot, as the cocoon holds it. -/
def senderWord (node ctx : Nat) : Nat := node + ctx * 1024

/-- A receive slot: 8,192 data bytes, 64 scale bytes, rows, columns, width and sender. -/
def slotEntry (k : RecvSlot) : List Byte :=
  padTo 0x2100 (match k with
    | .empty => []
    | .reserved n c => zeros 8280 ++ valBytes 8 (senderWord n c)
    | .full m =>
      padTo 8192 (m.data.flatMap fun r => rowBytes r.toNat) ++ (scaleBytes m.scales ++ List.replicate 64 127).take 64
        ++ valBytes 8 m.rows ++ valBytes 8 m.cols ++ valBytes 8 m.width ++ valBytes 8 (senderWord m.node m.sender))

/-- The registers that a cocoon holds: those with a row of a held lane that was ever written. -/
def liveRegs (x : Context) : List Nat :=
  (List.range 32).filter fun n => x.vregs.any fun e => e.1 / 32 == n && e.1 % 32 < 2 * x.lanes

/-- A queue dump to go with the cocoon: its bytes, how many convoys they hold, and the index groups that each had
captured. -/
structure SavedDump where
  bytes : List Byte
  count : Nat
  index : List (List IndexGroup)

/-- The captured index groups of a dump, each with the number of its convoy: as many as there is room for, in versions of the
registers of groups of G (R233). -/
def SavedDump.groups (d : SavedDump) (g : Nat) : List (Nat × IndexGroup) :=
  (d.index.zipIdx.flatMap fun e => e.1.map fun k => (e.2, k)).take (16 / g)

/-- The entry of a captured index group in the area of the dump: its convoy, its member and how many rows it has. -/
def groupEntry (e : Nat × IndexGroup) : Nat := 1 + e.1 * 2 ^ 8 + e.2.member * 2 ^ 16 + e.2.rows.length * 2 ^ 32

/-- The area of a queue dump: the convoys, and then a dword for each captured index group (log entry 15). -/
def SavedDump.area (d : SavedDump) (g : Nat) : List Byte :=
  padTo 19456 (padTo 6144 d.bytes ++ (d.groups g).flatMap fun e => valBytes 8 (groupEntry e))

/-- The captured index groups of a dump that a cocoon may hold. -/
def dumpedIn (x : Context) (dump : Option SavedDump) : List (Nat × IndexGroup) :=
  match dump with
  | none => []
  | some d => d.groups x.group

/-- The places of poisoned scales in a list of them, from an offset of a cocoon on. -/
def flaggedFrom (off : Nat) (l : List Scale) : List Nat :=
  l.zipIdx.filterMap fun e => if e.1.toNat < 256 then none else some (off + e.2)

/-- The offsets in a cocoon of the scale bytes that carry the poison flag (R257). -/
def Context.flaggedScales (x : Context) (dump : Option SavedDump) : List Nat :=
  (x.scales.filterMap fun e => if e.2.toNat < 256 then none else some (0x50000 + e.1))
    ++ (x.recv.toList.zipIdx.flatMap fun e => match e.1 with
      | .full m => flaggedFrom (0x3000 + e.2 * 0x2100 + 8192) m.scales
      | _ => [])
    ++ flaggedFrom 0x80000 ((dumpedIn x dump).flatMap (·.2.scales))

/-- Some scale byte has been written. -/
def scalesLive (x : Context) : Bool := !x.scales.isEmpty

/-- The versions of the registers of a captured index group, 8 KiB each: row r of the group is row r mod VROWS of register
r div VROWS, and rows beyond the shape are written all ones (R74, R233). -/
def versionArea (x : Context) (g : IndexGroup) : List Byte :=
  (List.range x.group).flatMap fun j => (List.range 32).flatMap fun r =>
    rowBytes (if r < x.vrows then (g.rows.getD (j * x.vrows + r) deadRow).toNat else deadRow.toNat)

/-- The areas of a cocoon's body, each with its offset. -/
def bodyAreas (x : Context) (dump : Option SavedDump) : List (Nat × List Byte) :=
  let opt (b : Bool) (off : Nat) (bs : List Byte) : List (Nat × List Byte) := if b then [(off, bs)] else []
  [(0x100, scalarArea x), (0x200, padTo 512 (dwordBytes (stateDwords x)))]
    ++ opt (commandsLive x) 0x400 (commandArea x)
    ++ opt (x.recv.toList.any (· != .empty)) 0x3000 (x.recv.toList.flatMap slotEntry)
    ++ (match dump with
      | none => []
      | some d => [(0xB400, d.area x.group)])
    ++ (liveRegs x).map (fun n => (0x10000 + n * 0x2000, (List.range 32).flatMap fun r => rowBytes (x.vrow n r)))
    ++ opt (scalesLive x) 0x50000
      ((List.range 2048).map fun j => BitVec.ofNat 8 (x.scaleByte (j / 64) (j % 64)))
    ++ (match dumpedIn x dump with
      | [] => []
      | gs => [(0x60000, padTo 0x20000 (gs.flatMap fun e => versionArea x e.2)),
               (0x80000, (scaleBytes (gs.flatMap (·.2.scales)) ++ List.replicate 0x400 (0xFF : Byte)).take 0x400)])

/-- The live features (R234). -/
def featureBits (s : State) (x : Context) (c : Nat) (dump : Option SavedDump) : Nat :=
  1 + (!(liveRegs x).isEmpty).toNat * 2 + (scalesLive x).toNat * 4 + dump.isSome.toNat * 8
    + (!(dumpedIn x dump).isEmpty).toNat * 16 + (commandsLive x).toNat * 32
    + (x.recv.toList.any (· != .empty)).toNat * 64 + (holdsMatrix s c).toNat * 128

/-- The length of a cocoon: up to the end of the highest area present. -/
def cocoonLength (areas : List (Nat × List Byte)) : Nat := areas.foldl (fun n e => max n (e.1 + e.2.length)) 256

/-- A whole cocoon of a context as areas, the header first (R232). -/
def cocoonAreas (s : State) (c kind : Nat) (pc : Word) (dump : Option SavedDump) : List (Nat × List Byte) :=
  let x := s.ctxAt c
  let body := bodyAreas x dump
  let live := (liveRegs x).foldl (fun m n => m + 2 ^ n) 0
  (0, cocoonHeader x c kind (featureBits s x c dump) (cocoonLength body) live pc (holdsMatrix s c)
    ((dump.map (·.count)).getD 0) (heldSlots s c)) :: body

/-- The lines of an extent from an address, to be translated without being written. -/
def extentLines (va len : Nat) : List (Nat × List Byte) := (List.range ((len + 63) / 64)).map fun i => (va + 64 * i, [])

/-- The cause and address of the first byte of an extent that cannot be written under a key (R237). -/
def extentFault (s : State) (a : Acc) (key va len : Nat) : Option (Nat × Nat) :=
  match resolveBlock s a .store (some key) (extentLines va len) with
  | .error e => some e
  | .ok _ => none

/-- Areas written at an address under a key and performed at once, or the cause and address of the first failure. -/
def writeAreas (s : State) (a : Acc) (key va : Nat) (areas : List (Nat × List Byte)) : Except (Nat × Nat) State :=
  match resolveBlock s a .store (some key) (areas.flatMap fun e => pieces (va + e.1) e.2) with
  | .error e => .error e
  | .ok ps => .ok (ps.foldl (fun s e => performAt (touch s a .store e.1) (e.1.write 0 e.2)) s)

/-- CTXSAVE after a cocoon was written or read (R236). -/
def Context.reportSave (x : Context) (len kind : Nat) : Context :=
  { x with saveLen := BitVec.ofNat 32 len, saveKind := BitVec.ofNat 4 kind }

/-! ### Reading a cocoon -/

/-- A field of a block of bytes. -/
def leAt (bs : List Byte) (off n : Nat) : Nat := bytesVal ((bs.drop off).take n)
def leWord (bs : List Byte) (off : Nat) : Word := BitVec.ofNat 64 (leAt bs off 8)

/-- The checks of R238 on a header: TVAL of trap 0x0E, or none. -/
def headerFault (h : List Byte) : Option Word :=
  if leAt h 0 4 ≠ 0x4E434F43 || leAt h 4 1 ≠ 1 || !(leAt h 5 1 == 1 || leAt h 5 1 == 2) || 2 ^ 20 < leAt h 0x10 4 then
    some (BitVec.ofNat 64 (2 ^ 63))
  else if leAt h 8 8 / 256 ≠ 0 then some (BitVec.ofNat 64 (leAt h 8 8 / 256 * 256))
  else none

/-- Feature bit i of a header. -/
def hasFeature (h : List Byte) (i : Nat) : Bool := bitOf (leAt h 8 8) i

/-- The matrix state of a cocoon is parked on a tile other than this one (R238). -/
def parkedElsewhere (h : List Byte) (c : Nat) : Bool := bitOf (leAt h 0x3C 1) 7 && leAt h 0x3D 1 != tileOf c

/-- VTYPE from its register image (R75). An image that no VSHAPE leaves, with a type that R77 refuses and ill clear, is
taken with ill set (log entry 67). -/
def VType.ofWord (n : Nat) : VType :=
  let etype := BitVec.ofNat 5 (n / 256)
  let bad := !etypeDefined etype || (ewidth etype.toNat == 4 && n / 2 % 4 == 3)
  { ill := bitOf n 0 || bad, glog := BitVec.ofNat 2 (n / 2), ta := bitOf n 3, ix := bitOf n 4, etype := etype }

/-- Entry i of the loop stack in a header (R232). -/
def loopOf (h : List Byte) (i : Nat) : LoopEntry :=
  let w := leAt h (0x48 + 16 * i) 8
  let start := w % 2 ^ 53 * 4
  { start := BitVec.ofNat 64 start, stop := BitVec.ofNat 64 (start + w / 2 ^ 53 % 1024 * 4 - 4),
    remaining := leWord h (0x50 + 16 * i) }

/-- What the header alone reinstates. Images of values that a register cannot hold are clamped, and reserved bits of RSPILL
read 0 (R72; log entry 67). -/
def Context.loadHeader (x : Context) (h : List Byte) : Context :=
  let rs := min (leAt h 0x36 1) 16
  { x with
    vtype := VType.ofWord (leAt h 0x18 8)
    vsElem := BitVec.ofNat 17 (leAt h 0x20 8), vsMember := BitVec.ofNat 2 (leAt h 0x20 8 / 2 ^ 32)
    vrows := min (leAt h 0x30 1) 32, lanes := min (leAt h 0x31 1) 16, vcols := min (leAt h 0x32 2) 512
    loops := (List.range (min (leAt h 0x35 1) 3)).map (loopOf h)
    mgCount := leAt h 0x3C 1 % 8, mgFirst := leAt h 0x3C 1 / 16 % 4
    ret := { entries := ((List.range rs).map fun i => leWord h (0x80 + 8 * i)).reverse,
             spilled := BitVec.ofNat 32 (leAt h 0x38 4), spill := leWord h 0x78 &&& 0x007FFFFFFFFFFFF8 } }

/-- What the scalar area reinstates. -/
def Context.loadScalars (x : Context) (b : List Byte) : Context :=
  { x with
    conds := BitVec.ofNat 7 (leAt b 0 1), cpol := BitVec.ofNat 2 (leAt b 1 1)
    regs := Vector.ofFn fun r : Fin 32 => if r.val = 0 then 0 else leWord b (8 * r.val) }

/-- The space that three dwords name (R161). -/
def Space.ofWords (root asid keydef : Word) : Space :=
  { ptroot := rootField root, asid := asid.setWidth 16, dkey := keydef.setWidth 12, ckey := (keydef >>> 16).setWidth 12 }

/-- What the state area reinstates, but for the copy channels. -/
def Context.loadState (x : Context) (b : List Byte) : Context :=
  let w (i : Nat) : Word := leWord b (8 * i)
  let mask := w 15
  let y := [(0, 0x0A), (1, 0x0B), (2, 0x0C), (3, 0x0D), (4, 0x18), (7, 0x11), (8, 0x12), (9, 0x13), (10, 0x14),
    (11, 0x15)].foldl (fun y e => y.writeShape e.2 (w e.1)) x
  let y := [(5, 0x2C), (6, 0x48), (12, 0x30)].foldl (fun y e => y.writeTask e.2 (w e.1)) y
  { y with
    ui := { vec := y.ui.vec, cause := (w 13).setWidth 8, epc := w 14, val := w 16, en := (mask >>> 1).setWidth 4,
            pend := (mask >>> 9).setWidth 4, act := mask.getLsbD 63,
            held := Vector.ofFn fun i : Fin 4 => w (17 + i.val), shadow := Vector.ofFn fun i : Fin 8 => w (21 + i.val) }
    taskseq := w 29, taskrec := w 30, adjV := (w 31).setWidth 32, adjM := (w 31 >>> 32).setWidth 32
    space := .ofWords (w 32) (w 33) (w 34)
    cap := (w 35).setWidth 5, evict := (w 35).getLsbD 8 }

/-- A saved copy command, or none for an entry that holds none; one without a dimension has completed. -/
def commandOf (b : List Byte) : Option CopyCmd :=
  let dim (i : Nat) : CopyDim :=
    let src := leAt b (24 + 8 * i) 8
    let dst := leAt b (88 + 8 * i) 8
    { ss := BitVec.ofInt 64 (intOf 40 true (src / 2 ^ 24)), ext := src % 2 ^ 24,
      ds := BitVec.ofInt 64 (intOf 40 true (dst / 2 ^ 24)) }
  if leAt b 4 1 = 0 then none
  else some
    { id := BitVec.ofNat 32 (leAt b 0 4), src := leWord b 8, dst := leWord b 16, esz := leAt b 4 1,
      dims := (List.range (min (leAt b 7 1) 8)).map dim, notify := bitOf (leAt b 5 1) 0,
      space := .ofWords (leWord b 152) (leWord b 160) (leWord b 168), sup := bitOf (leAt b 6 1) 0, st := if leAt b 7 1 = 0 then .completed else .queued }

/-- The channel registers of channel k in the state area, with its outstanding commands (R191). -/
def chanOf (b cmds : List Byte) (k : Nat) : CopyChan :=
  let flt := (leWord b (8 * (44 + k))).toNat
  let fid := BitVec.ofNat 32 (flt / 2 ^ 32)
  let all := (List.range 16).filterMap fun i => commandOf ((cmds.drop ((16 * k + i) * 176)).take 176)
  { done := (leWord b (8 * (36 + k))).setWidth 32, next := (leWord b (8 * (40 + k))).setWidth 32,
    cause := BitVec.ofNat 8 flt, side := bitOf flt 8, dlv := bitOf flt 9, fid := fid, faddr := 0,
    cmds := all.map fun m => if flt % 256 ≠ 0 && m.id = fid then { m with st := .faulted } else m, joins := [] }

/-- The address that XFLT's fault is reported with, found again by translation: the cocoon has no place for it. Where no byte
of the command fails any more it is 0 (R191; log entry 64). -/
def CopyChan.findAddr (s : State) (c : Nat) (k : CopyChan) : CopyChan :=
  match k.cmds.find? (·.st == .faulted) with
  | none => k
  | some m =>
    match lowestFault (copyFailures s (m.acc c) m) with
    | none => k
    | some f => { k with faddr := BitVec.ofNat 64 f.1 }

/-- A scale of a cocoon at an offset: with its poison flag, where one is kept for it (R257). -/
def scaleAt (flagged : List Nat) (off : Nat) (b : Byte) : Scale :=
  if flagged.contains off then BitVec.ofNat 9 poisonedScale else b.setWidth 9

/-- Scales of a cocoon from an offset on. -/
def scalesFrom (flagged : List Nat) (off : Nat) (bs : List Byte) : List Scale :=
  bs.zipIdx.map fun e => scaleAt flagged (off + e.2) e.1

/-- A receive slot from its code in the header and its entry, which lies at an offset of the cocoon. -/
def slotOf (flagged : List Nat) (off code : Nat) (b : List Byte) : RecvSlot :=
  let sender := leAt b 8280 8
  match code with
  | 1 => .reserved (sender % 1024) (sender / 1024)
  | 2 => .full
      { rows := leAt b 8256 8, cols := leAt b 8264 8, width := leAt b 8272 8,
        data := (List.range (min (leAt b 8256 8) 32)).map fun r => BitVec.ofNat 2048 (leAt b (256 * r) 256),
        scales := scalesFrom flagged (off + 8192) ((b.drop 8192).take 64), node := sender % 1024, sender := sender / 1024 }
  | _ => .empty

/-- The rows of the registers that are present, with their numbers. -/
def rowsOf (h : List Byte) (get : Nat → List Byte) : Tab Row2048 :=
  ((List.range 32).filter fun n => bitOf (leAt h 0x14 4) n).flatMap fun n =>
    (List.range 32).map fun r => (n * 32 + r, BitVec.ofNat 2048 (leAt (get n) (256 * r) 256))

/-- The areas of a cocoon that were read, each empty where it is absent. -/
structure CocoonRead where
  header : List Byte
  scalars : List Byte
  state : List Byte
  cmds : List Byte
  recv : List Byte
  dump : List Byte
  regs : List (List Byte)
  scales : List Byte
  index : List Byte
  versions : List Byte
  flagged : List Nat

/-- The areas behind a header in the order in which they are read: whether each is present, its offset and its length (R233). -/
def areasOf (h : List Byte) : List (Bool × Nat × Nat) :=
  [(true, 0x100, 256), (true, 0x200, 512), (hasFeature h 5, 0x400, 11264), (hasFeature h 6, 0x3000, 33792),
    (hasFeature h 3, 0xB400, 19456)]
    ++ (List.range 32).map (fun n => (hasFeature h 1 && bitOf (leAt h 0x14 4) n, 0x10000 + n * 0x2000, 0x2000))
    ++ [(hasFeature h 2, 0x50000, 2048), (hasFeature h 4, 0x60000, 0x20000), (hasFeature h 4, 0x80000, 0x400)]

/-- A cocoon read under a key, or the cause and address of the first byte that fails. -/
def readCocoon (s : State) (a : Acc) (key va : Nat) : Except (Nat × Nat) CocoonRead := do
  let h ← readBlock s a (some key) va 256
  let bs ← (areasOf h).mapM fun e => if e.1 then readBlock s a (some key) (va + e.2.1) e.2.2 else .ok []
  let area (i : Nat) : List Byte := bs.getD i []
  return { header := h, scalars := area 0, state := area 1, cmds := area 2, recv := area 3, dump := area 4,
           regs := (List.range 32).map fun n => area (5 + n), scales := area 37, index := area 38, versions := area 39,
           flagged := [] }

/-- The accesses of reading a cocoon: its header and each area that is present, up to one that cannot be read (R160). -/
def touchCocoon (s : State) (a : Acc) (key va : Nat) (h : List Byte) : State :=
  let read := ((areasOf h).filter (·.1)).takeWhile fun e => (readBlock s a (some key) (va + e.2.1) e.2.2).toOption.isSome
  read.foldl (fun s e => touchBlock s a .load (some key) (va + e.2.1) e.2.2) (touchBlock s a .load (some key) va 256)

/-- The k-th captured index group of a cocoon's dump, with the number of its convoy, if it has one. -/
def CocoonRead.groupNo (r : CocoonRead) (k : Nat) : Option (Nat × IndexGroup) :=
  let e := leAt r.dump (6144 + 8 * k) 8
  let g := leAt r.header 0x34 1
  let vrows := max 1 (leAt r.header 0x30 1)
  if e % 256 ≠ 1 then none
  else some (e / 2 ^ 8 % 256,
    { member := e / 2 ^ 16 % 256
      rows := (List.range (min (e / 2 ^ 32) 256)).map fun i =>
        BitVec.ofNat 2048 (leAt r.index (0x2000 * (g * k + i / vrows) + 256 * (i % vrows)) 256)
      scales := scalesFrom r.flagged (0x80000 + 64 * g * k) ((r.versions.drop (64 * g * k)).take (64 * g)) })

/-- The index groups that the convoys of a cocoon's dump had captured, for each of them in turn. -/
def CocoonRead.captured (r : CocoonRead) : List (List IndexGroup) :=
  if hasFeature r.header 4 then
    let gs := (List.range 16).filterMap r.groupNo
    (List.range 16).map fun c => (gs.filter (·.1 == c)).map (·.2)
  else []

/-- How many convoys the queue dump of a cocoon holds. -/
def CocoonRead.convoys (r : CocoonRead) : Nat := min (leAt r.header 0x37 1) queueDepth

/-- Context c with a cocoon's state in it: everything but its level, PC and trap registers (R230, R238). Full and reserved
receive slots are not moved to a context other than the one that was saved. The writes that the context still has to
perform, those of the handler that issues CLOAD among them, stand (R189, R193). -/
def Context.reinstate (x : Context) (c : Nat) (r : CocoonRead) : Context :=
  let h := r.header
  let y := ((x.loadHeader h).loadScalars r.scalars).loadState r.state
  let codes := leAt h 0x3E 2
  { y with
    vregs := if hasFeature h 1 then
        (rowsOf h fun n => r.regs.getD n []).filter fun e => e.1 % 32 < 2 * y.lanes
      else []
    scales := if hasFeature h 2 then
        (List.range 2048).map fun j => (j, scaleAt r.flagged (0x50000 + j) (r.scales.getD j 0xFF))
      else []
    chans := Vector.ofFn fun k : Fin 4 => chanOf r.state r.cmds k.val
    recv := if leAt h 6 2 = c then
        Vector.ofFn fun t : Fin 4 =>
          slotOf r.flagged (0x3000 + t.val * 0x2100) (codes / 4 ^ t.val % 4) ((r.recv.drop (t.val * 0x2100)).take 0x2100)
      else x.recv
    cvy := none, wait := none, qfault := none, queue := [], redump := [], early := [], rewaits := none
    pause := none, defer := none, notice := none, capBack := none
    capWaited := false, stopped := false, saving := false, ended := false, start := none, wake := false }

/-- The parked matrix state of a cocoon bound to a context again (R239). -/
def rebind (s : State) (c : Nat) (h : List Byte) : State :=
  s.setTile (tileOf c) ((s.tileAt (tileOf c)).rename ((s.ctxAt c).parkedBy (leAt h 6 2)) (some (.ctx c)))

/-- A cocoon put into a context, on its way to running at a place: the strip it was saved in stays forced. -/
def loadCocoon (s : State) (c : Nat) (r : CocoonRead) (pc : Word) : State :=
  let y := (s.ctxAt c).reinstate c r
  let y := { y with chans := y.chans.map (CopyChan.findAddr s c) }
  let y := { y with strip := { Strip.reset with forced := true }, ckpt := y.checkpoint pc }
  dropReturned c (rebind (s.setCtx c y) c r.header)

end Sys2Proof.Machine
end

