-- ==== Sys2Proof/Machine/Ports.lean ====
section
/-! DEFINITION. The ports of the module: MSI-X (R279), the MMIO access table (R155, R284), and accesses that are held at
their entry (R211, R278). -/

namespace Sys2Proof.Machine

/-! ### MSI-X (R279) -/

/-- The vectors of a port that are pending and no longer masked are sent, lowest first. -/
def MsiPort.flush (p : MsiPort) : MsiPort × List Nat :=
  if !p.on || p.allMasked then (p, [])
  else ({ p with pend := p.pend &&& p.mask }, (List.range 8).filter fun v => p.pend.getLsbD v && !p.mask.getLsbD v)

/-- What a port does with a vector: it is sent, or pending while it is masked; a port whose MSI-X is off sends nothing and
keeps nothing (log entry 93). -/
def MsiPort.send (p : MsiPort) (vector : Nat) : MsiPort × List Nat :=
  if p.on then { p with pend := p.pend ||| (1#8 <<< vector) }.flush else (p, [])

/-- A port of the module changed, and the vectors that it sends by that. -/
def State.putPort (s : State) (port : Nat) (f : MsiPort → MsiPort × List Nat) : State :=
  let r := f (s.host.ports.toList.getD (port - 1) .reset)
  { s with host := { s.host with
      ports := s.host.ports.setIfInBounds (port - 1) r.1, msix := s.host.msix ++ r.2.map fun v => (port, v) } }

/-- An MSI-X vector for a port. -/
def State.msix (s : State) (port vector : Nat) : State := s.putPort port (·.send vector)

/-- A vector for the port of a launch; one started by a management core sends none. -/
def State.msixTo (s : State) (master vector : Nat) : State := if master = 1 || master = 2 then s.msix master vector else s

/-- A port is one of the two. -/
def isPort (p : Nat) : Bool := p == 1 || p == 2

/-- The host sets a port's enable and function mask. -/
def msixControl (port : Nat) (on allMasked : Bool) (s : State) : State :=
  if isPort port then s.putPort port fun p => { p with on := on, allMasked := allMasked }.flush else s

/-- The host sets a vector's mask. -/
def msixVector (port vector : Nat) (masked : Bool) (s : State) : State :=
  if isPort port && vector < 8 then
    s.putPort port fun p =>
      { p with mask := if masked then p.mask ||| (1#8 <<< vector) else p.mask &&& ~~~(1#8 <<< vector) }.flush
  else s

/-! ### Access tables for hosts (R155, R284) -/

/-- The access table of a target permits a port or the management cores an access: everything until an entry names
them (R284). They see an edit from the next access they make. -/
def hostAllows (s : State) (kind pa : Nat) (write : Bool) : Bool :=
  let rows := tableRows s.tables s.node (tableOf pa) kind 0 0
  rows.isEmpty || rows.any fun hi => tableRight hi (pa / 2 ^ 16) write

/-- The MMIO table permits a master an access at an offset of BAR0 (R155, R276). -/
def mmioAllows (s : State) (m off : Nat) (write : Bool) : Bool := hostAllows s m (0xF0000000000 + off) write

/-! ### Reaching the registers -/

/-- A read of BAR0 that is refused gives all ones (R276; log entry 94). -/
def readAllOnes (bytes : Nat) (s : State) : State :=
  { s with host := { s.host with lastRead := BitVec.ofNat 64 (2 ^ (8 * bytes) - 1) } }

/-- An access of a port waits at its entry. -/
def State.hold (s : State) (mv : Move) : State := { s with host := { s.host with entry := s.host.entry ++ [mv] } }

/-- A master's access at an offset of BAR0, made as a move of the environment: it is held at a port's entry during a moult
or a migration (R211), dropped where the MMIO table refuses it (R155; log entry 94), and performed otherwise. -/
def hostReach (m off : Nat) (write : Bool) (mv : Move) (refused : State → State)
    (k : State → Host.Outcome State Fault Refusal) (s : State) : Host.Outcome State Fault Refusal :=
  if !masterInRange m then .fault .noSuchPart
  else if !s.flows && m ≠ 3 then .next (s.hold mv)
  else if !mmioAllows s m off write then .next (refused s)
  else k s

/-- The same for a row of the opcode table that writes a value to a register of its own. -/
def hostWrites (m off : Nat) (v : Word) (k : State → Host.Outcome State Fault Refusal) (s : State) :
    Host.Outcome State Fault Refusal := hostReach m off true (.busWrite m off 8 v) id k s

/-! ### Key slots and lines of plain text (R152, R153, R285) -/

/-- A line that a cache holds belongs to a key slot, numbered over all nodes. -/
def PlainLine.under (l : PlainLine) (slot : Nat) : Bool := placeNode (l.line * 64) * 4096 + l.slot == slot

/-- A line's bytes encrypted under other keys. -/
def rekeyLine (old new : Tab (BitVec 512)) (mem : List Host.Cell) (l : PlainLine) : List Host.Cell :=
  putBytes new mem (l.line * 64) l.slot true (fetchBytes old mem (l.line * 64) l.slot true 64)

/-- A key slot filled or emptied. A line that a cache holds under it stays plain text: a hit under the index gives what it
gave before, and its eviction encrypts it under the key that the slot holds then (R285). -/
def setSlot (slot : Nat) (v : Option (BitVec 512)) (s : State) : State :=
  let old := tabFind s.keys slot
  let mine := s.plain.filter (·.under slot)
  match v with
  | some b =>
    let keys := tabSet s.keys slot b
    { s with
      keys := keys
      mem := mine.foldl (fun m l =>
        match old.or l.was with
        | some k => rekeyLine (tabSet s.keys slot k) keys m l
        | none => m) s.mem
      plain := s.plain.map fun l => if l.under slot then { l with was := none } else l }
  | none =>
    { s with
      keys := tabErase s.keys slot
      plain := s.plain.map fun l => if l.under slot then { l with was := old.or l.was } else l }

/-- A translation's page holds a line. -/
def TlbEntry.holdsLine (e : TlbEntry) (line : Nat) : Bool :=
  nodePlace e.node e.frame ≤ line * 64 && line * 64 < nodePlace e.node e.frame + 2 ^ e.size

/-- A key index under which an access of a page may read and write its lines: the page's own, or that of cocoons (R152, R235). -/
def State.indexOf (s : State) (e : TlbEntry) (slot : Nat) : Bool :=
  e.key == slot || s.ctxs.any (·.2.space.ckey.toNat == slot) || s.mill.saved.any (·.space.ckey.toNat == slot)

/-- The translations let a line be cached under a key index: one of a page under that index holds it, and none of a settled
page does (R149, R153, R174; log entry 92). -/
def State.caches (s : State) (line slot : Nat) : Bool :=
  s.tlb.any (fun e => e.holdsLine line && s.indexOf e slot) && s.tlb.all fun e => !(e.pin && e.holdsLine line)

/-- A cache of its home takes in a line under a filled key slot: one of the own node, of a page that an access has translated
and that is not settled (R149, R153, R174). -/
def lineCached (line slot : Nat) (s : State) : State :=
  let l : PlainLine := { line := line, slot := slot, was := none }
  if placeNode (line * 64) = s.node && s.caches line slot && slot < 4096 && (tabFind s.keys (placeNode (line * 64) * 4096 + slot)).isSome
      && storedEncrypted (line * 64 % 2 ^ 44) slot && s.plain.all (·.line != line) then
    { s with plain := l :: s.plain }
  else s

/-- A line is evicted. -/
def lineEvicted (line : Nat) (s : State) : State := { s with plain := s.plain.filter (·.line != line) }

end Sys2Proof.Machine
end

