-- ==== Sys2Proof/Machine/Task.lean ====
section
/-! DEFINITION. A task on its context: weights (R36, R49, R50), start (R32, R33), TEND (R40, R208, R362), and the
context's part of GSPAWN and GSIG (R40, R339). -/

namespace Sys2Proof.Machine

/-! ### Running weight (R36, R49) -/

/-- The requests of a string are cleared (R50), and its floor mark (R59). -/
def clearRequests (s : State) (n : Nat) : State := s.setStr n { s.strAt n with adjreq := 0, floor := false }

/-- The running weight of a context's tile changes by a task's weight. -/
def weightChange (s : State) (c weight : Nat) : State := if weight = 0 then s else clearRequests s (strOf c)

/-- The weight that a context and its unretired TENDs add. -/
def contextWeight (s : State) (c : Nat) : Nat :=
  let x := s.ctxAt c
  (if x.ended then 0 else (x.task.map (·.weight)).getD 0)
    + (s.mill.ends.filter fun e => e.ctx == c).foldl (fun n e => n + e.task.weight) 0

def tileWeight (s : State) (t : Nat) : Nat := (List.range 8).foldl (fun n i => n + contextWeight s (t * 8 + i)) 0
def stringWeight (s : State) (k : Nat) : Nat := (List.range 4).foldl (fun n i => n + tileWeight s (k * 4 + i)) 0

/-! ### Task start (R32) -/

/-- SRSEED at task start. -/
def startSeed (seq : Word) : BitVec 32 :=
  let v := seq.setWidth 32 ^^^ 0xACE12345
  if v = 0 then 1 else v

/-- RSPILL at task start. -/
def startSpill (c : Nat) : Word := 0x007F00000003F000 + BitVec.ofNat 64 (c % 2 * 0x400)

/-- s1 to s7 at task start; every other register is 0. -/
def startRegs (i : StartInfo) (rcd : Word) : Vector Word 32 :=
  Vector.ofFn fun r : Fin 32 =>
    if 1 ≤ r.val && r.val ≤ 4 then BitVec.ofNat 64 (i.idx.getD (r.val - 1) 0)
    else if r.val = 5 then i.param
    else if r.val = 6 then BitVec.ofNat 64 i.seq
    else if r.val = 7 then rcd
    else 0

/-- The state of a context on which a task starts (R32): what the table does not list keeps nothing. Notifications of
earlier appends are still to be sent (R44), and committed stores of a handler that ran before still to be performed
(R189). -/
def Context.begin (x : Context) (c : Nat) (t : HeldTask) (i : StartInfo) : Context :=
  let y : Context := { Context.reset with
    regs := startRegs i t.rcd, pc := i.entry
    fp := { FpRegs.reset with seed := startSeed (BitVec.ofNat 64 i.seq) }
    ret := { RetStore.reset with spill := startSpill c }
    trap := { x.trap with pp := false, inh := false, cocoon := false, task := true }
    space := i.space, taskseq := BitVec.ofNat 64 i.seq, taskrec := t.rcd
    saveLen := x.saveLen, saveKind := x.saveKind, pend := x.pend, appends := x.appends, task := some t, tally := x.tally }
  { y with ckpt := y.checkpoint i.entry }

/-- TASK_START (R32, R33): the dispatched task starts; requests that waited for the context to hold a task are looked
at (R206). A task of a launch that has failed or is torn down does not start (R26). -/
def execTaskStart (c : Nat) (s : State) : Host.Outcome State Fault Refusal :=
  if !ctxInRange c then .fault .noSuchPart
  else
    let x := s.ctxAt c
    match x.task, x.start with
    | some t, some i =>
      let live := match s.launch t.launch with
        | some l => l.failed.isNone && !l.tearing
        | none => false
      if live && !x.ended then .next (serveWaiting (s.setCtx c (x.begin c t i))) else .next s
    | _, _ => .next s

/-! ### A context becomes free -/

/-- A context without lanes, bands, slots or messages: the end of a task (R40, R208). -/
def releaseAll (s : State) (c : Nat) : State :=
  let s := withdraw c s
  let t := s.tileAt (tileOf c)
  let free (k : Slot) : Slot := if k.holder = some (.ctx c) then { k with holder := none, released := false } else k
  let t := t.takeBands (t.bandsOf (.ctx c)) none
  let s := s.setTile (tileOf c) { t with slots := t.slots.map fun e => (e.1, free e.2) }
  let x := (s.ctxAt c).releaseTo 0
  s.setCtx c { x with
    vrows := 0, vcols := 0, vtype := { x.vtype with ill := true }, mgCount := 0, mgFirst := 0
    loops := [], ret := { x.ret with entries := [], spilled := 0 }
    ui := { x.ui with pend := 0, act := false, held := Vector.replicate 4 0, shadow := Vector.replicate 8 0 }
    recv := Vector.replicate 4 .empty, chans := x.chans.map fun k => { k with cmds := [], joins := [] }
    trap := { x.trap with task := false, cocoon := false }, sup := false, cvy := none, wait := none
    held := [], qfault := none, queue := [], redump := [], early := [], pause := none, defer := none, notice := none
    capBack := none, evict := false, rewaits := none
    stopped := false, saving := false, ended := false, start := none, task := none }

/-! ### TEND -/

/-- Channels of a TEND, lowest first: a delivered fault restarts its channel, and one that has not been delivered is
the state of its trap. -/
def tendChannels : List Nat → State → State × Bool
  | [], s => (s, true)
  | k :: ks, s =>
    let ch := s.cx.chan k
    if ch.stopped && !ch.dlv then (deliver s k, false)
    else tendChannels ks (if ch.stopped then s.mapCx (·.setChan k ch.restart) else s)

/-- Every access, copy and SEND of the current context is performed (R40). -/
def tendDone (s : State) : Bool :=
  s.cx.pend.isEmpty && s.cx.chans.toList.all (·.cmds.isEmpty) && s.delivered s.cur

/-- What is left needs a plane (R210). -/
def tendStuck (s : State) : Bool :=
  s.planesDead && (s.cx.pend.any (fun w => !w.carried s.cur)
    || s.cx.chans.toList.any (fun k => k.needsPlane s s.cur k.next) || !s.delivered s.cur)

/-- TEND retires: the iteration is on its way to the mill (R40, R46). -/
def endTask (s : State) : State :=
  let c := s.cur
  let t := releaseAll (s.mapCx (·.retire)) c
  match s.cx.task with
  | none => t
  | some h => { t with mill := { t.mill with ends := t.mill.ends ++ [{ ctx := c, task := h }] } }

/-- TEND's wait: it ends, goes on, or meets a channel that stopped. -/
def waitTend (s : State) : State :=
  match (List.range 4).find? fun k => (s.cx.chan k).stopped with
  | some k => deliver s k
  | none =>
    if tendDone s then endTask s
    else if tendStuck s then takeTrap s (.issue 0x14 0)
    else s.waitIn .tend .tend []

/-- TEND (R40, R362): the strip is committed and forced from here on. -/
def execTend (s : State) : Host.Outcome State Fault Refusal :=
  if s.cx.sup && !s.cx.trap.task then .next (takeTrap s (.issue 0x01 (BitVec.ofNat 64 (wordOf .tend))))
  else
    let t := tendChannels [0, 1, 2, 3] (forceCommit s)
    .next (if t.2 then waitTend t.1 else t.1)

/-- TEND_WAIT_END (R40). -/
def execTendWaitEnd (c : Nat) (s : State) : Host.Outcome State Fault Refusal :=
  if !ctxInRange c then .fault .noSuchPart
  else match (s.ctxAt c).wait with
    | some { kind := .tend, .. } => if s.flows then .next (s.within c waitTend) else .next s
    | _ => .next s

/-! ### GSPAWN and GSIG at the context (R339) -/

/-- A request to the mill: its address is aligned, it releases at module scope, and it waits until the mill accepts. -/
def askMill (i : Instr) (a : Word) (s : State) : State :=
  if a.toNat % 128 ≠ 0 then takeTrap s (.issue 0x04 a)
  else orderBefore (.plain (.all 4) fun s => s.waitIn .mill i []) i s

/-- GSPAWN (R40, R339). -/
def execGspawn (r : BitVec 5) (s : State) : Host.Outcome State Fault Refusal :=
  .next (askMill (.gspawn r) (s.cx.reg r) s)

/-- GSIG (R40, R339). -/
def execGsig (r : BitVec 5) (s : State) : Host.Outcome State Fault Refusal :=
  .next (askMill (.gsig r) (s.cx.reg r) s)

end Sys2Proof.Machine
end

