-- ==== Sys2Proof/Machine/System.lean ====
section
/-! DEFINITION. The system instructions TRAP, ERET, TLBINV, CSAVE and CLOAD (R175, R176, R221 to R223, R236 to R238,
R325, R362), and a queued trap being taken (R218). -/

namespace Sys2Proof.Machine

/-- The trap 0x11 of a privileged word at user level (R214, R216). -/
def privilegeTrap (i : Instr) : Trap := .issue 0x11 (BitVec.ofNat 64 (wordOf i))

/-- TRAP (R222): TEPC is the next sequential convoy. -/
def execTrap (n : BitVec 12) (s : State) : Host.Outcome State Fault Refusal :=
  .next (takeTrapAt s (.issue 0x12 (n.setWidth 64)) s.cx.nextPc [] [])

/-! ### ERET (R223) -/

/-- Some line of an extent lies outside the tile of a context. -/
def extentLeavesTile (s : State) (a : Acc) (key va len : Nat) : Bool :=
  match resolveBlock s a .load (some key) (extentLines va len) with
  | .error _ => false
  | .ok ps => ps.any fun e => !tileCarried (coreOf a.ctx) (tileOf a.ctx) e.1.loc

/-- After CSAVE, ERET frees the context. What its handler has stored since is committed (R189; log entry 95). -/
def freeContext (s : State) : State :=
  s.mapCx fun x => { x.commitStores with sup := false, cvy := none, wait := none, early := [] }

/-- The line of a cocoon's dump, or of its header, lies outside the tile of the current context: its reload needs a plane
(R210). -/
def dumpLeavesTile (s : State) : Bool :=
  let x := s.cx
  extentLeavesTile s (x.saverAcc s.cur) x.space.ckey.toNat (x.trap.frec.toNat + 0x2400)
    (match dumpLength s with
      | .ok (_, n) => 256 + 384 * n
      | .error _ => 256)

/-- An invalid queue dump fails the launch, and the context executes nothing more. -/
def badDump (s : State) : State := doubleTrap (s.failLaunch s.cx.launchNo 0x0E)

/-- ERET (R223, R325). -/
def execEret (s : State) : Host.Outcome State Fault Refusal :=
  let x := s.cx
  if !x.sup then .next (takeTrap s (privilegeTrap .eret))
  else if !x.trap.task then .next (freeContext s)
  else if !x.trap.cocoon then .next (leaveTrap s [])
  else if s.planesDead && dumpLeavesTile s then .next (takeTrap s (.issue 0x14 0))
  else match reloadDump s with
    | some vs => .next (leaveTrap (touchDump s) vs)
    | none => .next (badDump (touchDump s))

/-! ### Queued traps (R218) -/

/-- QUEUED_TRAP (R218). -/
def execQueuedTrap (c : Nat) (s : State) : Host.Outcome State Fault Refusal :=
  if !ctxInRange c then .fault .noSuchPart
  else match (s.ctxAt c).qfault with
    | some f => if (s.ctxAt c).stopped then .next s else .next (s.within c fun s => takeQueued s f)
    | none => .next s

/-! ### TLBINV (R175, R176) -/

/-- The entries that an invalidation of kind k removes: `a` is sN and `asid` the context's. -/
def TlbEntry.dropped (k a : Nat) (asid : BitVec 16) (e : TlbEntry) : Bool :=
  let va := a % 2 ^ 55
  let holds := va / 2 ^ e.size * 2 ^ e.size == e.va
  match k with
  | 0 => holds && (e.glob || e.asid == asid)
  | 1 => !e.glob && e.asid == BitVec.ofNat 16 a
  | 2 => holds
  | _ => true

/-- A place lies in the page of an entry. -/
def TlbEntry.covers (e : TlbEntry) (loc : Nat) : Bool :=
  nodePlace e.node e.frame ≤ loc && loc < nodePlace e.node e.frame + 2 ^ e.size

/-- No write that lies in the page of a removed entry is still to be performed, no instruction that waits has translated its
access with one, and no copy command that started with one still runs (R175). -/
def targetsDone (s : State) (out : TlbEntry → Bool) : Bool :=
  let gone := s.tlb.filter out
  s.ctxs.all fun x =>
    x.2.ownWrites.all (fun w => gone.all fun e => !e.covers w.loc)
      && ((x.2.wait.bind (·.place)).all fun p => gone.all fun e => !e.covers p.loc)
      && x.2.chans.toList.all fun k => k.cmds.all fun m =>
        match m.st with
        | .started pages _ _ => pages.all fun e => !out e
        | _ => true

/-- The translations of the module without those removed: an edit of an access table that affects none of the rest is in effect
(R156). -/
def dropEntries (s : State) (out : TlbEntry → Bool) : State := settleTables { s with tlb := s.tlb.filter fun e => !out e }

/-- What a TLBINV of a context removes. -/
def Context.dropsOf (x : Context) (r : BitVec 5) (k : BitVec 2) (e : TlbEntry) : Bool :=
  e.dropped k.toNat (x.reg r).toNat x.space.asid

/-- TLBINV (R175): a release at system scope, then the wait for every target. -/
def execTlbinv (r : BitVec 5) (k : BitVec 2) (s : State) : Host.Outcome State Fault Refusal :=
  let i : Instr := .tlbinv r k
  if !s.cx.sup then .next (takeTrap s (privilegeTrap i))
  else .next (orderBefore (.plain (.all 5) fun s => s.waitIn .tlbinv i []) i s)

/-- TLBINV_COMPLETE (R175, R176): after a moult where one is in progress. -/
def execTlbinvComplete (c : Nat) (s : State) : Host.Outcome State Fault Refusal :=
  if !ctxInRange c then .fault .noSuchPart
  else match (s.ctxAt c).wait with
    | some { kind := .tlbinv, instr := .tlbinv r k, .. } =>
      let out := (s.ctxAt c).dropsOf r k
      if !s.flows then .next s
      else if s.planesDead then .next (s.within c fun s => takeTrap s (.issue 0x14 0))
      else if !targetsDone s out then .next s
      else .next (s.within c fun s => (dropEntries s out).mapCx (·.retire))
    | _ => .next s

/-! ### CSAVE (R237) -/

/-- The instruction will issue again: nothing of it has happened. -/
def State.again (s : State) : State :=
  s.mapCx fun x =>
    let loops := match x.cvy with
      | some v => v.loops0
      | none => x.loops
    { x with pc := x.convoyStart, cvy := none, wait := none, loops := loops }

/-- The queue dump that waits at TFREC for ERET, with the index groups that its convoys had captured, or the cause
and address of the first byte that cannot be read. One that is no dump is saved as one that ERET refuses. -/
def waitingDump (s : State) : Except (Nat × Nat) (Option SavedDump) :=
  let x := s.cx
  if !x.trap.cocoon then .ok none
  else match dumpLength s with
    | .error e => .error e
    | .ok (h, n) =>
      if !isFaultCocoon h then .ok (some { bytes := zeros 384, count := 1, index := [] })
      else match dumpAt s n with
        | .error e => .error e
        | .ok bs => .ok (some { bytes := bs, count := n, index := x.dumpedGroups })

/-- Every copy channel is empty or stopped, with nothing still running (R229, R237). -/
def Context.channelsRest (x : Context) : Bool :=
  x.chans.toList.all fun k => k.cmds.isEmpty || (k.stopped && k.cmds.all fun m =>
    match m.st with
    | .started .. => false
    | _ => true)

/-- What a save leaves of the context: its task is off, and its state is in the cocoon. A notice that was outstanding on the
task is so no longer, which R225 does not say of CSAVE (log entry 97). -/
def Context.taskOff (x : Context) : Context :=
  { x.releaseTo 0 with
    mgCount := 0, mgFirst := 0, chans := Vector.replicate 4 .reset, recv := Vector.replicate 4 .empty
    trap := { x.trap with task := false, cocoon := false }, redump := [], task := none, rewaits := none
    queue := [], early := [], pause := none, defer := none
    cap := 16, evict := false, notice := none, capBack := none, capWaited := false, saving := false }

/-- The saved task as the mill keeps it (R230, R231). -/
def Context.savedAs (x : Context) (c : Nat) (h : HeldTask) (whole : Bool) (dump : Option SavedDump) : SavedTask :=
  { ctx := c, task := h, seq := x.taskseq, lanes := x.lanes, space := x.space, whole := whole,
    flagged := x.flaggedScales dump, inWait := x.rewaits.isSome }

/-- A cocoon of the current context written at an address: the state after it, with the task off the context, or the
cause and address of the first failure. Copy completions whose interrupt was on its way are pending in it. -/
def saveTask (s : State) (kind va : Nat) (pc : Word) (dump : Option SavedDump) : Except (Nat × Nat) State :=
  let s := countAdjunct (s.mapCx (·.undefer))
  let x := s.cx
  let areas := cocoonAreas s s.cur kind pc dump
  match writeAreas s (x.saverAcc s.cur) x.space.ckey.toNat va areas with
  | .error e => .error e
  | .ok t =>
    let len := cocoonLength areas
    let t := (park t t.cur).mapCx fun y => y.taskOff.reportSave len kind
    .ok (match x.task with
      | none => t
      | some h =>
        let t := { t with mill := { t.mill with saved := t.mill.saved ++ [x.savedAs s.cur h (kind == 1) dump] } }
        weightChange t s.cur h.weight)

/-- CSAVE once its checks have passed: it waits for its channels and its committed writes. -/
def saveNow (va : Word) (dump : Option SavedDump) (s : State) : State :=
  let t := forceCommit s
  if s.planesDead && t.cx.pend.any (fun w => !w.carried s.cur) then takeTrap s (.issue 0x14 0)
  else if !(t.cx.channelsRest && t.cx.pend.isEmpty) then t.again
  else match saveTask t 2 va.toNat s.cx.trap.epc dump with
    | .error e => takeTrap s (accessTrap e.1 (BitVec.ofNat 64 e.2))
    | .ok u => u.mapCx (·.retire)

/-- CSAVE (R237, R325). -/
def execCsave (r : BitVec 5) (s : State) : Host.Outcome State Fault Refusal :=
  let x := s.cx
  let va := x.reg r
  let a := x.saverAcc s.cur
  if !x.sup then .next (takeTrap s (privilegeTrap (.csave r)))
  else if !x.trap.task || x.trap.pp then .next (takeTrap s (.issue 0x0E 0x4000000000000000))
  else if va.toNat % 2 ^ 20 ≠ 0 then .next (takeTrap s (.issue 0x04 va))
  else match waitingDump s with
    | .error e => .next (takeTrap s (accessTrap e.1 (BitVec.ofNat 64 e.2)))
    | .ok dump =>
      let len := cocoonLength (bodyAreas x dump)
      match extentFault s a x.space.ckey.toNat va.toNat len with
      | some e => .next (takeTrap s (accessTrap e.1 (BitVec.ofNat 64 e.2)))
      | none =>
        if s.planesDead && extentLeavesTile s a x.space.ckey.toNat va.toNat len then .next (takeTrap s (.issue 0x14 0))
        else .next (saveNow va dump (if dump.isSome then touchDump s else s))

/-! ### CLOAD (R238) -/

/-- A saved task is the one that a cocoon belongs to: its context, its record and task number, and its address space, in which
one launch at a time tracks that record (R28). -/
def CocoonRead.isOf (r : CocoonRead) (t : SavedTask) : Bool :=
  let w (i : Nat) : Word := leWord r.state (8 * i)
  t.ctx == leAt r.header 6 2 && t.task.rcd == w 30 && t.seq == w 29 && t.space == .ofWords (w 32) (w 33) (w 34)

/-- The task that a cocoon belongs to, as the mill keeps it; one that the mill does not know has no launch. -/
def savedFor (s : State) (r : CocoonRead) : HeldTask :=
  ((s.mill.saved.find? r.isOf).map (·.task)).getD { launch := 0, rcd := leWord r.state (8 * 30), prio := 0, weight := 0 }

/-- A cocoon with the poison flags of its scales, which are kept beside it (R257; log entry 88). -/
def withFlags (s : State) (r : CocoonRead) : CocoonRead :=
  { r with flagged := ((s.mill.saved.find? r.isOf).map (·.flagged)).getD [] }

/-- The mill's list without the task of a cocoon. -/
def dropSaved (s : State) (r : CocoonRead) : State :=
  { s with mill := { s.mill with saved := s.mill.saved.filter fun t => !r.isOf t } }

/-- The dump of a loaded cocoon copied to TFREC + 0x2400 under the key of the task loaded. -/
def placeDump (s : State) (r : CocoonRead) : Except (Nat × Nat) State :=
  let x := s.cx
  if !hasFeature r.header 3 then .ok s
  else
    let n := r.convoys
    let d := r.dump.take (384 * n)
    let h := cocoonHeader x s.cur 0 8 (256 + d.length) 0 (leWord r.header 0x28) false n (heldSlots s s.cur)
    match writeAreas s (x.saverAcc s.cur) x.space.ckey.toNat (x.trap.frec.toNat + 0x2400) [(0, h ++ d)] with
    | .error e => .error e
    | .ok t => .ok (t.mapCx fun y =>
        { y with redump := (readDump d r.captured n).getD [], trap := { y.trap with cocoon := true } })

/-- The task of a cocoon that was read is on the current context, which goes on at supervisor level. -/
def adoptTask (r : CocoonRead) (next : Word) (s : State) : Except (Nat × Nat) State :=
  let h := savedFor s r
  let pc := leWord r.header 0x28
  let r := withFlags s r
  let t := loadCocoon (dropSaved s r) s.cur r pc
  let t := t.mapCx fun y =>
    { y.reportSave (leAt r.header 0x10 4) (leAt r.header 5 1) with
      pc := next, task := some h
      trap := { y.trap with epc := pc &&& 0x007FFFFFFFFFFFFC, pp := false, task := true, pol := y.cpol } }
  match placeDump t r with
  | .error e => .error e
  | .ok u => .ok (serveWaiting (weightChange u s.cur h.weight))

/-- CLOAD once its checks have passed: with the lanes it needs, or its wait for them (R227). Where the dump cannot be copied, it
takes that access's own trap with nothing changed (log entry 97). -/
def loadNow (r : BitVec 5) (va : Word) (h : List Byte) (s : State) : State :=
  let x := s.cx
  let a := x.saverAcc s.cur
  match readCocoon s a x.space.ckey.toNat va.toNat with
  | .error e => takeTrap (touchCocoon s a x.space.ckey.toNat va.toNat h) (accessTrap e.1 (BitVec.ofNat 64 e.2))
  | .ok k =>
    let need := min (leAt k.header 0x31 1) 16
    let have_ := x.lanes + s.freeLanes s.cur
    if have_ < need then tellWait (s.waitIn .cload (.cload r) [(need, 0)]) s.cur (need - have_)
    else match adoptTask k x.nextPc (touchCocoon s a x.space.ckey.toNat va.toNat h) with
      | .error e => takeTrap s (accessTrap e.1 (BitVec.ofNat 64 e.2))
      | .ok t => t

/-- CLOAD from its read of the header on (R238): a cocoon that lies outside the tile needs a plane (R210). -/
def loadFrom (r : BitVec 5) (s : State) : State :=
  let x := s.cx
  let va := x.reg r
  let a := x.saverAcc s.cur
  match readBlock s a (some x.space.ckey.toNat) va.toNat 256 with
  | .error e => takeTrap s (accessTrap e.1 (BitVec.ofNat 64 e.2))
  | .ok h =>
    let t := touchBlock s a .load (some x.space.ckey.toNat) va.toNat 256
    match headerFault h with
    | some v => takeTrap t (.issue 0x0E v)
    | none =>
      if parkedElsewhere h s.cur then takeTrap t (matrixTrap 0x0C)
      else if s.planesDead && extentLeavesTile s a x.space.ckey.toNat va.toNat (leAt h 0x10 4) then takeTrap s (.issue 0x14 0)
      else loadNow r va h t

/-- CLOAD (R238, R325). -/
def execCload (r : BitVec 5) (s : State) : Host.Outcome State Fault Refusal :=
  let x := s.cx
  if !x.sup then .next (takeTrap s (privilegeTrap (.cload r)))
  else if x.trap.task then .next (takeTrap s (.issue 0x0E 0x4000000000000000))
  else if (x.reg r).toNat % 2 ^ 20 ≠ 0 then .next (takeTrap s (.issue 0x04 (x.reg r)))
  else .next (loadFrom r s)

/-- CLOAD_LANE_GRANT (R238): lanes have come free. The cocoon is read and checked again, and the planes that it needs (log entry
97). -/
def execCloadLaneGrant (c : Nat) (s : State) : Host.Outcome State Fault Refusal :=
  if !ctxInRange c then .fault .noSuchPart
  else match (s.ctxAt c).wait with
    | some { kind := .cload, instr := .cload r, .. } =>
      if s.flows then .next (s.within c fun s => loadFrom r (s.mapCx fun x => { x with wait := none })) else .next s
    | _ => .next s

end Sys2Proof.Machine
end

