-- ==== Sys2Proof/Machine/Mill.lean ====
section
/-! DEFINITION. The mill's records: tracking, validation and readiness (R28 to R30, R34, R424), completion and
dependence counts (R38, R39), the walk (R31), requests of GSPAWN and GSIG (R40, R339, R340), and retirements
(R36, R38, R228). -/

namespace Sys2Proof.Machine

/-! ### Launches and records -/

/-- A launch that has not failed and is not being torn down. -/
def Launch.live (l : Launch) : Bool := l.failed.isNone && !l.tearing

/-- The live launch of a number. -/
def State.liveLaunch (s : State) (n : Nat) : Option Launch := (s.launch n).filter (·.live)

/-- Where a record lies, as a launch's space translates it. -/
def recPlace (s : State) (l : Launch) (va : Word) : Option Nat :=
  match resolve s l.acc .load va.toNat with
  | .ok p => some p.loc
  | .error _ => none

/-- The record at a place that the mill tracks: in any launch that is not yet over, a failed one included (R12, R28). -/
def trackedAt (s : State) (loc : Nat) : Option Rec :=
  s.mill.recs.find? fun r => (s.launch r.launch).bind (recPlace s · r.addr) == some loc

/-- The tracked record of a launch at an address. -/
def State.rcd (s : State) (n : Nat) (va : Word) : Option Rec :=
  s.mill.recs.find? fun r => r.launch == n && r.addr == va

/-- A change to one tracked record. -/
def State.mapRec (s : State) (n : Nat) (va : Word) (f : Rec → Rec) : State :=
  let recs := s.mill.recs.map fun r => if r.launch == n && r.addr == va then f r else r
  { s with mill := { s.mill with recs := recs } }

/-- A record that has just come to be tracked. -/
def Rec.fresh (n : Nat) (va : Word) : Rec :=
  { addr := va, launch := n, wasReady := false, readyNo := none, entry := 0, param := 0, ext := [], order := 0,
    blocking := [], prio := 0, cls := 0, lanes := 0, bands := 0, flags := 0, saveBase := 0, succCount := 0,
    succList := 0, dispatched := 0, retired := 0 }

/-- A record tracked in a launch. -/
def track (s : State) (n : Nat) (va : Word) : State :=
  { s with mill := { s.mill with recs := s.mill.recs ++ [Rec.fresh n va] } }

/-- The tasks of a record: the product of its extents (R29). -/
def Rec.total (r : Rec) : Nat := r.ext.foldl (· * ·) 1

/-! ### Validation (R25, R30, R424) -/

/-- The walk order's dimension numbers, innermost first. -/
def walkDims (order : Nat) : List Nat := (List.range 4).map fun k => order / 4 ^ k % 4

/-- The four dimensions stand each once. -/
def isPermutation (ds : List Nat) : Bool := (List.range 4).all ds.contains

/-- Whether a string is powered and whether it takes tasks, as the oldest message on its crossing gives them. -/
def seenString (k : Nat) (links : List LinkMsg) : Option (Bool × Bool) :=
  links.findSome? fun m => match m with
    | .string n p b => if n = k then some (p, b) else none
    | _ => none

/-- A string is powered and clocked as the mill knows: that it was powered may not have reached it (R46). -/
def State.powered (s : State) (k : Nat) : Bool :=
  (s.strAt k).rdy && ((seenString k s.mill.links).map (·.1)).getD true

/-- The strings that a record's tasks may use (R35). -/
def permitted (l : Launch) (confined : Bool) (k : Nat) : Bool := !confined || l.mask.getLsbD k

/-- The causes of R25 that a record's 128 bytes give. -/
def recordCauses (s : State) (l : Launch) (va : Nat) (b : List Byte) : List Nat :=
  let succ := leAt b 0x38 8
  let n := leAt b 0x34 4
  let bad (c : Bool) (cause : Nat) : List Nat := if c then [cause] else []
  let unwritable := match resolveBlock s l.acc .store none (pieces va (zeros 128)) with
    | .error _ => true
    | .ok _ => false
  let listBad := n ≠ 0 && (succ % 8 ≠ 0 || match readBlock s l.acc none succ (8 * n) with
    | .error _ => true
    | .ok _ => false)
  bad (bitOf (leAt b 0x29 1) 2 && (List.range 24).all fun k => !(permitted l true k && s.powered k)) 0x03
    ++ bad (va % 128 ≠ 0 || leAt b 0 8 % 4 ≠ 0 || leAt b 0x48 8 % 2 ^ 20 ≠ 0 || unwritable || listBad) 0x04
    ++ bad (!isPermutation (walkDims (leAt b 0x20 1)) || (List.range 4).any fun d => 31 < leAt b (0x21 + d) 1) 0x05
    ++ bad (31 < leAt b 0x25 1 || 7 < leAt b 0x26 1) 0x06
    ++ bad (leAt b 0x2A 1 ≠ 1) 0x07
    ++ bad (Config.features < leAt b 0x2B 1) 0x08
    ++ bad (2 ^ 64 ≤ (List.range 4).foldl (fun p d => p * leAt b (0x10 + 4 * d) 4) 1) 0x09
    ++ bad (16 < leAt b 0x27 1 || 4 < leAt b 0x28 1) 0x0B

/-- The lowest of some causes (R26). -/
def lowestCause : List Nat → Option Nat
  | [] => none
  | c :: cs => some (cs.foldl min c)

/-- A record's fields as the mill takes them when it becomes ready (R29, R30). -/
def Rec.load (r : Rec) (l : Launch) (b : List Byte) (no : Nat) : Rec :=
  let ext := (List.range 4).map fun d => leAt b (0x10 + 4 * d) 4
  { r with
    wasReady := true, readyNo := if ext.foldl (· * ·) 1 = 0 then none else some no
    entry := leWord b 0, param := leWord b 8, ext := ext, order := BitVec.ofNat 8 (leAt b 0x20 1)
    blocking := (List.range 4).map fun d => leAt b (0x21 + d) 1
    prio := min (leAt b 0x25 1) l.ceiling, cls := leAt b 0x26 1, lanes := leAt b 0x27 1, bands := leAt b 0x28 1
    flags := BitVec.ofNat 8 (leAt b 0x29 1), saveBase := leWord b 0x48, succCount := leAt b 0x34 4
    succList := leWord b 0x38, dispatched := 0, retired := 0 }

/-- A store of the mill to a dword of a record; one that fails fails the launch (R30, R424). R30 does not say what becomes of
a record whose store fails: the model goes on with its event (log entry 97). -/
def writeField (s : State) (l : Launch) (va : Word) (off v : Nat) : State :=
  match writeBlock s l.acc none (va.toNat + off) (valBytes 8 v) with
  | some t => t
  | none => s.failInCycle l.num 0x04

/-- The reads of a record and of its successor list that pass their checks set A, whatever else fails (R160). -/
def touchRecord (s : State) (l : Launch) (va : Nat) (b : List Byte) : State :=
  touchBlock (touchBlock s l.acc .load none va 128) l.acc .load none (leAt b 0x38 8) (8 * leAt b 0x34 4)

/-- A tracked record becomes ready: it is validated, and its counters are zeroed. It becomes ready also where a zeroing store
fails after the validation, and the launch then fails with 0x04 (log entry 97). -/
def makeReady (s : State) (n : Nat) (va : Word) : State :=
  match s.launch n with
  | none => s
  | some l =>
    match readBlock s l.acc none va.toNat 128 with
    | .error _ => s.failInCycle n 0x04
    | .ok b =>
      let t := touchRecord s l va.toNat b
      match lowestCause (recordCauses s l va.toNat b) with
      | some c => t.failInCycle n c
      | none =>
        let s := writeField (writeField t l va 0x40 0) l va 0x50 0
        let s := s.mapRec n va fun r => r.load l b s.mill.nextReady
        let s := { s with mill := { s.mill with nextReady := s.mill.nextReady + 1 } }
        if bitOf (leAt b 0x29 1) 0 then s else s.mapLaunch n fun l => { l with replayable := false }

/-! ### Dependence counts (R38, R40) -/

/-- What the mill still has to do within one event. -/
inductive MillAct where
  /-- A root-list entry (R28). -/
  | root (n : Nat) (va : Word)
  /-- A GSPAWN (R40). -/
  | spawn (n : Nat) (va : Word)
  /-- A decrement by a completion or a GSIG (R38, R40). -/
  | signal (n : Nat) (va : Word)
  /-- A tracked record becomes ready (R30). -/
  | ready (n : Nat) (va : Word)
  /-- A record completes (R38). -/
  | complete (n : Nat) (va : Word)
  /-- A record's MSI-X message (R30). -/
  | notify (n : Nat)

/-- The launch that an action belongs to. -/
def MillAct.launch : MillAct → Nat
  | .root n _ | .spawn n _ | .signal n _ | .ready n _ | .complete n _ | .notify n => n

/-- The action is a record's completion. -/
def MillAct.isCompletion : MillAct → Bool
  | .complete _ _ => true
  | .root _ _ | .spawn _ _ | .signal _ _ | .ready _ _ | .notify _ => false

/-- How a write to a page counts for replay, whatever its level (R250). -/
def pageClass (s : State) (p : Place) : WriteClass :=
  match p.page with
  | none => .uncounted
  | some e => if e.node = s.node && e.size = 16 && e.shd then .versioned else .unversioned

/-- The decrement of a count at its home: the old count, or none where it cannot be reached. -/
def decrement (s : State) (l : Launch) (va : Word) : Option (Nat × State) :=
  match resolve s l.acc .atomic (va.toNat + 0x30) with
  | .error _ => none
  | .ok p =>
    let old := bytesVal (fetchBytes s.keys s.mem p.loc p.key p.enc 4)
    let s := touch s l.acc .atomic p
    if old = 0 then some (0, s)
    else
      let w := { p.write 0 (valBytes 4 (old - 1)) with cls := pageClass s p }
      some (old, performAt (countWrite s l.num w) w)

/-- A root-list entry: a record that no launch tracks comes into this one and becomes ready. -/
def actRoot (s : State) (l : Launch) (va : Word) : List MillAct × State :=
  match recPlace s l va with
  | none => ([], s.failInCycle l.num 0x04)
  | some loc =>
    if (trackedAt s loc).isSome then ([], s.failInCycle l.num 0x0A)
    else ([.ready l.num va], track s l.num va)

/-- GSPAWN at the mill. -/
def actSpawn (s : State) (l : Launch) (va : Word) : List MillAct × State :=
  match recPlace s l va with
  | none => ([], s.failInCycle l.num 0x04)
  | some loc =>
    if (trackedAt s loc).isSome then ([], s.failInCycle l.num 0x0A)
    else match readBlock s l.acc none (va.toNat + 0x30) 4 with
      | .error _ => ([], s.failInCycle l.num 0x04)
      | .ok b =>
        (if bytesVal b = 0 then [.ready l.num va] else [],
          track (touchBlock s l.acc .load none (va.toNat + 0x30) 4) l.num va)

/-- A decrement, by a completion or a GSIG. A record that has been ready since it was tracked is not readied again. -/
def actSignal (s : State) (l : Launch) (va : Word) : List MillAct × State :=
  if va.toNat % 128 ≠ 0 then ([], s.failInCycle l.num 0x04)
  else match recPlace s l va, decrement s l va with
    | some loc, some (old, t) =>
      if old = 0 then ([], t.failInCycle l.num 0x0C)
      else match trackedAt t loc with
        | some r => (if old = 1 && !r.wasReady then [.ready r.launch r.addr] else [], t)
        | none => (if old = 1 then [.ready l.num va] else [], track t l.num va)
    | _, _ => ([], s.failInCycle l.num 0x04)

/-- A record completes: it is tracked no more, its successors are decremented in list order, and its message follows. A list
that is read only in part decrements none of them, and the message is sent all the same (R30, R38; log entry 97). -/
def actComplete (s : State) (l : Launch) (va : Word) : List MillAct × State :=
  match s.rcd l.num va with
  | none => ([], s)
  | some r =>
    let recs := s.mill.recs.filter fun k => !(k.launch == l.num && k.addr == va)
    let s := { s with mill := { s.mill with recs := recs } }
    let after_ : List MillAct := if r.flags.getLsbD 1 then [.notify l.num] else []
    if r.succCount = 0 then (after_, s)
    else if r.succList.toNat % 8 ≠ 0 then (after_, s.failInCycle l.num 0x04)
    else match readBlock s l.acc none r.succList.toNat (8 * r.succCount) with
      | .error _ => (after_, s.failInCycle l.num 0x04)
      | .ok b =>
        let s := touchBlock s l.acc .load none r.succList.toNat (8 * r.succCount)
        ((List.range r.succCount).map (fun i => .signal l.num (leWord b (8 * i))) ++ after_, s)

/-- One action: what follows it, and the state after it. A failure stops the dispatching of a launch's tasks and nothing else
(R26): its records still become ready and complete, and requests still act (log entry 76). But the root entries behind one that
failed the launch are not made ready (R28). -/
def millAct (a : MillAct) (s : State) : List MillAct × State :=
  match s.launch a.launch with
  | none => ([], s)
  | some l =>
    match a with
    | .root _ va => if l.live then actRoot s l va else ([], s)
    | .spawn _ va => actSpawn s l va
    | .signal _ va => actSignal s l va
    | .ready n va =>
      let t := makeReady s n va
      (match t.rcd n va with
        | some r => if r.wasReady && r.total = 0 then [.complete n va] else []
        | none => [], t)
    | .complete _ va => actComplete s l va
    | .notify _ => ([], s.msixTo l.master 1)

/-- Actions one after another, what follows each before the next; but a record that completes as soon as it is ready does so
behind the actions that the event began with, so that those it readies come after the ones that the event itself does (R34). -/
def runActs : Nat → List MillAct → State → State
  | 0, _, s => s
  | _ + 1, [], s => s
  | fuel + 1, a :: rest, s =>
    let r := millAct a s
    runActs fuel (r.1.filter (!·.isCompletion) ++ rest ++ r.1.filter (·.isCompletion)) r.2

/-- More than the actions of any one event: each decrement takes 1 from one of fewer than 2^48 counts below 2^32. -/
def millFuel : Nat := 2 ^ 96

/-! ### The end of a mill event -/

/-- A task of a launch holds a context, is on its way back, or is saved (R39, R231). -/
def runningOf (s : State) (n : Nat) : Bool :=
  s.ctxs.any (fun e => (e.2.task.map (·.launch)) == some n) || s.mill.ends.any (·.task.launch == n)
    || s.mill.saved.any (·.task.launch == n)

/-- The launch has a ready record. -/
def readyOf (s : State) (n : Nat) : Bool := s.mill.recs.any fun r => r.launch == n && r.readyNo.isSome

/-- A tracked record of the launch has a dependence count that is not zero, or one that cannot be read. -/
def blockedOf (s : State) (l : Launch) : Bool :=
  s.mill.recs.any fun r => r.launch == l.num && match readBlock s l.acc none (r.addr.toNat + 0x30) 4 with
    | .ok b => bytesVal b != 0
    | .error _ => true

/-- The dependence count of a tracked record of the launch cannot be read (R424). -/
def unreadableOf (s : State) (l : Launch) : Bool :=
  s.mill.recs.any fun r => r.launch == l.num && match readBlock s l.acc none (r.addr.toNat + 0x30) 4 with
    | .ok _ => false
    | .error _ => true

/-- A graph that has stalled fails its launch (R39); a count that the mill cannot read then fails it as a translation that
fails later does (R424). -/
def checkStalls (s : State) : State :=
  s.mill.launches.foldl (fun s l =>
    if l.live && !readyOf s l.num && !runningOf s l.num && blockedOf s l then
      s.failLaunch l.num (if unreadableOf s l then 0x04 else 0x0D)
    else s) s

/-- A record has a ready iteration. -/
def stillReady (s : State) (k : Nat × Word) : Bool := ((s.rcd k.1 k.2).bind (·.readyNo)).isSome

/-- Notices made for records that have no ready iteration any more are no longer outstanding (R225). -/
def Context.dropNotices (x : Context) (s : State) : Context :=
  match x.notice with
  | none => x
  | some n =>
    let recs := n.recs.filter (stillReady s)
    { x with notice := if recs.isEmpty then none else some { n with recs := recs } }

/-- A cap that a notice lowered returns to 16 where priority P holds no ready record and no task was dispatched onto
the core since (R228). -/
def Context.capReturns (x : Context) (s : State) : Context :=
  match x.capBack with
  | some { prio := p, on := none } =>
    if s.mill.recs.any fun r => r.readyNo.isSome && r.prio == p then x else { x with cap := 16, capBack := none }
  | _ => x

/-- What the mill sees to at the end of every event. -/
def settleMill (s : State) : State :=
  let s := checkStalls s
  let ctxs := s.ctxs.map fun e => (e.1, (e.2.dropNotices s).capReturns s)
  { s with ctxs := ctxs }

/-- The causes of launches that had failed before an event stand: the lowest cause is recorded among those of one event
alone (R26). -/
def keepCauses (before : State) (s : State) : State :=
  before.mill.launches.foldl (fun t l =>
    if l.failed.isSome then t.mapLaunch l.num fun k => { k with failed := l.failed } else t) s

/-- The actions of one event. -/
def runEvent (acts : List MillAct) (s : State) : State := keepCauses s (runActs millFuel acts s)

/-- An event of the mill that does some actions. -/
def millEvent (acts : List MillAct) (s : State) : State := settleMill (runEvent acts s)

/-! ### The walk (R31) -/

/-- The extent of block B of a dimension of extent e in blocks of b. -/
def blockLen (e b blk : Nat) : Nat := min b (e - blk * b)

/-- The indices of the iteration of linear number n, by dimension number: the block of each dimension from the
outermost in, and then the place in the blocks. -/
def walkAt (ext : List Nat) (order : Nat) (blocking : List Nat) (n : Nat) : List Nat :=
  let d (k : Nat) : Nat := order / 4 ^ k % 4
  let e (k : Nat) : Nat := ext.getD (d k) 0
  let b (k : Nat) : Nat := 2 ^ blocking.getD (d k) 0
  let u3 := b 3 * e 2 * e 1 * e 0
  let B3 := n / u3
  let l3 := blockLen (e 3) (b 3) B3
  let n2 := n % u3
  let u2 := l3 * b 2 * e 1 * e 0
  let B2 := n2 / u2
  let l2 := blockLen (e 2) (b 2) B2
  let n1 := n2 % u2
  let u1 := l3 * l2 * b 1 * e 0
  let B1 := n1 / u1
  let l1 := blockLen (e 1) (b 1) B1
  let n0 := n1 % u1
  let u0 := l3 * l2 * l1 * b 0
  let B0 := n0 / u0
  let l0 := blockLen (e 0) (b 0) B0
  let m := n0 % u0
  let i (k : Nat) : Nat :=
    match k with
    | 3 => B3 * b 3 + m / (l2 * l1 * l0)
    | 2 => B2 * b 2 + m / (l1 * l0) % l2
    | 1 => B1 * b 1 + m / l0 % l1
    | _ => B0 * b 0 + m % l0
  (List.range 4).map fun dim => ((List.range 4).find? fun k => d k == dim).elim 0 i

/-! ### Requests of contexts (R40) -/

/-- The mill accepts a request: the instruction retires. One of a context without a task asks for nothing. -/
def acceptRequest (c : Nat) (act : Nat → Word → MillAct) (va : Word) (s : State) : State :=
  let n := (s.ctxAt c).launchNo
  millEvent [act n va] (s.within c fun s => s.mapCx (·.retire))

/-- SPAWN_REQUEST (R40, R339). -/
def execSpawnRequest (c : Nat) (s : State) : Host.Outcome State Fault Refusal :=
  if !ctxInRange c then .fault .noSuchPart
  else match (s.ctxAt c).wait with
    | some { kind := .mill, instr := .gspawn r, .. } => .next (acceptRequest c .spawn ((s.ctxAt c).reg r) s)
    | _ => .next s

/-- SIGNAL_REQUEST (R40, R339). -/
def execSignalRequest (c : Nat) (s : State) : Host.Outcome State Fault Refusal :=
  if !ctxInRange c then .fault .noSuchPart
  else match (s.ctxAt c).wait with
    | some { kind := .mill, instr := .gsig r, .. } => .next (acceptRequest c .signal ((s.ctxAt c).reg r) s)
    | _ => .next s

/-! ### Retirements (R36, R38) -/

/-- A message of a core's crossing that is not about its lanes reaches the mill (R227). -/
def hearMsg (s : State) : LinkMsg → State
  | .wait c short => lowerCap s c short
  | .vrel c => restoreCap s c
  | .core .. | .tile .. | .string .. => s

/-- A message comes from a part. -/
def LinkMsg.from_ (m : LinkMsg) (p : MillPart) : Bool :=
  match p, m with
  | .core n, _ => m.core? == some n
  | .tile n, .tile k _ => k == n
  | .string n, .string k _ _ => k == n
  | _, _ => false

/-- The oldest message that is on its way from a part reaches the mill (R46). -/
def millHears (p : MillPart) (s : State) : State :=
  match s.mill.links.find? (·.from_ p) with
  | none => s
  | some m => hearMsg { s with mill := { s.mill with links := s.mill.links.erase m } } m

/-- Caps that the end of a context's task gives back: one its wait lowered, and one a notice lowered for it
(R227, R228). -/
def capsAfter (s : State) (c : Nat) : State :=
  let s := restoreCap s c
  let o := siblingOf c
  let y := s.ctxAt o
  match y.capBack with
  | some { on := some d, .. } => if d = c then s.setCtx o { y with cap := 16, capBack := none } else s
  | _ => s

/-- The TEND retirement that reaches the mill next: of the lowest context number (R34). -/
def firstEnd : List EndMsg → Option EndMsg
  | [] => none
  | e :: es =>
    match firstEnd es with
    | none => some e
    | some f => if f.ctx < e.ctx then some f else some e

/-- An iteration of a record is retired, also in a launch that has failed meanwhile (R30): the record's retired field
counts every task that ended by TEND (R26). -/
def retireIteration (s : State) (h : HeldTask) : State :=
  match s.launch h.launch, s.rcd h.launch h.rcd with
  | some l, some r =>
    let t := (writeField s l r.addr 0x40 (r.retired + 1)).mapRec l.num r.addr fun r => { r with retired := r.retired + 1 }
    keepCauses s (if r.retired + 1 = r.total then runActs millFuel [.complete l.num r.addr] t else t)
  | _, _ => s

/-- A TEND retirement reaches the mill. -/
def retireEnd (s : State) (e : EndMsg) : State :=
  let s := { s with mill := { s.mill with ends := s.mill.ends.erase e } }
  settleMill (retireIteration (capsAfter (weightChange s e.ctx e.task.weight) e.ctx) e.task)

/-- TEND_RETIREMENT (R36, R38). -/
def execTendRetirement (s : State) : Host.Outcome State Fault Refusal :=
  match firstEnd s.mill.ends with
  | none => .next s
  | some e => .next (retireEnd s e)

/-- The retirement of one context's TEND reaches the mill before others that are on their way: the crossing to the mill's
clock takes a time that nothing fixes (R46). -/
def endArrives (c : Nat) (s : State) : State :=
  match s.mill.ends.find? (·.ctx == c) with
  | some e => retireEnd s e
  | none => s

end Sys2Proof.Machine
end

