-- ==== Sys2Proof/Machine/MillPick.lean ====
section
/-! DEFINITION. A dispatch pick: restores (R230), the choice of a record and of a context (R34 to R36, R45), and
pre-emption notices (R225 to R228). -/

namespace Sys2Proof.Machine

/-! ### Levels and turns (R34, R35) -/

/-- The saved tasks that the mill may restore, oldest first, with their launches and records (R230). -/
def wholeSaves (s : State) : List (SavedTask × Launch × Rec) :=
  s.mill.saved.filterMap fun t =>
    if !t.whole then none
    else match s.liveLaunch t.task.launch, s.rcd t.task.launch t.task.rcd with
      | some l, some r => some (t, l, r)
      | _, _ => none

/-- A record put in its place in readiness order. -/
def insertReady (r : Launch × Rec) : List (Launch × Rec) → List (Launch × Rec)
  | [] => [r]
  | q :: qs =>
    if r.2.readyNo.getD 0 < q.2.readyNo.getD 0 then r :: q :: qs else q :: insertReady r qs

/-- The ready records of live launches, in readiness order. -/
def readyRecs (s : State) : List (Launch × Rec) :=
  (s.mill.recs.filterMap fun r =>
    if r.readyNo.isNone then none else (s.liveLaunch r.launch).map fun l => (l, r)).foldr insertReady []

/-- The highest non-empty priority: of ready records and of tasks saved whole (R34, R230). -/
def topLevel (s : State) : Option Nat :=
  match (readyRecs s).map (·.2.prio) ++ (wholeSaves s).map (·.1.task.prio) with
  | [] => none
  | p :: ps => some (ps.foldl max p)

/-- The ready records of a level in turn order: after the one that last received an iteration, and round again. -/
def turnOrder (s : State) (p : Nat) : List (Launch × Rec) :=
  let level := (readyRecs s).filter (·.2.prio == p)
  let from_ := tabGet 0 s.mill.turns p
  level.filter (fun r => from_ ≤ r.2.readyNo.getD 0) ++ level.filter fun r => r.2.readyNo.getD 0 < from_

/-! ### Contexts (R35, R36) -/

/-- A context holds a task in the mill's view, or a handler runs on it. -/
def inMillView (s : State) (c : Nat) : Bool := (s.ctxAt c).busy || s.mill.ends.any (·.ctx == c)

/-- A string takes dispatches and restores (R35, R289). -/
def Str.takesTasks (t : Str) : Bool := t.rdy && !t.hold

/-- The bands of a tile that are attached to no context and parked for no task. -/
def freeBands (s : State) (tile : Nat) : Nat := ((s.tileAt tile).bands.toList.filter (·.isNone)).length

/-! ### What the mill sees (R46) -/

/-- A context that the mill takes to be busy: one that it has given a task, or whose becoming free has not reached it. -/
def busySeen (s : State) (c : Nat) : Bool :=
  inMillView s c || match seenCore (coreOf c) s.mill.links with
    | none => false
    | some (_, b) => if c % 2 = 0 then b.1 else b.2

/-- The lanes of a context's core that the mill takes to be free. -/
def freeSeen (s : State) (c : Nat) : Nat := 16 - lanesSeen s c - lanesSeen s (siblingOf c)

/-- The free bands of a tile as the mill knows them. -/
def bandsSeen (s : State) (tile : Nat) : Nat :=
  match s.mill.links.findSome? fun m => match m with
    | .tile n b => if n = tile then some b else none
    | _ => none with
  | none => freeBands s tile
  | some b => b

/-- A string takes tasks as the mill knows: that it was held, released or powered may not have reached it. -/
def takesSeen (s : State) (k : Nat) : Bool :=
  (s.strAt k).rdy && match seenString k s.mill.links with
  | none => (s.strAt k).takesTasks
  | some (_, b) => b

/-- The state of a part as it stands comes onto its crossing: until it has passed, the mill sees that one (R46). -/
def millLags (p : MillPart) (s : State) : State :=
  s.sendMill (match p with
    | .core n => .core n (s.ctxAt (2 * n)).lanes (s.ctxAt (2 * n + 1)).lanes (inMillView s (2 * n)) (inMillView s (2 * n + 1))
    | .tile n => .tile n (freeBands s n)
    | .string n => .string n (s.strAt n).rdy (s.strAt n).takesTasks)

/-- The mill knows at once of the lanes that a restore gives a context, whatever is still on the core's crossing. -/
def LinkMsg.given (c lanes : Nat) : LinkMsg → LinkMsg
  | .core n a b p q =>
    if n ≠ coreOf c then .core n a b p q
    else if c % 2 = 0 then .core n lanes b p q
    else .core n a lanes p q
  | m => m

/-- A restore has given a context its lanes. -/
def giveLanes (s : State) (c : Nat) : State :=
  { s with mill := { s.mill with links := s.mill.links.map (.given c (s.ctxAt c).lanes) } }

/-- A context is eligible for a record (R35 step 3). -/
def eligible (s : State) (l : Launch) (r : Rec) (c : Nat) : Bool :=
  !busySeen s c && takesSeen s (strOf c) && permitted l (r.flags.getLsbD 2) (strOf c)
    && r.lanes ≤ freeSeen s c && r.bands ≤ bandsSeen s (tileOf c)

/-- Context c comes before context d by steps 4 to 6 of R35. -/
def comesBefore (s : State) (c d : Nat) : Bool :=
  let sc := stringWeight s (strOf c)
  let sd := stringWeight s (strOf d)
  if sc ≠ sd then sc < sd
  else if strOf c ≠ strOf d then strOf c < strOf d
  else
    let tc := tileWeight s (tileOf c)
    let td := tileWeight s (tileOf d)
    if tc ≠ td then tc < td else c < d

/-- The first of some contexts by an order. -/
def firstBy (before : Nat → Nat → Bool) : List Nat → Option Nat
  | [] => none
  | c :: cs =>
    match firstBy before cs with
    | none => some c
    | some d => if before d c then some d else some c

/-- Every context of the module. -/
def allContexts : List Nat := List.range 768

/-- The context that a record's next iteration goes to. -/
def chooseContext (s : State) (l : Launch) (r : Rec) : Option Nat :=
  firstBy (comesBefore s) (allContexts.filter (eligible s l r))

/-- The record and context of a pick: level by level downward, each in turn order (R35 steps 1, 7). -/
def chooseFrom (s : State) : List (Launch × Rec) → Option (Launch × Rec × Nat)
  | [] => none
  | (l, r) :: rest =>
    match chooseContext s l r with
    | some c => some (l, r, c)
    | none => chooseFrom s rest

def choose (s : State) : Option (Launch × Rec × Nat) :=
  chooseFrom s ((List.range 32).reverse.flatMap (turnOrder s))

/-! ### Dispatch (R30, R32, R35, R36) -/

/-- The class weight of a balance class (R37). -/
def classWeight (s : State) (cls : Nat) : Nat := s.host.clsw.toNat / 256 ^ cls % 256

/-- The first task dispatched onto a core after a notice to its other context is the one whose end gives the cap back
(R228). -/
def markDispatch (s : State) (c : Nat) : State :=
  let o := siblingOf c
  let y := s.ctxAt o
  match y.capBack with
  | some { prio := p, on := none } => s.setCtx o { y with capBack := some { prio := p, on := some c } }
  | _ => s

/-- A record's next iteration is given to a context. -/
def dispatch (s : State) (l : Launch) (r : Rec) (c : Nat) : State :=
  match writeBlock s l.acc none (r.addr.toNat + 0x50) (valBytes 8 (r.dispatched + 1)) with
  | none => s.failLaunch l.num 0x04
  | some s =>
    let w := classWeight s r.cls
    let i : StartInfo := { idx := walkAt r.ext r.order.toNat r.blocking r.dispatched, seq := r.dispatched,
                           entry := r.entry, param := r.param, space := l.space }
    let h : HeldTask := { launch := l.num, rcd := r.addr, prio := r.prio, weight := w }
    let s := s.setCtx c { s.ctxAt c with task := some h, start := some i }
    let s := { s with mill := { s.mill with turns := tabSet s.mill.turns r.prio (r.readyNo.getD 0 + 1) } }
    let s := s.mapRec l.num r.addr fun q =>
      { q with dispatched := r.dispatched + 1, readyNo := if r.dispatched + 1 = r.total then none else q.readyNo }
    weightChange (markDispatch s c) c w

/-! ### Restores (R230) -/

/-- The oldest task saved whole at the highest non-empty level, where it may be restored now: the lanes must be free in fact,
too, since the restore takes them. -/
def restorable (s : State) : Option (SavedTask × Launch × Rec) :=
  match (wholeSaves s).find? fun t => topLevel s == some t.1.task.prio with
  | none => none
  | some t =>
    let c := t.1.ctx
    if !busySeen s c && takesSeen s (strOf c) && t.1.lanes ≤ min (freeSeen s c) (s.freeLanes c) then some t else none

/-- A task saved whole is put back onto its context and goes on at user level; a cocoon that fails the checks of R238
fails the launch. The marks of a handler that ran on the context before are gone: pp, inh and cocoon are clear (log entry
95). -/
def restoreTask (s : State) (t : SavedTask) (l : Launch) (r : Rec) : State :=
  let c := t.ctx
  let a : Acc := { space := t.space, sup := true, ctx := c }
  let va := r.saveBase.toNat + c * 2 ^ 20
  match readBlock s a (some t.space.ckey.toNat) va 256 with
  | .error _ => s.failLaunch l.num 0x0E
  | .ok h =>
    let s := touchBlock s a .load (some t.space.ckey.toNat) va 256
    if (headerFault h).isSome || parkedElsewhere h c then s.failLaunch l.num 0x0E
    else match readCocoon s a t.space.ckey.toNat va with
    | .error _ => (touchCocoon s a t.space.ckey.toNat va h).failLaunch l.num 0x0E
    | .ok k =>
      let pc := leWord h 0x28
      let s := loadCocoon (touchCocoon s a t.space.ckey.toNat va h) c { k with flagged := t.flagged } pc
      let x := s.ctxAt c
      let s := s.setCtx c { x with
        pc := pc, sup := false, task := some t.task, cap := 16, evict := false, redump := [], rewaits := if t.inWait then some pc else none
        trap := { x.trap with pp := false, inh := false, cocoon := false, task := true } }
      let s := { s with mill := { s.mill with saved := s.mill.saved.erase t } }
      serveWaiting (weightChange (giveLanes s c) c t.task.weight)

/-! ### Notices (R225, R226) -/

/-- A notice made for a record is outstanding. -/
def noticed (s : State) (l : Launch) (r : Rec) : Bool :=
  s.ctxs.any fun e => match e.2.notice with
    | some n => n.recs.contains (l.num, r.addr)
    | none => false

/-- A context is a candidate of a notice, but for the conditions of its form. -/
def candidate (s : State) (l : Launch) (r : Rec) (c : Nat) : Bool :=
  let x := s.ctxAt c
  match x.task with
  | none => false
  | some h =>
    x.start.isNone && !x.evict && !x.saving && !x.ended && (s.strAt (strOf c)).rdy
      && permitted l (r.flags.getLsbD 2) (strOf c)
      && h.prio + (s.coreAt (coreOf c)).preemptd.toNat ≤ r.prio

/-- The lanes of a context may be reclaimed for a record. -/
def reclaims (s : State) (r : Rec) (c : Nat) : Bool :=
  !busySeen s (siblingOf c) && r.lanes ≤ 15 && 16 - r.lanes < (s.ctxAt c).cap.toNat
    && r.bands ≤ bandsSeen s (tileOf c)

/-- A context's task may be evicted for a record: its own bands stay with it (R239). -/
def evicts (s : State) (r : Rec) (c : Nat) : Bool :=
  r.lanes ≤ 16 - lanesSeen s (siblingOf c) && r.bands ≤ bandsSeen s (tileOf c)

/-- The lowest priority first, then the order of R35. -/
def victimBefore (s : State) (c d : Nat) : Bool :=
  let p (c : Nat) : Nat := ((s.ctxAt c).task.map (·.prio)).getD 0
  if p c ≠ p d then p c < p d else comesBefore s c d

/-- The victim of a notice for a record, and whether it is evicted. -/
def chooseVictim (s : State) (l : Launch) (r : Rec) : Option (Nat × Bool) :=
  let cs := allContexts.filter (candidate s l r)
  match firstBy (victimBefore s) (cs.filter (reclaims s r)) with
  | some c => some (c, false)
  | none => (firstBy (victimBefore s) (cs.filter (evicts s r))).map fun c => (c, true)

/-- The records of the highest level that this pick passes over, in turn order. -/
def passedOver (s : State) : List (Launch × Rec) :=
  match topLevel s with
  | none => []
  | some p => (turnOrder s p).takeWhile fun r => (chooseContext s r.1 r.2).isNone

/-- The notice that a pick makes: for the first record it passes over that has none outstanding. -/
def chooseNotice (s : State) : Option (Launch × Rec × Nat × Bool) :=
  match (passedOver s).find? fun r => !noticed s r.1 r.2 && (chooseVictim s r.1 r.2).isSome with
  | none => none
  | some (l, r) => (chooseVictim s l r).map fun v => (l, r, v)

/-- A notice: the victim's LANECAP and user interrupt 0x04. Notices that stand on one victim share one count of convoys, which
begins with the first of them (R226; log entry 97). -/
def giveNotice (s : State) (l : Launch) (r : Rec) (c : Nat) (evict : Bool) : State :=
  let x := s.ctxAt c
  let cap := if evict then x.cap else BitVec.ofNat 5 (min x.cap.toNat (16 - r.lanes))
  let old := x.notice.getD { recs := [], evict := false, convoys := 0 }
  let y := { x with
    cap := cap, evict := x.evict || evict
    capBack := if evict then x.capBack else some { prio := r.prio, on := none }
    notice := some { recs := old.recs ++ [(l.num, r.addr)], evict := old.evict || evict, convoys := old.convoys } }
  s.setCtx c (y.raise 0x04 (if evict then 0 else cap.setWidth 64))

/-! ### The pick -/

/-- One pick: a restore, a notice for a record that is passed over, and an iteration dispatched. -/
def pick (s : State) : State :=
  let s := match restorable s with
    | some (t, l, r) => restoreTask s t l r
    | none => s
  let s := match chooseNotice s with
    | some (l, r, c, e) => giveNotice s l r c e
    | none => s
  match choose s with
  | some (l, r, c) => dispatch s l r c
  | none => s

/-- A pick would change something. -/
def pickable (s : State) : Bool := (restorable s).isSome || (chooseNotice s).isSome || (choose s).isSome

/-- DISPATCH_PICK (R35). -/
def execDispatchPick (s : State) : Host.Outcome State Fault Refusal :=
  if pickable s then .next (settleMill (pick s)) else .next s

end Sys2Proof.Machine
end

