-- ==== Sys2Proof/Machine/Waits.lean ====
section
/-! DEFINITION. Waits that end and writes that are performed: FENCE_WAIT_END (R185, R186 ordering), the events of
committed and never-held writes (R181, R182, R189, R361), and VSHAPE_LANE_GRANT (R77). -/

namespace Sys2Proof.Machine

/-! ### FENCE and releases -/

/-- The rest of an instruction that waits in order_before, with the translation that it has, or none for any other. -/
def pendingOf (i : Instr) (place : Option Place) : Option Pending :=
  let atomic (op : AtomicOp) (d b : BitVec 5) (p : BitVec 3) (u : BitVec 1) : Option Pending :=
    place.map (atomicRest op d b p u)
  match i with
  | .fence m p => some (.plain (fenceOrder m p) (·.mapCx (·.retire)))
  | .stRel _ b p u => place.map (releaseRest b p u)
  | .amoAdd d _ b p u => atomic amoAddOp d b p u
  | .amoAnd d _ b p u => atomic amoAndOp d b p u
  | .amoOr d _ b p u => atomic amoOrOp d b p u
  | .amoXor d _ b p u => atomic amoXorOp d b p u
  | .amoMin d _ b p u => atomic amoMinOp d b p u
  | .amoMax d _ b p u => atomic amoMaxOp d b p u
  | .amoMinZ d _ b p u => atomic amoMinZOp d b p u
  | .amoMaxZ d _ b p u => atomic amoMaxZOp d b p u
  | .amoSwap d _ b p u => atomic amoSwapOp d b p u
  | .amoFadd d _ b p u => atomic amoFaddOp d b p u
  | .cas d _ b p u => atomic casOp d b p u
  | .gspawn _ => some (.plain (.all 4) fun s => s.waitIn .mill i [])
  | .gsig _ => some (.plain (.all 4) fun s => s.waitIn .mill i [])
  | .tlbinv _ _ => some (.plain (.all 5) fun s => s.waitIn .tlbinv i [])
  | _ => none

/-- The wait of the current context in order_before can go on: no save of it is due (R226). -/
def fenceReady (s : State) : Bool :=
  match s.cx.wait with
  | some { kind := .order, instr := i, marks := ms, place := p } =>
    match pendingOf i p with
    | some q => s.flows && !saveDue s s.cur && q.goesOn s ms
    | none => false
  | _ => false

/-- It goes on. -/
def fenceOn (s : State) : State :=
  match s.cx.wait with
  | some { kind := .order, instr := i, marks := ms, place := p } =>
    match pendingOf i p with
    | some q => q.goOn i ms s
    | none => s
  | _ => s

/-- FENCE_WAIT_END (R185). -/
def execFenceWaitEnd (c : Nat) (s : State) : Host.Outcome State Fault Refusal :=
  if !ctxInRange c then .fault .noSuchPart
  else if fenceReady { s with cur := c } then .next (s.within c fenceOn)
  else .next s

/-! ### Writes are performed -/

/-- BUFFERED_WRITE_PERFORM (R181, R182, R189). -/
def execBufferedWritePerform (c n : Nat) (s : State) : Host.Outcome State Fault Refusal :=
  if !ctxInRange c then .fault .noSuchPart
  else .next (if mayPerform s c n then performIdx s c n else s)

/-- UNHELD_WRITE_PERFORM (R361): the write of a release store or an item of VCAPP takes its turn among the committed
writes of its context. -/
def execUnheldWritePerform (c n : Nat) (s : State) : Host.Outcome State Fault Refusal :=
  if !ctxInRange c then .fault .noSuchPart
  else .next (if mayPerform s c n then performIdx s c n else s)

/-! ### VSHAPE waits for lanes -/

/-- A VSHAPE of the current context that waits finds a lane (R77). -/
def lanesReady (s : State) : Bool :=
  match s.cx.wait with
  | some { kind := .lanes, instr := .vshape .., .. } => s.flows && !saveDue s s.cur && 0 < s.freeLanes s.cur
  | _ => false

/-- The VSHAPE is granted: it retires with the rows that it wanted when its wait began, as far as lanes are free. -/
def lanesOn (s : State) : State :=
  match s.cx.wait with
  | some { instr := .vshape d a b e g t u, marks := (want, _) :: _, .. } =>
    takeLanes (.vshape d a b e g t u) (shapeReq d a b e g t u s.cx) (min want 32) (s.mapCx fun x => { x with wait := none })
  | _ => s

/-- VSHAPE_LANE_GRANT (R77). -/
def execVshapeLaneGrant (c : Nat) (s : State) : Host.Outcome State Fault Refusal :=
  if !ctxInRange c then .fault .noSuchPart
  else if lanesReady { s with cur := c } then .next (s.within c lanesOn)
  else .next s

end Sys2Proof.Machine
end

