-- ==== Sys2Proof/Machine/Saves.lean ====
section
/-! DEFINITION. Whole saves (R226, R229, R240) and tasks that are ended by the mill or the device runtime (R26, R220,
R249). -/

namespace Sys2Proof.Machine

/-! ### Whole saves -/

/-- Issue stops for a whole save, and the strip is committed, forced (R81, R229). -/
def startSave (c : Nat) (s : State) : State := s.within c fun s => stopForSave (forceCommit (withdraw c s))

/-- PREEMPTWIN_EXPIRY (R226). -/
def execPreemptwinExpiry (c : Nat) (s : State) : Host.Outcome State Fault Refusal :=
  if !ctxInRange c then .fault .noSuchPart
  else .next (if saveDue s c && s.flows then startSave c s else s)

/-- The save of a context may be finished: its writes are performed and its channels rest (R229). -/
def saveReady (s : State) (c : Nat) : Bool :=
  let x := s.ctxAt c
  x.saving && !x.sup && !x.stopped && x.qfault.isNone && x.queue.isEmpty && x.pend.isEmpty && x.channelsRest && s.flows
    && (s.liveLaunch x.launchNo).isSome

/-- A save that cannot write its cocoon is a double trap (R220, R229). -/
def failSave (s : State) : State := s.mapCx fun x => { x with stopped := true, saving := false }

/-- The cocoon of kind 1 is written, and the context is free. -/
def finishSave (s : State) : State :=
  let x := s.cx
  match s.rcd x.launchNo ((x.task.map (·.rcd)).getD 0) with
  | none => failSave s
  | some r =>
    match saveTask s 1 (r.saveBase.toNat + s.cur * 2 ^ 20) x.pc none with
    | .error _ => failSave s
    | .ok t => t

/-- WHOLE_SAVE_DONE (R229, R230). -/
def execWholeSaveDone (c : Nat) (s : State) : Host.Outcome State Fault Refusal :=
  if !ctxInRange c then .fault .noSuchPart
  else .next (if saveReady s c then settleMill (s.within c finishSave) else s)

/-! ### Tasks that are ended -/

/-- A launch is failed or torn down, and what it runs is to end. -/
def State.ending (s : State) (n : Nat) : Bool :=
  match s.launch n with
  | some l => !l.live
  | none => false

/-- A task is ended: what it holds back is discarded, and its weight is off (R26, R49). -/
def endNow (c : Nat) (s : State) : State :=
  let s := withdraw c s
  let x := s.ctxAt c
  let t := s.setCtx c { x with
    ended := true, held := [], wait := none, cvy := none, qfault := none, queue := [], early := [], pause := none
    defer := none, saving := false, start := none, notice := none }
  weightChange t c ((x.task.map (·.weight)).getD 0)

/-- The accesses of an ended task are performed, and its channels rest (R22, R253). -/
def drained (x : Context) : Bool := x.pend.isEmpty && x.channelsRest

/-- An ended task whose accesses are performed leaves its context. -/
def leaveEnded (c : Nat) (s : State) : State :=
  if (s.ctxAt c).ended && drained (s.ctxAt c) then settleMill (capsAfter (releaseAll s c) c) else s

/-- A task is ended and leaves its context as soon as its accesses are performed. -/
def endTaskOf (c : Nat) (s : State) : State := leaveEnded c (if (s.ctxAt c).ended then s else endNow c s)

/-- TASK_END_BY_MILL (R26, R253). -/
def execTaskEndByMill (c : Nat) (s : State) : Host.Outcome State Fault Refusal :=
  if !ctxInRange c then .fault .noSuchPart
  else
    let x := s.ctxAt c
    if x.task.isSome && (x.ended || s.ending x.launchNo) then .next (endTaskOf c s) else .next s

/-- TASK_ENDED_BY_RUNTIME (R210, R220): of a task that has stopped or trapped. -/
def execTaskEndedByRuntime (c : Nat) (s : State) : Host.Outcome State Fault Refusal :=
  if !ctxInRange c then .fault .noSuchPart
  else
    let x := s.ctxAt c
    if x.task.isSome && (x.stopped || x.sup) then .next (endTaskOf c (s.failLaunch x.launchNo 0x0E)) else .next s

end Sys2Proof.Machine
end

