-- ==== Sys2Proof/Machine/Launches.lean ====
section
/-! DEFINITION. Launches: LAUNCH writes, acceptance and rejection (R20, R21, R24, R27, R28, R283), the completion word
(R22, R25, R39) and replay (R250, R251, R253, R254). -/

namespace Sys2Proof.Machine

/-! ### The LAUNCH copies (R281, R283) -/

/-- A LAUNCH copy's queue of a master. -/
def HostBlk.queue (h : HostBlk) (m : Nat) : List Word := h.queues.toList.getD (m - 1) []

/-- LAUNCH_WRITE (R283): a narrower write is ignored. -/
def execLaunchWrite (m bytes : Nat) (v : BitVec 64) (s : State) : Host.Outcome State Fault Refusal :=
  hostReach m 0x08 true (.busWrite m 0x08 bytes v) id (fun s => .next (
    if bytes ≠ 8 then s
    else if 8 ≤ (s.host.queue m).length then
      { s with host := { s.host with ovf := s.host.ovf.setIfInBounds (m - 1) true } }
    else
      { s with host := { s.host with
        queues := s.host.queues.setIfInBounds (m - 1) (s.host.queue m ++ [v]) } })) s

/-- A LAUNCH value is reported as rejected (R27, R283). -/
def reject (m : Nat) (v : Word) (s : State) : State :=
  { s with host := { s.host with
    lbad := s.host.lbad.setIfInBounds (m - 1) v, bad := s.host.bad.setIfInBounds (m - 1) true } }.msixTo m 2

/-! ### Acceptance (R21, R24, R27) -/

/-- The SPACE entry that a LAUNCH value names, where the value names one that is usable. -/
def spaceOf (s : State) (v : Word) : Option SpaceEntry :=
  let n := v.toNat / 2 ^ 56 % 64
  let e := tabGet { ptroot := 0, asid := 0, keydef := 0, valid := false } s.host.spaces n
  if v.toNat / 2 ^ 62 ≠ 0 || bitOf v.toNat 55 || s.host.bootst = 2 || !e.valid then none else some e

/-- The completion word's address passes its check (R27). -/
def wordWritable (s : State) (l : Launch) : Bool :=
  l.word.toNat % 4 = 0 && match resolve s l.acc .store l.word.toNat with
    | .ok _ => true
    | .error _ => false

/-- The launch that a launch block describes, before its root list and parameters are read. -/
def launchOf (num m : Nat) (v : Word) (sp : Space) (b : List Byte) : Launch :=
  { num := num, master := m, value := v, space := sp, roots := [], msix := bitOf (leAt b 4 4) 1, params := [],
    paramAddr := leWord b 0x10, pool := leWord b 0x20, poolLen := leWord b 0x28, mask := BitVec.ofNat 24 (leAt b 0x30 3),
    ceiling := min (leAt b 0x33 1) 31, word := leWord b 0x38, replayable := false, pooled := false, replays := 0,
    tearing := false, failed := none }

/-- Every page of a shadow pool lies in HBM of the own node, and can be written (R250). -/
def poolInHbm (s : State) (l : Launch) : Bool :=
  (List.range ((l.poolLen.toNat + 65535) / 65536)).all fun i =>
    match resolve s l.acc .store (l.pool.toNat + i * 65536) with
    | .ok p => placeNode p.loc == s.node && inHbm (p.loc % 2 ^ 44)
    | .error _ => false

/-- A launch is replayable at its acceptance (R250). -/
def replayableAt (s : State) (l : Launch) (flags : Nat) : Bool :=
  bitOf flags 0 && l.pool.toNat % 65536 = 0 && 131072 ≤ l.poolLen.toNat && poolInHbm s l

/-- The directory of a launch's shadow pool is cleared (R252): the words that the pool's slots have, where they can be written.
R252 clears every entry, and the words of the 64 KiB beyond those entries stay (log entries 95, 97). -/
def clearDirectory (s : State) (l : Launch) : State :=
  if l.pooled then (writeBlock s l.acc none l.pool.toNat (zeros (8 * l.slotCount))).getD s else s

/-- A block read for a launch, with the cause of a failure. -/
def readFor (s : State) (l : Launch) (va n : Nat) : Option (List Byte) :=
  match readBlock s l.acc none va n with
  | .ok b => some b
  | .error _ => none

/-- The failure causes that a readable launch block gives (R25). With a root count of 0 there is no list to be aligned or
readable, and the parameters are checked all the same (R24; log entry 95). -/
def blockCauses (s : State) (l : Launch) (va : Nat) (b : List Byte) : List Nat :=
  let count := leAt b 0 4
  let roots := leAt b 8 8
  let len := leAt b 0x18 8
  let bad (c : Bool) (cause : Nat) : List Nat := if c then [cause] else []
  bad (va % 64 ≠ 0) 0x01
    ++ bad (count ≠ 0 && (roots % 8 ≠ 0 || (readFor s l roots (8 * count)).isNone)) 0x01
    ++ bad (len ≤ 4096 && (readFor s l l.paramAddr.toNat len).isNone) 0x01
    ++ bad (4096 < len) 0x02

/-- The launch as accepted, with its roots and parameters, and the state after reading them. -/
def readLaunch (s : State) (l : Launch) (va : Nat) (b : List Byte) : Launch × State :=
  let count := leAt b 0 4
  let len := leAt b 0x18 8
  let list := (readFor s l (leAt b 8 8) (8 * count)).getD []
  let rep := replayableAt s l (leAt b 4 4)
  let s := touchBlock s l.acc .load none va 64
  let s := touchBlock (touchBlock s l.acc .load none (leAt b 8 8) (8 * count)) l.acc .load none l.paramAddr.toNat len
  ({ l with
      roots := (List.range count).map fun i => leWord list (8 * i), params := (readFor s l l.paramAddr.toNat len).getD []
      replayable := rep, pooled := rep }, s)

/-- An accepted launch is one of the mill's. -/
def addLaunch (s : State) (l : Launch) : State :=
  { s with
    mill := { s.mill with launches := s.mill.launches ++ [l], nextNum := l.num }
    host := { s.host with accepted := true } }

/-- One LAUNCH value is handled: rejected, failed, or accepted with its roots to be made ready. -/
def acceptValue (m : Nat) (v : Word) (s : State) : List MillAct × State :=
  match spaceOf s v with
  | none => ([], reject m v s)
  | some e =>
    let va := v.toNat % 2 ^ 55
    let l0 := launchOf (s.mill.nextNum + 1) m v (.ofWords e.ptroot e.asid e.keydef) []
    match readBlock s l0.acc none va 64 with
    | .error _ => ([], reject m v s)
    | .ok b =>
      let l := launchOf (s.mill.nextNum + 1) m v (.ofWords e.ptroot e.asid e.keydef) b
      let t := touchBlock s l.acc .load none va 64
      if !wordWritable s l then ([], reject m v t)
      else match lowestCause (blockCauses s l va b) with
        | some c => ([], addLaunch (readLaunch s l va b).2 { l with failed := some c })
        | none =>
          let r := readLaunch s l va b
          (r.1.roots.map (.root l.num), clearDirectory (addLaunch r.2 r.1) r.1)

/-- The oldest value of a master's queue is taken and handled, behind those of the masters before it. -/
def takeValue (r : List MillAct × State) (m : Nat) : List MillAct × State :=
  match r.2.host.queue m with
  | [] => r
  | v :: rest =>
    let q := acceptValue m v { r.2 with host := { r.2.host with queues := r.2.host.queues.setIfInBounds (m - 1) rest } }
    (r.1 ++ q.1, q.2)

/-- LAUNCH_ACCEPT (R21, R283): port A, port B, management. The records that the acceptances make ready come in their order,
before any that a completion readies (R34). -/
def execLaunchAccept (s : State) : Host.Outcome State Fault Refusal :=
  if s.host.queues.toList.all (·.isEmpty) then .next s
  else
    let r := [1, 2, 3].foldl takeValue ([], s)
    .next (millEvent r.1 r.2)

/-! ### The end of a launch -/

/-- A tile without what is parked for a saved task (R239). -/
def unpark (s : State) (t : SavedTask) : State :=
  let h : Holder := .parked t.ctx t.task.rcd t.seq t.space
  let n := tileOf t.ctx
  let tile := s.tileAt n
  s.setTile n ((tile.takeBands (tile.bandsOf h) none).rename h none)

/-- The records, saved tasks and parked state of a launch are gone. -/
def dropWork (s : State) (n : Nat) : State :=
  let s := (s.mill.saved.filter (·.task.launch == n)).foldl unpark s
  let saved := s.mill.saved.filter (·.task.launch != n)
  { s with
    mill := { s.mill with recs := s.mill.recs.filter (·.launch != n), saved := saved }
    fab := { s.fab with returned := s.fab.returned.filter fun r => saved.any (·.ctx == r.dst) } }

/-- No context holds a task of a launch, and no retirement of one is on its way. -/
def contextsGone (s : State) (n : Nat) : Bool :=
  !(s.ctxs.any fun e => (e.2.task.map (·.launch)) == some n) && !(s.mill.ends.any (·.task.launch == n))

/-- A launch has come to its end (R22, R26, R39). -/
def launchOver (s : State) (l : Launch) : Bool :=
  !l.tearing && contextsGone s l.num
    && (l.failed.isSome || (!runningOf s l.num && !readyOf s l.num && !blockedOf s l))

/-- The value of the completion word (R22, R25). -/
def Launch.completion (l : Launch) : Nat :=
  match l.failed with
  | some c => 0x80000000 + c
  | none => if l.replays = 0 then 1 else 2

/-- The completion word is written and the launch is gone; a write that fails is reported as a rejection (R27). -/
def completeLaunch (s : State) (l : Launch) : State :=
  let s := dropWork (clearDirectory s l) l.num
  let s := { s with mill := { s.mill with launches := s.mill.launches.filter (·.num != l.num) } }
  match writeBlock s l.acc none l.word.toNat (valBytes 4 l.completion) with
  | none => reject l.master l.value s
  | some t => if l.msix then t.msixTo l.master 0 else t

/-- COMPLETION_WORD_WRITE (R22). -/
def execCompletionWordWrite (n : Nat) (s : State) : Host.Outcome State Fault Refusal :=
  match s.launch n with
  | none => .next s
  | some l => if launchOver s l then .next (settleMill (completeLaunch s l)) else .next s

/-! ### Replay (R253) -/

/-- Every copy of a page in an L1 instruction cache or a shared cache is invalidated (R253 step 2). -/
def dropPage (s : State) (page : Nat) : State :=
  { s with
    cores := s.cores.map fun e => (e.1, { e.2 with icache := e.2.icache.filter fun w => !linePaged page (w.1 / 64) })
    plain := s.plain.filter fun l => !linePaged page l.line, stale := s.stale.filter fun w => !linePaged page (w.1 / 64) }

/-- The page of a directory entry is restored from its slot, its cached copies first invalidated; one whose slot can no
longer be translated stays as it is (log entry 95). -/
def restorePage (l : Launch) (s : State) (i : Nat) : State :=
  let e := dirEntry s l i
  let page := nodePlace s.node (e / 2 ^ 26 % 2 ^ 28 * 2 ^ 16)
  if !bitOf e 0 then s
  else match slotPlace s l i with
    | none => s
    | some src => copyPage (dropPage (touch s l.acc .load src) page) src.loc page

/-- Steps 2 to 5 of a replay. Parameters that cannot be written leave nothing to run again. -/
def rerun (s : State) (l : Launch) : State :=
  let s := dropWork s l.num
  let s := touchBlock s l.acc .load none l.pool.toNat (8 * l.slotCount)
  let s := (List.range l.slotCount).foldl (restorePage l) s
  let s := s.mapLaunch l.num fun l => { l with tearing := false, replays := l.replays + 1 }
  match writeBlock s l.acc none l.paramAddr.toNat l.params with
  | none => (clearDirectory s l).failLaunch l.num 0x0F
  | some s => runEvent (l.roots.map (.root l.num)) (clearDirectory s l)

/-- REPLAY_RERUN (R253): every task of the launch has ended, with its writes performed. It runs again also where a write of
the teardown itself made it replayable no longer (log entry 95). -/
def execReplayRerun (n : Nat) (s : State) : Host.Outcome State Fault Refusal :=
  match s.launch n with
  | none => .next s
  | some l => if l.tearing && contextsGone s n && s.flows then .next (settleMill (rerun s l)) else .next s

end Sys2Proof.Machine
end

