-- ==== Sys2Proof/Machine/Reliability.lean ====
section
/-! DEFINITION. Error defence: checker mismatches (R241 to R244), pinned errors and strip rewind (R245 to R248),
errors that cannot be pinned (R249), and the patrol scrubber (R258). -/

namespace Sys2Proof.Machine

/-! ### Rewind (R248) -/

/-- The registers of R247 and R196 restored: those that CKMASK named at the boundary. Inside or outside a handler as
at the checkpoint, so the shadow set is put back first. -/
def Context.restoreScalars (x : Context) (k : Checkpoint) : Context :=
  let x := if x.ui.act = k.act then x else x.swapShadow
  let regs := Vector.ofFn fun r : Fin 32 => if k.mask.getLsbD r.val then k.regs[r] else x.regs[r]
  let shadow := Vector.ofFn fun r : Fin 8 => if k.mask.getLsbD (r.val + 24) then k.shadow[r] else x.ui.shadow[r]
  { x with
    regs := regs, conds := if k.mask.getLsbD 32 then k.conds else x.conds
    ui := { x.ui with shadow := shadow, act := k.act, epc := k.uiepc, cause := k.uicause, val := k.uival } }

/-- An interrupt that was taken in the strip is pending again, with its value unless a newer one has come (R196). -/
def UserInt.pendAgain (u : UserInt) (e : Nat × Word) : UserInt :=
  if u.pend.getLsbD (e.1 - 1) then u
  else { u with pend := u.pend ||| (1#4 <<< (e.1 - 1)), held := u.held.setIfInBounds (e.1 - 1) e.2 }

/-- The context's part of a rewind. -/
def Context.rewound (x : Context) : Context :=
  let k := x.ckpt
  let y := x.restoreScalars k
  let ui := x.strip.taken.reverse.foldl UserInt.pendAgain y.ui
  { y with
    ui := ui, loops := k.loops, vregs := k.vregs, scales := k.scales, vtype := k.vtype, vrows := k.vrows
    vcols := k.vcols, fp := k.fp, mat := k.mat, resthr := k.resthr, ret := k.ret, vsElem := 0, vsMember := 0
    pc := k.resume, cvy := none, wait := none, held := [], redump := [], qfault := none, queue := []
    trap := { y.trap with cocoon := false }
    strip := { Strip.reset with pinned := x.strip.pinned + 1, unopened := x.strip.unopened } }

/-- The tile's part: working copies as committed, slots claimed in the strip free, no release marks (R132, R136). -/
def Tile.rewound (t : Tile) (c : Nat) (claimed : List Nat) : Tile :=
  let one (e : Nat × Slot) : Nat × Slot :=
    if e.2.holder = some (.ctx c) then
      (e.1, if claimed.contains e.1 then { e.2 with holder := none, released := false } else { e.2 with released := false })
    else e
  { t with working := copyBands (t.bandsOf (.ctx c)) t.committed t.working, slots := t.slots.map one }

/-- rewind() of the current context (R248). -/
def rewind (s : State) : State :=
  let n := tileOf s.cur
  let t := s.setTile n ((s.tileAt n).rewound s.cur s.cx.strip.claimed)
  t.mapCx (·.rewound)

/-- A pinned error is rewound (R246): the strip is not forced, nor by this as its fifth, and the level is user. -/
def Context.rewinds (x : Context) : Bool := !x.strip.forced && !x.sup && x.strip.pinned < 4

/-- An error pinned to the current strip: it is rewound, or treated as one that cannot be pinned. -/
def pinnedError (cause : Nat) (tval : Word) (queued : Bool) (s : State) : State :=
  if s.cx.rewinds then rewind s
  else unpinnable (s.mapCx fun x => { x with strip := { x.strip with forced := true } }) cause tval queued

/-! ### The checker (R241, R244) -/

/-- The instructions whose results the checker recomputes. -/
def isChecked (w : BitVec 32) : Bool :=
  let major := w.toNat / 2 ^ 25 % 64
  match decode w with
  | .error _ => false
  | .ok (.vcvt ..) | .ok (.vbq ..) | .ok (.vbdq ..) | .ok (.mma ..) => true
  | .ok _ => major == 0x14 || major == 0x15 || major == 0x1A

/-- The checker recomputes something of a checked word that starts at an element: A, the number of its results, is at
least 1 (R241). Bit 9 of a vector word is its m bit (R303). The mask may still be unknown, since an earlier member of the convoy
writes v0 (R115): then any element may be active (log entry 97). Conversions and scans ignore VSTART (R117, R369). -/
def Context.recomputes (x : Context) (unknown : Bool) (start : Nat) (w : BitVec 32) : Bool :=
  let active (start : Nat) : Bool := !(x.activeFrom (w.getLsbD 9 && !unknown) start).isEmpty
  isChecked w && !x.zeroShape && match decode w with
    | .ok (.mma ..) => x.qmat.rows != 0 && x.qmat.cols != 0 && x.qmat.depth != 0
    | .ok (.vred ..) | .ok (.vredAll ..) => true
    | .ok (.vcvt ..) | .ok (.vbq ..) | .ok (.vbdq ..) | .ok (.vscan ..) => active 0
    | .ok _ => active start
    | .error _ => false

/-- A word may write v0. -/
def Context.writesMask (x : Context) (w : BitVec 32) : Bool := writesGroup w && (x.groupRegs (w.toNat / 2 ^ 20 % 32)).contains 0

/-- The checker recomputes something of one of some members, of which the first starts at an element. -/
def Context.recomputesOne (x : Context) : Bool → Nat → List (BitVec 32) → Bool
  | _, _, [] => false
  | unknown, start, w :: ws => x.recomputes unknown start w || x.recomputesOne (unknown || x.writesMask w) 0 ws

/-- A checked member of the convoy that is executing has still to retire. -/
def Context.checking (x : Context) : Bool :=
  match x.cvy with
  | some v => x.recomputesOne false x.startElem (v.words.drop v.idx)
  | none => false

/-- A started task runs on the context, or a handler of it. -/
def Context.executes (x : Context) : Bool := x.task.isSome && x.start.isNone && !x.stopped && !x.ended

/-- The convoys whose check may fail: the one that is executing, and those of the strip whose MMAs have retired (R216,
R244). -/
def Context.failing (x : Context) : List Word := (if x.checking then [x.convoyStart] else []) ++ x.strip.mmaPcs

/-- A mismatch of the current context, in one of the convoys where it can be: trap 0x0F names it. -/
def mismatch (s : State) : State :=
  let d := s.draw
  let pcs := s.cx.failing
  pinnedError 0x0F (pcs.getD (d.1.toNat % pcs.length) s.cx.convoyStart) true d.2

/-- An error of the current context: a SEND that it breaks off has its request withdrawn, and a grant that it received is returned
(R206). -/
def breaksOff (f : State → State) (s : State) : State :=
  let t := f s
  if (s.cx.wait.map (·.kind)) == some .grant && t.cx.wait.isNone then withdraw s.cur t else t

/-- CHECKER_MISMATCH (R244, R246, R249). -/
def execCheckerMismatch (c : Nat) (s : State) : Host.Outcome State Fault Refusal :=
  if !ctxInRange c then .fault .noSuchPart
  else
    let x := s.ctxAt c
    if x.executes && !x.failing.isEmpty then .next (s.within c (breaksOff mismatch))
    else .next s

/-! ### Uncorrectable errors (R245, R249) -/

/-- The convoy that trap 0x10 names: the one that is executing, or one that has retired, the last of the strip that entered
the vector queue (R216). -/
def Context.consumer (x : Context) : Option Word :=
  match x.cvy with
  | some v => some v.start
  | none => x.strip.lastBound

/-- TVAL of trap 0x10: the consuming convoy, or the scalar load at issue, or all ones where none can be named (R216). -/
def errorTval (x : Context) (scalarLoad named : Bool) : Word :=
  if !named then BitVec.allOnes 64 else if scalarLoad then x.convoyStart else x.consumer.getD x.pc

/-- UNCORRECTABLE_ERROR (R245, R246, R249). -/
def execUncorrectableError (c : Nat) (pinned scalarLoad named : Bool) (s : State) :
    Host.Outcome State Fault Refusal :=
  if !ctxInRange c then .fault .noSuchPart
  else
    let x := s.ctxAt c
    let tval := errorTval x scalarLoad named
    if !x.executes || (named && !scalarLoad && x.consumer.isNone) then .next s
    else .next (s.within c (breaksOff fun s =>
      if pinned then pinnedError 0x10 tval (!scalarLoad) s else unpinnable s 0x10 tval (!scalarLoad)))

/-! ### The patrol scrubber (R258) -/

/-- The rows of a list without the oldest of a channel's, where that channel's list is full (R258). -/
def dropOldest (channel : Nat) (rows : List (Nat × Nat)) : List (Nat × Nat) :=
  let own := rows.filter fun e => Config.patrolChannel e.1 == channel
  if own.length < 1024 then rows
  else match own with
    | [] => rows
    | e :: _ => rows.erase e

/-- The weighted lists of all channels after a visit: rows in the order of their last corrections, with their visits
since. Which channel holds a line is open (R146; log entry 37). -/
def patrolAfter (rows : List (Nat × Nat)) (line : Nat) (corrected : Bool) : List (Nat × Nat) :=
  if corrected then
    let others := rows.filter (·.1 != line)
    (if others.length < 1024 then others else dropOldest (Config.patrolChannel line) others) ++ [(line, 0)]
  else (rows.map fun e => if e.1 = line then (e.1, e.2 + 1) else e).filter (·.2 < 64)

/-- A line of the own node's HBM or bulk DRAM. -/
def State.patrols (s : State) (line : Nat) : Bool :=
  let pa := line * 64 % 2 ^ 44
  line * 64 / 2 ^ 44 == s.node && (inHbm pa || inBulk pa)

/-- PATROL_VISIT (R258): an uncorrectable line gets stored poison. -/
def execPatrolVisit (line : Nat) (corrected uncorrectable : Bool) (s : State) : Host.Outcome State Fault Refusal :=
  if !s.patrols line then .fault .noSuchPart
  else
    let s := { s with patrol := patrolAfter s.patrol line corrected }
    .next (if uncorrectable then { s with poison := tabSet s.poison line (BitVec.allOnes 128) } else s)

end Sys2Proof.Machine
end

