-- ==== Sys2Proof/Machine/Strings.lean ====
section
/-! DEFINITION. Strings: adjunct requests (R47, R50), throttle steps and floor (R54, R55, R59, R279), power (R62, R285,
R287, R289). What a balancer measures is physical (R61): these events bring it (log entry 4). -/

namespace Sys2Proof.Machine

/-! ### Adjunct requests -/

/-- The tile that an over node names: below the node, or above it (R47). -/
def overTile (node : Nat) (under : Bool) : Nat := if under then node - 1 else node

/-- ADJUNCT_REQUEST (R50). -/
def execAdjunctRequest (n node : Nat) (under : Bool) (s : State) : Host.Outcome State Fault Refusal :=
  if !(stringInRange n && 1 ≤ node && node ≤ 3) then .fault .noSuchPart
  else
    let t := s.strAt n
    if t.rdy then .next (s.setStr n { t with adjreq := t.adjreq ||| (1#4 <<< overTile node under) }) else .next s

/-! ### Throttle steps -/

/-- A string whose balance step or cap changes: a changed effective step clears its requests, and any step change its
floor mark (R50, R54, R59). -/
def Str.restep (t : Str) (step cap : Nat) : Str :=
  let u := { t with step := step, cap := cap }
  { u with
    adjreq := if u.effective = t.effective then t.adjreq else 0
    floor := if u.effective = t.effective && step = t.step then t.floor else false }

/-- THROTTLE_DOWN (R54). A node that has been over for 1,280 cycles has had its adjunct request latched since cycle 256, as
every clearing of the requests restarts its count (R50, R53). -/
def execThrottleDown (n : Nat) (s : State) : Host.Outcome State Fault Refusal :=
  if !stringInRange n then .fault .noSuchPart
  else
    let t := s.strAt n
    if t.rdy && t.step < 2 && t.adjreq != 0 then .next (s.setStr n (t.restep (t.step + 1) t.cap)) else .next s

/-- THROTTLE_UP (R54). -/
def execThrottleUp (n : Nat) (s : State) : Host.Outcome State Fault Refusal :=
  if !stringInRange n then .fault .noSuchPart
  else
    let t := s.strAt n
    if t.rdy && 0 < t.step then .next (s.setStr n (t.restep (t.step - 1) t.cap)) else .next s

/-- A vector sent on both ports (R279). -/
def State.msixBoth (s : State) (vector : Nat) : State := (s.msix 1 vector).msix 2 vector

/-- STRING_FLOOR (R54, R279): only a floor that was clear sends vector 4. A request is latched here too (R50, R53). -/
def execStringFloor (n : Nat) (s : State) : Host.Outcome State Fault Refusal :=
  if !stringInRange n then .fault .noSuchPart
  else
    let t := s.strAt n
    if !(t.rdy && t.step = 2 && t.adjreq != 0) then .next s
    else
      let u := s.setStr n { t with floor := true }
      .next (if t.floor then u else u.msixBoth 4)

/-! ### Power -/

/-- Some band or slot of a tile is parked for a task. -/
def Tile.hasParked (t : Tile) : Bool :=
  let parked : Option Holder → Bool
    | some (.parked ..) => true
    | _ => false
  t.bands.toList.any parked || t.slots.any fun e => parked e.2.holder

/-- STRBUSY of a string (R285). -/
def strBusy (s : State) (n : Nat) : Bool :=
  ((List.range 32).any fun i => inMillView s (n * 32 + i)) || ((List.range 4).any fun i => (s.tileAt (n * 4 + i)).hasParked)
    || s.mill.saved.any fun t => t.whole && strOf t.ctx == n

/-- Strings are powered: verification has passed, and during boot the strings below are ready (R287). -/
def mayPower (s : State) (n : Nat) : Bool :=
  s.host.booted && s.host.bootst != 2
    && (s.host.bootst == 1 || (List.range n).all fun k => (s.strAt k).rdy || !(s.strAt k).pwr)

/-- The last string that boot powers ends the boot (R287, R288). -/
def bootEnds (s : State) : State :=
  if s.host.booted && s.host.bootst = 0 && (List.range 24).all fun k => (s.strAt k).rdy || !(s.strAt k).pwr then
    { s with host := { s.host with bootst := 1 } }
  else s

/-- A string's cores start CYCLE from values that nothing fixes (R18; log entry 3). -/
def startCycles (n : Nat) (s : State) : State :=
  (List.range 16).foldl (fun s i =>
    let d := s.draw
    d.2.setCore (16 * n + i) { d.2.coreAt (16 * n + i) with cycle0 := d.1 }) s

/-- STRING_POWERED (R18, R62, R287, R289). -/
def execStringPowered (n : Nat) (s : State) : Host.Outcome State Fault Refusal :=
  if !stringInRange n then .fault .noSuchPart
  else
    let t := s.strAt n
    if t.pwr && !t.rdy && mayPower s n then
      .next (bootEnds (startCycles n (s.setStr n { t with rdy := true, step := 0, adjreq := 0, floor := false, clock := 0 })))
    else .next s

/-- STRING_UNPOWERED (R62, R289). -/
def execStringUnpowered (n : Nat) (s : State) : Host.Outcome State Fault Refusal :=
  if !stringInRange n then .fault .noSuchPart
  else
    let t := s.strAt n
    if !t.pwr && t.rdy && !strBusy s n then .next (s.setStr n { t with rdy := false, adjreq := 0, floor := false })
    else .next s

end Sys2Proof.Machine
end

