-- ==== Sys2Proof/Machine/Planes.lean ====
section
/-! DEFINITION. Planes: link retries (R199), plane deaths (R209, R210), and the moult (R202, R211 to R213). -/

namespace Sys2Proof.Machine

/-! ### Deaths -/

/-- A direction of a torus, as ports are numbered (R198). -/
inductive Direction where
  | plusX | minusX | plusY | minusY | plusZ | minusZ
  deriving DecidableEq, Repr

def Direction.index : Direction → Nat
  | .plusX => 0
  | .minusX => 1
  | .plusY => 2
  | .minusY => 3
  | .plusZ => 4
  | .minusZ => 5

/-- The port of a plane for a direction on a die (R198). -/
def portOf (plane die : Nat) (d : Direction) : Nat := 24 * die + 6 * plane + d.index

/-- The size of dimension i of the tori, and a node's coordinate in it (R197). -/
def torusSize (torus i : Nat) : Nat := (if i = 0 then torus % 16 else if i = 1 then torus / 16 % 8 else torus / 128) + 1
def coordinate (n i : Nat) : Nat := if i = 0 then n % 16 else if i = 1 then n / 16 % 8 else n / 128

/-- The steps that a request takes around a ring: the shorter way, and the positive one where both are equally long, so
that a ring of size 2 is crossed by its + port (R198, R200). True is the positive direction. -/
def ringSteps (size src dst : Nat) : Bool × Nat :=
  let up := (dst + size - src) % size
  if 2 * up ≤ size then (true, up) else (false, size - up)

/-- The directions of a path on every plane: X first, then Y, then Z (R200). -/
def route (torus src dst : Nat) : List Direction :=
  let along (i : Nat) (plus minus : Direction) : List Direction :=
    let k := ringSteps (torusSize torus i) (coordinate src i) (coordinate dst i)
    List.replicate k.2 (if k.1 then plus else minus)
  along 0 .plusX .minusX ++ along 1 .plusY .minusY ++ along 2 .plusZ .minusZ

/-- The port by which a request of a tile leaves its node, or none where its home is the node's own. It enters the next
node on the same die (R198, R200). -/
def leavesBy (torus plane tile src dst : Nat) : Option Nat := (route torus src dst).head?.map (portOf plane (tile / 48))

/-- The plane of a port (R198). -/
def planeOfPort (p : Nat) : Nat := p % 24 / 6

/-- Messages that were accepted on a dead plane are sent again on a live one, in their order (R211 step 3). -/
def resent (dead : BitVec 4) (fs : List Flight) : List Flight :=
  match (List.range 4).find? fun k => !dead.getLsbD k with
  | none => fs
  | some k => fs.map fun f => if dead.getLsbD f.plane then { f with plane := k } else f

/-- A plane dies: it is declared once, and a moult begins unless no plane is left (R209, R210, R279). -/
def planeDeath (k : Nat) (s : State) : State :=
  if s.fab.dead.getLsbD k then s
  else
    let dead := s.fab.dead ||| (1#4 <<< k)
    let undealt := if dead = 15 then 0 else s.fab.undealt ||| (1#4 <<< k)
    { s with fab := { s.fab with
        dead := dead, undealt := undealt, flights := resent dead s.fab.flights } }.msixBoth 3

/-- FLIT_RETRANSMIT (R199): it changes only time. -/
def execFlitRetransmit (p : Nat) (s : State) : Host.Outcome State Fault Refusal :=
  if !(p < 48) then .fault .noSuchPart else .next s

/-- PORT_DOWN (R199, R209). -/
def execPortDown (p : Nat) (s : State) : Host.Outcome State Fault Refusal :=
  if !(p < 48) then .fault .noSuchPart
  else if s.fab.portsDown.contains p then .next s
  else .next (planeDeath (planeOfPort p) { s with fab := { s.fab with portsDown := s.fab.portsDown ++ [p] } })

/-- MESH_UNCORRECTABLE_ERROR (R209). -/
def execMeshUncorrectableError (d k : Nat) (s : State) : Host.Outcome State Fault Refusal :=
  if !(d < 2 && k < 4) then .fault .noSuchPart else .next (planeDeath k s)

/-- PLANE_DEATH_LEARNED (R209). -/
def execPlaneDeathLearned (k : Nat) (s : State) : Host.Outcome State Fault Refusal :=
  if !(k < 4) then .fault .noSuchPart else .next (planeDeath k s)

/-! ### The moult -/

/-- The live planes, lowest first. -/
def Fabric.live (f : Fabric) : List Nat := (List.range 4).filter fun k => !f.dead.getLsbD k

/-- The map after step 5: the buckets of planes that no map has dealt yet go to the live planes in turn (R211). -/
def Fabric.dealt (f : Fabric) : Nat :=
  ((List.range 64).foldl (fun (acc : Nat × Nat) b =>
    let k := planeOf f.map b
    if f.undealt.getLsbD k then (acc.1 + f.live.getD (acc.2 % f.live.length) 0 * 4 ^ b, acc.2 + 1)
    else (acc.1 + k * 4 ^ b, acc.2)) (0, 0)).1

/-- Every write that a plane has accepted is performed, and every message delivered that can be (R211 step 4). -/
def State.quiet (s : State) : Bool :=
  s.ctxs.all (fun e => e.2.pend.all (·.acc.isNone)) && s.fab.flights.all fun f => f.dstNode == s.node && !arrives s f

/-- A moult is in progress, and what it waits for is done. -/
def moultReady (s : State) : Bool := s.fab.undealt != 0 && s.migration.isNone && s.quiet

/-- MOULT_REMAP (R211, R212, R279): steps 5 and 6. A SEND or RECV that waits through the moult goes on where it stands, with its
request and its grant, as R211 has it (log entry 98). -/
def execMoultRemap (s : State) : Host.Outcome State Fault Refusal :=
  if !moultReady s then .next s
  else
    .next ({ s with
      fab := { s.fab with map := BitVec.ofNat 128 s.fab.dealt, undealt := 0 }
      host := { s.host with moults := s.host.moults + 1 } }.msixBoth 3)

end Sys2Proof.Machine
end

