-- ==== Sys2Proof/Machine/Migration.lean ====
section
/-! DEFINITION. Page migration (R173, R174): when a leaf may move, and the move. A page that moves stalls every context,
so that no access meets it half moved. -/

namespace Sys2Proof.Machine

/-! ### When a page may move -/

/-- A frame of the own migration pool that no migrated page holds (R173, R281). -/
def poolHas (s : State) (frame : Nat) : Bool :=
  let base := s.host.migbase.toNat / 2 ^ 16 % 2 ^ 28
  base ≤ frame && frame < base + s.host.miglen.toNat && inHbm (frame * 2 ^ 16) && !s.pool.contains frame

/-- The leaf of a walk may move to a frame of the own node, whose context accesses it: of its fields, PIN and COW are clear,
and it has moved fewer than four times (R173, R174). A leaf of bulk DRAM with KEY = 0 does not move: in HBM its index would
be 0, and its values would change (R152; log entry 92). -/
def mayMove (s : State) (e : TlbEntry) (pte dest frame : Nat) : Bool :=
  e.size == 16 && !bitOf pte 10 && pte / 2 ^ 11 % 8 < 4 && !e.cow && e.key != 0 && pte / 2 ^ 14 % 2 ^ 12 != 0
    && dest == s.node && dest != e.node && (tabFind s.keys (dest * 4096 + e.key)).isSome && poolHas s frame

/-- A load or a store of a context at an address passes its checks. -/
def accessPasses (s : State) (c va : Nat) : Bool :=
  [AccKind.load, .store].any fun k =>
    match resolve s ((s.ctxAt c).acc c) k va with
    | .ok _ => true
    | .error _ => false

/-- The entry of a leaf, read at its home. -/
def leafWord (s : State) (leaf : Nat) : Nat := bytesVal (memReadN s.mem leaf 8)

/-- The move that an access of a context to an address starts, if it may. -/
def moveOf (s : State) (c : Nat) (va : Word) (dest frame : Nat) : Option Migration :=
  let x := s.ctxAt c
  if !(x.executes && s.flows && !s.planesDead && accessPasses s c va.toNat) || 2 ^ 55 ≤ va.toNat || va.toNat / 2 ^ 48 = 0x7F then none
  else match walk s x.space va.toNat with
    | none => none
    | some e =>
      let pte := leafWord s e.leaf
      if mayMove s e pte dest frame then
        some { entry := e, moves := pte / 2 ^ 11 % 8, destNode := dest, destFrame := frame }
      else none

/-- PAGE_MIGRATION (R173): the move starts, and accesses stall. -/
def execPageMigration (c : Nat) (va : BitVec 64) (dest frame : Nat) (s : State) : Host.Outcome State Fault Refusal :=
  if !ctxInRange c then .fault .noSuchPart
  else match moveOf s c va dest frame with
    | none => .next s
    | some m => .next { s with migration := some m }

/-! ### The move -/

/-- Where the page lies, and where it goes. -/
def Migration.oldPage (m : Migration) : Nat := nodePlace m.entry.node m.entry.frame
def Migration.newPage (m : Migration) : Nat := nodePlace m.destNode (m.destFrame * 2 ^ 16)

/-- One line of the page moves: the destination decrypts the stored bytes under its own slot of the index and encrypts them under
it with the new tweak. Where the two slots hold one key no value changes; where they differ, what is read is the decryption
under the reader's key, the result of R153 (R173; log entry 92). -/
def moveLine (keys : Tab (BitVec 512)) (m : Migration) (mem : List Host.Cell) (i : Nat) : List Host.Cell :=
  let src := m.oldPage + 64 * i
  let dst := m.newPage + 64 * i
  let key := slotKey keys m.destNode m.entry.key
  let plain := xtsDecryptLine key (lineTweak src) ((memReadN mem src 64).map BitVec.toNat)
  memWriteN mem dst ((xtsEncryptLine key (lineTweak dst) plain).map (BitVec.ofNat 8))

/-- The page has moved its fourth time, and is settled from now on (R174). -/
def Migration.settles (m : Migration) : Bool := m.moves + 1 == 4

/-- The leaf after the move: NODE, FRAME, MOVES + 1, and PIN at the fourth (R173, R174). -/
def Migration.leafAfter (m : Migration) (pte : Nat) : Nat :=
  let kept := pte % 2 ^ 10 + pte / 2 ^ 14 % 2 ^ 12 * 2 ^ 14
  kept + (if m.settles then 2 ^ 10 else 0) + (m.moves + 1) * 2 ^ 11 + m.destFrame % 2 ^ 28 * 2 ^ 26
    + m.destNode % 2 ^ 10 * 2 ^ 54

/-- A place of the page as it is after the move. -/
def Migration.moved (m : Migration) (loc : Nat) : Nat :=
  if m.oldPage ≤ loc && loc < m.oldPage + 2 ^ 16 then loc - m.oldPage + m.newPage else loc

/-- A write that is still to be performed goes to the page's new place, and counts there as R250 says. -/
def Migration.write (m : Migration) (own : Nat) (w : Write) : Write :=
  if m.moved w.loc = w.loc then w
  else
    { w with
      loc := m.moved w.loc
      pin := m.settles
      cls := if w.cls = .uncounted then .uncounted
             else if m.destNode = own && m.entry.shd then .versioned else .unversioned }

/-- A kept translation of the leaf names the page's new place. -/
def Migration.page (m : Migration) (e : TlbEntry) : TlbEntry :=
  if e.leaf = m.entry.leaf then { e with node := m.destNode, frame := m.destFrame * 2 ^ 16, pin := m.settles } else e

/-- A place that an instruction has translated is in the page's new frame. -/
def Migration.place (m : Migration) (own : Nat) (p : Place) : Place :=
  { p with
    loc := m.moved p.loc, page := p.page.map m.page
    cls := (m.write own (p.write 0 [])).cls }

/-- A copy command that has started goes on at the new place. -/
def Migration.command (m : Migration) (c : CopyCmd) : CopyCmd :=
  match c.st with
  | .started pages got put => { c with st := .started (pages.map m.page) got put }
  | _ => c

/-- A place of the page's new frame. -/
def Migration.holds (m : Migration) (loc : Nat) : Bool := m.newPage ≤ loc && loc < m.newPage + 2 ^ 16

/-- The lines that a DCWB or an IINV waits for are those of the page's new place (R267). -/
def Migration.wait_ (m : Migration) (w : Wait) : Wait :=
  match w.kind with
  | .dcwb | .iinv => { w with marks := w.marks.map fun l => (m.moved (l.1 * 64) / 64, l.2) }
  | _ => w

/-- What is under way in a context goes on at the new place. -/
def Migration.context (m : Migration) (own : Nat) (x : Context) : Context :=
  let app (a : Append) : Append := { a with items := a.items.map (m.write own) }
  let chan (k : CopyChan) : CopyChan := { k with cmds := k.cmds.map m.command }
  { x with
    held := x.held.map (m.write own), pend := x.pend.map (m.write own), appends := x.appends.map app
    chans := x.chans.map chan
    wait := x.wait.map m.wait_ |>.map fun w => { w with place := w.place.map (m.place own) }
    early := x.early.map fun r => { r with loc := m.moved r.loc }
    fetched := x.fetched.filter fun w => !m.holds w.1 }

/-- The frames of the own pool after the move. -/
def Migration.poolAfter (m : Migration) (s : State) : List Nat :=
  let out := if m.entry.node = s.node then s.pool.filter (· != m.entry.frame / 2 ^ 16) else s.pool
  if m.destNode = s.node then out ++ [m.destFrame] else out

/-- Steps 2 to 5 of a move. -/
def finishMove (s : State) (m : Migration) : State :=
  let mem := (List.range 1024).foldl (moveLine s.keys m) s.mem
  let pte := leafWord s m.entry.leaf
  let ctxs := s.ctxs.map fun e => (e.1, m.context s.node e.2)
  let inPage (l : PlainLine) : Bool :=
    m.moved (l.line * 64) ≠ l.line * 64 || m.holds (l.line * 64)
  let cores := s.cores.map fun e => (e.1, { e.2 with icache := e.2.icache.filter fun w => !m.holds w.1 })
  let t := { s with
    mem := memWriteN mem m.entry.leaf (valBytes 8 (m.leafAfter pte)), poison := movePoison s.poison m.oldPage m.newPage
    ctxs := ctxs, cores := cores, pool := m.poolAfter s, plain := s.plain.filter fun l => !inPage l, migration := none
    stale := s.stale.filter fun e => m.moved e.1 == e.1 && !m.holds e.1 }
  dropEntries t fun e => e.dropped 2 m.entry.va 0

/-- MIGRATION_DONE (R173, R174). -/
def execMigrationDone (s : State) : Host.Outcome State Fault Refusal :=
  match s.migration with
  | none => .next s
  | some m => .next (finishMove s m)

end Sys2Proof.Machine
end

