-- ==== Sys2Proof/Machine/HostRegs.lean ====
section
/-! DEFINITION. Host registers without a row of their own (R276, R280, R281, R284 to R286, R288, R290), under the SEMA
guard (R282). -/

namespace Sys2Proof.Machine

/-! ### SEMA's guard (R282) -/

/-- A guarded write is refused. -/
def State.rejected (s : State) : State := { s with host := { s.host with rej := true } }

/-- A change that needs SEMA: without it the write is ignored and sets rej. -/
def guarded (m : Nat) (f : State → State) (s : State) : State := if s.host.owner = m then f s else s.rejected

/-- A change of the host block. -/
def State.mapHost (s : State) (f : HostBlk → HostBlk) : State := { s with host := f s.host }

/-- A dword after a write of 8 bytes, or of 4 at one of its halves (R276). -/
def putDword (old : Word) (sub bytes : Nat) (v : Word) : Word :=
  if bytes = 8 then v
  else if sub = 0 then (old &&& 0xFFFFFFFF00000000) ||| (v &&& 0xFFFFFFFF)
  else (old &&& 0xFFFFFFFF) ||| (v <<< 32)

/-- A register access is 4 or 8 bytes and naturally aligned (R276). -/
def regAligned (off bytes : Nat) : Bool := (bytes = 4 || bytes = 8) && off % bytes = 0

/-! ### The node's own number (R197, R286) -/

/-- A place, line or key of a node after own and another number change places: `unit` is how many of them a node has. -/
def swapNode (unit a b k : Nat) : Nat :=
  if unit * 1024 ≤ k then k
  else if k / unit = a then b * unit + k % unit
  else if k / unit = b then a * unit + k % unit
  else k

/-- A table with its keys renumbered. -/
def renumberTab {α : Type} (f : Nat → Nat) (t : Tab α) : Tab α := t.foldl (fun u e => tabSet u (f e.1) e.2) []

/-- The node takes a number: its own memory, key slots and access tables are now that node's. -/
def renumber (s : State) (n : BitVec 10) : State :=
  let f (unit : Nat) : Nat → Nat := swapNode unit s.node n.toNat
  let patrol := s.patrol.map fun e => (f (2 ^ 38) e.1, e.2)
  { s with
    mem := s.mem.foldl (fun m c => memWrite m (f (2 ^ 44) c.1) c.2) []
    keys := renumberTab (f 4096) s.keys, tables := renumberTab (f (11 * 512)) s.tables
    tablesOld := s.tablesOld.map (renumberTab (f (11 * 512)))
    plain := s.plain.map fun l => { l with line := f (2 ^ 38) l.line }
    poison := renumberTab (f (2 ^ 38)) s.poison, stale := renumberTab (f (2 ^ 44)) s.stale, patrol := patrol
    host := { s.host with nodeid := n } }

/-! ### The blocks of R280 -/

/-- A change of one SPACE entry's dword. The images are held and read back as written, reserved bits too, since R281 has the
dwords RW; they take no part in the space that the entry gives (R161; log entry 97). -/
def SpaceEntry.put (e : SpaceEntry) (d sub bytes : Nat) (v : Word) : SpaceEntry :=
  match d with
  | 0 => { e with ptroot := putDword e.ptroot sub bytes v }
  | 1 => { e with asid := putDword e.asid sub bytes v }
  | 2 => { e with keydef := putDword e.keydef sub bytes v }
  | _ => { e with valid := (putDword (Word.ofBool e.valid) sub bytes v).getLsbD 0 }

def SpaceEntry.reset : SpaceEntry := { ptroot := 0, asid := 0, keydef := 0, valid := false }

/-- SPACE n, dword d. -/
def putSpace (n d sub bytes : Nat) (v : Word) (h : HostBlk) : HostBlk :=
  { h with spaces := tabSet h.spaces n ((tabGet .reset h.spaces n).put d sub bytes v) }

/-- SCRUBP: 0 is stored as 1. -/
def scrubOf (v : Word) : BitVec 32 := if v.setWidth 32 = 0#32 then 1 else v.setWidth 32

/-- LSTAT: ovf and bad are cleared by writing 1 to them, in the master's own copy. -/
def clearLstat (m : Nat) (w : Word) (h : HostBlk) : HostBlk :=
  { h with
    ovf := if w.getLsbD 8 then h.ovf.setIfInBounds (m - 1) false else h.ovf
    bad := if w.getLsbD 9 then h.bad.setIfInBounds (m - 1) false else h.bad }

/-- The module block. -/
def writeModule (m off bytes : Nat) (v : Word) (s : State) : State :=
  let sub := off % 8
  let g (f : HostBlk → HostBlk) : State := guarded m (·.mapHost f) s
  let put (old : Word) : Word := putDword old sub bytes v
  match off / 8 * 8 with
  | 0x10 => s.mapHost (clearLstat m (put 0))
  | 0x20 => g fun h => { h with clsw := put h.clsw }
  | 0x28 => g fun h => { h with bar2base := put h.bar2base &&& 0x00000FFFC0000000 }
  | 0x40 => g fun h => { h with migbase := put h.migbase &&& 0x00000FFFFFFF0000 }
  | 0x48 => g fun h => { h with miglen := (put (h.miglen.setWidth 64)).setWidth 32 }
  | 0x50 => g fun h => { h with scrubp := scrubOf (put (h.scrubp.setWidth 64)) }
  | base =>
    if 0x1000 ≤ base && base < 0x1000 + 64 * 32 then g (putSpace ((base - 0x1000) / 32) (base / 8 % 4) sub bytes v)
    else if 0x2008 ≤ base && base < 0x2048 then
      let i := (base - 0x2008) / 8
      g fun h => { h with keydata := h.keydata.setIfInBounds i (put (h.keydata.toList.getD i 0)) }
    else s

/-- Dword i of a 256-bit register written. -/
def putWide (old : BitVec 256) (i sub bytes : Nat) (v : Word) : BitVec 256 :=
  let w := putDword ((old >>> (64 * i)).setWidth 64) sub bytes v
  (old &&& ~~~((BitVec.allOnes 64).setWidth 256 <<< (64 * i))) ||| (w.setWidth 256 <<< (64 * i))

/-- The boot block: MEASIN, NONCE and QSEL, which a quote in progress refuses (R288). -/
def writeBoot (m off bytes : Nat) (v : Word) (s : State) : State :=
  let sub := off % 8
  let base := off / 8 * 8
  let g (f : HostBlk → HostBlk) : State :=
    guarded m (fun s => if s.host.qgo then s.rejected else s.mapHost f) s
  if 0x300 ≤ base && base < 0x320 then g fun h => { h with measin := putWide h.measin ((base - 0x300) / 8) sub bytes v }
  else if 0x400 ≤ base && base < 0x420 then g fun h => { h with nonce := putWide h.nonce ((base - 0x400) / 8) sub bytes v }
  else if base = 0x420 then g fun h => { h with qsel := (putDword (h.qsel.setWidth 64) sub bytes v).setWidth 16 }
  else s

/-- The fabric block: NODEID and TORUS, until a launch has been accepted (R286). -/
def writeFabric (m off bytes : Nat) (v : Word) (s : State) : State :=
  let sub := off % 8
  let g (f : State → State) : State := guarded m (fun s => if s.host.accepted then s.rejected else f s) s
  match off / 8 * 8 with
  | 0x00 => g fun s => renumber s ((putDword (s.host.nodeid.setWidth 64) sub bytes v).setWidth 10)
  | 0x08 => g (·.mapHost fun h => { h with torus := (putDword (h.torus.setWidth 64) sub bytes v).setWidth 10 })
  | _ => s

/-- The bits that an access-table entry holds: the others are reserved (R281, R284). -/
def tableMask (off : Nat) : Word := if off % 16 < 8 then 0x0FFFFFFF else 0xC0FFFFFFFFFFFFFF

/-- The access tables (R284): dword d of entry i of target t. Device code meets the tables as they were, or the edited ones,
until the TLB entries that the edit affects have been invalidated; one that affects none is in effect at once (R156; log entry
80). -/
def writeTable (m off bytes : Nat) (v : Word) (s : State) : State :=
  let k := tableKey s.node (off / 0x1000) (off % 0x1000 / 16) (off % 16 / 8)
  guarded m (fun s => settleTables { s with
    tables := tabSet s.tables k (putDword (tabGet 0 s.tables k) (off % 8) bytes v &&& tableMask off)
    tablesOld := s.tablesOld.or (some s.tables) }) s

/-- STRHOLD of a die. -/
def writeHold (d : Nat) (w : Word) (s : State) : State :=
  (List.range 12).foldl (fun s k => s.setStr (12 * d + k) { s.strAt (12 * d + k) with hold := w.getLsbD k }) s

/-- STRHOLD as it reads. -/
def holdWord (d : Nat) (s : State) : Word :=
  BitVec.ofNat 64 ((List.range 12).foldl (fun n k => n + (s.strAt (12 * d + k)).hold.toNat * 2 ^ k) 0)

/-- The die blocks: STRHOLD alone has no row of its own (R285). -/
def writeDie (m off bytes : Nat) (v : Word) (s : State) : State :=
  let d := off / 0x10000
  if off % 0x10000 / 8 * 8 = 0x08 then guarded m (fun s => writeHold d (putDword (holdWord d s) (off % 8) bytes v) s) s
  else s

/-! ### Counters (R290): an enabled count has moved on by a physical amount (R61) -/

/-- An EVSEL of a die or a string enables a source of its kind: the sources run from `lo` to `hi`. -/
def counts (lo hi : Nat) (sel : BitVec 10) : Bool :=
  sel.getLsbD 8 && lo ≤ sel.toNat % 256 && sel.toNat % 256 ≤ hi

/-- Counter i of a die brought up to date. -/
def countDie (s : State) (d i : Nat) : State :=
  let k := s.dieAt d
  if counts 0x20 0x27 (k.evsel.toList.getD i 0) then
    let w := s.draw
    w.2.setDie d { k with evcnt := k.evcnt.setIfInBounds i (k.evcnt.toList.getD i 0 + w.1) }
  else s

/-- Counter i of a string brought up to date. -/
def countStr (s : State) (n i : Nat) : State :=
  let t := s.strAt n
  if counts 0x40 0x44 (t.evsel.toList.getD i 0) then
    let w := s.draw
    w.2.setStr n { t with evcnt := t.evcnt.setIfInBounds i (t.evcnt.toList.getD i 0 + w.1) }
  else s

/-- An EVSEL or EVCNT of a core, die or string written; n is how many of each it has. Bit 9 of an EVSEL is held on dies and
strings too, where R290 gives it no meaning (R8; log entry 95). -/
def putCounter {n : Nat} (sel : Vector (BitVec 10) n) (cnt : Vector Word n) (off bytes : Nat) (v : Word) :
    Vector (BitVec 10) n × Vector Word n :=
  let i := off / 8
  if i < n then
    (sel.setIfInBounds i ((putDword ((sel.toList.getD i 0).setWidth 64) (off % 8) bytes v).setWidth 10), cnt)
  else (sel, cnt.setIfInBounds (i - n) (putDword (cnt.toList.getD (i - n) 0) (off % 8) bytes v))

/-- The counters of a core, die or string. They stand under no guard. -/
def writeCounters (off bytes : Nat) (v : Word) (s : State) : State :=
  if 0x200000 ≤ off && off < 0x200000 + 384 * 0x100 then
    let c := (off - 0x200000) / 0x100
    let o := (off - 0x200000) % 0x100
    if o < 0x80 then
      let s := countCore s c (o / 8 % 8)
      let k := s.coreAt c
      let r := putCounter k.evsel k.evcnt o bytes v
      countFrom (s.setCore c { k with evsel := r.1, evcnt := r.2 }) c (o / 8 % 8)
    else s
  else if 0x300000 ≤ off && off < 0x300200 then
    let d := (off - 0x300000) / 0x100
    let o := (off - 0x300000) % 0x100
    let s := countDie s d (o / 8 % 16)
    let k := s.dieAt d
    let r := putCounter k.evsel k.evcnt o bytes v
    s.setDie d { k with evsel := r.1, evcnt := r.2 }
  else if 0x310000 ≤ off && off < 0x310000 + 24 * 0x80 then
    let n := (off - 0x310000) / 0x80
    let o := (off - 0x310000) % 0x80
    let s := countStr s n (o / 8 % 8)
    let t := s.strAt n
    let r := putCounter t.evsel t.evcnt o bytes v
    s.setStr n { t with evsel := r.1, evcnt := r.2 }
  else s

/-- A write at an offset of BAR0 (R280). -/
def writeReg (m off bytes : Nat) (v : Word) (s : State) : State :=
  if off < 0x10000 then writeModule m off bytes v s
  else if off < 0x20000 then writeBoot m (off - 0x10000) bytes v s
  else if off < 0x80000 then writeFabric m (off - 0x20000) bytes v s
  else if off < 0x8B000 then writeTable m (off - 0x80000) bytes v s
  else if 0x100000 ≤ off && off < 0x120000 then writeDie m (off - 0x100000) bytes v s
  else writeCounters off bytes v s

/-- REGISTER_WRITE (R276, R281, R282). -/
def execRegisterWrite (m off bytes : Nat) (v : BitVec 64) (s : State) : Host.Outcome State Fault Refusal :=
  hostReach m off true (.registerWrite m off bytes v) id
    (fun s => .next (if regAligned off bytes then writeReg m off bytes v s else s)) s

end Sys2Proof.Machine
end

