-- ==== Sys2Proof/Machine/HostCmds.lean ====
section
/-! DEFINITION. Host registers and accesses with rows of their own: SEMA (R282), the key table (R152, R281),
ATFLUSH (R284), partitions, caps and power (R285, R289), BAR2 (R277), reset, boot and attestation (R287, R288). -/

namespace Sys2Proof.Machine

/-! ### SEMA (R282) -/

/-- SEMA_READ: the read returns owner after the update. -/
def execSemaRead (m : Nat) (s : State) : Host.Outcome State Fault Refusal :=
  hostReach m 0 false (.busRead m 0 8) (readAllOnes 8) (fun s =>
    let owner := if s.host.owner = 0 then m else s.host.owner
    .next (s.mapHost fun h => { h with owner := owner, lastRead := BitVec.ofNat 64 (owner + h.rej.toNat * 256) })) s

/-- SEMA_WRITE. -/
def execSemaWrite (m : Nat) (v : BitVec 64) (s : State) : Host.Outcome State Fault Refusal :=
  hostWrites m 0 v (fun s => .next (
    if s.host.owner = m then s.mapHost fun h => { h with owner := 0, rej := h.rej && !v.getLsbD 8 } else s.rejected)) s

/-- PCIE_LINK_DOWN. -/
def execPcieLinkDown (p : Nat) (s : State) : Host.Outcome State Fault Refusal :=
  if !(p == 1 || p == 2) then .fault .noSuchPart
  else .next (if s.host.owner = p then s.mapHost fun h => { h with owner := 0 } else s)

/-! ### Keys and flushes -/

/-- The 512 bits of KEYDATA. -/
def HostBlk.keyBits (h : HostBlk) : BitVec 512 :=
  BitVec.ofNat 512 ((List.range 8).foldl (fun n i => n + (h.keydata.toList.getD i 0).toNat * 2 ^ (64 * i)) 0)

/-- KEYCMD_LOAD (R281): slot 0 ignores it. -/
def execKeycmdLoad (m n : Nat) (s : State) : Host.Outcome State Fault Refusal :=
  if 4096 ≤ n then .fault .noSuchPart
  else hostWrites m 0x2000 (BitVec.ofNat 64 (n + 2 ^ 16)) (fun s => .next (guarded m (fun s =>
    if n = 0 then s else setSlot (s.node * 4096 + n) (some s.host.keyBits) s) s)) s

/-- KEYCMD_EMPTY (R281): slot 0 ignores it. -/
def execKeycmdEmpty (m n : Nat) (s : State) : Host.Outcome State Fault Refusal :=
  if 4096 ≤ n then .fault .noSuchPart
  else hostWrites m 0x2000 (BitVec.ofNat 64 (n + 2 ^ 17)) (fun s => .next (guarded m (fun s =>
    if n = 0 then s else setSlot (s.node * 4096 + n) none s) s)) s

/-- ATFLUSH_GO (R284). -/
def execAtflushGo (m : Nat) (s : State) : Host.Outcome State Fault Refusal :=
  hostWrites m 0x38 1 (fun s => .next (guarded m (·.mapHost fun h => { h with atflush := true }) s)) s

/-- The invalidation of kind 3 can end (R175, R284). -/
def flushReady (s : State) : Bool := s.host.atflush && s.busOpen && targetsDone s (fun _ => true)

/-- ATFLUSH_DONE (R284): the edited tables alone are in force (R156). -/
def execAtflushDone (s : State) : Host.Outcome State Fault Refusal :=
  .next (if flushReady s then
    ({ dropEntries s fun _ => true with tablesOld := none }).mapHost fun h => { h with atflush := false } else s)

/-! ### Partitions, caps and power (R285, R289) -/

/-- A task of the module runs. -/
def State.anyTask (s : State) : Bool := s.ctxs.any fun e => e.2.task.isSome

/-- PARTSZ_WRITE. -/
def execPartszWrite (m d : Nat) (v : BitVec 64) (s : State) : Host.Outcome State Fault Refusal :=
  if 2 ≤ d then .fault .noSuchPart
  else hostWrites m (0x100000 + d * 0x10000) v (fun s =>
    let n := v.toNat % 16
    .next (guarded m (fun s =>
      if 8 < n || s.anyTask then s.rejected else s.setDie d { s.dieAt d with partsz := n }) s)) s

/-- The caps of a die's strings written. -/
def putCaps (d : Nat) (v : Word) (s : State) : State :=
  (List.range 12).foldl (fun s k =>
    let t := s.strAt (12 * d + k)
    s.setStr (12 * d + k) (t.restep t.step (v.toNat / 4 ^ k % 4))) s

/-- STRCAP_WRITE (R54, R285). -/
def execStrcapWrite (m d : Nat) (v : BitVec 64) (s : State) : Host.Outcome State Fault Refusal :=
  if 2 ≤ d then .fault .noSuchPart
  else hostWrites m (0x100028 + d * 0x10000) v (fun s => .next (guarded m (putCaps d v) s)) s

/-- A STRPWR value clears no bit outside the gating sequence (R289). -/
def gatesRightly (d : Nat) (v : Word) (s : State) : Bool :=
  (List.range 12).all fun k =>
    let n := 12 * d + k
    !(s.strAt n).pwr || v.getLsbD k || ((s.strAt n).hold && !strBusy s n)

/-- The requested powers of a die's strings written. -/
def putPower (d : Nat) (v : Word) (s : State) : State :=
  (List.range 12).foldl (fun s k => s.setStr (12 * d + k) { s.strAt (12 * d + k) with pwr := v.getLsbD k }) s

/-- STRPWR_WRITE (R285, R289): boot ends where no string is left to wait for (R287). -/
def execStrpwrWrite (m d : Nat) (v : BitVec 64) (s : State) : Host.Outcome State Fault Refusal :=
  if 2 ≤ d then .fault .noSuchPart
  else hostWrites m (0x100010 + d * 0x10000) v (fun s => .next (
    guarded m (fun s => if gatesRightly d v s then bootEnds (putPower d v s) else s.rejected) s)) s

/-! ### BAR2 (R277) -/

/-- The host chooses the window's size through the Resizable BAR capability: 2 to the n bytes, from 1 GiB to 512 GiB
(R276, R277). -/
def resizeBar2 (n : Nat) (s : State) : State :=
  if 30 ≤ n && n ≤ 39 then s.mapHost fun h => { h with bar2size := n } else s

/-- The physical address of a BAR2 access, where it is performed. -/
def bar2Place (s : State) (off bytes : Nat) (write : Bool) : Option Nat :=
  let pa := s.host.bar2base.toNat + off
  let fine (a : Nat) : Bool := inHbm a && hostAllows s 1 a write
  if off + bytes ≤ 2 ^ s.host.bar2size && fine pa && fine (pa + bytes - 1) then some (nodePlace s.node pa) else none

/-- BAR2_READ (R277): raw bytes, and all ones where the access is dropped. During a moult or a move it is held. It reads under
effective key index 0, so that a line cached under another index is evicted first (R153). -/
def execBar2Read (off bytes : Nat) (s : State) : Host.Outcome State Fault Refusal :=
  if !s.flows then .next (s.hold (.bar2Read off bytes))
  else
    match bar2Place s off bytes false with
    | some loc =>
      let t := (pieces loc (zeros bytes)).foldl (fun t e => { t with plain := otherKey t.plain e.1 0 }) s
      .next (t.mapHost fun h => { h with lastRead := BitVec.ofNat 64 (bytesVal (memReadN s.mem loc bytes)) })
    | none => .next (readAllOnes bytes s)

/-- A write of a host at its home, under effective key index 0. -/
def hostWrite (s : State) (loc : Nat) (bs : List Byte) : State :=
  (pieces loc bs).foldl (fun s e =>
    performAt s { strm := 0, loose := false, loc := e.1, key := 0, enc := false, bytes := e.2, nib := none, pin := false,
                  cls := .uncounted, acc := none }) s

/-- BAR2_WRITE (R277). -/
def execBar2Write (off bytes : Nat) (v : BitVec 64) (s : State) : Host.Outcome State Fault Refusal :=
  if !s.flows then .next (s.hold (.bar2Write off bytes v))
  else match bar2Place s off bytes true with
    | some loc => .next (hostWrite s loc (valBytes bytes v.toNat))
    | none => .next s

/-! ### Reset and boot (R281, R287) -/

/-- Entries of a table that belong to peer nodes: `unit` is how many keys a node has. -/
def peersOf {α : Type} (unit node : Nat) (t : Tab α) : Tab α := t.filter fun e => e.1 / unit != node

/-- Module reset: everything of the module is as State.reset says. Stored bytes, what peers hold, and what the outside
has seen stay. -/
def resetModule (s : State) : State :=
  let t := renumber s 0
  { State.reset with
    mem := t.mem, poison := t.poison, keys := peersOf 4096 0 t.keys, tables := peersOf (11 * 512) 0 t.tables
    inputs := s.inputs, tick := s.tick
    host := { HostBlk.reset with msix := s.host.msix, lastRead := s.host.lastRead } }

/-- RESET_GO (R281). -/
def execResetGo (m : Nat) (s : State) : Host.Outcome State Fault Refusal :=
  hostWrites m 0x30 1 (fun s => .next (guarded m resetModule s)) s

/-- The bytes of a 256-bit value, lowest first. -/
def wideBytes (v : BitVec 256) : List Nat := natBytes 32 v.toNat

/-- A measurement extended by a value (R287, R288). -/
def extendMeas (n : Nat) (v : BitVec 256) (h : HostBlk) : HostBlk :=
  let old := h.meas.toList.getD n 0
  { h with meas := h.meas.setIfInBounds n (BitVec.ofNat 256 (sha3 (wideBytes old ++ wideBytes v))) }

/-- What the boot ROM measures. -/
def measureFirmware (h : HostBlk) : HostBlk := extendMeas 1 Config.publicKeyHash (extendMeas 0 Config.firmwareDigest h)

/-- BOOT_ROM (R287): steps 1 to 4; strings follow, or the boot has failed. Where the firmware does not verify, MEAS0 and MEAS1
are not extended, which R287 does not say (log entry 97). -/
def execBootRom (s : State) : Host.Outcome State Fault Refusal :=
  if s.host.booted then .next s
  else
    let t := { s with keys := tabSet s.keys (s.node * 4096) (Config.nodeKey s.tick) }
    .next (t.mapHost fun h =>
      let h := { h with booted := true }
      if Config.firmwareVerifies then measureFirmware h else { h with bootst := 2 })

/-! ### Attestation (R288) -/

/-- MEASCMD_EXTEND: 0 and 1 are ignored; MEASCMD reads the number last written. -/
def execMeascmdExtend (m n : Nat) (s : State) : Host.Outcome State Fault Refusal :=
  if 16 ≤ n then .fault .noSuchPart
  else hostWrites m 0x10320 (BitVec.ofNat 64 n) (fun s => .next (guarded m (fun s =>
    if n < 2 then s else s.mapHost fun h => { extendMeas n h.measin h with meascmd := BitVec.ofNat 4 n }) s)) s

/-- QCMD_GO. -/
def execQcmdGo (m : Nat) (s : State) : Host.Outcome State Fault Refusal :=
  hostWrites m 0x10428 1 (fun s => .next (guarded m (·.mapHost fun h => { h with qgo := true }) s)) s

/-- The digest that a quote signs. -/
def quoteDigest (h : HostBlk) : BitVec 256 :=
  let chosen := (List.range 16).filter fun n => h.qsel.getLsbD n
  BitVec.ofNat 256 (sha3 ([Config.features] ++ natBytes 2 h.qsel.toNat ++ wideBytes h.nonce
    ++ chosen.flatMap fun n => wideBytes (h.meas.toList.getD n 0)))

/-- QUOTE_READY: the signature is the identity key's. -/
def execQuoteReady (s : State) : Host.Outcome State Fault Refusal :=
  if !s.host.qgo then .next s
  else .next (s.mapHost fun h =>
    { h with qgo := false, qsig := (List.range 2420).map (Config.quoteSignature (quoteDigest h)) })

end Sys2Proof.Machine
end

