-- ==== Sys2Proof/Machine/ScalarFp.lean ====
section
/-! DEFINITION. Scalar floating-point instructions (R299, R329 to R337): sources from the low bits of their
registers, one rounding, flags into FPFLAGS, one draw of the generator under rounding mode 5. -/

namespace Sys2Proof.Machine

/-- The format of a scalar floating instruction (R330). -/
def sfmt (f : BitVec 2) : FFmt :=
  match f.toNat with
  | 0 => .f64
  | 1 => .f32
  | 2 => .f16
  | _ => .bf16

/-- A source's bits of a format: the low bits of the register (R63). -/
def lowBits (f : FFmt) (v : Word) : Nat := v.toNat % 2 ^ f.width

/-- A scalar floating instruction that rounds once: the result under R63, the flags, and one draw under mode 5
(R330). -/
def fpRound (d : BitVec 5) (op : Context → FpCtl → Nat → Nat × Flags) (s : State) :
    Host.Outcome State Fault Refusal :=
  .next (s.retireWith fun x =>
    let r := x.fp.roundOnce (op x x.fp.ctl)
    { x.setReg d (BitVec.ofNat 64 r.1) with fp := r.2 })

/-- An arithmetic operation of R332 on a, b and the old value of the destination. -/
def fpScalar (op : FOp) (d a b : BitVec 5) (f : BitVec 2) (s : State) : Host.Outcome State Fault Refusal :=
  fpRound d (fun x c g =>
    fpArith op (sfmt f) c g (lowBits (sfmt f) (x.reg a)) (lowBits (sfmt f) (x.reg b)) (lowBits (sfmt f) (x.reg d))) s

/-- FMIN or FMAX: nothing is rounded and nothing drawn (R337). -/
def fpPick (isMax : Bool) (d a b : BitVec 5) (f : BitVec 2) (s : State) : Host.Outcome State Fault Refusal :=
  .next (s.retireWith fun x =>
    let r := fpMinMax isMax (sfmt f) x.fp.ftz (lowBits (sfmt f) (x.reg a)) (lowBits (sfmt f) (x.reg b))
    (x.setReg d (BitVec.ofNat 64 r.1)).orFlags r.2)

/-- The source of FCVT: a floating operand, or the integer value of the register (R335). -/
def cvtSource (c : FpCtl) (f k : BitVec 2) (v : Word) : Operand :=
  match k.toNat with
  | 0 => (sfmt f).decode c.ftz (lowBits (sfmt f) v)
  | 1 => { val := exactOfInteger v.toInt, snan := false }
  | _ => { val := exactOfInteger v.toNat, snan := false }

/-- The result of FCVT (R336): targets 0 to 3 are floating, 4 to 7 are s64, z64, s32 and z32. A signalling NaN
source of a floating target sets NV (R89; log entry 19). -/
def fpConvert (t : BitVec 3) (f k : BitVec 2) (c : FpCtl) (g : Nat) (v : Word) : Nat × Flags :=
  let o := cvtSource c f k v
  if t.toNat < 4 then
    let fmt := sfmt (t.setWidth 2)
    let r := roundTo fmt c g (fmt.saturates c.sat8) o.val
    (r.1, r.2 ||| (if o.snan then flagNV else 0))
  else
    let w := if t.toNat < 6 then 64 else 32
    let sgn := t.toNat % 2 == 0
    let r := floatToInt w sgn c.rm g o.val
    ((BitVec.ofInt 64 (intOf w sgn r.1)).toNat, r.2)

/-- FADD (R332, R333). -/
def execFadd (d a b : BitVec 5) (f : BitVec 2) (s : State) : Host.Outcome State Fault Refusal :=
  fpScalar .add d a b f s

/-- FSUB (R332, R333). -/
def execFsub (d a b : BitVec 5) (f : BitVec 2) (s : State) : Host.Outcome State Fault Refusal :=
  fpScalar .sub d a b f s

/-- FMUL (R332, R333). -/
def execFmul (d a b : BitVec 5) (f : BitVec 2) (s : State) : Host.Outcome State Fault Refusal :=
  fpScalar .mul d a b f s

/-- FMA (R332, R333). -/
def execFma (d a b : BitVec 5) (f : BitVec 2) (s : State) : Host.Outcome State Fault Refusal :=
  fpScalar .fma d a b f s

/-- FDIV (R332, R333). -/
def execFdiv (d a b : BitVec 5) (f : BitVec 2) (s : State) : Host.Outcome State Fault Refusal :=
  fpScalar .div d a b f s

/-- FSQRT (R332, R333). -/
def execFsqrt (d a : BitVec 5) (f : BitVec 2) (s : State) : Host.Outcome State Fault Refusal :=
  fpScalar .sqrt d a a f s

/-- FMIN (R337). -/
def execFmin (d a b : BitVec 5) (f : BitVec 2) (s : State) : Host.Outcome State Fault Refusal :=
  fpPick false d a b f s

/-- FMAX (R337). -/
def execFmax (d a b : BitVec 5) (f : BitVec 2) (s : State) : Host.Outcome State Fault Refusal :=
  fpPick true d a b f s

/-- FCMP: the condition bit, and NV for a signalling NaN (R334). -/
def execFcmp (c : BitVec 3) (a b : BitVec 5) (f r : BitVec 2) (s : State) : Host.Outcome State Fault Refusal :=
  .next (s.retireWith fun x =>
    let t := fpCompare (fcmpRel r.toNat) (sfmt f) x.fp.ftz (lowBits (sfmt f) (x.reg a)) (lowBits (sfmt f) (x.reg b))
    (x.setCond c t.1).orFlags t.2)

/-- FCVT (R335, R336). -/
def execFcvt (d a : BitVec 5) (t : BitVec 3) (f k : BitVec 2) (s : State) : Host.Outcome State Fault Refusal :=
  fpRound d (fun x c g => fpConvert t f k c g (x.reg a)) s

end Sys2Proof.Machine
end

