-- ==== Sys2Proof/Machine/ScalarInt.lean ====
section
/-! DEFINITION. Scalar integer instructions and condition bits (R298, R316 to R318, R324, R326 to R328, R347,
R351, R352, R391). Each computes on 64-bit values, wraps modulo 2^64, sets no flag and makes no access. -/

namespace Sys2Proof.Machine

/-- A scalar-class word that writes one register and retires (R63, R67). -/
def scalarWrite (d : BitVec 5) (f : Context → Word) (s : State) : Host.Outcome State Fault Refusal :=
  .next (s.retireWith fun x => x.setReg d (f x))

/-- A scalar-class word that writes one condition bit and retires. -/
def condWrite (d : BitVec 3) (f : Context → Bool) (s : State) : Host.Outcome State Fault Refusal :=
  .next (s.retireWith fun x => x.setCond d (f x))

/-- The value of a register read as signed (z = 0) or unsigned (z = 1). -/
def signedOf (z : BitVec 1) (v : Word) : Int := if z = 0 then v.toInt else v.toNat

/-- Bits 127:64 of the exact product (R99). -/
def mulHigh (z : BitVec 1) (a b : Word) : Word := BitVec.ofInt 64 (signedOf z a * signedOf z b / 2 ^ 64)

/-- The quotient of R99 and R328. -/
def quotient (z : BitVec 1) (a b : Word) : Word :=
  BitVec.ofInt 64 (intDiv 64 (z == 0) (signedOf z a) (signedOf z b))

/-- The remainder of R99. -/
def remainder (z : BitVec 1) (a b : Word) : Word := BitVec.ofInt 64 (intRem (signedOf z a) (signedOf z b))

/-- The smaller of two values. -/
def lesser (z : BitVec 1) (a b : Word) : Word := if signedOf z b < signedOf z a then b else a

/-- The larger of two values. -/
def greater (z : BitVec 1) (a b : Word) : Word := if signedOf z a < signedOf z b then b else a

/-- The zero bits above the highest set bit (R326). -/
def leadingZeros (a : Word) : Nat := if a = 0 then 64 else 63 - Nat.log2 a.toNat

/-- The set bits of a number below bit n. -/
def countBits (v : Nat) : Nat → Nat
  | 0 => 0
  | n + 1 => countBits v n + (v / 2 ^ n) % 2

/-- A comparison of CMP: the relations 0 to 5 of R313 under a signedness (R327). -/
def compare64 (r : BitVec 3) (z : BitVec 1) (a b : Word) : Bool :=
  intCompare (relOf r.toNat) (signedOf z a) (signedOf z b)

/-- ADD, register form (R317). -/
def execAddReg (d a b : BitVec 5) (s : State) : Host.Outcome State Fault Refusal :=
  scalarWrite d (fun x => x.reg a + x.reg b) s

/-- ADD, immediate form (R317). -/
def execAddImm (d a : BitVec 5) (i : BitVec 15) (s : State) : Host.Outcome State Fault Refusal :=
  scalarWrite d (fun x => x.reg a + i.signExtend 64) s

/-- AND, register form (R318). -/
def execAndReg (d a b : BitVec 5) (s : State) : Host.Outcome State Fault Refusal :=
  scalarWrite d (fun x => x.reg a &&& x.reg b) s

/-- AND, immediate form (R318). -/
def execAndImm (d a : BitVec 5) (i : BitVec 15) (s : State) : Host.Outcome State Fault Refusal :=
  scalarWrite d (fun x => x.reg a &&& i.signExtend 64) s

/-- OR, register form (R351). -/
def execOrReg (d a b : BitVec 5) (s : State) : Host.Outcome State Fault Refusal :=
  scalarWrite d (fun x => x.reg a ||| x.reg b) s

/-- OR, immediate form (R352). -/
def execOrImm (d a : BitVec 5) (i : BitVec 15) (s : State) : Host.Outcome State Fault Refusal :=
  scalarWrite d (fun x => x.reg a ||| i.signExtend 64) s

/-- XOR, register form (R391). -/
def execXorReg (d a b : BitVec 5) (s : State) : Host.Outcome State Fault Refusal :=
  scalarWrite d (fun x => x.reg a ^^^ x.reg b) s

/-- XOR, immediate form (R391). -/
def execXorImm (d a : BitVec 5) (i : BitVec 15) (s : State) : Host.Outcome State Fault Refusal :=
  scalarWrite d (fun x => x.reg a ^^^ i.signExtend 64) s

/-- SUB (R351). -/
def execSub (d a b : BitVec 5) (s : State) : Host.Outcome State Fault Refusal :=
  scalarWrite d (fun x => x.reg a - x.reg b) s

/-- MUL (R351). -/
def execMul (d a b : BitVec 5) (s : State) : Host.Outcome State Fault Refusal :=
  scalarWrite d (fun x => x.reg a * x.reg b) s

/-- MULH (R99, R351). -/
def execMulh (d a b : BitVec 5) (z : BitVec 1) (s : State) : Host.Outcome State Fault Refusal :=
  scalarWrite d (fun x => mulHigh z (x.reg a) (x.reg b)) s

/-- DIV (R99, R328). -/
def execDiv (d a b : BitVec 5) (z : BitVec 1) (s : State) : Host.Outcome State Fault Refusal :=
  scalarWrite d (fun x => quotient z (x.reg a) (x.reg b)) s

/-- REM (R99, R351). -/
def execRem (d a b : BitVec 5) (z : BitVec 1) (s : State) : Host.Outcome State Fault Refusal :=
  scalarWrite d (fun x => remainder z (x.reg a) (x.reg b)) s

/-- SHL by a register, modulo 64 (R351). -/
def execShlReg (d a b : BitVec 5) (s : State) : Host.Outcome State Fault Refusal :=
  scalarWrite d (fun x => x.reg a <<< ((x.reg b).toNat % 64)) s

/-- SHR by a register, modulo 64 (R351). -/
def execShrReg (d a b : BitVec 5) (s : State) : Host.Outcome State Fault Refusal :=
  scalarWrite d (fun x => x.reg a >>> ((x.reg b).toNat % 64)) s

/-- SRA by a register, modulo 64 (R351). -/
def execSraReg (d a b : BitVec 5) (s : State) : Host.Outcome State Fault Refusal :=
  scalarWrite d (fun x => (x.reg a).sshiftRight ((x.reg b).toNat % 64)) s

/-- SHL by an immediate (R352). -/
def execShlImm (d a : BitVec 5) (n : BitVec 6) (s : State) : Host.Outcome State Fault Refusal :=
  scalarWrite d (fun x => x.reg a <<< n.toNat) s

/-- SHR by an immediate (R352). -/
def execShrImm (d a : BitVec 5) (n : BitVec 6) (s : State) : Host.Outcome State Fault Refusal :=
  scalarWrite d (fun x => x.reg a >>> n.toNat) s

/-- SRA by an immediate (R352). -/
def execSraImm (d a : BitVec 5) (n : BitVec 6) (s : State) : Host.Outcome State Fault Refusal :=
  scalarWrite d (fun x => (x.reg a).sshiftRight n.toNat) s

/-- MIN (R351). -/
def execMin (d a b : BitVec 5) (z : BitVec 1) (s : State) : Host.Outcome State Fault Refusal :=
  scalarWrite d (fun x => lesser z (x.reg a) (x.reg b)) s

/-- MAX (R351). -/
def execMax (d a b : BitVec 5) (z : BitVec 1) (s : State) : Host.Outcome State Fault Refusal :=
  scalarWrite d (fun x => greater z (x.reg a) (x.reg b)) s

/-- CLZ (R326). -/
def execClz (d a : BitVec 5) (s : State) : Host.Outcome State Fault Refusal :=
  scalarWrite d (fun x => BitVec.ofNat 64 (leadingZeros (x.reg a))) s

/-- POPC (R351). -/
def execPopc (d a : BitVec 5) (s : State) : Host.Outcome State Fault Refusal :=
  scalarWrite d (fun x => BitVec.ofNat 64 (countBits (x.reg a).toNat 64)) s

/-- SEL (R351). -/
def execSel (d a b : BitVec 5) (c : BitVec 3) (s : State) : Host.Outcome State Fault Refusal :=
  scalarWrite d (fun x => if x.cond c then x.reg a else x.reg b) s

/-- CMP, register form (R327). -/
def execCmpReg (c : BitVec 3) (a b : BitVec 5) (z : BitVec 1) (r : BitVec 3) (s : State) : Host.Outcome State Fault Refusal :=
  condWrite c (fun x => compare64 r z (x.reg a) (x.reg b)) s

/-- CMP, immediate form: the immediate is sign-extended and then compared under z (R327). -/
def execCmpImm (c r : BitVec 3) (a : BitVec 5) (z : BitVec 1) (i : BitVec 13) (s : State) : Host.Outcome State Fault Refusal :=
  condWrite c (fun x => compare64 r z (x.reg a) (i.signExtend 64)) s

/-- CBIT and (R324). -/
def execCbitAnd (d a b : BitVec 3) (s : State) : Host.Outcome State Fault Refusal :=
  condWrite d (fun x => x.cond a && x.cond b) s

/-- CBIT or (R324). -/
def execCbitOr (d a b : BitVec 3) (s : State) : Host.Outcome State Fault Refusal :=
  condWrite d (fun x => x.cond a || x.cond b) s

/-- CBIT xor (R324). -/
def execCbitXor (d a b : BitVec 3) (s : State) : Host.Outcome State Fault Refusal :=
  condWrite d (fun x => x.cond a != x.cond b) s

/-- CBIT andn (R324). -/
def execCbitAndn (d a b : BitVec 3) (s : State) : Host.Outcome State Fault Refusal :=
  condWrite d (fun x => x.cond a && !x.cond b) s

/-- CBIT set (R324). -/
def execCbitSet (d : BitVec 3) (s : State) : Host.Outcome State Fault Refusal :=
  condWrite d (fun _ => true) s

/-- CBIT clear (R324). -/
def execCbitClear (d : BitVec 3) (s : State) : Host.Outcome State Fault Refusal :=
  condWrite d (fun _ => false) s

/-- CBIT not (R324). -/
def execCbitNot (d a : BitVec 3) (s : State) : Host.Outcome State Fault Refusal :=
  condWrite d (fun x => !x.cond a) s

/-- CBIT move (R324). -/
def execCbitMove (d a : BitVec 3) (s : State) : Host.Outcome State Fault Refusal :=
  condWrite d (fun x => x.cond a) s

/-- LUI: the sign-extended immediate times 2^15 (R347). -/
def execLui (d : BitVec 5) (i : BitVec 20) (s : State) : Host.Outcome State Fault Refusal :=
  scalarWrite d (fun _ => i.signExtend 64 <<< 15) s

end Sys2Proof.Machine
end

