-- ==== Sys2Proof/Machine/Dispatch.lean ====
section
/-! DEFINITION. The dispatch of an instruction or event to its meaning: one arm for each constructor. -/

namespace Sys2Proof.Machine

def exec (i : Instr) (s : State) : Host.Outcome State Fault Refusal :=
  match i with
  | .addReg d a b => Sys2Proof.Machine.execAddReg d a b s
  | .addImm d a imm => Sys2Proof.Machine.execAddImm d a imm s
  | .andReg d a b => Sys2Proof.Machine.execAndReg d a b s
  | .andImm d a imm => Sys2Proof.Machine.execAndImm d a imm s
  | .orReg d a b => Sys2Proof.Machine.execOrReg d a b s
  | .orImm d a imm => Sys2Proof.Machine.execOrImm d a imm s
  | .xorReg d a b => Sys2Proof.Machine.execXorReg d a b s
  | .xorImm d a imm => Sys2Proof.Machine.execXorImm d a imm s
  | .sub d a b => Sys2Proof.Machine.execSub d a b s
  | .mul d a b => Sys2Proof.Machine.execMul d a b s
  | .mulh d a b z => Sys2Proof.Machine.execMulh d a b z s
  | .div d a b z => Sys2Proof.Machine.execDiv d a b z s
  | .rem d a b z => Sys2Proof.Machine.execRem d a b z s
  | .shlReg d a b => Sys2Proof.Machine.execShlReg d a b s
  | .shrReg d a b => Sys2Proof.Machine.execShrReg d a b s
  | .sraReg d a b => Sys2Proof.Machine.execSraReg d a b s
  | .shlImm d a n => Sys2Proof.Machine.execShlImm d a n s
  | .shrImm d a n => Sys2Proof.Machine.execShrImm d a n s
  | .sraImm d a n => Sys2Proof.Machine.execSraImm d a n s
  | .min d a b z => Sys2Proof.Machine.execMin d a b z s
  | .max d a b z => Sys2Proof.Machine.execMax d a b z s
  | .clz d a => Sys2Proof.Machine.execClz d a s
  | .popc d a => Sys2Proof.Machine.execPopc d a s
  | .sel d a b c => Sys2Proof.Machine.execSel d a b c s
  | .cmpReg c a b z r => Sys2Proof.Machine.execCmpReg c a b z r s
  | .cmpImm c r a z imm => Sys2Proof.Machine.execCmpImm c r a z imm s
  | .cbitAnd d a b => Sys2Proof.Machine.execCbitAnd d a b s
  | .cbitOr d a b => Sys2Proof.Machine.execCbitOr d a b s
  | .cbitXor d a b => Sys2Proof.Machine.execCbitXor d a b s
  | .cbitAndn d a b => Sys2Proof.Machine.execCbitAndn d a b s
  | .cbitSet d => Sys2Proof.Machine.execCbitSet d s
  | .cbitClear d => Sys2Proof.Machine.execCbitClear d s
  | .cbitNot d a => Sys2Proof.Machine.execCbitNot d a s
  | .cbitMove d a => Sys2Proof.Machine.execCbitMove d a s
  | .lui d imm => Sys2Proof.Machine.execLui d imm s
  | .fadd d a b f => Sys2Proof.Machine.execFadd d a b f s
  | .fsub d a b f => Sys2Proof.Machine.execFsub d a b f s
  | .fmul d a b f => Sys2Proof.Machine.execFmul d a b f s
  | .fma d a b f => Sys2Proof.Machine.execFma d a b f s
  | .fdiv d a b f => Sys2Proof.Machine.execFdiv d a b f s
  | .fsqrt d a f => Sys2Proof.Machine.execFsqrt d a f s
  | .fmin d a b f => Sys2Proof.Machine.execFmin d a b f s
  | .fmax d a b f => Sys2Proof.Machine.execFmax d a b f s
  | .fcmp c a b f r => Sys2Proof.Machine.execFcmp c a b f r s
  | .fcvt d a t f k => Sys2Proof.Machine.execFcvt d a t f k s
  | .ld d a g u z imm => Sys2Proof.Machine.execLd d a g u z imm s
  | .st d a g u imm => Sys2Proof.Machine.execSt d a g u imm s
  | .ldAcq d a p u => Sys2Proof.Machine.execLdAcq d a p u s
  | .stRel a b p u => Sys2Proof.Machine.execStRel a b p u s
  | .amoAdd d a b p u => Sys2Proof.Machine.execAmoAdd d a b p u s
  | .amoAnd d a b p u => Sys2Proof.Machine.execAmoAnd d a b p u s
  | .amoOr d a b p u => Sys2Proof.Machine.execAmoOr d a b p u s
  | .amoXor d a b p u => Sys2Proof.Machine.execAmoXor d a b p u s
  | .amoMin d a b p u => Sys2Proof.Machine.execAmoMin d a b p u s
  | .amoMax d a b p u => Sys2Proof.Machine.execAmoMax d a b p u s
  | .amoMinZ d a b p u => Sys2Proof.Machine.execAmoMinZ d a b p u s
  | .amoMaxZ d a b p u => Sys2Proof.Machine.execAmoMaxZ d a b p u s
  | .amoSwap d a b p u => Sys2Proof.Machine.execAmoSwap d a b p u s
  | .amoFadd d a b p u => Sys2Proof.Machine.execAmoFadd d a b p u s
  | .cas d a b p u => Sys2Proof.Machine.execCas d a b p u s
  | .b c t h d => Sys2Proof.Machine.execB c t h d s
  | .j d => Sys2Proof.Machine.execJ d s
  | .jal d => Sys2Proof.Machine.execJal d s
  | .jr a => Sys2Proof.Machine.execJr a s
  | .jrLink a => Sys2Proof.Machine.execJrLink a s
  | .ret => Sys2Proof.Machine.execRet s
  | .loop a n l => Sys2Proof.Machine.execLoop a n l s
  | .vshape d a b e g t x => Sys2Proof.Machine.execVshape d a b e g t x s
  | .vrel => Sys2Proof.Machine.execVrel s
  | .vaddVV k d a b m q => Sys2Proof.Machine.execVaddVV k d a b m q s
  | .vaddVS k d a b m q => Sys2Proof.Machine.execVaddVS k d a b m q s
  | .vsubVV k d a b m q => Sys2Proof.Machine.execVsubVV k d a b m q s
  | .vsubVS k d a b m q => Sys2Proof.Machine.execVsubVS k d a b m q s
  | .vmulVV k d a b m q => Sys2Proof.Machine.execVmulVV k d a b m q s
  | .vmulVS k d a b m q => Sys2Proof.Machine.execVmulVS k d a b m q s
  | .vmaVV k d a b m q => Sys2Proof.Machine.execVmaVV k d a b m q s
  | .vmaVS k d a b m q => Sys2Proof.Machine.execVmaVS k d a b m q s
  | .vdivVV k d a b m q => Sys2Proof.Machine.execVdivVV k d a b m q s
  | .vdivVS k d a b m q => Sys2Proof.Machine.execVdivVS k d a b m q s
  | .vminVV k d a b m q => Sys2Proof.Machine.execVminVV k d a b m q s
  | .vminVS k d a b m q => Sys2Proof.Machine.execVminVS k d a b m q s
  | .vmaxVV k d a b m q => Sys2Proof.Machine.execVmaxVV k d a b m q s
  | .vmaxVS k d a b m q => Sys2Proof.Machine.execVmaxVS k d a b m q s
  | .vmulhVV k d a b m q => Sys2Proof.Machine.execVmulhVV k d a b m q s
  | .vmulhVS k d a b m q => Sys2Proof.Machine.execVmulhVS k d a b m q s
  | .vandVV k d a b m q => Sys2Proof.Machine.execVandVV k d a b m q s
  | .vandVS k d a b m q => Sys2Proof.Machine.execVandVS k d a b m q s
  | .vorVV k d a b m q => Sys2Proof.Machine.execVorVV k d a b m q s
  | .vorVS k d a b m q => Sys2Proof.Machine.execVorVS k d a b m q s
  | .vxorVV k d a b m q => Sys2Proof.Machine.execVxorVV k d a b m q s
  | .vxorVS k d a b m q => Sys2Proof.Machine.execVxorVS k d a b m q s
  | .vshlVV k d a b m q => Sys2Proof.Machine.execVshlVV k d a b m q s
  | .vshlVS k d a b m q => Sys2Proof.Machine.execVshlVS k d a b m q s
  | .vshrVV k d a b m q => Sys2Proof.Machine.execVshrVV k d a b m q s
  | .vshrVS k d a b m q => Sys2Proof.Machine.execVshrVS k d a b m q s
  | .vsraVV k d a b m q => Sys2Proof.Machine.execVsraVV k d a b m q s
  | .vsraVS k d a b m q => Sys2Proof.Machine.execVsraVS k d a b m q s
  | .vsaddVV k d a b m q => Sys2Proof.Machine.execVsaddVV k d a b m q s
  | .vsaddVS k d a b m q => Sys2Proof.Machine.execVsaddVS k d a b m q s
  | .vssubVV k d a b m q => Sys2Proof.Machine.execVssubVV k d a b m q s
  | .vssubVS k d a b m q => Sys2Proof.Machine.execVssubVS k d a b m q s
  | .vraddVV k d a b m q => Sys2Proof.Machine.execVraddVV k d a b m q s
  | .vraddVS k d a b m q => Sys2Proof.Machine.execVraddVS k d a b m q s
  | .vrsubVV k d a b m q => Sys2Proof.Machine.execVrsubVV k d a b m q s
  | .vrsubVS k d a b m q => Sys2Proof.Machine.execVrsubVS k d a b m q s
  | .vsqrt k d a m q => Sys2Proof.Machine.execVsqrt k d a m q s
  | .vexp2 k d a m q => Sys2Proof.Machine.execVexp2 k d a m q s
  | .vsgnCopyVV k d a b m q => Sys2Proof.Machine.execVsgnCopyVV k d a b m q s
  | .vsgnCopyVS k d a b m q => Sys2Proof.Machine.execVsgnCopyVS k d a b m q s
  | .vsgnNegVV k d a b m q => Sys2Proof.Machine.execVsgnNegVV k d a b m q s
  | .vsgnNegVS k d a b m q => Sys2Proof.Machine.execVsgnNegVS k d a b m q s
  | .vsgnXorVV k d a b m q => Sys2Proof.Machine.execVsgnXorVV k d a b m q s
  | .vsgnXorVS k d a b m q => Sys2Proof.Machine.execVsgnXorVS k d a b m q s
  | .vsgnAbs k d a m q => Sys2Proof.Machine.execVsgnAbs k d a m q s
  | .vcmpVV k d a b m q r => Sys2Proof.Machine.execVcmpVV k d a b m q r s
  | .vcmpVS k d a b m q r => Sys2Proof.Machine.execVcmpVS k d a b m q r s
  | .vmlogAnd k d a b m q => Sys2Proof.Machine.execVmlogAnd k d a b m q s
  | .vmlogOr k d a b m q => Sys2Proof.Machine.execVmlogOr k d a b m q s
  | .vmlogXor k d a b m q => Sys2Proof.Machine.execVmlogXor k d a b m q s
  | .vmlogAndn k d a b m q => Sys2Proof.Machine.execVmlogAndn k d a b m q s
  | .vmlogOrn k d a b m q => Sys2Proof.Machine.execVmlogOrn k d a b m q s
  | .vmlogNot k d a m q => Sys2Proof.Machine.execVmlogNot k d a m q s
  | .vmlogSet k d m q => Sys2Proof.Machine.execVmlogSet k d m q s
  | .vmlogClear k d m q => Sys2Proof.Machine.execVmlogClear k d m q s
  | .vmpop k d a m q => Sys2Proof.Machine.execVmpop k d a m q s
  | .vmfirst k d a m q => Sys2Proof.Machine.execVmfirst k d a m q s
  | .vmtocAny k c a m q => Sys2Proof.Machine.execVmtocAny k c a m q s
  | .vmtocAll k c a m q => Sys2Proof.Machine.execVmtocAll k c a m q s
  | .vmtocNone k c a m q => Sys2Proof.Machine.execVmtocNone k c a m q s
  | .vcvt k d a m q t => Sys2Proof.Machine.execVcvt k d a m q t s
  | .vbq k d a m q t => Sys2Proof.Machine.execVbq k d a m q t s
  | .vbdq k d a m q t => Sys2Proof.Machine.execVbdq k d a m q t s
  | .vmov k d a m q => Sys2Proof.Machine.execVmov k d a m q s
  | .vmovSplat k d b m q => Sys2Proof.Machine.execVmovSplat k d b m q s
  | .vpermRow k d a b m q => Sys2Proof.Machine.execVpermRow k d a b m q s
  | .vpermCol k d a b m q => Sys2Proof.Machine.execVpermCol k d a b m q s
  | .vslideUp k d a b m q => Sys2Proof.Machine.execVslideUp k d a b m q s
  | .vslideDown k d a b m q => Sys2Proof.Machine.execVslideDown k d a b m q s
  | .vxpose k d a m q => Sys2Proof.Machine.execVxpose k d a m q s
  | .vext k d a b => Sys2Proof.Machine.execVext k d a b s
  | .vins k d a b => Sys2Proof.Machine.execVins k d a b s
  | .viota k d m q => Sys2Proof.Machine.execViota k d m q s
  | .viotaRow k d m q => Sys2Proof.Machine.execViotaRow k d m q s
  | .viotaCol k d m q => Sys2Proof.Machine.execViotaCol k d m q s
  | .vred k d a m q o => Sys2Proof.Machine.execVred k d a m q o s
  | .vredAll k d a m q o => Sys2Proof.Machine.execVredAll k d a m q o s
  | .vscan k d a m q o => Sys2Proof.Machine.execVscan k d a m q o s
  | .vld k d a b m q g => Sys2Proof.Machine.execVld k d a b m q g s
  | .vldSt k d a b m q g => Sys2Proof.Machine.execVldSt k d a b m q g s
  | .vldZ k d a b m q g => Sys2Proof.Machine.execVldZ k d a b m q g s
  | .vldBc k d a m q g => Sys2Proof.Machine.execVldBc k d a m q g s
  | .vldB k d a b m q g => Sys2Proof.Machine.execVldB k d a b m q g s
  | .vgather k d a b m q g => Sys2Proof.Machine.execVgather k d a b m q g s
  | .vst k d a b m q g => Sys2Proof.Machine.execVst k d a b m q g s
  | .vstSt k d a b m q g => Sys2Proof.Machine.execVstSt k d a b m q g s
  | .vstZ k d a b m q g => Sys2Proof.Machine.execVstZ k d a b m q g s
  | .vstBc k d a m q g => Sys2Proof.Machine.execVstBc k d a m q g s
  | .vstB k d a b m q g => Sys2Proof.Machine.execVstB k d a b m q g s
  | .vscatter k d a b m q g => Sys2Proof.Machine.execVscatter k d a b m q g s
  | .vamoAdd k d a b m q g => Sys2Proof.Machine.execVamoAdd k d a b m q g s
  | .vamoMin k d a b m q g => Sys2Proof.Machine.execVamoMin k d a b m q g s
  | .vamoMax k d a b m q g => Sys2Proof.Machine.execVamoMax k d a b m q g s
  | .vamoAnd k d a b m q g => Sys2Proof.Machine.execVamoAnd k d a b m q g s
  | .vamoOr k d a b m q g => Sys2Proof.Machine.execVamoOr k d a b m q g s
  | .vamoXor k d a b m q g => Sys2Proof.Machine.execVamoXor k d a b m q g s
  | .vamoSwap k d a b m q g => Sys2Proof.Machine.execVamoSwap k d a b m q g s
  | .vamoFadd k d a b m q g => Sys2Proof.Machine.execVamoFadd k d a b m q g s
  | .vcappIdx k a m q g => Sys2Proof.Machine.execVcappIdx k a m q g s
  | .vcappVal k d a m q g => Sys2Proof.Machine.execVcappVal k d a m q g s
  | .matt d c => Sys2Proof.Machine.execMatt d c s
  | .mdet => Sys2Proof.Machine.execMdet s
  | .mclaim d => Sys2Proof.Machine.execMclaim d s
  | .mrel a => Sys2Proof.Machine.execMrel a s
  | .mldb k a b => Sys2Proof.Machine.execMldb k a b s
  | .mma k d a n => Sys2Proof.Machine.execMma k d a n s
  | .mzero k n => Sys2Proof.Machine.execMzero k n s
  | .mdrain k d b n => Sys2Proof.Machine.execMdrain k d b n s
  | .xcopy d a b c n l => Sys2Proof.Machine.execXcopy d a b c n l s
  | .xwait a c => Sys2Proof.Machine.execXwait a c s
  | .fence m u => Sys2Proof.Machine.execFence m u s
  | .send v a t => Sys2Proof.Machine.execSend v a t s
  | .recv v t => Sys2Proof.Machine.execRecv v t s
  | .tend => Sys2Proof.Machine.execTend s
  | .gspawn u => Sys2Proof.Machine.execGspawn u s
  | .gsig u => Sys2Proof.Machine.execGsig u s
  | .adj p => Sys2Proof.Machine.execAdj p s
  | .uiret => Sys2Proof.Machine.execUiret s
  | .dcwb u n => Sys2Proof.Machine.execDcwb u n s
  | .iinv u n => Sys2Proof.Machine.execIinv u n s
  | .fetchb => Sys2Proof.Machine.execFetchb s
  | .pref u n => Sys2Proof.Machine.execPref u n s
  | .trap imm => Sys2Proof.Machine.execTrap imm s
  | .eret => Sys2Proof.Machine.execEret s
  | .mfs u n => Sys2Proof.Machine.execMfs u n s
  | .mts u n => Sys2Proof.Machine.execMts u n s
  | .wait => Sys2Proof.Machine.execWait s
  | .nop => Sys2Proof.Machine.execNop s
  | .csave u => Sys2Proof.Machine.execCsave u s
  | .cload u => Sys2Proof.Machine.execCload u s
  | .tlbinv u k => Sys2Proof.Machine.execTlbinv u k s
  | .bufferedWritePerform ctx idx => Sys2Proof.Machine.execBufferedWritePerform ctx idx s
  | .vshapeLaneGrant ctx => Sys2Proof.Machine.execVshapeLaneGrant ctx s
  | .fenceWaitEnd ctx => Sys2Proof.Machine.execFenceWaitEnd ctx s
  | .tendWaitEnd ctx => Sys2Proof.Machine.execTendWaitEnd ctx s
  | .tlbinvComplete ctx => Sys2Proof.Machine.execTlbinvComplete ctx s
  | .iinvComplete ctx => Sys2Proof.Machine.execIinvComplete ctx s
  | .dcwbComplete ctx => Sys2Proof.Machine.execDcwbComplete ctx s
  | .xwaitRetire ctx => Sys2Proof.Machine.execXwaitRetire ctx s
  | .xcopyEnqueue ctx => Sys2Proof.Machine.execXcopyEnqueue ctx s
  | .copyCommandStart ctx chan id => Sys2Proof.Machine.execCopyCommandStart ctx chan id s
  | .copyCommandComplete ctx chan id => Sys2Proof.Machine.execCopyCommandComplete ctx chan id s
  | .vcappThresholdNotify ctx idx => Sys2Proof.Machine.execVcappThresholdNotify ctx idx s
  | .grantRequest idx => Sys2Proof.Machine.execGrantRequest idx s
  | .grantReply ctx granted => Sys2Proof.Machine.execGrantReply ctx granted s
  | .messageArrival ctx tag => Sys2Proof.Machine.execMessageArrival ctx tag s
  | .recvSlotFull ctx => Sys2Proof.Machine.execRecvSlotFull ctx s
  | .waitWake ctx => Sys2Proof.Machine.execWaitWake ctx s
  | .userInterruptTake ctx => Sys2Proof.Machine.execUserInterruptTake ctx s
  | .queuedTrap ctx => Sys2Proof.Machine.execQueuedTrap ctx s
  | .replayRerun launch => Sys2Proof.Machine.execReplayRerun launch s
  | .preemptwinExpiry ctx => Sys2Proof.Machine.execPreemptwinExpiry ctx s
  | .wholeSaveDone ctx => Sys2Proof.Machine.execWholeSaveDone ctx s
  | .cloadLaneGrant ctx => Sys2Proof.Machine.execCloadLaneGrant ctx s
  | .launchAccept => Sys2Proof.Machine.execLaunchAccept s
  | .taskEndByMill ctx => Sys2Proof.Machine.execTaskEndByMill ctx s
  | .dispatchPick => Sys2Proof.Machine.execDispatchPick s
  | .taskStart ctx => Sys2Proof.Machine.execTaskStart ctx s
  | .tendRetirement => Sys2Proof.Machine.execTendRetirement s
  | .completionWordWrite launch => Sys2Proof.Machine.execCompletionWordWrite launch s
  | .spawnRequest ctx => Sys2Proof.Machine.execSpawnRequest ctx s
  | .signalRequest ctx => Sys2Proof.Machine.execSignalRequest ctx s
  | .moultRemap => Sys2Proof.Machine.execMoultRemap s
  | .migrationDone => Sys2Proof.Machine.execMigrationDone s
  | .bootRom => Sys2Proof.Machine.execBootRom s
  | .atflushDone => Sys2Proof.Machine.execAtflushDone s
  | .quoteReady => Sys2Proof.Machine.execQuoteReady s
  | .stringPowered str => Sys2Proof.Machine.execStringPowered str s
  | .stringUnpowered str => Sys2Proof.Machine.execStringUnpowered str s
  | .taskEndedByRuntime ctx => Sys2Proof.Machine.execTaskEndedByRuntime ctx s
  | .convoyFetch ctx => Sys2Proof.Machine.execConvoyFetch ctx s
  | .checkerMismatch ctx => Sys2Proof.Machine.execCheckerMismatch ctx s
  | .uncorrectableError ctx pinned scalarLoad named => Sys2Proof.Machine.execUncorrectableError ctx pinned scalarLoad named s
  | .launchWrite master bytes value => Sys2Proof.Machine.execLaunchWrite master bytes value s
  | .adjunctRequest str node under => Sys2Proof.Machine.execAdjunctRequest str node under s
  | .throttleDown str => Sys2Proof.Machine.execThrottleDown str s
  | .throttleUp str => Sys2Proof.Machine.execThrottleUp str s
  | .stringFloor str => Sys2Proof.Machine.execStringFloor str s
  | .flitRetransmit port => Sys2Proof.Machine.execFlitRetransmit port s
  | .portDown port => Sys2Proof.Machine.execPortDown port s
  | .pageMigration ctx va dest frame => Sys2Proof.Machine.execPageMigration ctx va dest frame s
  | .patrolVisit line corrected uncorrectable => Sys2Proof.Machine.execPatrolVisit line corrected uncorrectable s
  | .semaRead master => Sys2Proof.Machine.execSemaRead master s
  | .semaWrite master value => Sys2Proof.Machine.execSemaWrite master value s
  | .registerWrite master offset bytes value => Sys2Proof.Machine.execRegisterWrite master offset bytes value s
  | .resetGo master => Sys2Proof.Machine.execResetGo master s
  | .atflushGo master => Sys2Proof.Machine.execAtflushGo master s
  | .keycmdLoad master slot => Sys2Proof.Machine.execKeycmdLoad master slot s
  | .keycmdEmpty master slot => Sys2Proof.Machine.execKeycmdEmpty master slot s
  | .meascmdExtend master n => Sys2Proof.Machine.execMeascmdExtend master n s
  | .qcmdGo master => Sys2Proof.Machine.execQcmdGo master s
  | .partszWrite master die value => Sys2Proof.Machine.execPartszWrite master die value s
  | .strcapWrite master die value => Sys2Proof.Machine.execStrcapWrite master die value s
  | .strpwrWrite master die value => Sys2Proof.Machine.execStrpwrWrite master die value s
  | .bar2Read offset bytes => Sys2Proof.Machine.execBar2Read offset bytes s
  | .bar2Write offset bytes value => Sys2Proof.Machine.execBar2Write offset bytes value s
  | .pcieLinkDown port => Sys2Proof.Machine.execPcieLinkDown port s
  | .meshUncorrectableError die plane => Sys2Proof.Machine.execMeshUncorrectableError die plane s
  | .planeDeathLearned plane => Sys2Proof.Machine.execPlaneDeathLearned plane s
  | .unheldWritePerform ctx idx => Sys2Proof.Machine.execUnheldWritePerform ctx idx s

end Sys2Proof.Machine
end

