-- ==== Sys2Proof/Machine/HostBus.lean ====
section
/-! DEFINITION. BAR0 as a port or a management core reaches it (R276, R280, R281, R285, R286, R288, R290): what every
register reads, and a write at the offset of a register that has a row of its own. -/

namespace Sys2Proof.Machine

/-! ### What registers read -/

/-- Twelve bits of a die's strings as a register (R285). -/
def dieBits (d : Nat) (f : Nat → Bool) : Nat :=
  (List.range 12).foldl (fun n k => n + (f (12 * d + k)).toNat * 2 ^ k) 0

/-- LSTAT of a master's own copy (R281). -/
def lstat (h : HostBlk) (m : Nat) : Nat :=
  (h.queue m).length + (h.ovf.toList.getD (m - 1) false).toNat * 2 ^ 8 + (h.bad.toList.getD (m - 1) false).toNat * 2 ^ 9

/-- Dword d of a SPACE entry. -/
def SpaceEntry.dword (e : SpaceEntry) (d : Nat) : Nat :=
  match d with
  | 0 => e.ptroot.toNat
  | 1 => e.asid.toNat
  | 2 => e.keydef.toNat
  | _ => e.valid.toNat

/-- A dword of the module block, SEMA apart. LAUNCH, RESET, KEYCMD, KEYDATA and every reserved bit read 0. -/
def readModule (m base : Nat) (h : HostBlk) : Nat :=
  match base with
  | 0x10 => lstat h m
  | 0x18 => (h.lbad.toList.getD (m - 1) 0).toNat
  | 0x20 => h.clsw.toNat
  | 0x28 => h.bar2base.toNat
  | 0x38 => h.atflush.toNat
  | 0x40 => h.migbase.toNat
  | 0x48 => h.miglen.toNat
  | 0x50 => h.scrubp.toNat
  | _ =>
    if 0x1000 ≤ base && base < 0x1000 + 64 * 32 then
      (tabGet .reset h.spaces ((base - 0x1000) / 32)).dword (base / 8 % 4)
    else 0

/-- A dword of a byte table from an offset of it. -/
def tableDword (f : Nat → Byte) (size off : Nat) : Nat :=
  bytesVal ((List.range 8).map fun i => if off + i < size then f (off + i) else 0)

/-- A dword of the boot block (R288). IDPUB reads 0 before the boot ROM has run, which R288 does not say (log entry 97). -/
def readBoot (base : Nat) (h : HostBlk) : Nat :=
  if base = 0 then h.bootst.toNat
  else if 0x100 ≤ base && base < 0x300 then
    (h.meas.toList.getD ((base - 0x100) / 32) 0).toNat / 2 ^ (8 * (base % 32)) % 2 ^ 64
  else if 0x300 ≤ base && base < 0x320 then h.measin.toNat / 2 ^ (8 * (base % 32)) % 2 ^ 64
  else if base = 0x320 then h.meascmd.toNat
  else if 0x400 ≤ base && base < 0x420 then h.nonce.toNat / 2 ^ (8 * (base % 32)) % 2 ^ 64
  else if base = 0x420 then h.qsel.toNat
  else if base = 0x428 then h.qgo.toNat
  else if 0x1000 ≤ base && base < 0x1000 + 1312 then
    if h.booted then tableDword Config.identityKey 1312 (base - 0x1000) else 0
  else if 0x2000 ≤ base && base < 0x2000 + 2424 then
    tableDword (fun i => h.qsig.getD i 0) 2420 (base - 0x2000)
  else 0

/-- A dword of the fabric block (R286). -/
def readFabric (base : Nat) (s : State) : Nat :=
  match base with
  | 0x00 => s.host.nodeid.toNat
  | 0x08 => s.host.torus.toNat
  | 0x10 => (~~~s.fab.dead).toNat
  | 0x18 => s.host.moults.toNat
  | _ => 0

/-- A dword of a die's block (R285). -/
def readDie (d base : Nat) (s : State) : Nat :=
  match base with
  | 0x00 => (s.dieAt d).partsz
  | 0x08 => dieBits d fun n => (s.strAt n).hold
  | 0x10 => dieBits d fun n => (s.strAt n).pwr
  | 0x18 => dieBits d fun n => (s.strAt n).rdy
  | 0x20 => dieBits d (strBusy s)
  | 0x28 => (List.range 12).foldl (fun n k => n + (s.strAt (12 * d + k)).cap % 4 * 4 ^ k) 0
  | _ => 0

/-! ### Counters (R290) -/

/-- The counters' blocks: the dword that an offset reads, after its count has moved on, or none where R280 gives the
offset no block. -/
def readCounters (off : Nat) (s : State) : Option Nat × State :=
  if 0x200000 ≤ off && off < 0x200000 + 384 * 0x100 then
    let c := (off - 0x200000) / 0x100
    let i := (off - 0x200000) % 0x100 / 8
    if i < 8 then (some ((s.coreAt c).evsel.toList.getD i 0).toNat, s)
    else if i < 16 then
      let t := countCore s c (i - 8)
      (some ((t.coreAt c).evcnt.toList.getD (i - 8) 0).toNat, t)
    else (some 0, s)
  else if 0x300000 ≤ off && off < 0x300200 then
    let d := (off - 0x300000) / 0x100
    let i := (off - 0x300000) % 0x100 / 8
    if i < 16 then (some ((s.dieAt d).evsel.toList.getD i 0).toNat, s)
    else
      let t := countDie s d (i - 16)
      (some ((t.dieAt d).evcnt.toList.getD (i - 16) 0).toNat, t)
  else if 0x310000 ≤ off && off < 0x310000 + 24 * 0x80 then
    let n := (off - 0x310000) / 0x80
    let i := (off - 0x310000) % 0x80 / 8
    if i < 8 then (some ((s.strAt n).evsel.toList.getD i 0).toNat, s)
    else
      let t := countStr s n (i - 8)
      (some ((t.strAt n).evcnt.toList.getD (i - 8) 0).toNat, t)
  else (none, s)

/-- The dword at an aligned offset of BAR0, or none where R280 gives the offset no block (R280). -/
def readReg (m base : Nat) (s : State) : Option Nat × State :=
  if base < 0x10000 then (some (readModule m base s.host), s)
  else if base < 0x20000 then (some (readBoot (base - 0x10000) s.host), s)
  else if base < 0x30000 then (some (readFabric (base - 0x20000) s), s)
  else if 0x80000 ≤ base && base < 0x8B000 then
    let o := base - 0x80000
    (some (tabGet 0 s.tables (tableKey s.node (o / 0x1000) (o % 0x1000 / 16) (o % 16 / 8))).toNat, s)
  else if 0x100000 ≤ base && base < 0x120000 then
    (some (readDie ((base - 0x100000) / 0x10000) (base % 0x10000) s), s)
  else readCounters base s

/-! ### Accesses -/

/-- A read of BAR0 (R276, R280): SEMA's read acquires it (R282). -/
def busRead (m off bytes : Nat) (s : State) : Host.Outcome State Fault Refusal :=
  let result (v : Nat) (s : State) : State := s.mapHost fun h => { h with lastRead := BitVec.ofNat 64 v }
  hostReach m off false (.busRead m off bytes) (readAllOnes bytes) (fun s =>
  if !regAligned off bytes then .next (readAllOnes bytes s)
  else if off / 8 * 8 = 0 then
    match execSemaRead m s with
    | .next t => .next (result (t.host.lastRead.toNat / 2 ^ (8 * (off % 8)) % 2 ^ (8 * bytes)) t)
    | out => out
  else
    let r := readReg m (off / 8 * 8) s
    .next (result (match r.1 with
      | some v => v / 2 ^ (8 * (off % 8)) % 2 ^ (8 * bytes)
      | none => 2 ^ (8 * bytes) - 1) r.2)) s

/-- KEYCMD (R281): ops 0 and 3 change nothing, under SEMA. -/
def busKeycmd (m : Nat) (w : Word) (s : State) : Host.Outcome State Fault Refusal :=
  match w.toNat / 2 ^ 16 % 4 with
  | 1 => execKeycmdLoad m (w.toNat % 4096) s
  | 2 => execKeycmdEmpty m (w.toNat % 4096) s
  | _ => .next (guarded m id s)

/-- A bit that a write sets to start something; a write of 0 changes nothing, under SEMA. -/
def busGo (m : Nat) (w : Word) (start : State → Host.Outcome State Fault Refusal) (s : State) :
    Host.Outcome State Fault Refusal := if w.getLsbD 0 then start s else .next (guarded m id s)

/-- A write of BAR0 (R276, R280): the register's own row where it has one, and REGISTER_WRITE elsewhere. -/
def busWrite (m off bytes : Nat) (v : Word) (s : State) : Host.Outcome State Fault Refusal :=
  let base := off / 8 * 8
  let put (old : Nat) : Word := putDword (BitVec.ofNat 64 old) (off % 8) bytes v
  hostReach m off true (.busWrite m off bytes v) id (fun s =>
  if !regAligned off bytes then .next s
  else if 0x100000 ≤ off && off < 0x120000 then
    let d := (off - 0x100000) / 0x10000
    match base % 0x10000 with
    | 0x00 => execPartszWrite m d (put (readDie d 0x00 s)) s
    | 0x10 => execStrpwrWrite m d (put (readDie d 0x10 s)) s
    | 0x28 => execStrcapWrite m d (put (readDie d 0x28 s)) s
    | _ => execRegisterWrite m off bytes v s
  else match base with
    | 0x00 => execSemaWrite m (put 0) s
    | 0x08 => execLaunchWrite m bytes v s
    | 0x30 => busGo m (put 0) (execResetGo m) s
    | 0x38 => busGo m (put 0) (execAtflushGo m) s
    | 0x2000 => busKeycmd m (put 0) s
    | 0x10320 => execMeascmdExtend m ((put 0).toNat % 16) s
    | 0x10428 => busGo m (put 0) (execQcmdGo m) s
    | _ => execRegisterWrite m off bytes v s) s

end Sys2Proof.Machine
end

