-- ==== Sys2Proof/Machine/Peers.lean ====
section
/-! DEFINITION. What reaches the module from its peer nodes: grant requests and replies, messages, writes to
memory, key slots and access tables of other nodes (R197 to R206; log entry 10), and accesses of management cores
(R155; log entry 96). -/

namespace Sys2Proof.Machine

/-- A SEND grant request of a peer reaches the module (R206). -/
def peerRequest (r : GrantReq) (s : State) : State :=
  if r.node = s.node then s
  else { s with fab := { s.fab with requests := s.fab.requests ++ [r] } }

/-- A peer answers a grant request of a context of this module. -/
def peerReply (r : GrantReq) (granted : Bool) (s : State) : State :=
  if r.node = s.node && s.fab.requests.contains r then
    { s with fab := { s.fab with
        requests := s.fab.requests.erase r, replies := s.fab.replies ++ [(r, granted)] } }
  else s

/-- A SEND of a peer is executed again: its first request is withdrawn, and a grant that it received is returned
(R206). -/
def peerWithdraw (r : GrantReq) (s : State) : State := if r.node = s.node then s else withdrawAll (· == r) s

/-- A message of a peer is on its way to a slot of this module: its grant is used. -/
def peerMessage (f : Flight) (s : State) : State :=
  if f.msg.node = s.node then s
  else
    let used (e : GrantReq × Bool) : Bool :=
      e.1.node == f.msg.node && e.1.sender == f.msg.sender && e.1.dst == f.dst && e.1.tag == f.tag
    { s with fab := { s.fab with
        flights := s.fab.flights ++ [f], replies := s.fab.replies.filter fun e => !used e } }

/-- A message to a peer leaves the module. -/
def peerDelivered (n : Nat) (s : State) : State :=
  match s.fab.flights[n]? with
  | some f =>
    if f.dstNode = s.node then s
    else { s with fab := { s.fab with flights := s.fab.flights.eraseIdx n } }
  | none => s

/-- An access table permits a master other than device code of this node an access to a place of a node: device code of a
peer by its node and ASID, under the tables before an edit or the edited ones (R156), and ports and management cores as
R284 says. -/
def masterAllows (s : State) (m : Master) (node pa : Nat) (write : Bool) : Bool :=
  let rows (t : Tab Word) : List Nat := tableRows t node (tableOf pa) m.kind m.node m.asid
  let grants (t : Tab Word) : Bool :=
    (m.kind ≠ 0 && (rows t).isEmpty) || (rows t).any fun hi => tableRight hi (pa / 2 ^ 16) write
  grants s.tables || (m.kind = 0 && match s.tablesOld with
    | some old => grants old
    | none => false)

/-- Every byte of an access to a place of a node lies in a range that exists there, in one line, and is permitted. -/
def masterReaches (s : State) (m : Master) (node loc n : Nat) (write : Bool) : Bool :=
  node < 1024 && m.kind < 4 && (inHbm loc || inBulk loc) && loc % 64 + n ≤ 64 && masterAllows s m node loc write

/-- Bytes of one line of translated memory that another master writes at their home under a key index: device code of a
peer, which needs a filled slot (R153), or a port of a peer or a management core, whose accesses are raw (log entry 96). -/
def peerWrite (m : Master) (node loc key : Nat) (bs : List Byte) (s : State) : State :=
  let own := (m.kind = 0 && m.node = s.node) || ((m.kind = 1 || m.kind = 2) && node = s.node)
  if own || !masterReaches s m node loc bs.length true then s
  else if m.kind = 0 && (tabFind s.keys (node * 4096 + key)).isNone then s
  else
    let k := if m.kind = 0 then key else 0
    performAt s
      { strm := 0, loose := false, loc := nodePlace node loc, key := k, enc := m.kind = 0 && storedEncrypted loc k, bytes := bs, nib := none,
        pin := false, cls := .uncounted, acc := none }

/-- A management core reads bytes of a line, raw: all ones where the access table refuses it (log entry 96). -/
def coreRead (loc n : Nat) (s : State) : State :=
  let m : Master := { kind := 3, node := s.node, asid := 0 }
  if masterReaches s m s.node loc n false then
    { s with
      plain := otherKey s.plain (nodePlace s.node loc) 0
      host := { s.host with lastRead := BitVec.ofNat 64 (bytesVal (memReadN s.mem (nodePlace s.node loc) n)) } }
  else readAllOnes n s

/-- A key slot of a peer node is filled or emptied by its host. -/
def peerKey (node slot : Nat) (v : Option (BitVec 512)) (s : State) : State :=
  if node = s.node || 4096 ≤ slot then s else setSlot (node * 4096 + slot) v s

/-- An entry of an access table of a peer node is edited by its host: both of its dwords at once, so that no access meets a
mixture of the old entry and the new one (R156). -/
def peerTable (node target entry : Nat) (master range : Word) (s : State) : State :=
  if node = s.node || 11 ≤ target || 256 ≤ entry then s
  else
    let put (t : Tab Word) : Tab Word :=
      tabSet (tabSet t (tableKey node target entry 0) (master &&& 0x0FFFFFFF))
        (tableKey node target entry 1) (range &&& 0xC0FFFFFFFFFFFFFF)
    settleTables { s with tables := put s.tables, tablesOld := s.tablesOld.map put }

end Sys2Proof.Machine
end

