-- ==== Sys2Proof/Machine/Schedule.lean ====
section
/-! DEFINITION. Which event of the machine comes about next when its own turn comes, and which context issues
next (log entry 10). An event is chosen only where it changes something. -/

namespace Sys2Proof.Machine

/-- An event where its condition holds. -/
def whenever (b : Bool) (i : Instr) : Option Instr := if b then some i else none

/-! ### Contexts -/

/-- Some command of a channel may start or complete. -/
def chanEvent (s : State) (c k : Nat) : Option Instr :=
  let ch := (s.ctxAt c).chan k
  ch.cmds.findSome? fun m =>
    match m.st with
    | .queued => whenever (mayStart ch m && copyRuns s c m) (.copyCommandStart c k m.id)
    | .started pages _ _ => whenever (copyRuns s c m && mayComplete s c k m pages) (.copyCommandComplete c k m.id)
    | _ => none

/-- What ends a context's wait, if it can end now. -/
def waitEvent (s : State) (c : Nat) : Option Instr :=
  let x := s.ctxAt c
  let t := { s with cur := c }
  match x.wait with
  | none => none
  | some w =>
    match w.kind with
    | .order => whenever (fenceReady t) (.fenceWaitEnd c)
    | .lanes => whenever (lanesReady t) (.vshapeLaneGrant c)
    | .mill =>
      match w.instr with
      | .gspawn _ => some (.spawnRequest c)
      | .gsig _ => some (.signalRequest c)
      | _ => none
    | .tend =>
      whenever (s.flows && (x.chans.toList.any (·.stopped) || tendDone t || tendStuck t)) (.tendWaitEnd c)
    | .tlbinv =>
      match w.instr with
      | .tlbinv r k => whenever (s.flows && (s.planesDead || targetsDone s (x.dropsOf r k))) (.tlbinvComplete c)
      | _ => none
    | .iinv => whenever s.flows (.iinvComplete c)
    | .dcwb =>
      let lines := w.marks.map (·.1)
      whenever (s.flows && (linesDone x lines || linesStuck t lines)) (.dcwbComplete c)
    | .xwait =>
      match w.marks with
      | (k, id) :: _ =>
        whenever ((x.chan k).stopped || !(x.chan k).pending id || (s.planesDead && (x.chan k).needsPlane s c (id + 1)))
          (.xwaitRetire c)
      | [] => none
    | .room =>
      match w.instr with
      | .xcopy _ _ _ k _ _ =>
        whenever (s.planesDead || !(x.chan k.toNat).full || (x.chan k.toNat).stopped) (.xcopyEnqueue c)
      | _ => none
    | .grant =>
      if s.planesDead then some (.grantReply c false)
      else if !s.flows then none
      else (s.fab.replies.find? fun e => e.1.node == s.node && e.1.sender == c).map fun e => .grantReply c e.2
    | .recv =>
      match w.instr with
      | .recv _ t =>
        match x.slot t.toNat with
        | .full _ => whenever s.flows (.recvSlotFull c)
        | _ => whenever s.planesDead (.recvSlotFull c)
      | _ => none
    | .wake => whenever (s.flows && (x.wake || x.ui.calls)) (.waitWake c)
    | .cload =>
      match w.marks with
      | (need, _) :: _ => whenever (s.flows && need ≤ x.lanes + s.freeLanes c) (.cloadLaneGrant c)
      | [] => none

/-- The mill or the device runtime ends the task of a context. -/
def endEvent (s : State) (c : Nat) : Option Instr :=
  let x := s.ctxAt c
  if x.task.isNone then none
  else if x.ended then whenever (drained x) (.taskEndByMill c)
  else if s.ending x.launchNo then some (.taskEndByMill c)
  else whenever x.stopped (.taskEndedByRuntime c)

/-- A dispatched task can start. -/
def startReady (s : State) (x : Context) : Bool :=
  x.start.isSome && !x.ended && match x.task with
    | some t => (s.liveLaunch t.launch).isSome
    | none => false

/-- The first write of a context that can be performed. -/
def writeEvent (s : State) (c : Nat) : Option Instr :=
  ((List.range (s.ctxAt c).pend.length).find? (mayPerform s c)).map (.bufferedWritePerform c)

/-- The first notification of a context whose items are performed. -/
def notifyEvent (x : Context) (c : Nat) : Option Instr :=
  ((List.range x.appends.length).find? fun i => match x.appends[i]? with
    | some a => !a.waits x
    | none => false).map (.vcappThresholdNotify c)

/-- What comes about next in a context. -/
def contextEvent (s : State) (c : Nat) : Option Instr :=
  let x := s.ctxAt c
  whenever (x.qfault.isSome && !x.stopped) (.queuedTrap c)
    <|> endEvent s c
    <|> whenever (startReady s x) (.taskStart c)
    <|> whenever (saveDue s c && s.flows) (.preemptwinExpiry c)
    <|> whenever (saveReady s c) (.wholeSaveDone c)
    <|> whenever (interruptReady s c) (.userInterruptTake c)
    <|> waitEvent s c
    <|> writeEvent s c
    <|> [0, 1, 2, 3].findSome? (chanEvent s c)
    <|> notifyEvent x c

/-! ### The rest of the module -/

/-- Boot and power. -/
def powerEvent (s : State) : Option Instr :=
  if !s.host.booted then some .bootRom
  else
    ((List.range 24).findSome? fun n =>
      let t := s.strAt n
      whenever (t.pwr && !t.rdy && mayPower s n) (.stringPowered n)
        <|> whenever (!t.pwr && t.rdy && !strBusy s n) (.stringUnpowered n))

/-- The messages and requests of the fabric. -/
def fabricEvent (s : State) : Option Instr :=
  whenever (moultReady s) .moultRemap
    <|> whenever s.migration.isSome .migrationDone
    <|> (if !s.busOpen then none else (s.fab.requests.findIdx? fun r => r.dstNode == s.node).map .grantRequest)
    <|> (if s.migration.isSome || s.planesDead then none
      else (s.fab.flights.find? (arrives s)).map fun f => .messageArrival f.dst f.tag)

/-- The mill. -/
def millNext (s : State) : Option Instr :=
  whenever (s.host.queues.toList.any fun q => !q.isEmpty) .launchAccept
    <|> whenever (!s.mill.ends.isEmpty) .tendRetirement
    <|> (s.mill.launches.findSome? fun l =>
      whenever (launchOver s l) (.completionWordWrite l.num)
        <|> whenever (l.tearing && contextsGone s l.num && s.flows) (.replayRerun l.num))

/-- The next event that can come about, if any. -/
def nextEvent (s : State) : Option Instr :=
  powerEvent s
    <|> fabricEvent s
    <|> s.ctxs.findSome? (fun e => contextEvent s e.1)
    <|> millNext s
    <|> whenever (flushReady s) .atflushDone
    <|> whenever s.host.qgo .quoteReady
    <|> whenever (pickable s) .dispatchPick

/-- The next context that can issue: the first above the current one, else the first from 0 on. Running ahead of a fault,
and issuing in a moult, are moves of the environment alone. -/
def nextContext (s : State) : Option Nat :=
  if s.flows then
    let can := s.ctxs.filter fun e =>
      e.2.runs && e.2.qfault.isNone && !saveDue s e.1 && (e.2.sup || !s.ending e.2.launchNo)
    match can.find? fun e => s.cur < e.1 with
    | some e => some e.1
    | none => (can.head?).map (·.1)
  else none

end Sys2Proof.Machine
end

