-- ==== Sys2Proof/Machine/Run.lean ====
section
/-! DEFINITION. What one step runs: the next convoy of a context, an event of the machine, or a move that
reaches the module from outside (log entry 10). -/

namespace Sys2Proof.Machine

/-- The word that executes next in the current context. -/
def Context.nextWord (x : Context) : Option (BitVec 32) := x.cvy.bind fun v => v.words[v.idx]?

/-- After a member that was not the last: the same convoy stands at its next member, and nothing stopped it. -/
def goesOn (before after : Context) : Bool :=
  match before.cvy, after.cvy with
  | some v, some v' =>
    v.idx + 1 < v.words.length && v'.idx == v.idx + 1 && v'.start == v.start && after.wait.isNone && after.qfault.isNone
      && !after.stopped
  | _, _ => false

/-- The members of the current context's convoy run one after another (R115). -/
def runMembers : Nat → State → Host.Outcome State Fault Refusal
  | 0, s => .next s
  | fuel + 1, s =>
    match s.cx.nextWord with
    | none => .next s
    | some w =>
      match decode w with
      | .error _ => .next (takeTrap s (.issue 0x01 (w.setWidth 64)))
      | .ok i =>
        match exec i s with
        | .next t => if goesOn s.cx t.cx then runMembers fuel t else .next t
        | out => out

/-- A convoy whose restart point lies beyond its words raises trap 0x02 (R117). -/
def restartTrap (s : State) (v : Convoy) : State :=
  takeTrap s (.issue 0x02 (v.start + BitVec.ofNat 64 (4 * v.idx)))

/-- The current context's convoy issues: one of vector or matrix words enters the vector queue with the scalar operands
that it reads now (R65), and its members' checks are over (R294). -/
def issueConvoy (s : State) : State :=
  s.mapCx fun x =>
    match x.cvy with
    | some v =>
      if isBound v.words then
        { x with
          cvy := some { x.captures v with passed := true }
          strip := { x.strip with lastBound := some v.start } }
      else x
    | none => x

/-- No plane is left for the member at which a convoy in the queue stands (R210). -/
def cutOffMember (s : State) (v : Convoy) : Bool :=
  s.planesDead && ((membersCheck ((v.words.drop v.idx).take 1) s).map (·.cause)) == some 0x14

/-- A convoy of the current context goes on, or issues again. One in the queue goes on at its next member; one of a dump, or a
scalar one that waits at issue, passes the checks of its members again, and its trap is precise (R216, R294; log entry 15). -/
def reissueConvoy (s : State) (v : Convoy) : Host.Outcome State Fault Refusal :=
  if v.words.length ≤ v.idx then .next (restartTrap s v)
  else if v.passed then
    if cutOffMember s v then .next (takeTrap (s.mapCx (·.standAt v)) (.issue 0x14 0)) else runMembers 4 s
  else
    let ws := v.words.drop v.idx
    if !checksMayRead ws s then .next s
    else match membersCheck ws s with
    | none => runMembers 4 (issueConvoy s)
    | some t => .next (takeTrap (withChecks s s ws) t)

/-- The current context runs its convoy: the oldest that a queue dump holds, or one that it fetches first. A user interrupt
that is pending and enabled is taken before the convoy issues (R194). -/
def runConvoy (s : State) : Host.Outcome State Fault Refusal :=
  if interruptReady s s.cur then exec (.userInterruptTake s.cur) s
  else match s.cx.cvy, s.cx.queue with
  | some v, _ => reissueConvoy s v
  | none, v :: rest => reissueConvoy (s.mapCx fun x => { x with cvy := some v, queue := rest }) v
  | none, [] => runMembers 4 (issueConvoy (fetchConvoy s))

/-! ### The scalar unit runs ahead (R65, R218; log entry 11) -/

/-- A user interrupt is pending and enabled at user level: no convoy issues before it is taken (R194). -/
def Context.interrupted (x : Context) : Bool := !x.sup && !x.ui.act && x.ui.next.isSome

/-- The context has gone past a convoy: it neither waits nor stops, no trap of it was taken, and its strip is as forced as it
was. -/
def wentPast (before after : Context) : Bool :=
  after.cvy.isNone && after.wait.isNone && !after.stopped && after.tally == before.tally && after.qfault.isNone
    && after.strip.forced == before.strip.forced

/-- Behind a member that faulted, the next convoy that may run ahead: it enters the vector queue, or it retires. A step
that would trap or wait does not happen before the fault is taken. -/
def runAhead (s : State) (f : QueueFault) : State :=
  let x := s.cx
  let bs := x.behind f
  if x.interrupted then s
  else
    let t := fetchConvoy (s.mapCx fun x => { x with vsElem := 0, vsMember := 0, qfault := none })
    match t.cx.cvy with
    | none => s
    | some v =>
      let back (u : State) : State :=
        u.mapCx fun y => { y with vsElem := x.vsElem, vsMember := x.vsMember, qfault := some f }
      if isBound v.words then
        if x.queue.length + 1 < queueDepth && v.words.all (queueFree bs) then
          back (t.mapCx fun y =>
            { y with
              pc := v.next, cvy := none, queue := y.queue ++ [x.captures v]
              strip := { y.strip with lastBound := some v.start } })
        else s
      else if v.words.all (scalarFree t bs) then
        match runMembers 1 t with
        | .next u => if wentPast x u.cx then back u else s
        | _ => s
      else s

/-! ### A context's turn -/

/-- A fetch of the current context's next convoy that leaves the tile: no copy of its first word is kept. -/
def fetchLeaves (s : State) : Bool :=
  s.cx.cvy.isNone && s.cx.queue.isEmpty &&
    match resolve s (s.cx.acc s.cur) .fetch s.cx.pc.toNat with
    | .error _ => true
    | .ok p =>
      !tileCarried (coreOf s.cur) (tileOf s.cur) p.loc && (wordsUnder p.key s.cx.fetched p.loc).isEmpty
        && !(codeCached p && !(wordsUnder p.key (s.coreAt (coreOf s.cur)).icache p.loc).isEmpty)

/-- The context's next convoy would issue a request onto a plane: with no live plane it would raise trap 0x14 (R210). -/
def wantsPlane (s : State) : Bool :=
  fetchLeaves s ||
    match runConvoy { s with fab := { s.fab with dead := 15, undealt := 0 } } with
    | .next t =>
      (t.cx.tally != s.cx.tally && t.cx.trap.cause == 0x14) || t.cx.stopped
        || (t.cx.qfault.map (·.cause)).getD 0 == 0x14
    | _ => true

/-- The current context may issue its next convoy: no save of it is due (R226), its task is not to end (R26, R249), and
while the planes are quiesced only tile-carried work goes on (R211, R213). -/
def mayIssue (s : State) : Bool :=
  s.cx.runs && !saveDue s s.cur && (s.cx.sup || !s.ending s.cx.launchNo) && s.migration.isNone
    && (s.fab.undealt == 0 || (s.cx.qfault.isNone && !wantsPlane s))

/-- A context's turn: nothing happens where it cannot issue. -/
def runContext (c : Nat) (s : State) : Host.Outcome State Fault Refusal :=
  let t := { s with cur := c }
  if !mayIssue t then .next s
  else match t.cx.qfault with
    | some f => .next (runAhead t f)
    | none => runConvoy t

/-- A move of the environment. Only an event of the machine can come about as one. -/
def runMove (m : Move) (s : State) : Host.Outcome State Fault Refusal :=
  match m with
  | .run c => runContext c s
  | .event i => if (encodeNat i).isSome then .next s else exec i s
  | .deferNotify c => .next (s.setCtx c { s.ctxAt c with defer := some ((s.ctxAt c).defer.getD []) })
  | .notify c => .next (s.setCtx c (s.ctxAt c).undefer)
  | .amoPause c e => .next (s.setCtx c { s.ctxAt c with pause := some e })
  | .copyElement c k id m => .next (s.within c (copyElement k id m))
  | .readEarly c g va n => .next (readEarly c g va n s)
  | .prefetch c va => .next (prefetch c va s)
  | .endArrives c => .next (endArrives c s)
  | .millLags p => .next (millLags p s)
  | .millHears p => .next (millHears p s)
  | .adjunctRuns c => .next (adjunctRuns c s)
  | .bar2size n => .next (resizeBar2 n s)
  | .msixControl p on m => .next (msixControl p on m s)
  | .msixVector p v m => .next (msixVector p v m s)
  | .lineCached l k => .next (lineCached l k s)
  | .lineEvicted l => .next (lineEvicted l s)
  | .peerRequest r => .next (peerRequest r s)
  | .peerReply r g => .next (peerReply r g s)
  | .peerWithdraw r => .next (peerWithdraw r s)
  | .peerMessage f => .next (peerMessage f s)
  | .peerDelivered n => .next (peerDelivered n s)
  | .peerWrite m n loc key bs => .next (peerWrite m n loc key bs s)
  | .peerKey n k v => .next (peerKey n k v s)
  | .peerTable n t e lo hi => .next (peerTable n t e lo hi s)
  | .coreRead loc n => .next (coreRead loc n s)
  | .registerWrite m off n v => execRegisterWrite m off n v s
  | .bar2Read off n => execBar2Read off n s
  | .bar2Write off n v => execBar2Write off n v s
  | .busRead m off n => busRead m off n s
  | .busWrite m off n v => busWrite m off n v s

/-- The machine's own events and its contexts take turns; where only one of the two can move, it moves, and
where neither can, the machine stays as it is. -/
def runTurn (s : State) : Host.Outcome State Fault Refusal :=
  let t := { s with tick := s.tick + 1 }
  if s.fromContext then
    match nextEvent s with
    | some i => exec i { t with fromContext := false }
    | none =>
      match nextContext s with
      | some c => runContext c { t with fromContext := true }
      | none => .next t
  else
    match nextContext s with
    | some c => runContext c { t with fromContext := true }
    | none =>
      match nextEvent s with
      | some i => exec i { t with fromContext := false }
      | none => .next t

/-- One step of the machine. Host accesses that were held at their entry go on first, in their order (R211, R278). -/
def runStep (s : State) : Host.Outcome State Fault Refusal :=
  match (if s.flows then s.host.entry else []) with
  | m :: rest => runMove m { s with host := { s.host with entry := rest }, tick := s.tick + 1 }
  | [] =>
    match s.inputs with
    | m :: rest => runMove m { s with inputs := rest, tick := s.tick + 1 }
    | [] => runTurn s

/-- The state with an instruction's word placed in the core's TCM, and the current context in a task whose
next convoy starts there (log entry 13). -/
def placeWord (s : State) (w : Nat) : State :=
  let pc : Nat := 0x007F000000000000
  let s := s.mapCx fun x =>
    { x with
      pc := BitVec.ofNat 64 pc, cvy := none, wait := none, stopped := false, qfault := none, queue := [],
      early := [], pause := none, notice := none, saving := false, rewaits := none,
      start := none, ended := false, fetched := [], loops := [], task := some { launch := 0, rcd := 0, prio := 0, weight := 0 },
      trap := { x.trap with task := true } }
  { s with
    mem := memWriteN s.mem (tcmPlace (coreOf s.cur) 0) (bytesOfNat 4 w)
    inputs := [], fromContext := false, migration := none, fab := { s.fab with undealt := 0 }
    host := { s.host with entry := [] } }

end Sys2Proof.Machine
end

