-- ==== Sys2Proof/Machine/Step.lean ====
section
/-! DEFINITION. One step of the machine, and the state in which a given word is the next instruction. -/

namespace Sys2Proof.Machine

/-- One step: the environment's next move, or the machine's own (log entry 10). -/
def step (s : State) : Host.Outcome State Fault Refusal := runStep s

/-- The state in which the next step fetches and runs exactly this word (log entry 13). -/
def State.withFetchWord (s : State) (_nbits w : Nat) : State := placeWord s w

end Sys2Proof.Machine
end

