-- ==== Sys2Proof/Safety.lean ====
section
/-! DEFINITION. What counts as a safe run, and the invariant of the state's canonical forms. -/

namespace Sys2Proof.Machine

/-- The machine goes on: the step answers a next state. -/
def Goes (s : State) : Prop := ∃ t, step s = .next t

/-- No run from a state stops with a fault or a refusal within n steps. -/
def SafeFor (n : Nat) (s : State) : Prop := ∃ t, Sys2Proof.core.run n s = .next t

/-- The machine is in form: its memory is canonical. -/
def State.Inv (s : State) : Prop := Memory.wf s.mem = true

end Sys2Proof.Machine
end

