-- ==== Sys2Proof/Certificates/Slice0/Obligations.lean ====
section
/-! DEFINITION. The statements for the provers: what the numbered rules of the spec say an instruction or the
machine does, and the vocabulary they are stated in. -/

namespace Sys2Proof.Spec

open Sys2Proof.Machine

/-! ### What may change -/

/-- Nothing of the machine differs but the contexts, of those only the current one, and no byte of memory. -/
def OnlyCx (s t : State) : Prop :=
  t = { s with ctxs := t.ctxs } ∧ (∀ c, c ≠ s.cur → t.ctxAt c = s.ctxAt c) ∧ ∀ a, memRead t.mem a = memRead s.mem a

/-- A convoy that retires at user level counts towards PREEMPTWIN while a notice stands (R226). -/
def noticeAfter (x : Context) : Option NoticeMark :=
  if x.sup then x.notice else x.notice.map fun n => { n with convoys := n.convoys + 1 }

/-- A convoy of one word has retired to an address: no member remains, the context waits for nothing, and an
outstanding notice has counted it. -/
def WentTo (x y : Context) (pc : Word) : Prop :=
  y.pc = pc ∧ y.cvy = none ∧ y.wait = none ∧ y.notice = noticeAfter x

/-- A scalar-class word has retired: the PC is that of the next sequential convoy (R67, R69). -/
def Retired (x y : Context) : Prop := WentTo x y x.nextPc

/-- The instruction answers a next state in which register d holds v (s0 keeps reading as zero), every other
register, the condition bits, every flag and special register, and all memory are as before, and the word has
retired. -/
def WritesReg (s : State) (i : Instr) (d : BitVec 5) (v : Word) : Prop :=
  ∃ t, exec i s = .next t ∧ OnlyCx s t ∧
    (∀ r, t.cx.reg r = if r = 0 then 0 else if r = d then v else s.cx.reg r) ∧ Retired s.cx t.cx ∧
    t.cx = { s.cx with regs := t.cx.regs, pc := t.cx.pc, cvy := none, wait := none, notice := t.cx.notice }

/-- The instruction answers a next state in which condition bit c holds whether p (c7 keeps reading as 1), every
other condition bit, register, flag and special register, and all memory are as before, and the word has retired. -/
def WritesCond (s : State) (i : Instr) (c : BitVec 3) (p : Prop) : Prop :=
  ∃ t, exec i s = .next t ∧ OnlyCx s t ∧
    (∀ n, t.cx.cond n = true ↔ (n = 7 ∨ if n = c then p else s.cx.cond n = true)) ∧ Retired s.cx t.cx ∧
    t.cx = { s.cx with conds := t.cx.conds, pc := t.cx.pc, cvy := none, wait := none, notice := t.cx.notice }

/-- A scalar floating instruction answers a next state in which register d holds the code, FPFLAGS has gained the
flags and lost none, SRSEED has advanced once where `drawn` holds under rounding mode 5 and not otherwise, all else
and all memory are as before, and the word has retired. -/
def WritesFp (s : State) (i : Instr) (d : BitVec 5) (code : Nat) (fl : Flags) (drawn : Bool) : Prop :=
  ∃ t, exec i s = .next t ∧ OnlyCx s t ∧
    (∀ r, t.cx.reg r = if r = 0 then 0 else if r = d then .ofNat 64 code else s.cx.reg r) ∧
    t.cx.fp = { s.cx.fp with
      flags := s.cx.fp.flags ||| fl
      seed := if drawn = true ∧ s.cx.fp.rm = 5 then lfsrNext s.cx.fp.seed else s.cx.fp.seed } ∧
    Retired s.cx t.cx ∧
    t.cx = { s.cx with regs := t.cx.regs, fp := t.cx.fp, pc := t.cx.pc, cvy := none, wait := none,
                       notice := t.cx.notice }

/-- A source register's bits in the format of code f: 0 f64, 1 f32, 2 f16, 3 bf16 (R63, R330). -/
def sourceBits (s : State) (f : BitVec 2) (a : BitVec 5) : Nat := (s.cx.reg a).toNat % 2 ^ (sfmt f).width

/-- A source operand, a subnormal one being a zero of its sign under ftz (R330). -/
def source (s : State) (f : BitVec 2) (a : BitVec 5) : Operand := (sfmt f).decode s.cx.fp.ftz (sourceBits s f a)

/-- The generator value that the instruction draws under rounding mode 5. -/
def drawn (s : State) : Nat := if s.cx.fp.rm = 5 then (lfsrNext s.cx.fp.seed).toNat else 0

/-! ### Accesses -/

/-- The address of form M: sA plus the signed imm9 times the size (R296). -/
def offsetAddress (s : State) (a : BitVec 5) (i : BitVec 9) (sz : Nat) : Word :=
  .ofInt 64 ((s.cx.reg a).toNat + i.toInt * 2 ^ sz)

/-- The address is aligned, and its access by the current context passes every check and lands at a place. -/
def Lands (s : State) (k : AccKind) (va : Word) (sz : Nat) (p : Place) : Prop :=
  va.toNat % 2 ^ sz = 0 ∧ reach s (s.cx.acc s.cur) k va.toNat = .ok p

/-- What translation leaves in the page table: the leaf of the place's page, if it has one, gains A, and D for a write;
no other byte of memory differs but those of `stored`, and nothing but memory and the translation hardware. -/
def TouchesLeaf (s t : State) (p : Place) (bits : Byte) (stored : Nat → Prop) : Prop :=
  (∀ e, p.page = some e → ¬ stored e.leaf → memRead t.mem e.leaf = memRead s.mem e.leaf ||| bits) ∧
  (∀ a, (∀ e, p.page = some e → a ≠ e.leaf) → ¬ stored a → memRead t.mem a = memRead s.mem a)

/-- The other contexts, and everything of the machine but the contexts, the memory, the translation hardware and what
`f` may change, are as before. -/
def OnlyCxMem (s t : State) (f : State → State) : Prop :=
  t = f { s with ctxs := t.ctxs, mem := t.mem, tlb := t.tlb, plain := t.plain } ∧ ∀ c, c ≠ s.cur → t.ctxAt c = s.ctxAt c

/-- A write by the task of context c does not count for its launch's replay: it is of a local window or at supervisor
level, or no launch that may be replayed is there (R250). -/
def Uncounted (s : State) (c : Nat) (cls : WriteClass) : Prop :=
  cls = .uncounted ∨ ∀ l, s.launch (s.ctxAt c).launchNo = some l → l.replayable = false

/-- The number that n bytes from a place hold, lowest byte first (R3). -/
def littleEndian (m : List Host.Cell) (loc : Nat) : Nat → Nat
  | 0 => 0
  | n + 1 => (memRead m loc).toNat + 256 * littleEndian m (loc + 1) n

/-- Nothing of the context is under way that a release waits for: no write held or committed, no copy command, no
stopped channel, no SEND; and a plane is live. -/
def Quiet (s : State) : Prop :=
  s.cx.pend = [] ∧ s.cx.held = [] ∧ (∀ k < 4, (s.cx.chan k).cmds = [] ∧ (s.cx.chan k).cause = 0) ∧
    (∀ f ∈ s.fab.flights, ¬ (f.msg.node = s.node ∧ f.msg.sender = s.cur)) ∧ s.planesDead = false

/-- The loop stack, innermost first, after a transfer: every entry up to the first whose body holds the target is
popped (R70). -/
def popped (target : Word) (loops : List LoopEntry) : List LoopEntry :=
  loops.dropWhile fun l => !(decide (l.start.toNat ≤ target.toNat) && decide (target.toNat ≤ l.stop.toNat))

/-- The instruction goes to a target and pops the loops that do not hold it; nothing else changes. -/
def JumpsTo (s : State) (i : Instr) (target : Word) : Prop :=
  ∃ t, exec i s = .next t ∧ OnlyCx s t ∧ WentTo s.cx t.cx target ∧
    t.cx = { s.cx with loops := popped target s.cx.loops, pc := target, cvy := none, wait := none,
                       notice := t.cx.notice }

/-- The target of a displacement: the word's address plus 4 times the signed displacement, modulo 2^64. -/
def relative {w : Nat} (s : State) (d : BitVec w) : Word := .ofInt 64 (s.cx.convoyStart.toNat + 4 * d.toInt)

/-- The traps of a level that the event counters count have gone up by one (R290, R398). -/
def CountsTrap (x y : Context) : Prop :=
  y.tally = if x.sup then { x.tally with supTraps := x.tally.supTraps + 1 }
    else { x.tally with userTraps := x.tally.userTraps + 1 }

/-- A trap raised at issue. -/
def trapOf (cause : Nat) (tval : Word) : Trap := { cause := cause, tval := tval, queued := false }

/-- AMO and CAS of n = 2^(2 + v) bytes with what each writes, for the old value, the operand and the expected value; CAS
writes nothing where the old value is not the one expected (R319, R323). -/
def atomicResults (d a b : BitVec 5) (sc : BitVec 3) (v : BitVec 1) (old x e : Nat) : List (Instr × Option Nat) :=
  let n := 2 ^ (2 + v.toNat)
  let signed (y : Nat) : Int := if y < 2 ^ (8 * n - 1) then y else (y : Int) - 2 ^ (8 * n)
  [(.amoAdd d a b sc v, some ((old + x) % 2 ^ (8 * n))), (.amoAnd d a b sc v, some (old &&& x)),
   (.amoOr d a b sc v, some (old ||| x)), (.amoXor d a b sc v, some (old ^^^ x)),
   (.amoMin d a b sc v, some (if signed x < signed old then x else old)),
   (.amoMax d a b sc v, some (if signed old < signed x then x else old)),
   (.amoMinZ d a b sc v, some (min old x)), (.amoMaxZ d a b sc v, some (max old x)), (.amoSwap d a b sc v, some x),
   (.amoFadd d a b sc v, some (fpArith .add (if v = 0 then .f32 else .f64) .rne 0 old x 0).1),
   (.cas d a b sc v, if old = e then some x else none)]

/-! ### Vector words -/

/-- A member of a convoy that is not its last goes on to the next member; the last retires the convoy, and VSTART then
reads 0 (R82, R115). -/
def ChainsOn (x y : Context) : Prop :=
  match x.cvy with
  | some v =>
    if v.idx + 1 < v.words.length then
      y.pc = x.pc ∧ y.cvy = some { v with idx := v.idx + 1 } ∧ y.wait = x.wait ∧ y.notice = x.notice ∧
        y.vsElem = x.vsElem ∧ y.vsMember = x.vsMember
    else WentTo x y v.next ∧ y.vsElem = 0 ∧ y.vsMember = 0
  | none => WentTo x y (x.pc + 4) ∧ y.vsElem = 0 ∧ y.vsMember = 0

/-- What a vector word leaves: the other contexts, all memory, the scalar registers and condition bits, every special
register but FPFLAGS (which only gains flags) and SRSEED, the other cores and tiles, and of its own core and tile
everything but the checker's seed and what an early commit of the strip copies. -/
def VectorOnly (s t : State) : Prop :=
  t = { s with ctxs := t.ctxs, tiles := t.tiles, cores := t.cores } ∧
  (∀ c, c ≠ s.cur → t.ctxAt c = s.ctxAt c) ∧
  (∀ n, n ≠ coreOf s.cur → t.coreAt n = s.coreAt n) ∧ (∀ n, n ≠ tileOf s.cur → t.tileAt n = s.tileAt n) ∧
  t.coreAt (coreOf s.cur) = { s.coreAt (coreOf s.cur) with chkseed := (t.coreAt (coreOf s.cur)).chkseed } ∧
  t.tileAt (tileOf s.cur) = { s.tileAt (tileOf s.cur) with committed := (t.tileAt (tileOf s.cur)).committed } ∧
  (∀ a, memRead t.mem a = memRead s.mem a) ∧
  t.cx.pend ++ t.cx.held = s.cx.pend ++ s.cx.held ∧
  (∃ fl, t.cx.fp = { s.cx.fp with flags := s.cx.fp.flags ||| fl, seed := t.cx.fp.seed }) ∧
  t.cx = { s.cx with
    vregs := t.cx.vregs, scales := t.cx.scales, fp := t.cx.fp, strip := t.cx.strip, ckpt := t.cx.ckpt, pend := t.cx.pend
    held := t.cx.held, pc := t.cx.pc, cvy := t.cx.cvy, wait := t.cx.wait, notice := t.cx.notice
    vsElem := t.cx.vsElem, vsMember := t.cx.vsMember }

/-- Every row of every vector register outside the group at d is as before. -/
def KeepsOtherGroups (s t : State) (d : BitVec 5) : Prop :=
  ∀ reg row, row < 32 → (reg < d.toNat ∨ d.toNat + s.cx.group ≤ reg) → t.cx.vrow reg row = s.cx.vrow reg row

/-- The checks that every vector word shares pass: a valid type, registers that are multiples of G, and no masked
destination v0 (R363). -/
def Issues (s : State) (regs : List (BitVec 5)) (d : BitVec 5) (m : BitVec 1) : Prop :=
  s.cx.vtype.ill = false ∧ (∀ n ∈ regs, n.toNat % s.cx.group = 0) ∧ ¬ (m = 1 ∧ d = 0)

/-- What lies in no row or column of the shape follows ta: it is as before, or zero (R79, R110). -/
def TailFollows (s t : State) (d : BitVec 5) (w : Nat) : Prop :=
  ∀ k row c, k < s.cx.group → row < 32 → row < 2 * s.cx.lanes → (c + 1) * w ≤ 2048 →
    (s.cx.vrows ≤ row ∨ s.cx.vcols ≤ c) →
    rowField w c (t.cx.vrow (d.toNat + k) row) =
      if s.cx.vtype.ta = true then 0 else rowField w c (s.cx.vrow (d.toNat + k) row)

/-- An element-wise word (R110, R117). It answers a next state and changes no register outside its group; in a shape of
at most 32 rows, the largest there is, an element whose lane is held and whose column fits its row is left alone below
`start`, gets its value where it is active (whenever `det` says that the value is determined), and is kept, or under
ma cleared, where it is masked off; and where an element remains to be written, the tail follows ta. -/
def WritesElements (s : State) (i : Instr) (d : BitVec 5) (m q : BitVec 1) (start w : Nat) (det : Prop)
    (value : Nat → Nat → Nat → Nat) : Prop :=
  ∃ t, exec i s = .next t ∧ VectorOnly s t ∧ ChainsOn s.cx t.cx ∧
    (s.cx.vrows ≤ 32 → KeepsOtherGroups s t d ∧ (start < s.cx.inShape → TailFollows s t d w) ∧
      ∀ r c, r < s.cx.grows → c < s.cx.vcols → r % s.cx.vrows < 2 * s.cx.lanes → (c + 1) * w ≤ 2048 →
        let n := r * s.cx.vcols + c
        let old := s.cx.elem d.toNat w r c
        (n < start → t.cx.elem d.toNat w r c = old) ∧
        (start ≤ n → s.cx.active (m == 1) r c = true → det → t.cx.elem d.toNat w r c = value n r c % 2 ^ w) ∧
        (start ≤ n → s.cx.active (m == 1) r c = false → t.cx.elem d.toNat w r c = if q = 1 then 0 else old))

/-- How many active elements have a number from `start` up to `stop`, that one left out (R96). -/
def activeIn (s : State) (m : BitVec 1) (start stop : Nat) : Nat :=
  ((List.range stop).filter fun n =>
    decide (start ≤ n) && s.cx.active (m == 1) (n / s.cx.vcols) (n % s.cx.vcols)).length

/-- SRSEED after some draws (R96). -/
def seedAfter (s : State) : Nat → BitVec 32
  | 0 => s.cx.fp.seed
  | n + 1 => lfsrNext (seedAfter s n)

/-- The generator value that element n draws under mode 5, each active element drawing one in element-number order (R96). -/
def elementDraw (s : State) (m : BitVec 1) (start n : Nat) : Nat :=
  if s.cx.qfp.rm = 5 then (seedAfter s (activeIn s m start (n + 1))).toNat else 0

/-- FPFLAGS keeps its flags and gains exactly those that the active elements from `start` on raise, and SRSEED advances once for
each of them where the word draws under mode 5, and not at all otherwise (R85, R96, R365). -/
def RaisesFlags (s : State) (i : Instr) (m : BitVec 1) (start : Nat) (draws : Prop) (fl : Nat → Nat → Nat → Flags) : Prop :=
  ∀ t, exec i s = .next t →
    (∀ j, t.cx.fp.flags.getLsbD j = true ↔ s.cx.fp.flags.getLsbD j = true ∨
      ∃ r c, r < s.cx.grows ∧ c < s.cx.vcols ∧ start ≤ r * s.cx.vcols + c ∧ s.cx.active (m == 1) r c = true ∧
        (fl (r * s.cx.vcols + c) r c).getLsbD j = true) ∧
    (draws → s.cx.qfp.rm = 5 → t.cx.fp.seed = seedAfter s (activeIn s m start s.cx.inShape)) ∧
    (¬ (draws ∧ s.cx.qfp.rm = 5) → t.cx.fp.seed = s.cx.fp.seed)

/-- A word that writes a mask destination (R111): bit r × maxcols + c belongs to element (r, c). -/
def WritesMask (s : State) (i : Instr) (d : BitVec 5) (m q : BitVec 1) (value : Nat → Nat → Prop) : Prop :=
  ∃ t, exec i s = .next t ∧ VectorOnly s t ∧ ChainsOn s.cx t.cx ∧ t.cx.scales = s.cx.scales ∧
    (∀ reg row, row < 32 → reg ≠ d.toNat → t.cx.vrow reg row = s.cx.vrow reg row) ∧
    (s.cx.vcols ≤ maxCols s.cx.et →
      ∀ r c, r < s.cx.grows → c < s.cx.vcols →
        let n := r * s.cx.vcols + c
        let p := r * maxCols s.cx.et + c
        let old := s.cx.maskBit d.toNat p
        p / 2048 < 2 * s.cx.lanes → p / 2048 < 32 →
        (n < s.cx.startElem → t.cx.maskBit d.toNat p = old) ∧
        (s.cx.startElem ≤ n → s.cx.active (m == 1) r c = true → (t.cx.maskBit d.toNat p = true ↔ value r c)) ∧
        (s.cx.startElem ≤ n → s.cx.active (m == 1) r c = false → t.cx.maskBit d.toNat p = (old && q == 0)))

/-- A member that writes a scalar register: register d holds v, every other is as before, nothing else changes but the
place of execution (and the scalars a convoy carries when it issues again, R116). -/
def MemberWritesReg (s : State) (i : Instr) (d : BitVec 5) (v : Word) : Prop :=
  ∃ t, exec i s = .next t ∧ OnlyCx s t ∧
    (∀ r, t.cx.reg r = if r = 0 then 0 else if r = d then v else s.cx.reg r) ∧
    t.cx.pc = s.cx.retireMember.pc ∧ t.cx.cvy.map (·.idx) = s.cx.retireMember.cvy.map (·.idx) ∧
    t.cx = { s.cx with regs := t.cx.regs, pc := t.cx.pc, cvy := t.cx.cvy, wait := t.cx.wait, notice := t.cx.notice
                       vsElem := t.cx.vsElem, vsMember := t.cx.vsMember }

/-- A member that writes a condition bit. -/
def MemberWritesCond (s : State) (i : Instr) (c : BitVec 3) (p : Prop) : Prop :=
  ∃ t, exec i s = .next t ∧ OnlyCx s t ∧ ChainsOn s.cx t.cx ∧
    (∀ n, t.cx.cond n = true ↔ (n = 7 ∨ if n = c then p else s.cx.cond n = true)) ∧
    t.cx = { s.cx with conds := t.cx.conds, pc := t.cx.pc, cvy := t.cx.cvy, wait := t.cx.wait, notice := t.cx.notice
                       vsElem := t.cx.vsElem, vsMember := t.cx.vsMember }

/-- The numbers, in order, of the active in-shape elements whose bit in a mask register is 1 (R124). -/
def marked (s : State) (a : BitVec 5) (m : BitVec 1) : List Nat :=
  (List.range s.cx.inShape).filter fun n =>
    s.cx.active (m == 1) (n / s.cx.vcols) (n % s.cx.vcols) &&
      s.cx.maskBit a.toNat (n / s.cx.vcols * maxCols s.cx.et + n % s.cx.vcols)

/-- The number of active in-shape elements. -/
def activeElements (s : State) (m : BitVec 1) : Nat :=
  ((List.range s.cx.inShape).filter fun n => s.cx.active (m == 1) (n / s.cx.vcols) (n % s.cx.vcols)).length

/-- The two-operand words of VARITH in their vector form, with their operations. -/
def arithVV (k : BitVec 1) (d a b : BitVec 5) (m q : BitVec 1) : List (Instr × VFn) :=
  [(.vaddVV k d a b m q, .add), (.vsubVV k d a b m q, .sub), (.vmulVV k d a b m q, .mul), (.vmaVV k d a b m q, .ma),
   (.vdivVV k d a b m q, .div), (.vminVV k d a b m q, .min), (.vmaxVV k d a b m q, .max),
   (.vmulhVV k d a b m q, .mulh), (.vandVV k d a b m q, .and), (.vorVV k d a b m q, .or),
   (.vxorVV k d a b m q, .xor), (.vshlVV k d a b m q, .shl), (.vshrVV k d a b m q, .shr),
   (.vsraVV k d a b m q, .sra), (.vsaddVV k d a b m q, .sadd), (.vssubVV k d a b m q, .ssub),
   (.vraddVV k d a b m q, .radd), (.vrsubVV k d a b m q, .rsub), (.vsgnCopyVV k d a b m q, .sgnCopy),
   (.vsgnNegVV k d a b m q, .sgnNeg), (.vsgnXorVV k d a b m q, .sgnXor)]

/-- The same in their scalar form. -/
def arithVS (k : BitVec 1) (d a b : BitVec 5) (m q : BitVec 1) : List (Instr × VFn) :=
  [(.vaddVS k d a b m q, .add), (.vsubVS k d a b m q, .sub), (.vmulVS k d a b m q, .mul), (.vmaVS k d a b m q, .ma),
   (.vdivVS k d a b m q, .div), (.vminVS k d a b m q, .min), (.vmaxVS k d a b m q, .max),
   (.vmulhVS k d a b m q, .mulh), (.vandVS k d a b m q, .and), (.vorVS k d a b m q, .or),
   (.vxorVS k d a b m q, .xor), (.vshlVS k d a b m q, .shl), (.vshrVS k d a b m q, .shr),
   (.vsraVS k d a b m q, .sra), (.vsaddVS k d a b m q, .sadd), (.vssubVS k d a b m q, .ssub),
   (.vraddVS k d a b m q, .radd), (.vrsubVS k d a b m q, .rsub), (.vsgnCopyVS k d a b m q, .sgnCopy),
   (.vsgnNegVS k d a b m q, .sgnNeg), (.vsgnXorVS k d a b m q, .sgnXor)]

/-- The words of VARITH that read one group. -/
def arithV (k : BitVec 1) (d a : BitVec 5) (m q : BitVec 1) : List (Instr × VFn) :=
  [(.vsqrt k d a m q, .sqrt), (.vexp2 k d a m q, .exp2), (.vsgnAbs k d a m q, .sgnAbs)]

/-- Trap 0x03: TVAL holds the word in bits 31:0 and its member in bits 33:32 (R216). -/
def illegalWord (s : State) (i : Instr) : Trap :=
  trapOf 0x03 (.ofNat 64 ((encodeNat i).getD 0 + s.cx.member * 2 ^ 32))

/-- The translated accesses of a vector memory word: its elements and scale bytes, and the state after, in which A and D
are set. -/
def memoryAccess (s : State) (k : AccKind) (mode : VMode) (a b : BitVec 5) (m : BitVec 1) : Translated :=
  let mem := s.cx.vmem mode a b
  mem.translate k (mem.elements s.cx m s.cx.startElem)
    (if mode = .index then s.mapCx fun x => x.capture (x.groupRegs b.toNat) else s)

/-- A vector memory word has elements left, each is aligned, and every byte of it translates. -/
def VectorAccess (s : State) (k : AccKind) (mode : VMode) (a b : BitVec 5) (m : BitVec 1) : Prop :=
  let mem := s.cx.vmem mode a b
  s.cx.startElem < s.cx.inShape ∧ mem.misaligned s.cx (mem.elements s.cx m s.cx.startElem) = none ∧
    (∀ e ∈ (memoryAccess s k mode a b m).elems, ∃ p, e.2 = .ok p) ∧
    (∀ e ∈ (memoryAccess s k mode a b m).scales, ∃ p, e.2 = .ok p)

/-- No byte of memory differs but those of `stored` and the first byte of the leaves that the access used. -/
def KeepsBytesBut (s t : State) (acc : Translated) (stored : Nat → Prop) : Prop :=
  ∀ a, (∀ e p pg, (e, .ok p) ∈ acc.elems → p.page = some pg → a ≠ pg.leaf) →
    (∀ e p pg, (e, .ok p) ∈ acc.scales → p.page = some pg → a ≠ pg.leaf) → ¬ stored a →
    memRead t.mem a = memRead s.mem a

/-- The fault of a member stands in the vector queue (R116, R218): its convoy, which had issued, is left standing at that
member, the scalar unit goes on behind it, and nothing else of the context differs from u. -/
def QueuedIn (s u t : State) (f : QueueFault) (cause : Nat) (tval : Word) (elem : Nat) : Prop :=
  f.cause = cause ∧ f.tval = tval ∧ f.elem = elem ∧ f.rcd = [] ∧ f.cvy.start = s.cx.convoyStart ∧ f.cvy.idx = s.cx.member ∧
    f.cvy.next = s.cx.nextPc ∧ t.cx = { u.cx with qfault := some f, pc := s.cx.nextPc, cvy := none, wait := none } ∧
    ∀ c, c ≠ s.cur → t.ctxAt c = s.ctxAt c

/-- The 8,832 bytes of the fault record of failing elements, each with its cause (R167 to R169). -/
def FaultRecordOf (s : State) (kind : Nat) (fs : List (VElem × Nat)) (rcd : List Byte) : Prop :=
  let field (o n : Nat) : Nat := bytesVal ((rcd.drop o).take n)
  let page (e : VElem) := faultPage s e.va
  rcd.length = 8832 ∧
  (∀ e c rest, fs = (e, c) :: rest →
    field 0x00 4 = c ∧ field 0x18 8 = e.n + s.cx.member * 2 ^ 32 ∧ field 0x20 4 = e.n) ∧
  field 0x08 8 = s.cx.convoyStart.toNat ∧ field 0x10 1 = s.cx.member ∧ field 0x12 1 = kind ∧ field 0x13 1 = 1 ∧
  field 0x14 4 = 0 ∧ field 0x24 4 = fs.length ∧ field 0x28 2 = s.cx.space.asid.toNat ∧ field 0x2A 86 = 0 ∧
  (∃ pages : List (Nat × Nat × Nat), pages.Pairwise (fun p q => p.1 < q.1) ∧
    (∀ p ∈ pages, ∃ f ∈ fs, page f.1 = (p.1, p.2.2)) ∧
    (∀ front e c rest, fs = front ++ (e, c) :: rest → (∀ f ∈ front, (page f.1).1 ≠ (page e).1) →
      ((page e).1, c, (page e).2) ∈ pages) ∧
    field 0x04 4 = pages.length ∧ field 0x11 1 = (if 64 < pages.length then 1 else 0) ∧
    ∀ j < 64, field (0x80 + 8 * j) 8 = match pages[j]? with
      | none => 0
      | some p => p.1 + p.2.1 * 256 + p.2.2) ∧
  ∀ n < 65536, (field (0x280 + n / 8) 1 / 2 ^ (n % 8) % 2 = 1 ↔ ∃ f ∈ fs, f.1.n = n)

/-- The fault of a member stands in the vector queue: what it is, its convoy, left standing at that member, and that the
scalar unit goes on behind it (R65, R116, R218). -/
def FaultAt (s t : State) (f : QueueFault) (cause : Nat) (tval : Word) (elem : Nat) : Prop :=
  t.cx.qfault = some f ∧ f.cause = cause ∧ f.tval = tval ∧ f.elem = elem ∧ f.rcd = [] ∧ f.cvy.start = s.cx.convoyStart ∧
    f.cvy.idx = s.cx.member ∧ f.cvy.next = s.cx.nextPc ∧ t.cx.pc = s.cx.nextPc ∧ t.cx.cvy = none ∧ t.cx.wait = none ∧
    ∀ c, c ≠ s.cur → t.ctxAt c = s.ctxAt c

/-- The vector loads with their modes. -/
def loadForms (k : BitVec 1) (d a b : BitVec 5) (m q : BitVec 1) (g : BitVec 3) : List (Instr × VMode) :=
  [(.vld k d a b m q g, .unit), (.vldSt k d a b m q g, .strided), (.vldZ k d a b m q g, .zorder),
   (.vldBc k d a m q g, .bcast), (.vldB k d a b m q g, .blocked), (.vgather k d a b m q g, .index)]

/-- The vector stores with their modes. -/
def storeForms (k : BitVec 1) (d a b : BitVec 5) (m q : BitVec 1) (g : BitVec 3) : List (Instr × VMode) :=
  [(.vst k d a b m q g, .unit), (.vstSt k d a b m q g, .strided), (.vstZ k d a b m q g, .zorder),
   (.vstBc k d a m q g, .bcast), (.vstB k d a b m q g, .blocked), (.vscatter k d a b m q g, .index)]

/-- A vector memory word has no element left from VSTART on (R117). -/
def NoneLeft (s : State) (mode : VMode) (a b : BitVec 5) (m : BitVec 1) : Prop :=
  let mem := s.cx.vmem mode a b
  s.cx.inShape ≤ s.cx.startElem ∧ mem.misaligned s.cx (mem.elements s.cx m s.cx.startElem) = none

/-- It has retired, and nothing else differs. -/
def OnlyRetires (s : State) (i : Instr) : Prop :=
  ∃ t, exec i s = .next t ∧ OnlyCx s t ∧ t.mem = s.mem ∧ ChainsOn s.cx t.cx ∧
    t.cx = { s.cx with pc := t.cx.pc, cvy := t.cx.cvy, wait := t.cx.wait, notice := t.cx.notice
                       vsElem := t.cx.vsElem, vsMember := t.cx.vsMember }

/-- The words of VAMO with their operations. -/
def vamoForms (k : BitVec 1) (d a b : BitVec 5) (m q : BitVec 1) (g : BitVec 3) : List (Instr × VAmo) :=
  [(.vamoAdd k d a b m q g, .add), (.vamoMin k d a b m q g, .min), (.vamoMax k d a b m q g, .max),
   (.vamoAnd k d a b m q g, .and), (.vamoOr k d a b m q g, .or), (.vamoXor k d a b m q g, .xor),
   (.vamoSwap k d a b m q g, .swap), (.vamoFadd k d a b m q g, .fadd)]

/-- What VRED and VSCAN combine two values to with a draw g, and its flags (R98, R102, R307): 0 sum, 1 min, 2 max, 3 and, 4 or,
5 xor. -/
def combined (x : Context) (o g p q : Nat) : Nat × Flags :=
  let w := ewidth x.et
  let v (n : Nat) : Int := if isSigned x.et = true ∧ 2 ^ (w - 1) ≤ n then n - 2 ^ w else n
  if isFloat x.et = true then
    match o with
    | 0 => fpArith .add (efmt x.et) x.qfp.ctl g p q 0
    | 1 => fpMinMax false (efmt x.et) x.qfp.ftz p q
    | _ => fpMinMax true (efmt x.et) x.qfp.ftz p q
  else
    match o with
    | 0 => ((p + q) % 2 ^ w, 0)
    | 1 => (if v q < v p then q else p, 0)
    | 2 => (if v p < v q then q else p, 0)
    | 3 => (p &&& q, 0)
    | 4 => (p ||| q, 0)
    | _ => (p ^^^ q, 0)

/-- The identity of an operation (R103). -/
def identityOf (x : Context) (o : Nat) : Nat :=
  let w := ewidth x.et
  if isFloat x.et = true then
    match o with
    | 0 => 2 ^ (w - 1)
    | 1 => (efmt x.et).infCode
    | _ => 2 ^ (w - 1) + (efmt x.et).infCode
  else
    match o with
    | 1 => if isSigned x.et = true then 2 ^ (w - 1) - 1 else 2 ^ w - 1
    | 2 => if isSigned x.et = true then 2 ^ (w - 1) else 0
    | 3 => 2 ^ w - 1
    | _ => 0

/-- The generator value that the combine of a number draws under mode 5, each combine of the instruction drawing one in the order of
R102. -/
def combineDraw (s : State) (k : Nat) : Nat := if s.cx.qfp.rm = 5 then (seedAfter s k).toNat else 0

/-- Node i of level h of the tree over 2^n leaves, and the flags of the combine that makes it, of which `done` others come before
the tree (R102): a level combines neighbours in increasing order, and the levels come one after another. -/
def treeNode (s : State) (o n done : Nat) (leaf : Nat → Nat) : Nat → Nat → Nat × Flags
  | 0, i => (leaf i, 0)
  | h + 1, i => combined s.cx o (combineDraw s (done + (2 ^ n - 2 ^ (n - h)) + i + 1))
      (treeNode s o n done leaf h (2 * i)).1 (treeNode s o n done leaf h (2 * i + 1)).1

/-- A value that no combine changes: a NaN is the canonical one (R89; log entry 86). -/
def passed (x : Context) (v : Nat) : Nat :=
  if isFloat x.et = true ∧ (efmt x.et).infCode < v % (efmt x.et).signBit then (efmt x.et).nanCode else v

/-- The leaves of a tree: L values, padded with the identity (R102). -/
def padded (x : Context) (o L : Nat) (leaf : Nat → Nat) (i : Nat) : Nat := if i < L then leaf i else identityOf x o

/-- What L values are reduced to over 2^n leaves (R102). -/
def reduced (s : State) (o L n done : Nat) (leaf : Nat → Nat) : Nat :=
  if L = 1 then passed s.cx (leaf 0) else (treeNode s o n done (padded s.cx o L leaf) n 0).1

/-- A combine of that tree raises a flag. -/
def treeRaises (s : State) (o L n done : Nat) (leaf : Nat → Nat) (j : Nat) : Prop :=
  ∃ h i, h < n ∧ i < 2 ^ (n - 1 - h) ∧ (treeNode s o n done (padded s.cx o L leaf) (h + 1) i).2.getLsbD j = true

/-- The inclusive prefix of the leaves at column c, and the flags of its combine (R102). -/
def scanned (s : State) (o done : Nat) (leaf : Nat → Nat) : Nat → Nat × Flags
  | 0 => (passed s.cx (leaf 0), 0)
  | c + 1 => combined s.cx o (combineDraw s (done + c + 1)) (scanned s o done leaf c).1 (leaf (c + 1))

/-- The smallest power of two that is not below L is 2^n. -/
abbrev Pads (L n : Nat) : Prop := L ≤ 2 ^ n ∧ 2 ^ n < 2 * L

/-- FPFLAGS gains the flags that combines raise, and SRSEED advances once for each of them where a floating sum draws (R96, R102,
R123, R382). -/
def CombinesLeave (s t : State) (o count : Nat) (raised : Nat → Prop) : Prop :=
  (∀ j, t.cx.fp.flags.getLsbD j = true ↔ s.cx.fp.flags.getLsbD j = true ∨ raised j) ∧
  t.cx.fp.seed = if isFloat s.cx.et = true ∧ o = 0 ∧ s.cx.qfp.rm = 5 then seedAfter s count else s.cx.fp.seed

/-! ### Boundaries and the matrix unit -/

/-- The slots of a tile after a boundary of a context: those it had marked released are free (R132). -/
def SlotsFreed (u v : Tile) (c : Nat) : Prop :=
  ∀ f, v.slot f = if (u.slot f).holder = some (.ctx c) ∧ (u.slot f).released = true
    then { u.slot f with holder := none, released := false } else u.slot f

/-- What a boundary instruction changes of the machine: its context, whose held writes are committed in order and whose
strip begins anew, resuming after the instruction, and its tile, whose released slots are free; no memory (R78). -/
def BoundaryOnly (s t : State) : Prop :=
  t = { s with ctxs := t.ctxs, tiles := t.tiles } ∧ (∀ c, c ≠ s.cur → t.ctxAt c = s.ctxAt c) ∧
  (∀ n, n ≠ tileOf s.cur → t.tileAt n = s.tileAt n) ∧
  SlotsFreed (s.tileAt (tileOf s.cur)) (t.tileAt (tileOf s.cur)) s.cur ∧
  t.cx.pend = s.cx.pend ++ s.cx.held ∧ t.cx.held = [] ∧ t.cx.strip = .reset ∧ t.cx.ckpt = t.cx.checkpoint t.cx.pc

/-- The bands and working accumulators of the current tile are as before, and the context's committed copies are what
commitAccumulators makes them (R78 step 3). -/
def KeepsBands (s t : State) : Prop :=
  let u := s.tileAt (tileOf s.cur)
  let v := t.tileAt (tileOf s.cur)
  v.bands = u.bands ∧ v.working = u.working ∧
    v.committed = copyBands (u.bandsOf (.ctx s.cur)) u.working u.committed

/-- The bands and both copies of the accumulators of the current tile are as before. -/
def KeepsBands' (s t : State) : Prop :=
  let u := s.tileAt (tileOf s.cur)
  let v := t.tileAt (tileOf s.cur)
  v.bands = u.bands ∧ v.working = u.working ∧ v.committed = u.committed

/-- Nothing of the machine differs but the current context and the current tile; no memory. -/
def MatrixOnly (s t : State) : Prop :=
  t = { s with ctxs := t.ctxs, tiles := t.tiles } ∧ (∀ c, c ≠ s.cur → t.ctxAt c = s.ctxAt c) ∧
  ∀ n, n ≠ tileOf s.cur → t.tileAt n = s.tileAt n

/-- The working copy of an accumulator of the current tile, as a number (R125). -/
def accumulator (s : State) (band set row col : Nat) : Nat :=
  (tabGet 0 (s.tileAt (tileOf s.cur)).working (accKey band set row col)).toNat

/-- Its committed copy. -/
def committedCopy (s : State) (band set row col : Nat) : Nat :=
  (tabGet 0 (s.tileAt (tileOf s.cur)).committed (accKey band set row col)).toNat

/-- A slot of the current tile. -/
def tileSlot (s : State) (f : Nat) : Slot := (s.tileAt (tileOf s.cur)).slot f

/-- The context holds a slot that it has not marked released (R129). -/
def HoldsSlot (s : State) (f : Nat) : Prop :=
  f < 64 ∧ (tileSlot s f).holder = some (.ctx s.cur) ∧ (tileSlot s f).released = false

/-- The checks of R129 for MMA pass, and the shape is not zero. -/
def ProductFits (s : State) (d : BitVec 5) (f : Nat) : Prop :=
  let x := s.cx
  let D := bandDepth x.et
  let used (q : Nat) : Prop :=
    if x.qmat.wide = true then q < (x.qmat.cols.toNat + 31) / 32 else q < x.mgCount ∧ q * D < x.qmat.depth.toNat
  Issues s [d] d 0 ∧ isMatrixType x.et = true ∧ x.zeroShape = false ∧ x.mgCount ≠ 0 ∧ x.qmat.rev = 1 ∧
  x.qmat.afmt.toNat = accFormat x.et ∧ x.qmat.rows.toNat ≤ 64 ∧ x.qmat.rows.toNat ≤ x.grows ∧
  (if x.qmat.wide = true then x.qmat.cols.toNat ≤ 32 * x.mgCount ∧ x.qmat.depth.toNat ≤ D
   else x.qmat.cols.toNat ≤ 32 ∧ x.qmat.depth.toNat ≤ D * x.mgCount) ∧
  (∀ q, used q → (x.qmat.wide = false → d.toNat + (q + 1) * x.group ≤ 32) ∧ HoldsSlot s (f + q) ∧
    (tileSlot s (f + q)).tag = some x.vtype.etype) ∧
  (isBlocked x.et = true → x.vcols = D)

/-! ### Events -/

/-- A context's waiting word has retired, and nothing else of the machine differs. -/
def RetiresIn (s t : State) (c : Nat) : Prop :=
  t = s.setCtx c (t.ctxAt c) ∧ WentTo (s.ctxAt c) (t.ctxAt c) (s.ctxAt c).nextPc ∧
  t.ctxAt c = { s.ctxAt c with pc := (t.ctxAt c).pc, cvy := none, wait := none, notice := (t.ctxAt c).notice }

/-- A context waits in an instruction, which has translated its own access where it makes one (R320, R361). -/
def WaitsAt (s : State) (c : Nat) (k : WaitKind) (i : Instr) (marks : List (Nat × BitVec 32)) (p : Option Place) : Prop :=
  (s.ctxAt c).wait = some { kind := k, instr := i, marks := marks, place := p }

/-- A context waits in an instruction that makes no access of its own. -/
def WaitsIn (s : State) (c : Nat) (k : WaitKind) (i : Instr) (marks : List (Nat × BitVec 32)) : Prop :=
  WaitsAt s c k i marks none

/-- No moult and no migration is in progress, and a plane is live. -/
def Runs (s : State) : Prop := s.fab.undealt = 0 ∧ s.migration = none ∧ s.planesDead = false

/-- Nothing that a context has started is under way. -/
def AtRest (s : State) (c : Nat) : Prop :=
  (s.ctxAt c).pend = [] ∧ (∀ k < 4, ((s.ctxAt c).chan k).cmds = [] ∧ ((s.ctxAt c).chan k).cause = 0) ∧
    ∀ f ∈ s.fab.flights, ¬ (f.msg.node = s.node ∧ f.msg.sender = c)

/-- The entries that TLBINV of kind k removes, for an address or ASID in sN and the context's ASID (R175). -/
def removes (k : Nat) (a : Word) (asid : BitVec 16) (e : TlbEntry) : Prop :=
  let holds := a.toNat % 2 ^ 55 / 2 ^ e.size * 2 ^ e.size = e.va
  (k = 0 ∧ holds ∧ (e.glob = true ∨ e.asid = asid)) ∨ (k = 1 ∧ e.glob = false ∧ e.asid = .ofNat 16 a.toNat) ∨
    (k = 2 ∧ holds) ∨ k = 3

/-- An event of a context arrives: its cause is pending with its value, and it wakes a WAIT (R193 (engines), R388). -/
def Raised (x y : Context) (cause : Nat) (v : Word) : Prop :=
  y.ui = { x.ui with pend := x.ui.pend ||| (1#4 <<< (cause - 1)), held := x.ui.held.setIfInBounds (cause - 1) v } ∧
    y.wake = true

/-- MSI-X of a port, of ports 1 and 2. -/
def msiPort (h : HostBlk) (port : Nat) : MsiPort := h.ports.toList.getD (port - 1) .reset

/-- The vectors that a port sends when vector v comes about: v, unless it is masked, and with it those that were pending and
are not; none while MSI-X is off or the whole function is masked (R279; log entry 93). -/
def sentBy (p : MsiPort) (v : Nat) : List Nat :=
  if p.on = true ∧ p.allMasked = false then
    (List.range 8).filter fun u => (u == v || p.pend.getLsbD u) && !p.mask.getLsbD u
  else []

/-- Vector v comes about at some of the ports: they send what they may and keep the rest pending (R279; log entry 93). -/
def Vectored (h g : HostBlk) (ports : List Nat) (v : Nat) : Prop :=
  g.msix = h.msix ++ ports.flatMap (fun p => (sentBy (msiPort h p) v).map fun u => (p, u)) ∧
  ∀ p ∈ [1, 2], ∀ u < 8,
    let old := msiPort h p
    let sent := u ∈ sentBy old v
    (msiPort g p).pend.getLsbD u =
      (if p ∈ ports ∧ old.on = true then decide ((u = v ∨ old.pend.getLsbD u = true) ∧ ¬ sent) else old.pend.getLsbD u) ∧
    msiPort g p = { old with pend := (msiPort g p).pend }

/-- A tracked record becomes ready as `makeReady` has it (RecordsBecomeReady), where it does not complete at once. -/
def BecomesReady (v t : State) (n : Nat) (va : Word) : Prop :=
  (∀ q, (makeReady v n va).rcd n va = some q → q.wasReady = true → q.total ≠ 0) →
    t.mill.recs = (makeReady v n va).mill.recs ∧ t.mem = (makeReady v n va).mem

/-- A master's access at an offset of BAR0 is made now: no moult or migration holds the ports, and the MMIO table permits it
(R155, R211, R276, R284). -/
def Reaches (s : State) (m off : Nat) (write : Bool) : Prop :=
  (s.flows = true ∨ m = 3) ∧ mmioAllows s m off write = true

/-- The state registers of R83 that any level reads and writes, that any level reads and none writes, that only supervisor level
reads and writes, and those that any level reads and supervisor level writes. Every other number has no register. -/
def writableNumbers : List Nat :=
  [0x03, 0x0A, 0x0B, 0x0C, 0x0D, 0x11, 0x12, 0x13, 0x14, 0x15, 0x18, 0x2C, 0x30, 0x33, 0x39, 0x48]
def readableNumbers : List Nat :=
  [0x00, 0x01, 0x02, 0x04, 0x05, 0x10, 0x20, 0x21, 0x22, 0x23, 0x24, 0x25, 0x26, 0x27, 0x28, 0x29, 0x2A, 0x2B, 0x31, 0x32,
   0x34, 0x38, 0x40, 0x41, 0x50, 0x51, 0x52, 0x58, 0x60, 0x68, 0x69]
def privilegedNumbers : List Nat :=
  [0x100, 0x101, 0x102, 0x103, 0x104, 0x105, 0x110, 0x111, 0x112, 0x120, 0x121, 0x122, 0x130, 0x140]
def counterNumbers : List Nat :=
  [0x200, 0x201, 0x202, 0x203, 0x204, 0x205, 0x206, 0x207, 0x208, 0x209, 0x20A, 0x20B, 0x20C, 0x20D, 0x20E, 0x20F]

/-- A 12-bit number that R83 gives no register. -/
def Unassigned (n : Nat) : Prop :=
  n < 4096 ∧ n ∉ writableNumbers ∧ n ∉ readableNumbers ∧ n ∉ privilegedNumbers ∧ n ∉ counterNumbers

/-- A task has left its context. -/
def Freed (x : Context) : Prop :=
  x.task = none ∧ x.trap.task = false ∧ x.lanes = 0 ∧ x.mgCount = 0 ∧ x.evict = false ∧ x.saving = false ∧
    x.notice = none ∧ ∀ k < 4, x.slot k = .empty

/-! ### Numbers -/

/-- The finite number that an exponent and a fraction field name together, without its sign (R88). -/
def magnitude (f : FFmt) (code : Nat) : Rat :=
  let E := code / 2 ^ f.mbits
  let F : Rat := (code % 2 ^ f.mbits : Nat)
  if E = 0 then 2 ^ ((1 : Int) - f.bias) * (F / 2 ^ f.mbits)
  else 2 ^ ((E : Int) - f.bias) * (1 + F / 2 ^ f.mbits)

/-- The sign of a code is minus. -/
def minus (f : FFmt) (bits : Nat) : Bool := decide (bits / f.signBit % 2 = 1)

/-- A code names a finite number. -/
abbrev isFinite (f : FFmt) (bits : Nat) : Prop := bits % f.signBit ≤ f.maxCode

/-- The finite number that an operand of a code is; a subnormal one is a zero under ftz (R88, R95). -/
def number (f : FFmt) (ftz : Bool) (bits : Nat) : Rat :=
  let m := bits % f.signBit
  if ftz = true ∧ f.flushable = true ∧ m < 2 ^ f.mbits then 0
  else if minus f bits = true then -magnitude f m else magnitude f m

/-- A positive real number, by the rationals that it reaches and those that it passes. -/
structure PosReal where
  reaches : Rat → Prop
  passes : Rat → Prop

/-- A positive rational, and the square root of one. -/
def exactly (x : Rat) : PosReal := { reaches := fun v => v ≤ x, passes := fun v => v < x }
def rootOf (x : Rat) : PosReal := { reaches := fun v => v * v ≤ x, passes := fun v => v * v < x }

/-- A magnitude from n units of q up to n + 1 is rounded up (R95): modes 0 RNE, 1 RTZ, 2 RDN, 3 RUP, 4 RNA, and else
stochastic with generator value g. -/
def goesUp (rm g : Nat) (neg : Bool) (x : PosReal) (n : Nat) (q : Rat) : Prop :=
  match rm with
  | 0 => x.passes ((n + 1 / 2) * q) ∨ (x.reaches ((n + 1 / 2) * q) ∧ n % 2 = 1)
  | 1 => False
  | 2 => x.passes (n * q) ∧ neg = true
  | 3 => x.passes (n * q) ∧ neg = false
  | 4 => x.reaches ((n + 1 / 2) * q)
  | _ => x.passes (n * q) ∧ x.reaches ((n + (g : Rat) / 2 ^ 32) * q)

/-- What an overflow gives, with its flags (R97). -/
def overflowed (f : FFmt) (c : FpCtl) (neg : Bool) : Nat × Flags :=
  if f = .e2 ∨ ((f = .e4 ∨ f = .e5) ∧ c.sat8 = true) then (f.code neg f.maxCode, flagSAT ||| flagNX)
  else if c.rm = 1 ∨ (c.rm = 2 ∧ neg = false) ∨ (c.rm = 3 ∧ neg = true) then
    (f.code neg f.maxCode, flagOF ||| flagNX)
  else (if f = .e4 then f.nanCode else f.code neg f.infCode, flagOF ||| flagNX)

/-- round(x, fmt, mode) of R95 for a non-zero real number of a sign: a code and its flags. Under ftz a result below the
smallest normal number is a zero; otherwise x lies between n and n + 1 units of its exponent e, v is the one it is rounded
to, and the code is that of v, or what an overflow gives. -/
def RoundedReal (f : FFmt) (c : FpCtl) (g : Nat) (neg : Bool) (x : PosReal) (r : Nat × Flags) : Prop :=
  let emin : Int := 1 - f.bias
  let tiny := c.ftz = true ∧ f.flushable = true ∧ ¬ x.reaches (2 ^ emin)
  (tiny → r = (f.code neg 0, flagUF ||| flagNX)) ∧
  (¬ tiny → ∃ (e : Int) (n k : Nat),
    let q : Rat := 2 ^ (e - f.mbits)
    let v : Rat := k * q
    emin ≤ e ∧ ¬ x.reaches (2 ^ (e + 1)) ∧ (x.reaches (2 ^ e) ∨ e = emin) ∧
    x.reaches (n * q) ∧ ¬ x.reaches ((n + 1) * q) ∧
    (goesUp c.rm g neg x n q → k = n + 1) ∧ (¬ goesUp c.rm g neg x n q → k = n) ∧
    (magnitude f f.maxCode < v → r = overflowed f c neg) ∧
    (v ≤ magnitude f f.maxCode → ∃ code ≤ f.maxCode, magnitude f code = v ∧ r.1 = f.code neg code ∧
      (¬ x.passes (n * q) → r.2 = 0) ∧
      (x.passes (n * q) → r.2 = if v < 2 ^ emin then flagUF ||| flagNX else flagNX)))

/-- round(x, fmt, mode) of a finite number, a zero having the sign z (R95). -/
def Rounded (f : FFmt) (c : FpCtl) (g : Nat) (x : Rat) (z : Bool) (r : Nat × Flags) : Prop :=
  (x = 0 → r = (f.code z 0, 0)) ∧
  (x ≠ 0 → RoundedReal f c g (decide (x < 0)) (exactly (if x < 0 then -x else x)) r)

/-- The sign of an exact sum or difference that is zero: that of two zeros of one sign, else − under RDN and + otherwise; FSUB goes
by the signs of its operands, being no FADD of a negated one (R333). -/
def zeroSign (rm : Nat) (x y : Rat) (a b : Bool) : Bool := if x = 0 ∧ y = 0 ∧ a = b then a else decide (rm = 2)

/-- What an operation of R332 gives on finite operands of codes a and b, and d for FMA: one rounding of its exact result.
A quotient's divisor and a root's operand are non-zero, and a root's operand is not below zero. -/
def RoundsOnce (f : FFmt) (c : FpCtl) (g : Nat) (op : FOp) (a b d : Nat) (r : Nat × Flags) : Prop :=
  let x := number f c.ftz a
  let y := number f c.ftz b
  let z := number f c.ftz d
  let p := minus f a
  let q := minus f b
  match op with
  | .add => isFinite f a → isFinite f b → Rounded f c g (x + y) (zeroSign c.rm x y p q) r
  | .sub => isFinite f a → isFinite f b → Rounded f c g (x - y) (zeroSign c.rm x y p q) r
  | .mul => isFinite f a → isFinite f b → Rounded f c g (x * y) (p != q) r
  | .div => isFinite f a → isFinite f b → y ≠ 0 → Rounded f c g (x / y) (p != q) r
  | .fma => isFinite f a → isFinite f b → isFinite f d →
      Rounded f c g (x * y + z) (zeroSign c.rm (x * y) z (p != q) (minus f d)) r
  | .sqrt => isFinite f a → 0 < x → RoundedReal f c g false (rootOf x) r

/-- One operand is a zero and the other an infinity. -/
def ZeroTimesInf (x y : Operand) : Prop :=
  ∃ p q k e, (x.val = .fin p 0 k e ∧ y.val = .inf q) ∨ (x.val = .inf q ∧ y.val = .fin p 0 k e)

/-- A product of an infinity and another infinity or a non-zero number is an infinity of sign p. -/
def InfProduct (x y : Operand) (p : Bool) : Prop :=
  ∃ a b, p = (a != b) ∧
    ((x.val = .inf a ∧ (y.val = .inf b ∨ ∃ n k e, n ≠ 0 ∧ y.val = .fin b n k e)) ∨
      (y.val = .inf b ∧ ∃ n k e, n ≠ 0 ∧ x.val = .fin a n k e))

/-- The nearest whole number of a non-negative or negative number under a mode (R99, R336): the magnitude lies from n up
to n + 1, and one of them is taken. -/
def RoundedWhole (rm g : Nat) (x : Rat) (v : Int) : Prop :=
  let m := if x < 0 then -x else x
  ∃ n k : Nat, n ≤ m ∧ m < n + 1 ∧
    (goesUp rm g (decide (x < 0)) (exactly m) n 1 → k = n + 1) ∧ (¬ goesUp rm g (decide (x < 0)) (exactly m) n 1 → k = n) ∧
    v = if x < 0 then -(k : Int) else k

/-- A w-bit integer brought to the nearest bound of its type (R99). -/
def saturated (w : Nat) (sgn : Bool) (v : Int) : Int :=
  if sgn then max (-2 ^ (w - 1)) (min (2 ^ (w - 1) - 1) v) else max 0 (min (2 ^ w - 1) v)

/-- The bound of an integer type in a direction (R99). -/
def boundOf (w : Nat) (sgn neg : Bool) : Int :=
  if neg then (if sgn then -2 ^ (w - 1) else 0) else if sgn then 2 ^ (w - 1) - 1 else 2 ^ w - 1

/-- fix(y) of R107 with its flags: a NaN counts as 0, with NV, an infinity as the bound of its sign, with SAT, and a number
times 2^q is rounded to the nearest whole one, to even in a tie, with NX where it is none, and brought to the nearest bound,
with SAT. -/
def Fixed (w : Nat) (sgn : Bool) (q : Int) (f : FFmt) (bits : Nat) (v : Int × Flags) : Prop :=
  (isFinite f bits → ∃ n, RoundedWhole 0 0 (number f false bits * 2 ^ q) n ∧
    v = (saturated w sgn n, (if (n : Rat) = number f false bits * 2 ^ q then 0 else flagNX) |||
      (if saturated w sgn n = n then 0 else flagSAT))) ∧
  (bits % f.signBit = f.infCode → v = (boundOf w sgn (minus f bits), flagSAT)) ∧
  (f.infCode < bits % f.signBit → v = (0, flagNV))

/-- A code is no NaN; and it is a signalling one, its quiet bit clear (R89). -/
abbrev isNumber (f : FFmt) (bits : Nat) : Prop := isFinite f bits ∨ (f.hasInf = true ∧ bits % f.signBit = f.infCode)
abbrev signalling (f : FFmt) (bits : Nat) : Prop :=
  f.hasInf = true ∧ f.infCode < bits % f.signBit ∧ bits / 2 ^ (f.mbits - 1) % 2 = 0

/-- A code is an infinity. -/
abbrev isInfinite (f : FFmt) (bits : Nat) : Prop := isNumber f bits ∧ ¬ isFinite f bits

/-- What an operation of R332 gives on operands that are no finite numbers, or whose quotient or root is none (R98, R333). -/
def SpecialResult (f : FFmt) (c : FpCtl) (op : FOp) (a b d : Nat) (r : Nat × Flags) : Prop :=
  let x := number f c.ftz a
  let y := number f c.ftz b
  let p := minus f a
  let q := minus f b
  let inf (s : Bool) : Nat × Flags := (f.code s f.infCode, 0)
  let invalid : Nat × Flags := (f.nanCode, flagNV)
  let reads : List Nat := match op with
    | .sqrt => [a]
    | .fma => [a, b, d]
    | _ => [a, b]
  let zeroInf := (isFinite f a ∧ x = 0 ∧ isInfinite f b) ∨ (isInfinite f a ∧ isFinite f b ∧ y = 0)
  let infProduct := ¬ zeroInf ∧ (isInfinite f a ∨ isInfinite f b)
  let sum (q : Bool) : Prop :=
    (isInfinite f a → isInfinite f b → r = if p = q then inf p else invalid) ∧
    (isInfinite f a → isFinite f b → r = inf p) ∧ (isFinite f a → isInfinite f b → r = inf q)
  ((∃ o ∈ reads, ¬ isNumber f o) →
    ((∃ o ∈ reads, signalling f o) ∨ (op = .fma ∧ zeroInf) → r = invalid) ∧
    (¬ ((∃ o ∈ reads, signalling f o) ∨ (op = .fma ∧ zeroInf)) → r = (f.nanCode, 0))) ∧
  ((∀ o ∈ reads, isNumber f o) → match op with
    | .add => sum q
    | .sub => sum (!q)
    | .mul => (zeroInf → r = invalid) ∧ (infProduct → r = inf (p != q))
    | .div => (isInfinite f a → r = if isInfinite f b then invalid else inf (p != q)) ∧
        (isFinite f a → isInfinite f b → r = (f.code (p != q) 0, 0)) ∧
        (isFinite f a → isFinite f b → y = 0 → r = if x = 0 then invalid else (f.code (p != q) f.infCode, flagDZ))
    | .fma => (zeroInf → r = invalid) ∧
        (infProduct → r = if isInfinite f d ∧ minus f d ≠ (p != q) then invalid else inf (p != q)) ∧
        (isFinite f a → isFinite f b → isInfinite f d → r = inf (minus f d))
    | .sqrt => (isInfinite f a → r = if p = true then invalid else inf false) ∧
        (isFinite f a → x < 0 → r = invalid) ∧ (isFinite f a → x = 0 → r = (f.code p 0, 0)))

/-- The code and flags of an operation of R332, whatever its operands are. -/
def Computes (f : FFmt) (c : FpCtl) (g : Nat) (op : FOp) (a b d : Nat) (r : Nat × Flags) : Prop :=
  RoundsOnce f c g op a b d r ∧ SpecialResult f c op a b d r

/-- The coefficients EXP2P6 of R106 by their index. -/
def exp2Coefficient (k : Nat) : Nat :=
  [0x3FF0000000000000, 0x3FE62E42FEFA39EF, 0x3FCEBFBDFF82C58F, 0x3FAC6B08D704A0C0, 0x3F83B2AB6FBA4E77,
   0x3F55D87FE78A6731, 0x3F2430912F86C787].getD k 0

/-- vexp2(x) of R106 with its flags: n is the floor of x, y what is left, rounded to f64, and p (k) the sum from coefficient k
on, each step rounded once to f64; only the last rounding sets flags, and NX is set also where y is not zero. -/
def Exponential (f : FFmt) (c : FpCtl) (g bits : Nat) (r : Nat × Flags) : Prop :=
  let x := number f c.ftz bits
  let value (code : Nat) : Rat := number .f64 false code
  let toF64 (v : Rat) (code : Nat) : Prop := ∃ fl, Rounded .f64 { rm := 0, ftz := false, sat8 := false } 0 v false (code, fl)
  (¬ isNumber f bits → r = (f.nanCode, if signalling f bits then flagNV else 0)) ∧
  (isInfinite f bits → r = (if minus f bits = true then 0 else f.infCode, 0)) ∧
  (isFinite f bits → ∃ (y : Nat) (p : Nat → Nat) (v : Nat × Flags),
    toF64 (x - ⌊x⌋) y ∧ p 6 = exp2Coefficient 6 ∧
    (∀ k < 6, toF64 (value (p (k + 1)) * value y + value (exp2Coefficient k)) (p k)) ∧
    Rounded f c g (value (p 0) * 2 ^ ⌊x⌋) false v ∧ r = (v.1, v.2 ||| if value y = 0 then 0 else flagNX))

/-- What a conversion makes of a code of one format in another, with its flags (R95, R97); a signalling NaN sets NV (log entry
19). -/
def ToFormat (f fmt : FFmt) (ftz : Bool) (c : FpCtl) (g bits : Nat) (r : Nat × Flags) : Prop :=
  (isFinite f bits → Rounded fmt c g (number f ftz bits) (minus f bits) r) ∧
  (isInfinite f bits → r = if fmt = .e2 ∨ ((fmt = .e4 ∨ fmt = .e5) ∧ c.sat8 = true) then
      (fmt.code (minus f bits) fmt.maxCode, flagSAT)
    else if fmt = .e4 then (fmt.nanCode, flagNV) else (fmt.code (minus f bits) fmt.infCode, 0)) ∧
  (¬ isNumber f bits → r = (fmt.nanCode, if signalling f bits ∨ fmt = .e2 then flagNV else 0))

/-- What it makes of one in an integer type: a number is rounded to a whole one under the mode, with NX where it is none, or
to the nearest bound, with NV; a NaN gives 0 with NV (R99). -/
def ToInteger (f : FFmt) (w : Nat) (sgn ftz : Bool) (rm g bits : Nat) (r : Nat × Flags) : Prop :=
  (isFinite f bits → ∃ v : Int, RoundedWhole rm g (number f ftz bits) v ∧
    r = ((saturated w sgn v % 2 ^ w).toNat,
      if saturated w sgn v ≠ v then flagNV else if (v : Rat) ≠ number f ftz bits then flagNX else 0)) ∧
  (isInfinite f bits → r = ((boundOf w sgn (minus f bits) % 2 ^ w).toNat, flagNV)) ∧
  (¬ isNumber f bits → r = (0, flagNV))

/-- pe_step of R104 on a floating accumulator s: the products of the depth indices K, each of a code a and a code b of format
f under scale bytes sa and sb, are added to it exactly, and the sum is rounded once to the accumulator's format under RNE. -/
def PeStep (f acc : FFmt) (K : List Nat) (a b sa sb : Nat → Nat) (s : Nat) (r : Nat × Flags) : Prop :=
  let nan k := ¬ isNumber f (a k) ∨ ¬ isNumber f (b k) ∨ sa k = 0xFF ∨ sb k = 0xFF
  let zero v := isFinite f v ∧ number f false v = 0
  let invalid k := ¬ nan k ∧ ((isInfinite f (a k) ∧ zero (b k)) ∨ (zero (a k) ∧ isInfinite f (b k)))
  let sign k := minus f (a k) != minus f (b k)
  let inf (p : Bool) : Prop := (isInfinite acc s ∧ minus acc s = p) ∨
    ∃ k ∈ K, ¬ nan k ∧ ¬ invalid k ∧ (isInfinite f (a k) ∨ isInfinite f (b k)) ∧ sign k = p
  let bad := (∃ k ∈ K, invalid k) ∨ (inf true ∧ inf false)
  let none := isNumber acc s ∧ ∀ k ∈ K, ¬ nan k
  let sum : Rat := number acc false s +
    (K.map fun k => number f false (a k) * number f false (b k) * 2 ^ ((sa k : Int) + sb k - 254)).sum
  let minusZeros := minus acc s = true ∧ isFinite acc s ∧ number acc false s = 0 ∧ ∀ k ∈ K, sign k = true ∧ (zero (a k) ∨ zero (b k))
  (bad → r = (acc.nanCode, flagNV)) ∧ (¬ bad → ¬ none → r = (acc.nanCode, 0)) ∧
  (¬ bad → none → (∀ p, inf p → r = (acc.code p acc.infCode, 0)) ∧
    (¬ inf true → ¬ inf false →
      (minusZeros → r = (acc.code true 0, 0)) ∧
      (¬ minusZeros → Rounded acc { rm := 0, ftz := false, sat8 := false } 0 sum false r)))

/-- One code's number lies below another's (R98): −inf below everything else, and everything else below +inf. -/
def below (f : FFmt) (ftz : Bool) (a b : Nat) : Prop :=
  isNumber f a ∧ isNumber f b ∧
    ((isFinite f a ∧ isFinite f b ∧ number f ftz a < number f ftz b) ∨
     (¬ isFinite f a ∧ minus f a = true ∧ (isFinite f b ∨ minus f b = false)) ∨
     (¬ isFinite f b ∧ minus f b = false ∧ isFinite f a))

/-- An operand of a code as an instruction reads it: a subnormal one is a zero of its sign under ftz (R95). -/
def asRead (f : FFmt) (ftz : Bool) (bits : Nat) : Nat :=
  if isFinite f bits ∧ number f ftz bits = 0 then f.code (minus f bits) 0 else bits

/-- The code that a minimum, or a maximum, picks of two (R98, R337): the one below, or above, the other; of equal numbers
one with the sign − , or +, where there is one; the other for one NaN, and the canonical NaN for two. -/
def Picks (isMax : Bool) (f : FFmt) (ftz : Bool) (a b v : Nat) : Prop :=
  (below f ftz a b → v = asRead f ftz (if isMax = true then b else a)) ∧
  (below f ftz b a → v = asRead f ftz (if isMax = true then a else b)) ∧
  (isNumber f a → isNumber f b → ¬ below f ftz a b → ¬ below f ftz b a →
    v = asRead f ftz (if minus f a = isMax then b else a)) ∧
  (isNumber f a → ¬ isNumber f b → v = asRead f ftz a) ∧ (¬ isNumber f a → isNumber f b → v = asRead f ftz b) ∧
  (¬ isNumber f a → ¬ isNumber f b → v = f.nanCode)

/-- A register read as a two's-complement number for z = 0 and as an unsigned one for z = 1. -/
def signedness (z : BitVec 1) (v : Word) : Int := if z = 0 then v.toInt else v.toNat

/-- The relations of CMP by their codes (R313). -/
def related (code : Nat) (n m : Int) : Prop :=
  (code = 0 ∧ n = m) ∨ (code = 1 ∧ n ≠ m) ∨ (code = 2 ∧ n < m) ∨ (code = 3 ∧ m ≤ n) ∨ (code = 4 ∧ n ≤ m) ∨
    (code = 5 ∧ m < n)

end Sys2Proof.Spec

open Sys2Proof Sys2Proof.Machine Sys2Proof.Spec

/-! ### Scalar integers and condition bits -/

/-- R317: ADD writes (sA + x) mod 2^64, where x is sB or the sign-extended imm15; it makes no access and sets no
flag; from s0 it loads a constant from −16,384 to 16,383. -/
def Obligations.AddWritesTheWrappedSum : Prop :=
  ∀ (s : State) (d a b : BitVec 5) (imm : BitVec 15),
    WritesReg s (.addReg d a b) d (.ofNat 64 (((s.cx.reg a).toNat + (s.cx.reg b).toNat) % 2 ^ 64)) ∧
    WritesReg s (.addImm d a imm) d (.ofInt 64 (((s.cx.reg a).toNat + imm.toInt) % 2 ^ 64)) ∧
    WritesReg s (.addImm d 0 imm) d (.ofInt 64 imm.toInt) ∧ -16384 ≤ imm.toInt ∧ imm.toInt ≤ 16383

/-- R318, R351, R352, R391, R347: SUB and MUL wrap, AND, OR and XOR work bit by bit, and LUI writes its
sign-extended immediate times 2^15. -/
def Sys2Proof.Spec.LogicAndWrappingResults : Prop :=
  ∀ (s : State) (d a b : BitVec 5) (imm : BitVec 15) (big : BitVec 20),
    let va := s.cx.reg a
    let vb := s.cx.reg b
    let vi : Word := .ofInt 64 imm.toInt
    WritesReg s (.sub d a b) d (.ofInt 64 (((va.toNat : Int) - vb.toNat) % 2 ^ 64)) ∧
    WritesReg s (.mul d a b) d (.ofInt 64 (va.toInt * vb.toInt)) ∧
    WritesReg s (.mul d a b) d (.ofNat 64 (va.toNat * vb.toNat)) ∧
    WritesReg s (.andReg d a b) d (va &&& vb) ∧
    WritesReg s (.andImm d a imm) d (va &&& vi) ∧
    WritesReg s (.orReg d a b) d (va ||| vb) ∧
    WritesReg s (.orImm d a imm) d (va ||| vi) ∧
    WritesReg s (.xorReg d a b) d (va ^^^ vb) ∧
    WritesReg s (.xorImm d a imm) d (va ^^^ vi) ∧
    WritesReg s (.lui d big) d (.ofInt 64 (big.toInt * 2 ^ 15))

/-- R328: DIV writes the quotient of R328's div(a, b, z) under the encoding given there; it neither traps nor sets a
flag, and makes no access. -/
def Obligations.DivWritesTheQuotient : Prop :=
  ∀ (s : State) (d a b : BitVec 5) (z : BitVec 1),
    let n := signedness z (s.cx.reg a)
    let m := signedness z (s.cx.reg b)
    WritesReg s (.div d a b z) d
      (if m = 0 then 0xFFFFFFFFFFFFFFFF
       else if z = 0 ∧ n = -2 ^ 63 ∧ m = -1 then s.cx.reg a
       else .ofInt 64 (n.tdiv m)) ∧
    encodeNat (.div d a b z) = some (0x02000040 + d.toNat * 2 ^ 20 + a.toNat * 2 ^ 15 + b.toNat * 2 ^ 10 + z.toNat * 2 ^ 3)

/-- R99, R351: MULH writes bits 127:64 of the exact product, and REM the remainder, whose sign is the dividend's; by
zero it is the dividend, and of −2^63 by −1 it is 0. -/
def Sys2Proof.Spec.HighProductAndRemainder : Prop :=
  ∀ (s : State) (d a b : BitVec 5) (z : BitVec 1),
    let n := signedness z (s.cx.reg a)
    let m := signedness z (s.cx.reg b)
    WritesReg s (.mulh d a b z) d (.ofInt 64 ((n * m).fdiv (2 ^ 64))) ∧
    ∃ q r : Int, WritesReg s (.rem d a b z) d (.ofInt 64 r) ∧
      (m = 0 → r = n) ∧
      (m ≠ 0 → n = q * m + r ∧ r.natAbs < m.natAbs ∧ (r = 0 ∨ (r < 0 ↔ n < 0)))

/-- R326: CLZ writes the number of zero bits above the highest set bit of sA, 64 for 0, and its sb and mod4 fields
are zero. -/
def Obligations.ClzCountsLeadingZeros : Prop :=
  ∀ (s : State) (d a : BitVec 5),
    (∃ n ≤ 64, WritesReg s (.clz d a) d (.ofNat 64 n) ∧ (s.cx.reg a).toNat < 2 ^ (64 - n) ∧
      (n < 64 → 2 ^ (63 - n) ≤ (s.cx.reg a).toNat) ∧ (s.cx.reg a = 0 → n = 64)) ∧
    encodeNat (.clz d a) = some (0x020000E0 + d.toNat * 2 ^ 20 + a.toNat * 2 ^ 15) ∧
    ∀ w : BitVec 32, w.toNat / 2 ^ 25 = 1 → w.toNat / 2 ^ 4 % 64 = 0x0E →
      (w.toNat / 2 ^ 10 % 32 ≠ 0 ∨ w.toNat % 16 ≠ 0) → ∃ e, decode w = .error e

/-- R99, R351, R352: the shifts take a register amount modulo 64 and an immediate amount as it stands; MIN and MAX
compare under z; POPC counts the set bits; SEL follows cN, and c7 always selects sA. -/
def Sys2Proof.Spec.ShiftsSelectionsAndCounts : Prop :=
  ∀ (s : State) (d a b : BitVec 5) (z : BitVec 1) (n : BitVec 6) (c : BitVec 3),
    let va := s.cx.reg a
    let vb := s.cx.reg b
    let k := vb.toNat % 64
    WritesReg s (.shlReg d a b) d (.ofNat 64 (va.toNat * 2 ^ k)) ∧
    WritesReg s (.shrReg d a b) d (.ofNat 64 (va.toNat / 2 ^ k)) ∧
    WritesReg s (.sraReg d a b) d (.ofInt 64 (va.toInt.fdiv (2 ^ k))) ∧
    WritesReg s (.shlImm d a n) d (.ofNat 64 (va.toNat * 2 ^ n.toNat)) ∧
    WritesReg s (.shrImm d a n) d (.ofNat 64 (va.toNat / 2 ^ n.toNat)) ∧
    WritesReg s (.sraImm d a n) d (.ofInt 64 (va.toInt.fdiv (2 ^ n.toNat))) ∧
    WritesReg s (.min d a b z) d (.ofInt 64 (Min.min (signedness z va) (signedness z vb))) ∧
    WritesReg s (.max d a b z) d (.ofInt 64 (Max.max (signedness z va) (signedness z vb))) ∧
    WritesReg s (.popc d a) d (.ofNat 64 ((List.range 64).filter fun i => va.getLsbD i).length) ∧
    WritesReg s (.sel d a b c) d (if s.cx.cond c = true then va else vb) ∧
    WritesReg s (.sel d a b 7) d va

/-- R313, R324, R327, R298: CMP writes a relation of two 64-bit values, signed for z = 0 and unsigned for z = 1, the
immediate being sign-extended first; CBIT writes its function of two condition bits; c7 keeps reading as 1. -/
def Sys2Proof.Spec.ComparisonsWriteTheirConditionBit : Prop :=
  ∀ (s : State) (c p q : BitVec 3) (a b : BitVec 5) (z : BitVec 1) (rel : BitVec 3) (imm : BitVec 13),
    let n := signedness z (s.cx.reg a)
    let m := signedness z (s.cx.reg b)
    let i := signedness z (.ofInt 64 imm.toInt)
    (relationDefined rel = true →
      WritesCond s (.cmpReg c a b z rel) c (related rel.toNat n m) ∧
      WritesCond s (.cmpImm c rel a z imm) c (related rel.toNat n i)) ∧
    WritesCond s (.cbitAnd c p q) c (s.cx.cond p = true ∧ s.cx.cond q = true) ∧
    WritesCond s (.cbitOr c p q) c (s.cx.cond p = true ∨ s.cx.cond q = true) ∧
    WritesCond s (.cbitXor c p q) c (s.cx.cond p ≠ s.cx.cond q) ∧
    WritesCond s (.cbitAndn c p q) c (s.cx.cond p = true ∧ s.cx.cond q = false) ∧
    WritesCond s (.cbitSet c) c True ∧
    WritesCond s (.cbitClear c) c False ∧
    WritesCond s (.cbitNot c p) c (s.cx.cond p = false) ∧
    WritesCond s (.cbitMove c p) c (s.cx.cond p = true)

/-- R99, R313, R318, R324, R327, R347, R351, R352, R391: the integer instructions of the scalar family but ADD, DIV
and CLZ write the register or the condition bit that their rules give, and nothing else changes. -/
def Obligations.ScalarIntegersFollowTheirRules : Prop :=
  Spec.LogicAndWrappingResults ∧ Spec.HighProductAndRemainder ∧ Spec.ShiftsSelectionsAndCounts ∧
    Spec.ComparisonsWriteTheirConditionBit

/-! ### Scalar floating point -/

/-- R330, R332: FADD, FSUB, FMUL, FDIV, FMA and FSQRT write the code of one operation on their sources as read, OR
its flags into FPFLAGS, and draw once under rounding mode 5. -/
def Sys2Proof.Spec.FloatingOperationsRoundOnce : Prop :=
  ∀ (s : State) (d a b : BitVec 5) (f : BitVec 2),
    let r (op : FOp) (q : BitVec 5) :=
      fpArith op (sfmt f) s.cx.fp.ctl (drawn s) (sourceBits s f a) (sourceBits s f q) (sourceBits s f d)
    WritesFp s (.fadd d a b f) d (r .add b).1 (r .add b).2 true ∧
    WritesFp s (.fsub d a b f) d (r .sub b).1 (r .sub b).2 true ∧
    WritesFp s (.fmul d a b f) d (r .mul b).1 (r .mul b).2 true ∧
    WritesFp s (.fma d a b f) d (r .fma b).1 (r .fma b).2 true ∧
    WritesFp s (.fdiv d a b f) d (r .div b).1 (r .div b).2 true ∧
    WritesFp s (.fsqrt d a f) d (r .sqrt a).1 (r .sqrt a).2 true

/-- R88, R95 to R98, R332, R333: on finite operands, FADD, FSUB, FMUL, FDIV by a non-zero number, FMA and FSQRT of a
positive number write one rounding of the exact real result, with its flags; an exact zero has the sign of R333. -/
def Sys2Proof.Spec.FiniteResultsAreRounded : Prop :=
  ∀ (s : State) (d a b : BitVec 5) (f : BitVec 2),
    let writes (op : FOp) (i : Instr) : Prop := ∃ r,
      RoundsOnce (sfmt f) s.cx.fp.ctl (drawn s) op (sourceBits s f a) (sourceBits s f b) (sourceBits s f d) r ∧
        WritesFp s i d r.1 r.2 true
    writes .add (.fadd d a b f) ∧ writes .sub (.fsub d a b f) ∧ writes .mul (.fmul d a b f) ∧
    writes .div (.fdiv d a b f) ∧ writes .fma (.fma d a b f) ∧ writes .sqrt (.fsqrt d a f)

/-- R98, R332, R333: a NaN operand gives the canonical NaN, with NV for a signalling one; inf − inf, also as the sum
of an FMA, 0 × inf, 0 / 0, inf / inf and the root of a value below −0 give it with NV; a finite non-zero value
by a zero gives an infinity of the XOR of the signs, with DZ; a sum with infinities of one sign, a product of an
infinity and a non-zero value and a quotient of or by an infinity are as R333 says; the root of −0 is −0, and of
+inf is +inf. -/
def Obligations.InvalidFloatingOperations : Prop :=
  ∀ (s : State) (d a b : BitVec 5) (f : BitVec 2),
    let x := source s f a
    let y := source s f b
    let z := source s f d
    let nan := (sfmt f).nanCode
    let nv (p : Prop) (fl : Flags) : Prop := (p → fl = flagNV) ∧ (¬ p → fl = 0)
    let inf (p : Bool) := (sfmt f).code p (sfmt f).infCode
    (x.val = .nan ∨ y.val = .nan →
      ∀ i ∈ [Instr.fadd d a b f, .fsub d a b f, .fmul d a b f, .fdiv d a b f],
        WritesFp s i d nan (if x.snan = true ∨ y.snan = true then flagNV else 0) true) ∧
    (x.val = .nan ∨ y.val = .nan ∨ z.val = .nan → ∃ fl,
      nv (x.snan = true ∨ y.snan = true ∨ z.snan = true ∨ ZeroTimesInf x y) fl ∧ WritesFp s (.fma d a b f) d nan fl true) ∧
    (x.val = .nan → WritesFp s (.fsqrt d a f) d nan (if x.snan = true then flagNV else 0) true) ∧
    (∀ p, x.val = .inf p → y.val = .inf p → WritesFp s (.fsub d a b f) d nan flagNV true) ∧
    (∀ p, x.val = .inf p → y.val = .inf (!p) → WritesFp s (.fadd d a b f) d nan flagNV true) ∧
    (∀ p q, x.val = .inf p → y.val = .inf q → WritesFp s (.fdiv d a b f) d nan flagNV true) ∧
    (ZeroTimesInf x y → WritesFp s (.fmul d a b f) d nan flagNV true ∧
      (z.val ≠ .nan → WritesFp s (.fma d a b f) d nan flagNV true)) ∧
    (∀ p, InfProduct x y p → WritesFp s (.fmul d a b f) d (inf p) 0 true ∧
      (z.val = .inf (!p) → WritesFp s (.fma d a b f) d nan flagNV true) ∧
      (z.val ≠ .nan → z.val ≠ .inf (!p) → WritesFp s (.fma d a b f) d (inf p) 0 true)) ∧
    (∀ p n k e m l h q r, x.val = .fin q n k e → y.val = .fin r m l h → z.val = .inf p →
      WritesFp s (.fma d a b f) d (inf p) 0 true) ∧
    (∀ p q n k e, x.val = .inf p → y.val = .fin q n k e →
      WritesFp s (.fadd d a b f) d (inf p) 0 true ∧ WritesFp s (.fsub d a b f) d (inf p) 0 true ∧
      WritesFp s (.fdiv d a b f) d (inf (p != q)) 0 true) ∧
    (∀ p q n k e, x.val = .fin p n k e → y.val = .inf q →
      WritesFp s (.fadd d a b f) d (inf q) 0 true ∧ WritesFp s (.fsub d a b f) d (inf (!q)) 0 true ∧
      WritesFp s (.fdiv d a b f) d ((sfmt f).code (p != q) 0) 0 true) ∧
    (∀ p, x.val = .inf p → y.val = .inf p → WritesFp s (.fadd d a b f) d (inf p) 0 true) ∧
    (∀ p, x.val = .inf p → y.val = .inf (!p) → WritesFp s (.fsub d a b f) d (inf p) 0 true) ∧
    (∀ p q k e l h, x.val = .fin p 0 k e → y.val = .fin q 0 l h → WritesFp s (.fdiv d a b f) d nan flagNV true) ∧
    (∀ p q n k e l h, n ≠ 0 → x.val = .fin p n k e → y.val = .fin q 0 l h →
      WritesFp s (.fdiv d a b f) d (inf (p != q)) flagDZ true) ∧
    (∀ n k e, n ≠ 0 → x.val = .fin true n k e → WritesFp s (.fsqrt d a f) d nan flagNV true) ∧
    (x.val = .inf true → WritesFp s (.fsqrt d a f) d nan flagNV true) ∧
    (x.val = .inf false → WritesFp s (.fsqrt d a f) d (inf false) 0 true) ∧
    (∀ p k e, x.val = .fin p 0 k e → WritesFp s (.fsqrt d a f) d ((sfmt f).code p 0) 0 true)

/-- R98, R334, R337: FMIN and FMAX return the operand, as read, that is below or above the other, the other operand
for one NaN, and the canonical NaN for two, and treat −0 as less than +0; FCMP writes its relation, with −0 and
+0 equal; a signalling NaN sets NV; nothing is drawn. -/
def Sys2Proof.Spec.MinimumMaximumAndFloatingCompare : Prop :=
  ∀ (s : State) (d a b : BitVec 5) (c : BitVec 3) (f rel : BitVec 2),
    let x := source s f a
    let y := source s f b
    let nv : Flags := if x.snan = true ∨ y.snan = true then flagNV else 0
    let low := fpMinMax false (sfmt f) s.cx.fp.ftz (sourceBits s f a) (sourceBits s f b)
    let high := fpMinMax true (sfmt f) s.cx.fp.ftz (sourceBits s f a) (sourceBits s f b)
    WritesFp s (.fmin d a b f) d low.1 nv false ∧ WritesFp s (.fmax d a b f) d high.1 nv false ∧
    (x.val = .nan → y.val = .nan → low.1 = (sfmt f).nanCode ∧ high.1 = (sfmt f).nanCode) ∧
    (∀ q n k e, n ≠ 0 → x.val = .nan → y.val = .fin q n k e →
      low.1 = sourceBits s f b ∧ high.1 = sourceBits s f b) ∧
    (∀ p k e l h, x.val = .fin p 0 k e → y.val = .fin (!p) 0 l h →
      low.1 = (sfmt f).code true 0 ∧ high.1 = (sfmt f).code false 0) ∧
    (let ftz := s.cx.fp.ftz
     let fm := sfmt f
     let p := sourceBits s f a
     let q := sourceBits s f b
     Picks false fm ftz p q low.1 ∧ Picks true fm ftz p q high.1 ∧
     (x.val = .nan ↔ ¬ isNumber fm p) ∧ (y.val = .nan ↔ ¬ isNumber fm q) ∧
     (exactLt x.val y.val = true ↔ below fm ftz p q) ∧ (exactLt y.val x.val = true ↔ below fm ftz q p) ∧
     (exactEq x.val y.val = true ↔ isNumber fm p ∧ isNumber fm q ∧ ¬ below fm ftz p q ∧ ¬ below fm ftz q p)) ∧
    ∃ t, exec (.fcmp c a b f rel) s = .next t ∧ OnlyCx s t ∧ Retired s.cx t.cx ∧
      (∀ n, t.cx.cond n = true ↔ (n = 7 ∨ if n = c then
          (if x.val = .nan ∨ y.val = .nan then rel = 3
           else (rel = 0 ∧ exactEq x.val y.val = true) ∨ (rel = 1 ∧ exactLt x.val y.val = true) ∨
             (rel = 2 ∧ exactLt y.val x.val = false))
        else s.cx.cond n = true)) ∧
      t.cx.fp = { s.cx.fp with flags := s.cx.fp.flags ||| nv } ∧
      t.cx = { s.cx with conds := t.cx.conds, fp := t.cx.fp, pc := t.cx.pc, cvy := none, wait := none,
                         notice := t.cx.notice }

/-- R88, R95, R97, R99, R335, R336: FCVT converts, ORs its flags into FPFLAGS and draws once under rounding mode 5.
A finite number is rounded once to a floating target, a zero keeping its sign, and to the whole number that the
mode names for an integer target, with NX where it was no whole number; out of the target's range it gives the
nearest bound, with NV. To an integer, a NaN gives 0 and an infinity the bound of its sign, with NV. -/
def Sys2Proof.Spec.FcvtConverts : Prop :=
  ∀ (s : State) (d a : BitVec 5) (t : BitVec 3) (f k : BitVec 2), fcvtDefined t f k = true →
    let c := s.cx.fp.ctl
    let bits := sourceBits s f a
    let x : Rat := if k = 0 then number (sfmt f) c.ftz bits
      else if k = 1 then ((s.cx.reg a).toInt : Rat) else ((s.cx.reg a).toNat : Rat)
    let finite := k = 0 → isFinite (sfmt f) bits
    let w := if t.toNat < 6 then 64 else 32
    let sgn := decide (t.toNat % 2 = 0)
    (let r := fpConvert t f k c (drawn s) (s.cx.reg a)
     WritesFp s (.fcvt d a t f k) d r.1 r.2 true) ∧
    (finite → t.toNat < 4 → ∃ r,
      Rounded (sfmt (t.setWidth 2)) c (drawn s) x (decide (k = 0) && minus (sfmt f) bits) r ∧
        WritesFp s (.fcvt d a t f k) d r.1 r.2 true) ∧
    (finite → 4 ≤ t.toNat → ∃ v : Int, RoundedWhole c.rm (drawn s) x v ∧
      WritesFp s (.fcvt d a t f k) d (saturated w sgn v % 2 ^ 64).toNat
        (if saturated w sgn v ≠ v then flagNV else if (v : Rat) ≠ x then flagNX else 0) true) ∧
    (k = 0 → t.toNat < 4 → (source s f a).val = .nan →
      WritesFp s (.fcvt d a t f k) d (sfmt (t.setWidth 2)).nanCode (if (source s f a).snan = true then flagNV else 0) true) ∧
    (∀ p, k = 0 → t.toNat < 4 → (source s f a).val = .inf p →
      WritesFp s (.fcvt d a t f k) d ((sfmt (t.setWidth 2)).code p (sfmt (t.setWidth 2)).infCode) 0 true) ∧
    (k = 0 → 4 ≤ t.toNat → (source s f a).val = .nan → WritesFp s (.fcvt d a t f k) d 0 flagNV true) ∧
    (∀ neg, k = 0 → 4 ≤ t.toNat → (source s f a).val = .inf neg →
      WritesFp s (.fcvt d a t f k) d
        (match t.toNat, neg with
          | 4, false => 2 ^ 63 - 1
          | 4, true => 2 ^ 63
          | 5, false => 2 ^ 64 - 1
          | 6, false => 2 ^ 31 - 1
          | 6, true => 2 ^ 64 - 2 ^ 31
          | 7, false => 2 ^ 32 - 1
          | _, _ => 0) flagNV true)

/-- R88, R95 to R99, R330, R332 to R337: the scalar floating instructions compute once on their operands as read,
round the exact result as R95 has it, keep to the flags and draws of their rules, and change nothing else. -/
def Obligations.ScalarFloatingPointFollowsItsRules : Prop :=
  Spec.FloatingOperationsRoundOnce ∧ Spec.FiniteResultsAreRounded ∧ Spec.MinimumMaximumAndFloatingCompare ∧
    Spec.FcvtConverts

/-! ### Scalar loads and stores -/

/-- R142, R160, R343, R344, R345: LD and LD acquire write the bytes at their address, lowest first, zero-extended or
sign-extended; the leaf gains A; every register but the destination, every flag, and every other byte are as
before. A load stays at issue, with nothing changed, while a write that must be performed first is not (R181,
R183). A read that was performed earlier gives the bytes that stood there then (log entry 68, the model's form
of R178). -/
def Obligations.LoadsWriteTheirBytes : Prop :=
  ∀ (s : State) (d a : BitVec 5) (g : BitVec 3) (u : BitVec 2) (z : BitVec 1) (i : BitVec 9) (sc : BitVec 3) (p : Place),
    let n := 2 ^ u.toNat
    let s1 := touch s (s.cx.acc s.cur) .load p
    let v := bytesVal (loadBytes s1 s.cx g.toNat p n)
    let vAcq := bytesVal (loadBytes s1 s.cx 0 p n)
    readsPoison s s.cx p n = false →
    (Lands s .load (offsetAddress s a i u.toNat) u.toNat p → mayRead s s.cur g.toNat p n = false →
      exec (.ld d a g u z i) s = .next s) ∧
    (Lands s .load (offsetAddress s a i u.toNat) u.toNat p → mayRead s s.cur g.toNat p n = true →
      ∃ t, exec (.ld d a g u z i) s = .next t ∧ OnlyCxMem s t id ∧ TouchesLeaf s t p 0x40 (fun _ => False) ∧
        (∀ r, t.cx.reg r = if r = 0 then 0 else if r ≠ d then s.cx.reg r
          else if z = 1 ∨ v < 2 ^ (8 * n - 1) then .ofNat 64 v else .ofInt 64 ((v : Int) - 2 ^ (8 * n))) ∧
        Retired s.cx t.cx ∧ (∀ e ∈ t.cx.early, e ∈ s.cx.early) ∧
        t.cx = { s.cx with regs := t.cx.regs, early := t.cx.early, pc := t.cx.pc, cvy := none, wait := none
                           notice := t.cx.notice }) ∧
    (Lands s .load (s.cx.reg a) u.toNat p → mayRead s s.cur 0 p n = true →
      ∃ t, exec (.ldAcq d a sc u) s = .next t ∧ OnlyCxMem s t id ∧ TouchesLeaf s t p 0x40 (fun _ => False) ∧
        (∀ r, t.cx.reg r = if r = 0 then 0 else if r ≠ d then s.cx.reg r else .ofNat 64 vAcq) ∧
        Retired s.cx t.cx ∧
        t.cx = { s.cx with regs := t.cx.regs, early := [], pc := t.cx.pc, cvy := none, wait := none
                           notice := t.cx.notice }) ∧
    (p.enc = false → (∀ w ∈ s.cx.pend ++ s.cx.held, w.loc / 64 ≠ p.loc / 64) →
      (s.cx.early = [] → v = littleEndian s1.mem p.loc n ∧ vAcq = v) ∧
      (∀ e, Memory.wf s.mem = true → s.cx.earlyOf g.toNat p n = some e → v = bytesVal e.bytes))

/-- R189 (ordering), R359, R360: ST joins the low bytes of sD to the context's own writes on its stream; nothing is
written to memory but the leaf's A and D; where the buffer lacks room what it holds is committed first, and at
128 KiB all of it. (Which store forces that commit, before one that would pass 128 KiB and after one that
reaches it, is log entry 48's.) -/
def Sys2Proof.Spec.StoresAreHeld : Prop :=
  ∀ (s : State) (d a : BitVec 5) (g : BitVec 3) (u : BitVec 2) (i : BitVec 9) (p : Place),
    let n := 2 ^ u.toNat
    let w : Write := { strm := g.toNat, loose := false, loc := p.loc, key := p.key, enc := p.enc,
                       bytes := valBytes n (s.cx.reg d).toNat, nib := none, pin := (p.page.map (·.pin)).getD false
                       cls := p.cls, acc := none }
    Lands s .store (offsetAddress s a i u.toNat) u.toNat p →
    ∃ t, exec (.st d a g u i) s = .next t ∧ TouchesLeaf s t p 0xC0 (fun _ => False) ∧ Retired s.cx t.cx ∧
      t.cx.pend ++ t.cx.held = s.cx.pend ++ s.cx.held ++ [w] ∧
      (s.cx.heldBytes + n < 131072 → t.cx.held = s.cx.held ++ [w] ∧ OnlyCxMem s t id ∧
        t.cx = { s.cx with held := t.cx.held, pc := t.cx.pc, cvy := none, wait := none, notice := t.cx.notice }) ∧
      (s.cx.heldBytes + n = 131072 → t.cx.held = []) ∧
      (131072 < s.cx.heldBytes + n → t.cx.held = [w]) ∧
      (131072 ≤ s.cx.heldBytes + n → t.cx.strip.forced = true) ∧
      OnlyCxMem s t (fun r => { r with tiles := t.tiles }) ∧
      t.cx = { s.cx with held := t.cx.held, pend := t.cx.pend, strip := t.cx.strip, ckpt := t.cx.ckpt, pc := t.cx.pc,
                         cvy := none, wait := none, notice := t.cx.notice }

/-- R182 (ordering): a context's load sees its own held store at once. A store to a local window followed by a load
of the same address reads the bytes that were stored. -/
def Sys2Proof.Spec.OwnStoresAreSeenAtOnce : Prop :=
  ∀ (s t : State) (d a e : BitVec 5) (g h : BitVec 3) (u : BitVec 2) (i : BitVec 9) (p : Place),
    Memory.wf s.mem = true → p.page = none → p.enc = false →
    Lands s .store (offsetAddress s a i u.toNat) u.toNat p → Lands t .load (offsetAddress t a i u.toNat) u.toNat p →
    exec (.st d a g u i) s = .next t → t.poison = [] → mayRead t t.cur h.toNat p (2 ^ u.toNat) = true →
    ∃ r, exec (.ld e a h u 1 i) t = .next r ∧
      (e ≠ 0 → r.cx.reg e = .ofNat 64 ((s.cx.reg d).toNat % 2 ^ (8 * 2 ^ u.toNat)))

/-- R182 and R189 (ordering), R296, R359, R360: a store is held in its strip, and its own context sees it at once;
which store forces the commit at 128 KiB is log entry 48's. -/
def Obligations.StoresAreHeldAndSeen : Prop :=
  Spec.StoresAreHeld ∧ Spec.OwnStoresAreSeenAtOnce

/-- R142, R162, R210, R216, R320, R361: a scalar access at a misaligned address raises trap 0x04, and one that a
check refuses the cause of that check, with the address in TVAL, or 0 for cause 0x14. Nothing else of the
instruction happens. -/
def Obligations.FaultingAccessesTrap : Prop :=
  ∀ (s : State) (d a b : BitVec 5) (g sc : BitVec 3) (u : BitVec 2) (z v : BitVec 1) (i : BitVec 9),
    let refused (i : Instr) (k : AccKind) (va : Word) (sz : Nat) : Prop :=
      (va.toNat % 2 ^ sz ≠ 0 → exec i s = .next (takeTrap s (trapOf 0x04 va))) ∧
      (∀ e, va.toNat % 2 ^ sz = 0 → reach s (s.cx.acc s.cur) k va.toNat = .error e →
        exec i s = .next (takeTrap s (trapOf e (if e = 0x14 then 0 else va))))
    refused (.ld d a g u z i) .load (offsetAddress s a i u.toNat) u.toNat ∧
    refused (.ldAcq d a sc u) .load (s.cx.reg a) u.toNat ∧
    refused (.st d a g u i) .store (offsetAddress s a i u.toNat) u.toNat ∧
    refused (.stRel a b sc u) .store (s.cx.reg a) u.toNat ∧
    ∀ j ∈ [Instr.amoAdd d a b sc v, .amoAnd d a b sc v, .amoOr d a b sc v, .amoXor d a b sc v, .amoMin d a b sc v,
        .amoMax d a b sc v, .amoMinZ d a b sc v, .amoMaxZ d a b sc v, .amoSwap d a b sc v, .amoFadd d a b sc v,
        .cas d a b sc v],
      refused j .atomic (s.cx.reg a) (2 + v.toNat)

/-! ### Releases and atomics -/

/-- R185 and R186 (ordering), R361: with nothing of the context under way, ST release commits the strip as a forced
one and posts its store, which is never held; the leaf gains A and D. -/
def Sys2Proof.Spec.ReleaseStorePosts : Prop :=
  ∀ (s : State) (a b : BitVec 5) (sc : BitVec 3) (u : BitVec 2) (p : Place),
    Quiet s → Lands s .store (s.cx.reg a) u.toNat p →
    ∃ t, exec (.stRel a b sc u) s = .next t ∧ TouchesLeaf s t p 0xC0 (fun _ => False) ∧ Retired s.cx t.cx ∧
      t.cx.held = [] ∧ t.cx.strip.forced = true ∧
      t.cx.pend = [{ strm := 0, loose := true, loc := p.loc, key := p.key, enc := p.enc,
                     bytes := valBytes (2 ^ u.toNat) (s.cx.reg b).toNat, nib := none
                     pin := (p.page.map (·.pin)).getD false, cls := p.cls, acc := none }] ∧
      OnlyCxMem s t (fun r => { r with tiles := t.tiles }) ∧
      t.cx = { s.cx with pend := t.cx.pend, early := t.cx.early, strip := t.cx.strip, ckpt := t.cx.ckpt
                         chans := t.cx.chans, pc := t.cx.pc, cvy := none, wait := none, notice := t.cx.notice }

/-- R185 (ordering), R210: an ST release or atomic at die scope or wider waits while a write of the context is not
yet performed, and has none of its own effect; with no live plane it raises trap 0x14. -/
def Sys2Proof.Spec.ReleasesWaitForEarlierWrites : Prop :=
  ∀ (s : State) (d a b : BitVec 5) (sc : BitVec 3) (u : BitVec 2) (v : BitVec 1) (p : Place),
    3 ≤ sc.toNat →
    let waits (i : Instr) (k : AccKind) (sz : Nat) : Prop :=
      Lands s k (s.cx.reg a) sz p →
      (s.planesDead = true → exec i s = .next (takeTrap (touch s (s.cx.acc s.cur) k p) (trapOf 0x14 0))) ∧
      (s.planesDead = false → (∃ w ∈ s.cx.pend ++ s.cx.held, w.strm < 8) →
        (∀ k < 4, (s.cx.chan k).cmds = [] ∧ (s.cx.chan k).cause = 0) →
        ∃ t, exec i s = .next t ∧ WaitsAt t s.cur .order i [] (some p) ∧ t.cur = s.cur ∧ t.cx.held = [] ∧
          t.cx.pend = s.cx.pend ++ s.cx.held ∧ t.cx.regs = s.cx.regs ∧ t.cx.pc = s.cx.pc ∧
          TouchesLeaf s t p 0xC0 (fun _ => False))
    waits (.stRel a b sc u) .store u.toNat ∧
    ∀ j ∈ [Instr.amoAdd d a b sc v, .amoAnd d a b sc v, .amoOr d a b sc v, .amoXor d a b sc v, .amoMin d a b sc v,
        .amoMax d a b sc v, .amoMinZ d a b sc v, .amoMaxZ d a b sc v, .amoSwap d a b sc v, .amoFadd d a b sc v,
        .cas d a b sc v],
      waits j .atomic (2 + v.toNat)

/-- R185 and R186 (ordering), R210, R361: a release store posts when nothing of the context is under way, and a
release or atomic at die scope or wider waits while a write is not performed; that later tile-carried accesses
are not ordered after the release store by its stream is log entry 98's. -/
def Obligations.ReleasesWaitAndPost : Prop :=
  Spec.ReleaseStorePosts ∧ Spec.ReleasesWaitForEarlierWrites

/-- R188 (ordering), R319, R320, R323: with nothing of the context under way and no accepted write of its tile on
the way to the same home, an AMO or CAS replaces the bytes at its address at once by the operation's new value,
CAS only where the old value is the expected one, and writes the old value, zero-extended, to sD. Where the
write does not count for a replay, no byte differs but those of the access and the leaf; where it does, the page
or the launch changes before it as WritesOfALaunchAreCounted states (R250, R252). -/
def Obligations.AtomicsReplaceAndReturnTheOldValue : Prop :=
  ∀ (s : State) (d a b : BitVec 5) (sc : BitVec 3) (v : BitVec 1) (p : Place),
    let n := 2 ^ (2 + v.toNat)
    let s1 := touch s (s.cx.acc s.cur) .atomic p
    let old := bytesVal (fetchBytes s.keys s1.mem p.loc p.key p.enc n)
    let x := (s.cx.reg b).toNat % 2 ^ (8 * n)
    let does (i : Instr) (new : Option Nat) : Prop :=
      ∃ t, exec i s = .next t ∧ Retired s.cx t.cx ∧
        (∀ r, t.cx.reg r = if r = 0 then 0 else if r = d then .ofNat 64 old else s.cx.reg r) ∧
        (new = none → t.mem = s1.mem ∧ t.mill = s.mill) ∧
        (∀ y, new = some y →
          let u := performWrite s1 s.cur (p.write 0 (valBytes n y))
          t.mem = u.mem ∧ t.mill = u.mill ∧
            (Uncounted s s.cur p.cls →
              t.mem = putBytes s.keys s1.mem p.loc p.key p.enc (valBytes n y) ∧ t.mill = s.mill)) ∧
        (new = none ∨ Uncounted s s.cur p.cls →
          TouchesLeaf s t p 0xC0 (fun q => if p.enc then p.loc / 64 * 64 ≤ q ∧ q < p.loc / 64 * 64 + 64
            else p.loc ≤ q ∧ q < p.loc + n)) ∧
        t.cx.held = [] ∧ t.cx.pend = [] ∧ t.cx.strip.forced = true ∧
        OnlyCxMem s t (fun r => { r with tiles := t.tiles, poison := t.poison, plain := t.plain, stale := t.stale, mill := t.mill }) ∧
        (∀ e ∈ t.cx.early, e ∈ s.cx.early) ∧
        t.cx = { s.cx with regs := t.cx.regs, early := t.cx.early, strip := t.cx.strip, ckpt := t.cx.ckpt
                           chans := t.cx.chans, pc := t.cx.pc, cvy := none, wait := none, notice := t.cx.notice }
    Memory.wf s.mem = true → Quiet s → Lands s .atomic (s.cx.reg a) (2 + v.toNat) p →
    arrivesLast s s.cur (p.write 0 (zeros n)) = true → readsPoison s s.cx p n = false →
    ∀ e ∈ atomicResults d a b sc v old x ((s.cx.reg d).toNat % 2 ^ (8 * n)), does e.1 e.2

/-! ### Control transfers, the return store and loops -/

/-- R66, R67, R70, R322, R341, R342: B goes to its target where cN = t and on to the next convoy otherwise, whatever
its hint; J always; JR to an aligned register; a taken transfer pops every innermost loop whose body does not
hold the target, and changes nothing else. -/
def Sys2Proof.Spec.BranchesAndJumps : Prop :=
  ∀ (s : State) (c : BitVec 3) (t h : BitVec 1) (d : BitVec 20) (j : BitVec 25) (a : BitVec 5),
    (if s.cx.cond c = true ↔ t = 1 then JumpsTo s (.b c t h d) (relative s d)
     else ∃ r, exec (.b c t h d) s = .next r ∧ OnlyCx s r ∧ Retired s.cx r.cx ∧
       r.cx = { s.cx with pc := r.cx.pc, cvy := none, wait := none, notice := r.cx.notice }) ∧
    JumpsTo s (.j j) (relative s j) ∧
    ((s.cx.reg a).toNat % 4 = 0 → JumpsTo s (.jr a) (s.cx.reg a)) ∧
    ((s.cx.reg a).toNat % 4 ≠ 0 →
      exec (.jr a) s = .next (takeTrap s (trapOf 0x04 (s.cx.reg a))) ∧
      exec (.jrLink a) s = .next (takeTrap s (trapOf 0x04 (s.cx.reg a))))

/-- R70, R71, R341, R342: JAL and JR with link push the address of the next word and pop no loop; with 16 entries in
the store the oldest is first held as an 8-byte store at RSPILL on g0, RSPILL rises by 8 and the spill count by
1; a spill that fails raises trap 0x15, or 0x14 where no plane is live, and pushes nothing. -/
def Sys2Proof.Spec.LinksPushTheReturnAddress : Prop :=
  ∀ (s : State) (d : BitVec 25) (a : BitVec 5), (s.cx.reg a).toNat % 4 = 0 →
    let x := s.cx
    let calls (i : Instr) (target : Word) : Prop :=
      (x.ret.entries.length < 16 → ∃ t, exec i s = .next t ∧ OnlyCx s t ∧ WentTo x t.cx target ∧
        t.cx = { x with ret := { x.ret with entries := (x.convoyStart + 4) :: x.ret.entries }, pc := target, cvy := none,
                        wait := none, notice := t.cx.notice }) ∧
      (16 ≤ x.ret.entries.length → ∀ e, reach s (x.acc s.cur) .store x.ret.spill.toNat = .error e →
        exec i s = .next (takeTrap s (if e = 0x14 then trapOf 0x14 0 else trapOf 0x15 x.ret.spill))) ∧
      (∀ p old front, x.ret.entries = front ++ [old] → front.length = 15 →
        reach s (x.acc s.cur) .store x.ret.spill.toNat = .ok p →
        ∃ t, exec i s = .next t ∧ WentTo x t.cx target ∧ TouchesLeaf s t p 0xC0 (fun _ => False) ∧
          t.cx.ret.entries = (x.convoyStart + 4) :: front ∧
          t.cx.ret.spill.toNat = (x.ret.spill.toNat + 8) / 8 * 8 % 2 ^ 55 ∧
          (x.ret.spilled.toNat < 2 ^ 32 - 1 → t.cx.ret.spilled.toNat = x.ret.spilled.toNat + 1) ∧
          t.cx.pend ++ t.cx.held = x.pend ++ x.held ++
            [{ strm := 0, loose := false, loc := p.loc, key := p.key, enc := p.enc, bytes := valBytes 8 old.toNat, nib := none
               pin := (p.page.map (·.pin)).getD false, cls := p.cls, acc := none }] ∧
          t.cx.regs = x.regs ∧ t.cx.conds = x.conds ∧ t.cx.fp = x.fp ∧ t.cx.loops = x.loops ∧ t.cx.trap = x.trap ∧
          t.cx.ui = x.ui)
    calls (.jal d) (relative s d) ∧ calls (.jrLink a) (s.cx.reg a)

/-- R70, R71, R358: RET goes to the newest entry and pops it; with the store and the spill count empty it raises
trap 0x0D; with the store alone empty it takes the 8 bytes at RSPILL − 8, which wraps at 55 bits as RSPILL does
(log entry 97), or raises trap 0x15 with that address where it cannot. An address with bits 1:0 set, popped or
refilled, raises trap 0x04 with it, and leaves the store, RSPILL and the spill count as they were. -/
def Sys2Proof.Spec.RetTakesTheNewestEntry : Prop :=
  ∀ s : State,
    let x := s.cx
    (∀ r rest, x.ret.entries = r :: rest → r.toNat % 4 = 0 →
      ∃ t, exec .ret s = .next t ∧ OnlyCx s t ∧ WentTo x t.cx r ∧
        t.cx = { x with ret := { x.ret with entries := rest }, loops := popped r x.loops, pc := r, cvy := none, wait := none,
                        notice := t.cx.notice }) ∧
    (∀ r rest, x.ret.entries = r :: rest → r.toNat % 4 ≠ 0 → exec .ret s = .next (takeTrap s (trapOf 0x04 r))) ∧
    (x.ret.entries = [] → x.ret.spilled = 0 → exec .ret s = .next (takeTrap s (trapOf 0x0D 0))) ∧
    (x.ret.entries = [] → x.ret.spilled ≠ 0 →
      let va := (x.ret.spill.toNat + 2 ^ 64 - 8) % 2 ^ 55 / 8 * 8
      (∀ e, reach s (x.acc s.cur) .load va = .error e → exec .ret s =
        .next (takeTrap s (if e = 0x14 then trapOf 0x14 0 else trapOf 0x15 (.ofNat 64 va)))) ∧
      (∀ p, reach s (x.acc s.cur) .load va = .ok p → mayRead s s.cur 0 p 8 = false → exec .ret s = .next s) ∧
      (∀ p, reach s (x.acc s.cur) .load va = .ok p → mayRead s s.cur 0 p 8 = true → readsPoison s x p 8 = false →
        let r : Word := .ofNat 64 (bytesVal (loadBytes (touch s (x.acc s.cur) .load p) x 0 p 8))
        (r.toNat % 4 = 0 →
          ∃ t, exec .ret s = .next t ∧ OnlyCxMem s t id ∧ TouchesLeaf s t p 0x40 (fun _ => False) ∧ WentTo x t.cx r ∧
            (∀ e ∈ t.cx.early, e ∈ x.early) ∧
            t.cx = { x with ret := { entries := [], spilled := x.ret.spilled - 1, spill := .ofNat 64 va },
                            loops := popped r x.loops, early := t.cx.early, pc := r, cvy := none, wait := none
                            notice := t.cx.notice }) ∧
        (r.toNat % 4 ≠ 0 →
          ∃ u, exec .ret s = .next (takeTrap u (trapOf 0x04 r)) ∧ OnlyCxMem s u id ∧
            TouchesLeaf s u p 0x40 (fun _ => False) ∧ (∀ e ∈ u.cx.early, e ∈ x.early) ∧
            u.cx = { x with early := u.cx.early })))

/-- R70, R71, R210, R216, R341, R342, R358: calls push the return store, spilling its oldest entry when it is full,
and RET pops it, refilling from the spill area when it is empty; a spill or refill that needs a plane where none
is live raises trap 0x14, and a return address with bits 1:0 set trap 0x04; that RSPILL - 8 wraps at 55 bits is
log entry 97's. -/
def Obligations.CallsAndReturns : Prop :=
  Spec.LinksPushTheReturnAddress ∧ Spec.RetTakesTheNewestEntry

/-- R68, R346: LOOP pushes its body and count and goes on; a count of 0 skips the body and pushes nothing; a fourth
entry raises trap 0x0C with TVAL 1. -/
def Sys2Proof.Spec.LoopPushesItsBody : Prop :=
  ∀ (s : State) (a : BitVec 5) (n l : BitVec 10), loopDefined a n l = true →
    let x := s.cx
    let count : Nat := if a = 0 then n.toNat else (x.reg a).toNat
    let start := x.convoyStart + 4
    let stop := x.convoyStart + .ofNat 64 (4 * l.toNat)
    (count = 0 → ∃ t, exec (.loop a n l) s = .next t ∧ OnlyCx s t ∧ WentTo x t.cx (stop + 4) ∧
      t.cx = { x with pc := stop + 4, cvy := none, wait := none, notice := t.cx.notice }) ∧
    (count ≠ 0 → x.loops.length < 3 → ∃ t, exec (.loop a n l) s = .next t ∧ OnlyCx s t ∧ Retired x t.cx ∧
      t.cx = { x with loops := { start := start, stop := stop, remaining := .ofNat 64 count } :: x.loops, pc := t.cx.pc,
                      cvy := none, wait := none, notice := t.cx.notice }) ∧
    (count ≠ 0 → 3 ≤ x.loops.length → exec (.loop a n l) s = .next (takeTrap s (trapOf 0x0C 1)))

/-- R66 to R68, R70, R322, R341, R342, R346: where branches and jumps go, which loops they leave, and what LOOP
pushes. -/
def Obligations.BranchesJumpsAndLoops : Prop :=
  Spec.BranchesAndJumps ∧ Spec.LoopPushesItsBody

/-! ### Strip boundaries, shapes and lanes -/

/-- R73, R75 to R78, R302, R386: VSHAPE is a boundary; it lets go of the lanes beyond the cap, then takes free lanes
up to half the rows it may have, and grants the rows and columns that fit, in sD, VROWS and VCOLS; a bad type or
a zero request grants a zero shape with the lanes as they are; where it can hold no lane it waits for the rows
that it wants, which its boundary fixes. That a grant leaves VSTART 0 is log entry 85's choice between R82 and
R386, and that the mill hears of the wait behind what is still on the core's crossing log entry 77's. -/
def Sys2Proof.Spec.VshapeGrantsWhatFits : Prop :=
  ∀ (s : State) (d a b e : BitVec 5) (g : BitVec 2) (ta ix : BitVec 1),
    let x := s.cx
    let i : Instr := .vshape d a b e g ta ix
    let rows := (x.reg a).toNat
    let cols := (x.reg b).toNat
    let bad := !etypeDefined e || (ewidth e.toNat == 4 && g == 3)
    let kept := min x.lanes x.cap.toNat
    let want := min rows (min 32 (2 * x.cap.toNat))
    let need := (want + 1) / 2
    let held := max kept (min need (kept + (16 - kept - (s.ctxAt (siblingOf s.cur)).lanes)))
    let grants (lanes r c : Nat) (ill : Bool) : Prop :=
      ∃ t, exec i s = .next t ∧ BoundaryOnly s t ∧ KeepsBands s t ∧ t.cx.lanes = lanes ∧ t.cx.vrows = r ∧ t.cx.vcols = c ∧
        t.cx.vtype = { ill := ill, glog := g, ta := ta == 1, ix := ix == 1, etype := e } ∧ t.cx.pc = x.nextPc ∧
        (∀ n, t.cx.reg n = if n = 0 then 0 else if n = d then .ofNat 64 (c * 2 ^ 32 + r) else x.reg n) ∧
        (∀ n row, row < 32 → row < 2 * x.lanes → row < 2 * lanes → t.cx.vrow n row = x.vrow n row) ∧
        t.cx = { x with
          regs := t.cx.regs, lanes := lanes, vrows := r, vcols := c, vtype := t.cx.vtype, vregs := t.cx.vregs, vsElem := 0
          vsMember := 0, pend := t.cx.pend, held := [], strip := .reset, ckpt := t.cx.ckpt, pc := t.cx.pc, cvy := none
          wait := none, notice := t.cx.notice }
    x.leaves = false →
    (bad = true ∨ rows = 0 ∨ cols = 0 → grants kept 0 0 bad) ∧
    (bad = false → rows ≠ 0 → cols ≠ 0 →
      (held ≠ 0 → grants (min held need) (min want (2 * min held need)) (min cols (2048 / ewidth e.toNat)) false) ∧
      (held = 0 → ∃ t, exec i s = .next t ∧ WaitsIn t s.cur .lanes i [(want, 0)] ∧ t.cur = s.cur ∧
        t.cx.held = [] ∧ t.cx.pend = x.pend ++ x.held ∧ t.cx.lanes = 0 ∧ t.cx.regs = x.regs ∧ t.cx.pc = x.pc ∧
        t.mem = s.mem ∧
        (if s.coreLags (coreOf s.cur) = true then
          t.ctxAt (siblingOf s.cur) = s.ctxAt (siblingOf s.cur) ∧ t.mill.links = s.mill.links ++ [.wait s.cur 1]
        else (t.ctxAt (siblingOf s.cur)).cap.toNat =
          min (s.ctxAt (siblingOf s.cur)).cap.toNat (max 1 ((s.ctxAt (siblingOf s.cur)).lanes - 1)))))

/-- R41, R226, R387: VREL is a boundary, lets every lane go and leaves a zero shape and an illegal type; a task that
is evicted is stopped at VSHAPE, VREL, MATT or MDET after the boundary, to be saved whole and to go on there.
What the mill gives back of the other context's cap it gives when it hears of the VREL (log entry 77). -/
def Sys2Proof.Spec.VrelReleasesEveryLane : Prop :=
  ∀ s : State,
    let x := s.cx
    (x.leaves = false → ∃ t, exec .vrel s = .next t ∧ t.cx.lanes = 0 ∧ t.cx.vrows = 0 ∧ t.cx.vcols = 0 ∧
      t.cx.vtype = { x.vtype with ill := true } ∧ WentTo x t.cx x.nextPc ∧ (∀ n row, t.cx.vrow n row = 2 ^ 2048 - 1) ∧
      t.cx.pend = x.pend ++ x.held ∧ KeepsBands s t ∧ SlotsFreed (s.tileAt (tileOf s.cur)) (t.tileAt (tileOf s.cur)) s.cur ∧
      t = { s with ctxs := t.ctxs, tiles := t.tiles, mill := { s.mill with links := t.mill.links } } ∧
      (∀ c, c ≠ s.cur → c ≠ siblingOf s.cur → t.ctxAt c = s.ctxAt c) ∧
      (if s.coreLags (coreOf s.cur) = true then
        t.ctxAt (siblingOf s.cur) = s.ctxAt (siblingOf s.cur) ∧ t.mill.links = s.mill.links ++ [.vrel s.cur]
      else t.mill.links = s.mill.links ∧ ∀ y, s.ctxAt (siblingOf s.cur) = y →
        t.ctxAt (siblingOf s.cur) = if y.capWaited then { y with cap := 16, capWaited := false } else y) ∧
      t.cx.ckpt = t.cx.checkpoint x.nextPc ∧
      t.cx = { x with
        lanes := 0, vrows := 0, vcols := 0, vtype := t.cx.vtype, vregs := t.cx.vregs, pend := t.cx.pend, held := []
        strip := .reset, ckpt := t.cx.ckpt, pc := t.cx.pc, cvy := none, wait := none, notice := t.cx.notice }) ∧
    (x.leaves = true → ∀ (d a b e : BitVec 5) (g : BitVec 2) (u v : BitVec 1) (c : BitVec 3),
      ∀ i ∈ [Instr.vshape d a b e g u v, .vrel, .mdet] ++ (if x.mgCount = 0 then [.matt d c] else []),
        ∃ t, exec i s = .next t ∧ t.cx.saving = true ∧ t.cx.pc = x.convoyStart ∧ t.cx.cvy = none ∧ t.cx.held = [] ∧
          t.cx.pend = x.pend ++ x.held ∧ t.cx.lanes = x.lanes ∧ t.cx.mgCount = x.mgCount ∧ t.cx.regs = x.regs ∧
          t.mem = s.mem)

/-- R41, R73, R75 to R78, R226, R227, R302, R386, R387: VSHAPE and VREL are boundaries that take and release lanes;
the one cap of a context with a mark is log entry 28's, what the mill hears late log entry 77's, and that VSTART
reads 0 after a granted VSHAPE log entry 85's (R82 against R386). -/
def Obligations.VshapeAndVrelAreBoundaries : Prop :=
  Spec.VshapeGrantsWhatFits ∧ Spec.VrelReleasesEveryLane

/-! ### Vector arithmetic, masks, conversions, moves and reductions -/

/-- R96, R110, R117, R303, R363, R365: every VARITH word writes each active element with its operation on the
elements of its operands, the scalar's low bits in a VS form, and raises the flags of those operations; a word
that rounds under mode 5 draws once for each of them, in element-number order. -/
def Sys2Proof.Spec.VectorArithmeticWritesActiveElements : Prop :=
  ∀ (s : State) (k : BitVec 1) (d a b : BitVec 5) (m q : BitVec 1) (fn : VFn),
    let w := ewidth s.cx.et
    let start := s.cx.startElem
    let value (second : Nat → Nat → Nat) (n r c : Nat) : Nat × Flags :=
      fn.eval s.cx (elementDraw s m start n) (s.cx.elem a.toNat w r c) (second r c) (s.cx.elem d.toNat w r c)
    let computes (i : Instr) (second : Nat → Nat → Nat) : Prop :=
      WritesElements s i d m q start w True (fun n r c => (value second n r c).1) ∧
        RaisesFlags s i m start (fn.rounds s.cx.et = true) fun n r c => (value second n r c).2
    fn.legal s.cx.et = true →
    (∀ i, (i, fn) ∈ arithVV k d a b m q → Issues s [d, a, b] d m → computes i fun r c => s.cx.elem b.toNat w r c) ∧
    (∀ i, (i, fn) ∈ arithVS k d a b m q → Issues s [d, a] d m → computes i fun _ _ => (s.cx.src b).toNat % 2 ^ w) ∧
    (∀ i, (i, fn) ∈ arithV k d a m q → Issues s [d, a] d m → computes i fun _ _ => 0)

/-- R99, R107, R303, R364, R376, R378: on integers, VADD, VSUB, VMUL and VMA wrap modulo 2^w, VDIV truncates, VMIN
and VMAX take the smaller and the larger, VMULH the upper half of the product, VAND, VOR and VXOR work bit by
bit, the shifts take their amount modulo w, VSADD and VSSUB stop at the nearest bound, with SAT, and VRADD and
VRSUB add and subtract fix of their floating operand, with its flags; nothing else sets a flag, and nothing
draws. The second operand is a group's element, or a scalar's low bits. -/
def Sys2Proof.Spec.IntegerVectorResults : Prop :=
  ∀ (s : State) (k : BitVec 1) (d a b : BitVec 5) (m q : BitVec 1),
    let w := ewidth s.cx.et
    let sgn := isSigned s.cx.et
    let val (v : Nat) : Int := if sgn = true ∧ 2 ^ (w - 1) ≤ v then v - 2 ^ w else v
    let ua r c := s.cx.elem a.toNat w r c
    let x r c := val (ua r c)
    let z r c := val (s.cx.elem d.toNat w r c)
    let computes (i : Instr) (f : Nat → Nat → Int) (fl : Nat → Nat → Flags) : Prop :=
      WritesElements s i d m q s.cx.startElem w True (fun _ r c => (f r c % 2 ^ w).toNat) ∧
        RaisesFlags s i m s.cx.startElem False fun _ r c => fl r c
    let results (forms : List (Instr × VFn)) (ub : Nat → Nat → Nat) : Prop :=
      let y r c := val (ub r c)
      let n r c := ub r c % w
      let has (fn : VFn) (f : Nat → Nat → Int) (fl : Nat → Nat → Flags) : Prop := ∀ i, (i, fn) ∈ forms → computes i f fl
      let is (fn : VFn) (f : Nat → Nat → Int) : Prop := has fn f fun _ _ => 0
      let clamps (fn : VFn) (f : Nat → Nat → Int) : Prop :=
        has fn (fun r c => saturated w sgn (f r c)) fun r c => if saturated w sgn (f r c) = f r c then 0 else flagSAT
      is .add (fun r c => x r c + y r c) ∧
      is .sub (fun r c => x r c - y r c) ∧
      is .mul (fun r c => x r c * y r c) ∧
      is .ma (fun r c => x r c * y r c + z r c) ∧
      is .div (fun r c => if y r c = 0 then -1 else (x r c).tdiv (y r c)) ∧
      is .min (fun r c => min (x r c) (y r c)) ∧
      is .max (fun r c => max (x r c) (y r c)) ∧
      is .mulh (fun r c => (x r c * y r c).fdiv (2 ^ w)) ∧
      is .and (fun r c => (ua r c &&& ub r c : Nat)) ∧
      is .or (fun r c => (ua r c ||| ub r c : Nat)) ∧
      is .xor (fun r c => (ua r c ^^^ ub r c : Nat)) ∧
      is .shl (fun r c => x r c * 2 ^ n r c) ∧
      is .shr (fun r c => (ua r c / 2 ^ n r c : Nat)) ∧
      is .sra (fun r c => (if 2 ^ (w - 1) ≤ ua r c then (ua r c : Int) - 2 ^ w else ua r c).fdiv (2 ^ n r c)) ∧
      clamps .sadd (fun r c => x r c + y r c) ∧
      clamps .ssub (fun r c => x r c - y r c) ∧
      (w ≠ 8 → ∃ fix : Nat → Nat → Int × Flags,
        (∀ r c, Fixed w sgn s.cx.qfp.rqshift.toInt (if w = 16 then .f16 else if w = 32 then .f32 else .f64)
          (ub r c) (fix r c)) ∧
        has .radd (fun r c => x r c + (fix r c).1) (fun r c => (fix r c).2) ∧
        has .rsub (fun r c => x r c - (fix r c).1) (fun r c => (fix r c).2))
    isInt s.cx.et = true →
    (Issues s [d, a, b] d m → results (arithVV k d a b m q) fun r c => s.cx.elem b.toNat w r c) ∧
    (Issues s [d, a] d m → results (arithVS k d a b m q) fun _ _ => (s.cx.src b).toNat % 2 ^ w)

/-- R88, R95 to R98, R106, R303, R365, R376, R377: under a floating type, VADD, VSUB, VMUL, VDIV, VMA and VSQRT
write one rounding of the exact result of their operands, or what R98 and R333 give for zeros, infinities and
NaNs; VEXP2 the sum of R106; VMIN and VMAX the operand, as read, that is below or above the other; the sign
words copy, negate, combine or clear a sign. Each raises the flags of its results, VMIN and VMAX NV for a
signalling NaN, and the sign words none; those that round draw. -/
def Sys2Proof.Spec.FloatingVectorResults : Prop :=
  ∀ (s : State) (k : BitVec 1) (d a b : BitVec 5) (m q : BitVec 1),
    let w := ewidth s.cx.et
    let f := efmt s.cx.et
    let top := 2 ^ (w - 1)
    let start := s.cx.startElem
    let draw r c := elementDraw s m start (r * s.cx.vcols + c)
    let ua r c := s.cx.elem a.toNat w r c
    let ud r c := s.cx.elem d.toNat w r c
    let computes (i : Instr) (draws : Prop) (v : Nat → Nat → Nat × Flags) : Prop :=
      WritesElements s i d m q start w True (fun _ r c => (v r c).1) ∧ RaisesFlags s i m start draws fun _ r c => (v r c).2
    let rounds (op : FOp) (i : Instr) (ub : Nat → Nat → Nat) : Prop := ∃ v : Nat → Nat → Nat × Flags,
      (∀ r c, Computes f s.cx.qfp.ctl (draw r c) op (ua r c) (ub r c) (ud r c) (v r c)) ∧ computes i True v
    let quiet (i : Instr) (v : Nat → Nat → Nat) : Prop := computes i False fun r c => (v r c, 0)
    let picks (isMax : Bool) (i : Instr) (ub : Nat → Nat → Nat) : Prop := ∃ v : Nat → Nat → Nat,
      (∀ r c, Picks isMax f s.cx.qfp.ftz (ua r c) (ub r c) (v r c)) ∧
        computes i False fun r c => (v r c, if signalling f (ua r c) ∨ signalling f (ub r c) then flagNV else 0)
    let results (forms : List (Instr × VFn)) (ub : Nat → Nat → Nat) : Prop :=
      let sign r c := decide (top ≤ ub r c)
      let signed (v : Bool) r c := ua r c % top + if v then top else 0
      (∀ i fn op, (i, fn) ∈ forms →
        (fn, op) ∈ [(VFn.add, FOp.add), (.sub, .sub), (.mul, .mul), (.ma, .fma), (.div, .div)] → rounds op i ub) ∧
      (∀ i, (i, .min) ∈ forms → picks false i ub) ∧ (∀ i, (i, .max) ∈ forms → picks true i ub) ∧
      (∀ i, (i, .sgnCopy) ∈ forms → quiet i fun r c => signed (sign r c) r c) ∧
      (∀ i, (i, .sgnNeg) ∈ forms → quiet i fun r c => signed (!sign r c) r c) ∧
      (∀ i, (i, .sgnXor) ∈ forms → quiet i fun r c => signed (decide (top ≤ ua r c) != sign r c) r c)
    isFloat s.cx.et = true →
    (Issues s [d, a, b] d m → results (arithVV k d a b m q) fun r c => s.cx.elem b.toNat w r c) ∧
    (Issues s [d, a] d m →
      results (arithVS k d a b m q) (fun _ _ => (s.cx.src b).toNat % 2 ^ w) ∧
      rounds .sqrt (.vsqrt k d a m q) (fun _ _ => 0) ∧
      (∃ v : Nat → Nat → Nat × Flags, (∀ r c, Exponential f s.cx.qfp.ctl (draw r c) (ua r c) (v r c)) ∧
        computes (.vexp2 k d a m q) True v) ∧
      quiet (.vsgnAbs k d a m q) fun r c => ua r c % top)

/-- R88, R95 to R99, R107, R110, R117, R303, R363 to R365, R376 to R378: what VARITH writes to which elements, and
the values on integers and on floating numbers. -/
def Obligations.VectorArithmeticFollowsItsRules : Prop :=
  Spec.VectorArithmeticWritesActiveElements ∧ Spec.IntegerVectorResults ∧ Spec.FloatingVectorResults

/-- The vector and matrix words, with the registers of theirs that are a group's first, and whether they have a
destination that may not be masked at v0 (R363). -/
def Sys2Proof.Spec.groupWords (k : BitVec 1) (d a b t : BitVec 5) (m q : BitVec 1) (g o c : BitVec 3) (n : BitVec 2) :
    List (Instr × List (BitVec 5) × Bool) :=
  let of (is : List Instr) (regs : List (BitVec 5)) (masked : Bool) : List (Instr × List (BitVec 5) × Bool) :=
    is.map fun i => (i, regs, masked)
  let names (l : List (Instr × VFn)) : List Instr := l.map (·.1)
  of (names (arithVV k d a b m q) ++
    [.vcmpVV k d a b m q o, .vmlogAnd k d a b m q, .vmlogOr k d a b m q, .vmlogXor k d a b m q, .vmlogAndn k d a b m q,
     .vmlogOrn k d a b m q, .vpermRow k d a b m q, .vpermCol k d a b m q]) [d, a, b] true ++
  of (names (arithVS k d a b m q) ++ names (arithV k d a m q) ++
    [.vcmpVS k d a b m q o, .vmlogNot k d a m q, .vcvt k d a m q t, .vbq k d a m q t, .vbdq k d a m q t, .vmov k d a m q,
     .vslideUp k d a b m q, .vslideDown k d a b m q, .vxpose k d a m q, .vred k d a m q o, .vredAll k d a m q o,
     .vscan k d a m q o]) [d, a] true ++
  of [.vmlogSet k d m q, .vmlogClear k d m q, .vmovSplat k d b m q, .viota k d m q, .viotaRow k d m q, .viotaCol k d m q,
    .vld k d a b m q g, .vldSt k d a b m q g, .vldZ k d a b m q g, .vldBc k d a m q g, .vldB k d a b m q g] [d] true ++
  of (.vgather k d a b m q g :: (vamoForms k d a b m q g).map (·.1)) [d, b] true ++
  of [.vmpop k d a m q, .vmfirst k d a m q, .vmtocAny k c a m q, .vmtocAll k c a m q, .vmtocNone k c a m q,
    .vext k d a b] [a] false ++
  of [.vst k d a b m q g, .vstSt k d a b m q g, .vstZ k d a b m q g, .vstBc k d a m q g, .vstB k d a b m q g, .vins k d a b,
    .vcappVal k d a m q g, .mma k d a n, .mdrain k d b n] [d] false ++
  [(.vscatter k d a b m q g, [d, b], false), (.mldb k a b, [b], false), (.vcappIdx k a m q g, [], false)]

/-- The vector words whose type or layout their encoding limits, with what they need of it (R91, R100, R303 to R305,
R307 to R309, R372): the type that their column lists, the columns and registers that a conversion's target
leaves, and those that an index group has. -/
def Sys2Proof.Spec.typedWords (x : Context) (k : BitVec 1) (d a b t : BitVec 5) (m q : BitVec 1) (g o c : BitVec 3) :
    List (Instr × Prop) :=
  let n := x.et
  let int : Prop := isInt n = true
  let float : Prop := isFloat n = true
  let storage : Prop := isStorage n = true
  let blocked (e : Nat) : Prop := isBlocked e = true
  let layout : Prop := (ewidth n < ewidth t.toNat → x.vcols ≤ 2048 / ewidth t.toNat) ∧ (ewidth t.toNat = 4 → x.group ≤ 4)
  let arith (l : List (Instr × VFn)) : List (Instr × Prop) := l.map fun e => (e.1,
    if e.2 ∈ [VFn.add, .sub, .mul, .ma, .div, .min, .max] then int ∨ float
    else if e.2 ∈ [VFn.radd, .rsub] then int ∧ ewidth n ≠ 8
    else if e.2 ∈ [VFn.sqrt, .exp2, .sgnCopy, .sgnNeg, .sgnXor, .sgnAbs] then float
    else int)
  let index (p : Prop) : Prop := p ∧ ¬ blocked n ∧ ewidth n ≠ 4 ∧ x.vcols ≤ 2048 / x.ixWidth
  let memory (l : List (Instr × VMode)) : List (Instr × Prop) := l.flatMap fun e => match e.2 with
    | .unit | .bcast => [(e.1, ¬ blocked n)]
    | .strided => [(e.1, ¬ blocked n ∧ ewidth n ≠ 4)]
    | .blocked => [(e.1, blocked n)]
    | .index => [(e.1, index True)]
    | .zorder => []
  arith (arithVV k d a b m q ++ arithVS k d a b m q ++ arithV k d a m q) ++
  [(.vcmpVV k d a b m q o, float ∨ (int ∧ o.toNat < 6)), (.vcmpVS k d a b m q o, float ∨ (int ∧ o.toNat < 6)),
   (.vmpop k d a m q, ¬ storage), (.vmfirst k d a m q, ¬ storage), (.vmtocAny k c a m q, ¬ storage),
   (.vmtocAll k c a m q, ¬ storage), (.vmtocNone k c a m q, ¬ storage),
   (.vcvt k d a m q t, ¬ blocked n ∧ ¬ blocked t.toNat ∧ layout), (.vbq k d a m q t, float ∧ blocked t.toNat ∧ layout),
   (.vbdq k d a m q t, blocked n ∧ isFloat t.toNat = true ∧ layout)] ++
  [Instr.vred k d a m q o, .vredAll k d a m q o, .vscan k d a m q o].map (fun i => (i, int ∨ (float ∧ o.toNat < 3))) ++
  memory (loadForms k d a b m q g ++ storeForms k d a b m q g) ++
  (vamoForms k d a b m q g).map (fun e => (e.1, index ((ewidth n = 32 ∨ ewidth n = 64) ∧
    if e.2 = .swap then int ∨ float else if e.2 = .fadd then float else int))) ++
  [(.vcappVal k d a m q g, ¬ blocked n)]

/-- R74, R75, R91, R100, R216, R294, R303 to R305, R307 to R309, R363: a vector or matrix word under an illegal
type, with a register of a group that is no multiple of G, or with a masked destination v0 raises trap 0x03 at
its issue, and nothing else happens; MZERO needs no type. So does a vector word under a type that its column
does not list, a conversion that the columns or registers of its target's layout leave no room for, and an
indexed access of more columns than a row of its index group has. In a convoy whose checks have passed they are
not made again. -/
def Obligations.VectorIssueChecksTrap : Prop :=
  ∀ (s : State) (k : BitVec 1) (d a b t : BitVec 5) (m q : BitVec 1) (g o c : BitVec 3) (n : BitVec 2),
    s.cx.passed = false →
    (∀ e ∈ groupWords k d a b t m q g o c n,
      s.cx.vtype.ill = true ∨ (∃ r ∈ e.2.1, r.toNat % s.cx.group ≠ 0) ∨ (e.2.2 = true ∧ m = 1 ∧ d = 0) →
      exec e.1 s = .next (takeTrap s (illegalWord s e.1))) ∧
    ∀ e ∈ typedWords s.cx k d a b t m q g o c, ¬ e.2 → exec e.1 s = .next (takeTrap s (illegalWord s e.1))

/-- R98, R111, R304, R313, R366: VCMP writes each active element's relation to its mask bit; an ordering of integers
follows the type's signedness, and with a NaN only ne and unordered hold; a signalling NaN sets NV, nothing else
a flag. -/
def Sys2Proof.Spec.VcmpWritesItsRelation : Prop :=
  ∀ (s : State) (k : BitVec 1) (d a b : BitVec 5) (m q : BitVec 1) (rel : BitVec 3),
    let w := ewidth s.cx.et
    let f := efmt s.cx.et
    let holds (second : Nat → Nat → Nat) (r c : Nat) : Prop :=
      let p := s.cx.elem a.toNat w r c
      let o := second r c
      let lt := below f s.cx.qfp.ftz p o
      let gt := below f s.cx.qfp.ftz o p
      let ord := isNumber f p ∧ isNumber f o
      if isInt s.cx.et = true then
        related rel.toNat (intOf w (isSigned s.cx.et) p) (intOf w (isSigned s.cx.et) o)
      else match rel.toNat with
        | 0 => ord ∧ ¬ lt ∧ ¬ gt
        | 1 => ¬ ord ∨ lt ∨ gt
        | 2 => lt
        | 3 => ord ∧ ¬ lt
        | 4 => ord ∧ ¬ gt
        | 5 => gt
        | 6 => ¬ ord
        | _ => ord
    let compares (i : Instr) (second : Nat → Nat → Nat) : Prop :=
      WritesMask s i d m q (holds second) ∧ RaisesFlags s i m s.cx.startElem False fun _ r c =>
        if isFloat s.cx.et = true ∧ (signalling f (s.cx.elem a.toNat w r c) ∨ signalling f (second r c)) then flagNV else 0
    (isFloat s.cx.et = true ∨ (isInt s.cx.et = true ∧ rel.toNat < 6)) →
    (Issues s [d, a, b] d m → compares (.vcmpVV k d a b m q rel) fun r c => s.cx.elem b.toNat w r c) ∧
    (Issues s [d, a] d m → compares (.vcmpVS k d a b m q rel) fun _ _ => (s.cx.src b).toNat % 2 ^ w)

/-- R111, R367: VMLOG combines the bits of two masks position by position. -/
def Sys2Proof.Spec.VmlogCombinesMasks : Prop :=
  ∀ (s : State) (k : BitVec 1) (d a b : BitVec 5) (m q : BitVec 1),
    let x r c := s.cx.maskBit a.toNat (r * maxCols s.cx.et + c) = true
    let y r c := s.cx.maskBit b.toNat (r * maxCols s.cx.et + c) = true
    Issues s [d, a, b] d m →
    WritesMask s (.vmlogAnd k d a b m q) d m q (fun r c => x r c ∧ y r c) ∧
    WritesMask s (.vmlogOr k d a b m q) d m q (fun r c => x r c ∨ y r c) ∧
    WritesMask s (.vmlogXor k d a b m q) d m q (fun r c => ¬ (x r c ↔ y r c)) ∧
    WritesMask s (.vmlogAndn k d a b m q) d m q (fun r c => x r c ∧ ¬ y r c) ∧
    WritesMask s (.vmlogOrn k d a b m q) d m q (fun r c => x r c ∨ ¬ y r c) ∧
    WritesMask s (.vmlogNot k d a m q) d m q (fun r c => ¬ x r c) ∧
    WritesMask s (.vmlogSet k d m q) d m q (fun _ _ => True) ∧
    WritesMask s (.vmlogClear k d m q) d m q (fun _ _ => False)

/-- R124, R368: VMPOP counts the active elements whose bit is 1, VMFIRST gives the lowest number or −1, VMTOC
whether any, all or none of the active elements has its bit set. -/
def Sys2Proof.Spec.MasksReachScalarState : Prop :=
  ∀ (s : State) (k : BitVec 1) (d a : BitVec 5) (c : BitVec 3) (m q : BitVec 1),
    s.cx.vtype.ill = false → a.toNat % s.cx.group = 0 → isStorage s.cx.et = false →
    MemberWritesReg s (.vmpop k d a m q) d (.ofNat 64 (marked s a m).length) ∧
    MemberWritesReg s (.vmfirst k d a m q) d
      (match (marked s a m).head? with
        | none => .ofInt 64 (-1)
        | some n => .ofNat 64 n) ∧
    MemberWritesCond s (.vmtocAny k c a m q) c (marked s a m ≠ []) ∧
    MemberWritesCond s (.vmtocAll k c a m q) c ((marked s a m).length = activeElements s m) ∧
    MemberWritesCond s (.vmtocNone k c a m q) c (marked s a m = [])

/-- R98, R111, R124, R304, R313, R366 to R368: VCMP and VMLOG write masks; VMPOP, VMFIRST and VMTOC read them. -/
def Obligations.MasksAreMadeAndRead : Prop :=
  Spec.VcmpWritesItsRelation ∧ Spec.VmlogCombinesMasks ∧ Spec.MasksReachScalarState

/-- R96, R99, R100, R101, R305, R369: VCVT, VBQ and VBDQ write each active element in the layout of the target type,
from element 0 on (R369; R117 skips elements below VSTART.elem, and log entry 21 says why these words do not);
VBQ and VBDQ under the scale byte of the element's block, none of which carries the poison flag. FPFLAGS gains
the flags of the elements, and for VBQ NV where one is an infinity or a signalling NaN; but between integer
types each element draws under mode 5. -/
def Sys2Proof.Spec.ConversionsWriteActiveElements : Prop :=
  ∀ (s : State) (k : BitVec 1) (d a : BitVec 5) (m q : BitVec 1) (t : BitVec 5),
    let w := ewidth s.cx.et
    let elem r c := s.cx.elem a.toNat w r c
    Issues s [d, a] d m → (ewidth t.toNat ≤ w ∨ s.cx.vcols ≤ 2048 / ewidth t.toNat) →
    (ewidth t.toNat ≠ 4 ∨ s.cx.vtype.glog ≠ 3) →
    let converts (i : Instr) (draws : Prop) (v : Nat → Nat → Nat → Nat × Flags) (nv : Nat → Nat → Flags) : Prop :=
      WritesElements s i d m q 0 (ewidth t.toNat) True (fun n r c => (v (elementDraw s m 0 n) n (elem r c)).1) ∧
        RaisesFlags s i m 0 draws fun n r c => (v (elementDraw s m 0 n) n (elem r c)).2 ||| nv r c
    let f := efmt s.cx.et
    (isBlocked s.cx.et = false → isBlocked t.toNat = false →
      converts (.vcvt k d a m q t) (¬ (isInt s.cx.et = true ∧ isInt t.toNat = true))
        (fun g _ v => convertElem s.cx.et t.toNat s.cx.qfp.ctl g v) fun _ _ => 0) ∧
    (isFloat s.cx.et = true → isBlocked t.toNat = true →
      converts (.vbq k d a m q t) True
        (fun g n v => quantElem s.cx.et (efmt t.toNat) s.cx.qfp.ctl
          ((blockScales s.cx a.toNat m (efmt t.toNat)).getD (n / 256) 0xFF) g v)
        fun r c => if isInfinite f (elem r c) ∨ signalling f (elem r c) then flagNV else 0) ∧
    (isBlocked s.cx.et = true → isFloat t.toNat = true → (∀ b, s.cx.scale a.toNat b < 256) →
      converts (.vbdq k d a m q t) True
        (fun g n v => dequantElem s.cx.et t.toNat s.cx.qfp.ctl (s.cx.scale a.toNat (n / 256)) g v) fun _ _ => 0)

/-- R88, R95, R97, R99, R101: what VCVT makes of one element with a draw g, and its flags. Between integer types it
wraps; a finite number is rounded once to a floating or storage format, a zero keeping its sign, and to the
whole number that the mode names, or the nearest bound, for an integer type; a NaN becomes the canonical one, or
0. -/
def Sys2Proof.Spec.ConvertedElements : Prop :=
  ∀ (src dst : BitVec 5) (c : FpCtl) (g bits : Nat), bits < 2 ^ ewidth src.toNat →
    isBlocked src.toNat = false → isBlocked dst.toNat = false →
    let w := ewidth dst.toNat
    let r := convertElem src.toNat dst.toNat c g bits
    let int : Int := if isSigned src.toNat = true ∧ 2 ^ (ewidth src.toNat - 1) ≤ bits then bits - 2 ^ ewidth src.toNat else bits
    let float (t : Nat) : Prop := isFloat t = true ∨ isStorage t = true
    (isInt src.toNat = true → isInt dst.toNat = true → r = ((int % 2 ^ w).toNat, 0)) ∧
    (isInt src.toNat = true → float dst.toNat → Rounded (efmt dst.toNat) c g int false r) ∧
    (float src.toNat → float dst.toNat → ToFormat (efmt src.toNat) (efmt dst.toNat) c.ftz c g bits r) ∧
    (float src.toNat → isInt dst.toNat = true →
      ToInteger (efmt src.toNat) w (isSigned dst.toNat) c.ftz c.rm g bits r)

/-- R93, R101: VBQ gives a block the scale byte of its largest active magnitude, 127 where that is zero, and 0xFF
where an active element is a NaN or an infinity; a code is the element times 2^(127 − s), rounded once and
saturated, or +0 under 0xFF; VBDQ rounds a code times 2^(s − 127) once, and a NaN block or code gives the
canonical NaN, with no flag (log entry 60). -/
def Sys2Proof.Spec.BlockScalesAndCodes : Prop :=
  ∀ (s : State) (k : BitVec 1) (d a : BitVec 5) (m q : BitVec 1) (t : BitVec 5),
    let w := ewidth s.cx.et
    let f := efmt s.cx.et
    let fmt := efmt t.toNat
    let ftz := s.cx.qfp.ftz
    let emax : Int := if fmt = .e4 then 8 else if fmt = .e5 then 15 else 2
    let member (b n : Nat) : Prop :=
      n < s.cx.inShape ∧ n / 256 = b ∧ s.cx.active (m == 1) (n / s.cx.vcols) (n % s.cx.vcols) = true
    let bits (n : Nat) := s.cx.elem a.toNat w (n / s.cx.vcols) (n % s.cx.vcols)
    let size (n : Nat) : Rat := if number f ftz (bits n) < 0 then -number f ftz (bits n) else number f ftz (bits n)
    (isFloat s.cx.et = true → isBlocked t.toNat = true → Issues s [d, a] d m →
      (ewidth t.toNat ≤ w ∨ s.cx.vcols ≤ 2048 / ewidth t.toNat) → (ewidth t.toNat ≠ 4 ∨ s.cx.vtype.glog ≠ 3) →
      ∃ u, exec (.vbq k d a m q t) s = .next u ∧
        ∀ b < s.cx.nblk, b < 64 * s.cx.group →
          ((∃ n, member b n ∧ ¬ isFinite f (bits n)) → u.cx.scale d.toNat b = 0xFF) ∧
          ((∀ n, member b n → isFinite f (bits n) ∧ size n = 0) → u.cx.scale d.toNat b = 127) ∧
          (∀ n e, member b n → 0 < size n → 2 ^ e ≤ size n → size n < 2 ^ (e + 1 : Int) →
            (∀ i, member b i → isFinite f (bits i) ∧ size i ≤ size n) →
            (u.cx.scale d.toNat b : Int) = min (max (e - emax + 127) 0) 254)) ∧
    (∀ scale g v, scale < 256 →
      (isFloat s.cx.et = true → isBlocked t.toNat = true →
        let r := quantElem s.cx.et fmt s.cx.qfp.ctl scale g v
        (scale = 0xFF → r = (0, 0)) ∧
        (scale ≠ 0xFF → isFinite f v →
          Rounded fmt { s.cx.qfp.ctl with sat8 := true } g (number f ftz v * 2 ^ (127 - scale : Int)) (minus f v) r)) ∧
      (isBlocked s.cx.et = true → isFloat t.toNat = true →
        let r := dequantElem s.cx.et t.toNat s.cx.qfp.ctl scale g v
        (scale = 0xFF ∨ ¬ isNumber f v → r = (fmt.nanCode, 0)) ∧
        (scale ≠ 0xFF → isFinite f v →
          Rounded fmt s.cx.qfp.ctl g (number f ftz v * 2 ^ (scale - 127 : Int)) (minus f v) r)))

/-- R88, R93, R95, R97, R99 to R101, R117, R305, R369: which elements VCVT, VBQ and VBDQ write in the layout of the
target type, and what they write there; that VCVT writes from element 0 on is log entry 21's (R117 against
R369), and that VBDQ gives the canonical NaN with no flag for scale 0xFF or a NaN code log entry 60's. -/
def Obligations.ConversionsWriteTheTargetType : Prop :=
  Spec.ConversionsWriteActiveElements ∧ Spec.ConvertedElements ∧ Spec.BlockScalesAndCodes

/-- R93, R118 to R120, R370, R371, R379, R380: VMOV copies, its splat form repeats a scalar, VPERM takes rows or
columns by index, VSLIDE shifts along the element numbers, VINS replaces one element, VEXT reads one. Under a
blocked type VMOV and VPERM.row copy the scale bytes of the blocks too, and those above them follow ta.
VPERM.col of more than 128 columns, and VEXT and VINS of an element number that is not below the count, raise
trap 0x03 at their issue, and so do all but VMOV and VPERM.row under a blocked type. -/
def Obligations.MovesAndPermutes : Prop :=
  ∀ (s : State) (k : BitVec 1) (d a b : BitVec 5) (m q : BitVec 1),
    let w := ewidth s.cx.et
    let cols := s.cx.vcols
    let at_ n := s.cx.elem a.toNat w (n / cols) (n % cols)
    let amount := (s.cx.src b).toNat
    let carriesScales (i : Instr) (start : Nat) : Prop := ∀ t, exec i s = .next t →
      (isBlocked s.cx.et = false → t.cx.scales = s.cx.scales) ∧
      (isBlocked s.cx.et = true → start < s.cx.inShape → ∀ n < 64 * s.cx.group, t.cx.scale d.toNat n =
        if n < s.cx.nblk then s.cx.scale a.toNat n else if s.cx.vtype.ta = true then 0xFF else s.cx.scale d.toNat n)
    (s.cx.passed = false →
      (isBlocked s.cx.et = true ∨ 128 < cols →
        exec (.vpermCol k d a b m q) s = .next (takeTrap s (illegalWord s (.vpermCol k d a b m q)))) ∧
      (isBlocked s.cx.et = true →
        ∀ i ∈ [Instr.vmovSplat k d b m q, .vslideUp k d a b m q, .vslideDown k d a b m q],
          exec i s = .next (takeTrap s (illegalWord s i))) ∧
      (isBlocked s.cx.et = true ∨ s.cx.inShape ≤ amount → ∀ i ∈ [Instr.vext k d a b, .vins k d a b],
        exec i s = .next (takeTrap s (illegalWord s i)))) ∧
    (Issues s [d, a] d m →
      WritesElements s (.vmov k d a m q) d m q s.cx.startElem w True (fun _ r c => s.cx.elem a.toNat w r c) ∧
      carriesScales (.vmov k d a m q) s.cx.startElem) ∧
    (Issues s [d, a, b] d m → carriesScales (.vpermRow k d a b m q) 0 ∧
      WritesElements s (.vpermRow k d a b m q) d m q 0 w True fun _ r c =>
        let i := s.cx.vrow (b.toNat + r / s.cx.vrows) (r % s.cx.vrows) % 256
        if 128 ≤ i ∨ s.cx.vrows ≤ i % 32 then 0
        else rowField w c (s.cx.vrow (a.toNat + r / s.cx.vrows) (i % 32))) ∧
    (isBlocked s.cx.et = false →
      (Issues s [d] d m →
        WritesElements s (.vmovSplat k d b m q) d m q s.cx.startElem w True fun _ _ _ => (s.cx.src b).toNat) ∧
      (Issues s [d, a, b] d m → cols ≤ 128 → WritesElements s (.vpermCol k d a b m q) d m q 0 w True fun _ r c =>
        let i := rowField 16 c (s.cx.groupRow b.toNat r)
        if 2 ^ 15 ≤ i ∨ cols ≤ i % 512 then 0 else s.cx.elem a.toNat w r (i % 512)) ∧
      (Issues s [d, a] d m →
        WritesElements s (.vslideUp k d a b m q) d m q 0 w True
          (fun n _ _ => if amount ≤ n then at_ (n - amount) else 0) ∧
        WritesElements s (.vslideDown k d a b m q) d m q 0 w True
          (fun n _ _ => if n + amount < s.cx.inShape then at_ (n + amount) else 0)) ∧
      (s.cx.vtype.ill = false → a.toNat % s.cx.group = 0 → amount < s.cx.inShape →
        MemberWritesReg s (.vext k d a b) d
          (if isSigned s.cx.et = true ∧ 2 ^ (w - 1) ≤ at_ amount then .ofInt 64 ((at_ amount : Int) - 2 ^ w)
           else .ofNat 64 (at_ amount))) ∧
      (s.cx.vtype.ill = false → d.toNat % s.cx.group = 0 → amount < s.cx.inShape →
        ∃ t, exec (.vins k d a b) s = .next t ∧ VectorOnly s t ∧ ChainsOn s.cx t.cx ∧ t.cx.scales = s.cx.scales ∧
          (s.cx.vrows ≤ 32 → KeepsOtherGroups s t d ∧
            ∀ r c, r < s.cx.grows → c < cols → r % s.cx.vrows < 2 * s.cx.lanes → (c + 1) * w ≤ 2048 →
              t.cx.elem d.toNat w r c =
                if r * cols + c = amount then (s.cx.src a).toNat % 2 ^ w else s.cx.elem d.toNat w r c)))

/-- R121: VXPOSE needs G = 1 and a type that is not blocked, and otherwise raises trap 0x03 at its issue; active
element (r, c) gets source element (c, r) where c < VROWS and r < VCOLS, and zero bits elsewhere; a 32 × 32
block of f64 fits a row. -/
def Obligations.VxposeTransposes : Prop :=
  ∀ (s : State) (k : BitVec 1) (d a : BitVec 5) (m q : BitVec 1),
    let w := ewidth s.cx.et
    (s.cx.passed = false → s.cx.group ≠ 1 ∨ isBlocked s.cx.et = true →
      exec (.vxpose k d a m q) s = .next (takeTrap s (illegalWord s (.vxpose k d a m q)))) ∧
    (s.cx.group = 1 → isBlocked s.cx.et = false → Issues s [d, a] d m →
      WritesElements s (.vxpose k d a m q) d m q 0 w True fun _ r c =>
        if c < s.cx.vrows ∧ r < s.cx.vcols then s.cx.elem a.toNat w c r else 0) ∧
    32 * ewidth 11 = 2048 ∧ ∀ t < 32, ewidth t ≤ 64

/-- R122: VIOTA writes the element number, the group row or the column, modulo 2^width, and raises trap 0x03 at its
issue under a floating or storage type. -/
def Obligations.ViotaWritesIndices : Prop :=
  ∀ (s : State) (k : BitVec 1) (d : BitVec 5) (m q : BitVec 1),
    let w := ewidth s.cx.et
    (s.cx.passed = false → isFloat s.cx.et = true ∨ isStorage s.cx.et = true →
      ∀ i ∈ [Instr.viota k d m q, .viotaRow k d m q, .viotaCol k d m q],
        exec i s = .next (takeTrap s (illegalWord s i))) ∧
    (isInt s.cx.et = true → Issues s [d] d m →
      WritesElements s (.viota k d m q) d m q s.cx.startElem w True (fun _ r c => r * s.cx.vcols + c) ∧
      WritesElements s (.viotaRow k d m q) d m q s.cx.startElem w True (fun _ r _ => r) ∧
      WritesElements s (.viotaCol k d m q) d m q s.cx.startElem w True (fun _ _ c => c))

/-- R96, R102, R103, R123, R307, R381, R382: VRED writes a row's result in column 0, VRED.all the whole group's in
element (0, 0), and every other element of the destination follows ta; VSCAN writes the inclusive prefixes of
each row. A result is the tree of R102 over the row's values, inactive ones being the identity; a sum of
integers is the sum of the active elements modulo 2^w. FPFLAGS gains the flags of every combine, identities
included, and under mode 5 each combine of a floating sum draws once, by rows, then levels, then places, and in
a scan by rows, then columns; nothing else draws, and a zero shape leaves both as they are. One value alone
passes through with no combine (log entry 86). -/
def Obligations.ReductionsAndScans : Prop :=
  ∀ (s : State) (k : BitVec 1) (d a : BitVec 5) (m q : BitVec 1) (o : BitVec 3),
    let w := ewidth s.cx.et
    let cols := s.cx.vcols
    let rows := s.cx.grows
    let leaf (r c : Nat) : Nat := if s.cx.active (m == 1) r c then s.cx.elem a.toNat w r c else identityOf s.cx o.toNat
    let val (r c : Nat) : Nat := if s.cx.active (m == 1) r c then s.cx.elem a.toNat w r c else 0
    let rowSum (r n : Nat) : Nat := ((List.range n).map (val r)).sum
    let fits := cols ≤ maxCols s.cx.et
    let sums := isInt s.cx.et = true ∧ o = 0 ∧ fits
    let row (n r : Nat) : Nat := reduced s o.toNat cols n (r * (2 ^ n - 1)) (leaf r)
    let rowRaises (n r j : Nat) : Prop := treeRaises s o.toNat cols n (r * (2 ^ n - 1)) (leaf r) j
    let prefix_ (r : Nat) := scanned s o.toNat (r * (cols - 1)) (leaf r)
    let rest (t : State) (result : Nat → Nat → Nat → Prop) : Prop :=
      s.cx.zeroShape = false → ∀ reg row c, reg < s.cx.group → row < 32 → row < 2 * s.cx.lanes → (c + 1) * w ≤ 2048 →
        ¬ result reg row c → rowField w c (t.cx.vrow (d.toNat + reg) row) =
          if s.cx.vtype.ta = true then 0 else rowField w c (s.cx.vrow (d.toNat + reg) row)
    (redFn o).legal s.cx.et = true → Issues s [d, a] d m →
    (∃ t, exec (.vred k d a m q o) s = .next t ∧ VectorOnly s t ∧ ChainsOn s.cx t.cx ∧ t.cx.scales = s.cx.scales ∧
      (s.cx.zeroShape = true → t.cx.fp = s.cx.fp) ∧
      (s.cx.vrows ≤ 32 → KeepsOtherGroups s t d ∧ rest t (fun _ row c => row < s.cx.vrows ∧ c = 0) ∧
        (fits → ∀ n, Pads cols n → CombinesLeave s t o.toNat (rows * (2 ^ n - 1)) fun j => ∃ r < rows, rowRaises n r j) ∧
        (0 < cols → ∀ r < rows, r % s.cx.vrows < 2 * s.cx.lanes →
          (fits → ∀ n, Pads cols n → t.cx.elem d.toNat w r 0 = row n r % 2 ^ w) ∧
          (sums → t.cx.elem d.toNat w r 0 = rowSum r cols % 2 ^ w)))) ∧
    (∃ t, exec (.vredAll k d a m q o) s = .next t ∧ VectorOnly s t ∧ ChainsOn s.cx t.cx ∧ t.cx.scales = s.cx.scales ∧
      (s.cx.zeroShape = true → t.cx.fp = s.cx.fp) ∧
      (s.cx.vrows ≤ 32 → KeepsOtherGroups s t d ∧ rest t (fun reg row c => reg = 0 ∧ row = 0 ∧ c = 0) ∧
        (fits → ∀ n, Pads cols n → ∀ h, Pads rows h →
          CombinesLeave s t o.toNat (rows * (2 ^ n - 1) + (2 ^ h - 1)) (fun j => (∃ r < rows, rowRaises n r j) ∨
            treeRaises s o.toNat rows h (rows * (2 ^ n - 1)) (row n) j) ∧
          (0 < s.cx.lanes → t.cx.elem d.toNat w 0 0 = reduced s o.toNat rows h (rows * (2 ^ n - 1)) (row n) % 2 ^ w)) ∧
        (s.cx.zeroShape = false → 0 < s.cx.lanes → sums →
          t.cx.elem d.toNat w 0 0 = ((List.range rows).map fun r => rowSum r cols).sum % 2 ^ w))) ∧
    WritesElements s (.vscan k d a m q o) d m q 0 w fits (fun _ r c => (prefix_ r c).1) ∧
    WritesElements s (.vscan k d a m q o) d m q 0 w sums (fun _ r c => rowSum r (c + 1)) ∧
    ∀ t, exec (.vscan k d a m q o) s = .next t → (s.cx.zeroShape = true → t.cx.fp = s.cx.fp) ∧
      (s.cx.vrows ≤ 32 → fits → CombinesLeave s t o.toNat (rows * (cols - 1)) fun j =>
        ∃ r c, r < rows ∧ c + 1 < cols ∧ (prefix_ r (c + 1)).2.getLsbD j = true)

/-! ### Vector memory and atomics -/

/-- R94, R110, R112, R117, R140, R142, R160, R164, R182 and R183 (ordering), R372, R373: a vector load whose checks
pass, whose addresses are aligned, and whose every byte translates and is not poisoned writes each active
element with the bytes at its address, lowest byte first, and the scale bytes of a blocked type, sets A in the
leaves, and changes no other byte of memory. It stays at issue while a write that must be performed first is
not. The bytes are those that stand there now where no read of the context was performed early (log entry 68). -/
def Sys2Proof.Spec.LoadedElements : Prop :=
  ∀ (s : State) (k : BitVec 1) (d a b : BitVec 5) (m q : BitVec 1) (g : BitVec 3) (i : Instr) (mode : VMode),
    (i, mode) ∈ loadForms k d a b m q g →
    let x := s.cx
    let w := x.width
    let b' := if mode = .bcast then 0 else b
    let acc := memoryAccess s .load mode a b' m
    let ready := (∀ e p, (e, .ok p) ∈ acc.elems → mayRead s s.cur g.toNat p x.esz = true) ∧
      ∀ e p, (e, .ok p) ∈ acc.scales → mayRead s s.cur g.toNat p 1 = true
    loadCheck mode i d a b' m s = none → VectorAccess s .load mode a b' m →
    (∀ e p, (e, .ok p) ∈ acc.elems → readsPoison s x p x.esz = false) →
    (∀ e p, (e, .ok p) ∈ acc.scales → readsPoison s x p 1 = false) →
    (¬ ready → ∃ t, exec i s = .next t ∧ t.mem = s.mem ∧ t.cx = { x with strip := t.cx.strip }) ∧
    (ready → ∃ t, exec i s = .next t ∧ t.mem = acc.after.mem ∧ KeepsBytesBut s t acc (fun _ => False) ∧
      OnlyCxMem s t (fun r => { r with tiles := t.tiles }) ∧ ChainsOn x t.cx ∧
      t.cx.pend ++ t.cx.held = x.pend ++ x.held ∧ (∀ e ∈ t.cx.early, e ∈ x.early) ∧
      t.cx = { x with
        vregs := t.cx.vregs, scales := t.cx.scales, strip := t.cx.strip, ckpt := t.cx.ckpt, pend := t.cx.pend
        held := t.cx.held, early := t.cx.early, pc := t.cx.pc, cvy := t.cx.cvy, wait := t.cx.wait, notice := t.cx.notice
        vsElem := t.cx.vsElem, vsMember := t.cx.vsMember } ∧
      (x.vrows ≤ 32 → KeepsOtherGroups s t d ∧ TailFollows s t d w ∧
        (∀ r c, r < x.grows → c < x.vcols → r % x.vrows < 2 * x.lanes → (c + 1) * w ≤ 2048 →
          let old := x.elem d.toNat w r c
          (r * x.vcols + c < x.startElem → t.cx.elem d.toNat w r c = old) ∧
          (x.startElem ≤ r * x.vcols + c → x.active (m == 1) r c = false →
            t.cx.elem d.toNat w r c = if q = 1 then 0 else old)) ∧
        (x.early = [] → ∀ e p, (e, .ok p) ∈ acc.elems → e.r % x.vrows < 2 * x.lanes → (e.c + 1) * w ≤ 2048 →
          let v := bytesVal (readPlace acc.after x p x.esz)
          t.cx.elem d.toNat w e.r e.c = if w = 4 then (if e.hi then v / 16 else v % 16) else v % 2 ^ w)) ∧
      (x.early = [] → isBlocked x.et = true → ∀ n va p, acc.scales[n]? = some (va, .ok p) → n < 64 * x.group →
        t.cx.scale d.toNat n = bytesVal (readPlace acc.after x p 1)))

/-- R116, R218, R245, R249, R257, R373: a vector load that meets poisoned storage tells the mill. At user level with
inh clear it stops at its first element that does (one that is all or nothing before its first element), with
error 0x10 of its convoy in the vector queue. Elsewhere it goes on: every element that is not poisoned gets its
value, one that is a value that nothing states (log entry 18), and a poisoned scale byte is 0xFF with its flag. -/
def Sys2Proof.Spec.PoisonedLoads : Prop :=
  ∀ (s : State) (k : BitVec 1) (d a b : BitVec 5) (m q : BitVec 1) (g : BitVec 3) (i : Instr) (mode : VMode),
    (i, mode) ∈ loadForms k d a b m q g →
    let x := s.cx
    let w := x.width
    let b' := if mode = .bcast then 0 else b
    let acc := memoryAccess s .load mode a b' m
    let told := tellMill s x.launchNo
    let loaded (t : State) (e : VElem) (p : Place) : Prop :=
      e.r % x.vrows < 2 * x.lanes → (e.c + 1) * w ≤ 2048 →
        let v := bytesVal (readPlace acc.after x p x.esz)
        t.cx.elem d.toNat w e.r e.c = if w = 4 then (if e.hi then v / 16 else v % 16) else v % 2 ^ w
    loadCheck mode i d a b' m s = none → VectorAccess s .load mode a b' m →
    (mode ≠ .index → x.takesError = true →
      (∃ e p, (e, .ok p) ∈ acc.elems ∧ readsPoison s x p x.esz = true) ∨
        (∃ e p, (e, .ok p) ∈ acc.scales ∧ readsPoison s x p 1 = true) →
      ∃ t f, exec i s = .next t ∧ FaultAt s t f 0x10 x.convoyStart 0 ∧ t.mem = acc.after.mem ∧ t.mill = told.mill ∧
        t.cx = { x with qfault := some f, pc := t.cx.pc, cvy := none, wait := none }) ∧
    (mode = .index → x.takesError = true → ∀ front e p rest, acc.elems = front ++ (e, .ok p) :: rest →
      readsPoison s x p x.esz = true →
      (∀ f r, (f, .ok r) ∈ front → readsPoison s x r x.esz = false ∧ mayRead s s.cur g.toNat r x.esz = true) →
      ∃ t f, exec i s = .next t ∧ FaultAt s t f 0x10 x.convoyStart e.n ∧ t.mem = acc.after.mem ∧ t.mill = told.mill ∧
        t.cx.regs = x.regs ∧ t.cx.fp = x.fp ∧ t.cx.scales = x.scales ∧
        (x.vrows ≤ 32 → KeepsOtherGroups s t d ∧ (x.early = [] → ∀ f r, (f, .ok r) ∈ front → loaded t f r) ∧
          ∀ r c, r < x.grows → c < x.vcols → r % x.vrows < 2 * x.lanes → (c + 1) * w ≤ 2048 → e.n ≤ r * x.vcols + c →
            t.cx.elem d.toNat w r c = x.elem d.toNat w r c)) ∧
    (x.takesError = false → (∀ e p, (e, .ok p) ∈ acc.elems → mayRead s s.cur g.toNat p x.esz = true) →
      (∀ e p, (e, .ok p) ∈ acc.scales → mayRead s s.cur g.toNat p 1 = true) →
      ∃ t, exec i s = .next t ∧ t.mem = acc.after.mem ∧ ChainsOn x t.cx ∧ t.cx.regs = x.regs ∧ t.cx.fp = x.fp ∧
        t.cx.pend ++ t.cx.held = x.pend ++ x.held ∧
        ((∃ e p, (e, .ok p) ∈ acc.elems ∧ readsPoison s x p x.esz = true) ∨
          (∃ e p, (e, .ok p) ∈ acc.scales ∧ readsPoison s x p 1 = true) → t.mill = told.mill) ∧
        (x.vrows ≤ 32 → KeepsOtherGroups s t d ∧
          (x.early = [] → ∀ e p, (e, .ok p) ∈ acc.elems → readsPoison s x p x.esz = false → loaded t e p)) ∧
        (isBlocked x.et = true → mode ≠ .index → ∀ n va p, acc.scales[n]? = some (va, .ok p) → n < 64 * x.group →
          readsPoison s x p 1 = true → t.cx.scale d.toNat n = 0x1FF))

/-- R94, R117, R373: a vector load whose VSTART lies at or beyond its elements writes no element and makes no
access; that one of a blocked type loads its scale bytes all the same is log entry 89's reading of R373. -/
def Sys2Proof.Spec.LoadsBeyondTheElements : Prop :=
  ∀ (s : State) (k : BitVec 1) (d a b : BitVec 5) (m q : BitVec 1) (g : BitVec 3) (i : Instr) (mode : VMode),
    (i, mode) ∈ loadForms k d a b m q g →
    let x := s.cx
    let b' := if mode = .bcast then 0 else b
    let acc := memoryAccess s .load mode a b' m
    loadCheck mode i d a b' m s = none → NoneLeft s mode a b' m →
    (isBlocked x.et = false ∨ x.inShape = 0 → OnlyRetires s i) ∧
    (isBlocked x.et = true → x.inShape ≠ 0 → mode ≠ .index → (∀ e ∈ acc.scales, ∃ p, e.2 = .ok p) →
      (∀ e p, (e, .ok p) ∈ acc.scales → readsPoison s x p 1 = false ∧ mayRead s s.cur g.toNat p 1 = true) →
      ∃ t, exec i s = .next t ∧ t.mem = acc.after.mem ∧ KeepsBytesBut s t acc (fun _ => False) ∧
        OnlyCxMem s t (fun r => { r with tiles := t.tiles }) ∧ ChainsOn x t.cx ∧ t.cx.vregs = x.vregs ∧
        t.cx.regs = x.regs ∧ t.cx.fp = x.fp ∧ t.cx.pend ++ t.cx.held = x.pend ++ x.held ∧
        (x.early = [] → ∀ n va p, acc.scales[n]? = some (va, .ok p) → n < 64 * x.group →
          t.cx.scale d.toNat n = bytesVal (readPlace acc.after x p 1)))

/-- R94, R110, R112, R116, R117, R140, R142, R160, R164, R182 and R183 (ordering), R218, R245, R249, R257, R372,
R373: what vector loads write, also where they meet poisoned storage, or where VSTART leaves them no element;
which early reads are used is log entry 68's, a poisoned element's value log entry 18's, and the scale bytes
behind VSTART log entry 89's. -/
def Obligations.VectorLoadsWriteTheirElements : Prop :=
  Spec.LoadedElements ∧ Spec.PoisonedLoads ∧ Spec.LoadsBeyondTheElements

/-- R94, R117, R142, R160, R179, R189 (ordering), R257, R372, R383, R384: a vector store whose checks pass, whose
addresses are aligned, whose every byte translates and whose scales are sound joins its elements in
element-number order, the two e2 elements of a byte as one write, and then the scale bytes of a blocked type, to
the context's own writes; nothing is written to memory but A and D in the leaves. -/
def Sys2Proof.Spec.StoredElements : Prop :=
  ∀ (s : State) (k : BitVec 1) (d a b : BitVec 5) (m q : BitVec 1) (g : BitVec 3) (i : Instr) (mode : VMode),
    (i, mode) ∈ storeForms k d a b m q g →
    let b' := if mode = .bcast then 0 else b
    let acc := memoryAccess s .store mode a b' m
    let elems : List Write := acc.elems.filterMap fun e => e.2.toOption.map fun p =>
      { p.write g.toNat (valBytes s.cx.esz (s.cx.elem d.toNat s.cx.width e.1.r e.1.c)) with
        nib := if s.cx.width = 4 then some e.1.hi else none }
    let scales : List Write := acc.scales.zipIdx.filterMap fun e => e.1.2.toOption.map fun p =>
      p.write g.toNat (valBytes 1 (s.cx.scale d.toNat e.2))
    storeCheck mode i d a b' m s = none → VectorAccess s .store mode a b' m →
    (∀ n < acc.scales.length, s.cx.scale d.toNat n < 256) →
    (s.cx.width ≠ 4 → pairNibbles elems = elems) ∧
    ∃ t, exec i s = .next t ∧ t.mem = acc.after.mem ∧ KeepsBytesBut s t acc (fun _ => False) ∧
      OnlyCxMem s t (fun r => { r with tiles := t.tiles }) ∧ ChainsOn s.cx t.cx ∧
      t.cx.pend ++ t.cx.held = s.cx.pend ++ s.cx.held ++ (pairNibbles elems ++ scales) ∧
      t.cx = { s.cx with pend := t.cx.pend, held := t.cx.held, strip := t.cx.strip, ckpt := t.cx.ckpt, pc := t.cx.pc
                         cvy := t.cx.cvy, wait := t.cx.wait, notice := t.cx.notice, vsElem := t.cx.vsElem
                         vsMember := t.cx.vsMember }

/-- R249, R257, R383, R384: a vector store of a scale with the poison flag is an error that its block consumes: the
mill is told, and at user level with inh clear nothing is held and error 0x10 of its convoy stands in the vector
queue. Elsewhere the store goes on: its elements are held, and its scale bytes, of which a sound one is itself
and a flagged one a value that nothing states (log entry 88). -/
def Sys2Proof.Spec.PoisonedScalesAreNotStored : Prop :=
  ∀ (s : State) (k : BitVec 1) (d a b : BitVec 5) (m q : BitVec 1) (g : BitVec 3) (i : Instr) (mode : VMode),
    (i, mode) ∈ storeForms k d a b m q g → mode ≠ .index →
    let x := s.cx
    let b' := if mode = .bcast then 0 else b
    let acc := memoryAccess s .store mode a b' m
    let told := tellMill s x.launchNo
    storeCheck mode i d a b' m s = none → VectorAccess s .store mode a b' m →
    (∃ n < acc.scales.length, 256 ≤ x.scale d.toNat n) →
    (x.takesError = true → ∃ t f, exec i s = .next t ∧ FaultAt s t f 0x10 x.convoyStart 0 ∧ t.mem = acc.after.mem ∧
      t.mill = told.mill ∧ t.cx = { x with qfault := some f, pc := t.cx.pc, cvy := none, wait := none }) ∧
    (x.takesError = false → ∃ t, exec i s = .next t ∧ t.mem = acc.after.mem ∧ t.mill = told.mill ∧ ChainsOn x t.cx ∧
      t.cx.vregs = x.vregs ∧ t.cx.regs = x.regs ∧
      ∃ elems scales, t.cx.pend ++ t.cx.held = x.pend ++ x.held ++ (pairNibbles elems ++ scales) ∧
        elems = (acc.elems.filterMap fun e => e.2.toOption.map fun p =>
          { p.write g.toNat (valBytes x.esz (x.elem d.toNat x.width e.1.r e.1.c)) with
            nib := if x.width = 4 then some e.1.hi else none }) ∧
        scales.length = acc.scales.length ∧
        ∀ n va p, acc.scales[n]? = some (va, .ok p) →
          ∃ v, scales[n]? = some (p.write g.toNat [v]) ∧ (x.scale d.toNat n < 256 → v.toNat = x.scale d.toNat n))

/-- R94, R117, R384: a vector store whose VSTART lies at or beyond its elements stores no element; that one of a
blocked type holds its scale bytes all the same is log entry 89's reading of R384. -/
def Sys2Proof.Spec.StoresBeyondTheElements : Prop :=
  ∀ (s : State) (k : BitVec 1) (d a b : BitVec 5) (m q : BitVec 1) (g : BitVec 3) (i : Instr) (mode : VMode),
    (i, mode) ∈ storeForms k d a b m q g →
    let x := s.cx
    let b' := if mode = .bcast then 0 else b
    let acc := memoryAccess s .store mode a b' m
    storeCheck mode i d a b' m s = none → NoneLeft s mode a b' m →
    (isBlocked x.et = false ∨ x.inShape = 0 → OnlyRetires s i) ∧
    (isBlocked x.et = true → x.inShape ≠ 0 → mode ≠ .index → (∀ e ∈ acc.scales, ∃ p, e.2 = .ok p) →
      (∀ n < acc.scales.length, x.scale d.toNat n < 256) →
      ∃ t, exec i s = .next t ∧ t.mem = acc.after.mem ∧ KeepsBytesBut s t acc (fun _ => False) ∧
        OnlyCxMem s t (fun r => { r with tiles := t.tiles }) ∧ ChainsOn x t.cx ∧ t.cx.vregs = x.vregs ∧
        t.cx.regs = x.regs ∧ t.cx.fp = x.fp ∧
        t.cx.pend ++ t.cx.held = x.pend ++ x.held ++ acc.scales.zipIdx.filterMap fun e => e.1.2.toOption.map fun p =>
          p.write g.toNat (valBytes 1 (x.scale d.toNat e.2)))

/-- R94, R117, R142, R160, R179, R189 (ordering), R249, R257, R372, R383, R384: what vector stores hold, also where
a scale carries the poison flag (log entry 88), or where VSTART leaves them no element (log entry 89). -/
def Obligations.VectorStoresAreHeld : Prop :=
  Spec.StoredElements ∧ Spec.PoisonedScalesAreNotStored ∧ Spec.StoresBeyondTheElements

/-- R116, R139, R142, R162, R165, R218: a vector access with a misaligned active element raises trap 0x04 with the
address of the lowest, a Z-order one with its misaligned base, and makes no access; one that is all or nothing
and fails to translate an element, or a scale byte behind every element, raises the cause of the first failing
one. The fault stands in the vector queue with its convoy, the scalar unit may go on behind it, and the trap is
taken later. -/
def Sys2Proof.Spec.UnitAndStridedFaultsAreQueued : Prop :=
  ∀ (s : State) (k : BitVec 1) (d a b : BitVec 5) (m q : BitVec 1) (g : BitVec 3) (i : Instr) (mode : VMode) (ak : AccKind),
    (i, mode, ak) ∈ [(.vld k d a b m q g, .unit, .load), (.vldSt k d a b m q g, .strided, .load),
      (.vldZ k d a b m q g, .zorder, .load), (.vldBc k d a m q g, .bcast, .load), (.vldB k d a b m q g, .blocked, .load),
      (.vst k d a b m q g, .unit, .store), (.vstSt k d a b m q g, .strided, .store),
      (.vstZ k d a b m q g, .zorder, .store), (.vstBc k d a m q g, .bcast, .store),
      (.vstB k d a b m q g, .blocked, .store)] →
    let b' := if mode = .bcast then 0 else b
    let mem := s.cx.vmem mode a b'
    let es := mem.elements s.cx m s.cx.startElem
    let acc := memoryAccess s ak mode a b' m
    (if ak = .load then loadCheck mode i d a b' m s else storeCheck mode i d a b' m s) = none →
    s.cx.startElem < s.cx.inShape →
    (mode = .zorder → (s.cx.src a).toNat % (2 * s.cx.width) ≠ 0 →
      ∃ t f, exec i s = .next t ∧ QueuedIn s s t f 0x04 (s.cx.src a) s.cx.startElem ∧ t.mem = s.mem) ∧
    (mode ≠ .zorder ∨ (s.cx.src a).toNat % (2 * s.cx.width) = 0 →
      (∀ e rest front, es = front ++ e :: rest → (∀ f ∈ front, f.va.toNat % s.cx.esz = 0) → e.va.toNat % s.cx.esz ≠ 0 →
        ∃ t f, exec i s = .next t ∧ QueuedIn s s t f 0x04 e.va s.cx.startElem ∧ t.mem = s.mem) ∧
      ((∀ e ∈ es, e.va.toNat % s.cx.esz = 0) →
        (∀ e c rest front, acc.elems = front ++ (e, .error c) :: rest → (∀ f ∈ front, ∃ p, f.2 = .ok p) →
          ∃ t f, exec i s = .next t ∧ QueuedIn s acc.after t f c e.va 0 ∧ t.mem = acc.after.mem) ∧
        ∀ va c rest front, (∀ f ∈ acc.elems, ∃ p, f.2 = .ok p) → acc.scales = front ++ (va, .error c) :: rest →
          (∀ f ∈ front, ∃ p, f.2 = .ok p) →
          ∃ t f, exec i s = .next t ∧ QueuedIn s acc.after t f c va 0 ∧ t.mem = acc.after.mem))

/-- R116, R142, R164, R166 to R169, R218: a gather, scatter or VAMO with a misaligned active element raises trap
0x04 and makes no access; one with an element that fails to translate performs the elements below the first such
element e, and those alone, and raises trap 0x08 with the address of e and the fault record of all that fail. -/
def Sys2Proof.Spec.IndexedAccessesStopAtTheFirstFault : Prop :=
  ∀ (s : State) (k : BitVec 1) (d a b : BitVec 5) (m q : BitVec 1) (g : BitVec 3) (i : Instr) (ak : AccKind) (op : VAmo),
    (ak = .load ∧ i = .vgather k d a b m q g) ∨ (ak = .store ∧ i = .vscatter k d a b m q g) ∨
      (ak = .atomic ∧ (i, op) ∈ vamoForms k d a b m q g) →
    let x := s.cx
    let w := x.width
    let es := (x.vmem .index a b).elements x m x.startElem
    let acc := memoryAccess s ak .index a b m
    let committed := forceCommit acc.after
    (match ak with
      | .load => loadCheck .index i d a b m s
      | .store => storeCheck .index i d a b m s
      | _ => amoCheck op i d a b m s) = none →
    x.startElem < x.inShape → x.inShape ≤ 65536 → x.member < 4 → s.poison = [] → x.pause = none →
    (∀ e rest front, es = front ++ e :: rest → (∀ f ∈ front, f.va.toNat % x.esz = 0) → e.va.toNat % x.esz ≠ 0 →
      ∃ t f, exec i s = .next t ∧ QueuedIn s s t f 0x04 e.va x.startElem ∧ t.mem = s.mem) ∧
    ((∀ e ∈ es, e.va.toNat % x.esz = 0) →
      ∀ e c rest front, acc.elems = front ++ (e, .error c) :: rest → (∀ f ∈ front, ∃ p, f.2 = .ok p) →
        let places := front.filterMap fun f => f.2.toOption.map fun p => (f.1, p)
        let done := amoElems op d g.toNat places committed
        (∀ f p, (f, p) ∈ places → (ak = .load → mayRead s s.cur g.toNat p x.esz = true) ∧
          (ak = .atomic → mayAtomic committed g.toNat x.esz p = true)) →
        ∃ t f, exec i s = .next t ∧ t.cx.qfault = some f ∧ f.cause = 0x08 ∧ f.tval = e.va ∧ f.elem = e.n ∧
          FaultRecordOf s (if ak = .load then 0 else if ak = .store then 1 else 2) (failures acc.elems) f.rcd ∧
          f.cvy.start = x.convoyStart ∧ f.cvy.idx = x.member ∧ f.cvy.next = x.nextPc ∧
          t.cx.pc = x.nextPc ∧ t.cx.cvy = none ∧ t.cx.wait = none ∧ t.cx.regs = x.regs ∧ t.cx.fp = x.fp ∧
          t.cx.vsElem = x.vsElem ∧ t.cx.vsMember = x.vsMember ∧ (∀ c, c ≠ s.cur → t.ctxAt c = s.ctxAt c) ∧
          (ak ≠ .atomic → t.mem = acc.after.mem) ∧
          (ak = .atomic → t.mem = done.2.mem ∧ t.mill = done.2.mill ∧ t.cx.strip.forced = true ∧
            t.cx.pend = x.pend ++ x.held ∧ t.cx.held = []) ∧
          (ak = .store → t.cx.vregs = x.vregs ∧ t.cx.pend ++ t.cx.held = x.pend ++ x.held ++
            places.map fun f => f.2.write g.toNat (valBytes x.esz (x.elem d.toNat w f.1.r f.1.c))) ∧
          (ak ≠ .store → x.vrows ≤ 32 → KeepsOtherGroups s t d ∧
            ∀ r c, r < x.grows → c < x.vcols → r % x.vrows < 2 * x.lanes → (c + 1) * w ≤ 2048 →
              let n := r * x.vcols + c
              (e.n ≤ n → t.cx.elem d.toNat w r c = x.elem d.toNat w r c) ∧
              ∀ f p, (f, p) ∈ places → f.n = n →
                (ak = .load → x.early = [] →
                  t.cx.elem d.toNat w r c = bytesVal (readPlace acc.after x p x.esz) % 2 ^ w) ∧
                (ak = .atomic → t.cx.elem d.toNat w r c = tabGet 0 done.1 n % 2 ^ w)))

/-- R116, R139, R142, R162, R164 to R169, R218: what the faults of a vector access leave, and the record of those of
a gather, scatter or VAMO; one entry per page, with the cause of the first element that fails on it, is log
entry 57's, and the page of an address that fails the first check log entry 87's. -/
def Obligations.VectorAccessFaultsAreQueued : Prop :=
  Spec.UnitAndStridedFaultsAreQueued ∧ Spec.IndexedAccessesStopAtTheFirstFault

/-- R170, R188 (ordering), R309, R319, R374: a VAMO whose checks pass and whose every element translates commits the
strip, performs its elements' atomics in element-number order at their homes, and writes the old values to its
destination; no byte differs but those of the elements and of the leaves, and the pages that a replay restores
(R250, R252, as WritesOfALaunchAreCounted states). While an earlier access must come first it waits, its strip
committed (log entry 90), and the environment may interrupt it between two atomics. -/
def Obligations.VectorAtomicsReturnOldValues : Prop :=
  ∀ (s : State) (k : BitVec 1) (d a b : BitVec 5) (m q : BitVec 1) (g : BitVec 3) (i : Instr) (op : VAmo),
    (i, op) ∈ vamoForms k d a b m q g →
    let x := s.cx
    let w := x.width
    let acc := memoryAccess s .atomic .index a b m
    let committed := forceCommit acc.after
    let places := acc.elems.filterMap fun e => e.2.toOption.map fun p => (e.1, p)
    let ready := ∀ e p, (e, p) ∈ places → mayAtomic committed g.toNat x.esz p = true
    amoCheck op i d a b m s = none → VectorAccess s .atomic .index a b m → s.poison = [] →
    (¬ ready → ∃ t, exec i s = .next t ∧ t.mem = s.mem ∧ t.cx.held = [] ∧ t.cx.pend = x.pend ++ x.held ∧
      t.cx.pc = x.pc ∧ t.cx.cvy = x.cvy ∧ t.cx.vregs = x.vregs ∧ t.cx.regs = x.regs) ∧
    (ready → x.pause = none →
      let done := amoElems op d g.toNat places committed
      ∃ t, exec i s = .next t ∧ t.mem = done.2.mem ∧ t.mill = done.2.mill ∧
        (Memory.wf s.mem = true → (∀ e p, (e, p) ∈ places → Uncounted s s.cur p.cls) →
          KeepsBytesBut s t acc (fun q => ∃ e p, (e, p) ∈ places ∧
            if p.enc then p.loc / 64 * 64 ≤ q ∧ q < p.loc / 64 * 64 + 64 else p.loc ≤ q ∧ q < p.loc + x.esz)) ∧
        ChainsOn x t.cx ∧ t.cx.strip.forced = true ∧ t.cx.held = [] ∧ t.cx.pend = x.pend ++ x.held ∧
        t.cx.regs = x.regs ∧ t.cx.conds = x.conds ∧ t.cx.fp = x.fp ∧ t.cx.trap = x.trap ∧
        (∀ c, c ≠ s.cur → t.ctxAt c = s.ctxAt c) ∧
        (x.vrows ≤ 32 → KeepsOtherGroups s t d ∧
          ∀ e p, (e, p) ∈ places → e.r % x.vrows < 2 * x.lanes → (e.c + 1) * w ≤ 2048 →
            t.cx.elem d.toNat w e.r e.c = tabGet 0 done.1 e.n % 2 ^ w) ∧
        (∀ e p, places = [(e, p)] →
          let old := bytesVal (fetchBytes s.keys committed.mem p.loc p.key p.enc x.esz)
          let v := x.elem d.toNat w e.r e.c
          let n (y : Nat) : Int := if isSigned x.et = true ∧ 2 ^ (w - 1) ≤ y then y - 2 ^ w else y
          let new := match op with
            | .add => (old + v) % 2 ^ w
            | .min => if n v < n old then v else old
            | .max => if n old < n v then v else old
            | .and => old &&& v
            | .or => old ||| v
            | .xor => old ^^^ v
            | .swap => v
            | .fadd => (fpArith .add (efmt x.et) .rne 0 old v 0).1
          done.1 = [(e.n, old)] ∧ t.mem = (performWrite committed s.cur (p.write g.toNat (valBytes x.esz new))).mem)) ∧
    (ready → ∀ n, x.pause = some n → n < x.inShape → ∃ t, exec i s = .next t ∧
      t.mem = (amoElems op d g.toNat (places.filter fun e => e.1.n < n) committed).2.mem ∧ t.cx.pause = none ∧
      t.cx.vsElem = .ofNat 17 n ∧ t.cx.vsMember = .ofNat 2 x.member ∧ t.cx.pc = x.pc ∧ t.cx.regs = x.regs ∧
      t.cx.cvy.map (·.idx) = x.cvy.map (·.idx))

/-- R42 to R44, R113, R181, R183 and R188 (ordering), R375: VCAPP with a valid descriptor adds its active items: the
tail at its home rises by their number at once and the items are posted behind it, one each in element order; a
queue without room gets nothing but FPFLAGS.SAT; one that crosses its threshold owes a notification; with no
active item, as under a zero shape, it only reads its descriptor (the order of its checks is log entry 22's). It
stays at issue, with nothing changed, while a write that its read of the descriptor must follow is not performed
(R181, R183), and while an earlier access must come before the atomic it waits, its strip committed (log entry
90). -/
def Obligations.VcappAppends : Prop :=
  ∀ (s : State) (k : BitVec 1) (d a : BitVec 5) (m q : BitVec 1) (g : BitVec 3) (v : Option (BitVec 5)) (i : Instr),
    (i, v) ∈ [(.vcappIdx k a m q g, none), (.vcappVal k d a m q g, some d)] →
    cappCheck i v a s = none → s.poison = [] →
    ∀ p bs, (s.cx.src a).toNat % 32 = 0 → readQueue s (s.cx.src a) = .ok (p, bs) →
      let x := s.cx
      let field (bs : List Byte) (o n : Nat) : Nat := bytesVal ((bs.drop o).take n)
      let base := field bs 0 8
      let capacity := field bs 8 4
      let size := field bs 12 4
      let items := x.activeFrom (m == 1) 0
      let d1 := translateAll .atomic [x.src a] (touchQueue g.toNat (x.src a) s)
      let d2 := translateAll .store (queueOf bs).pages d1.2
      let s1 := forceCommit d2.2
      let now := queueBytes s1 p
      let old := field now 16 4
      let new := old + items.length
      let s2 := performWrite s1 s.cur ({ p with loc := p.loc + 16 }.write g.toNat (valBytes 4 new))
      let free := mayAtomic s1 g.toNat 4 { p with loc := p.loc + 16 } = true
      (mayRead s s.cur g.toNat p 32 = false → exec i s = .next s) ∧
      (mayRead s s.cur g.toNat p 32 = true → base % size = 0 → (∀ e ∈ d1.1 ++ d2.1, ∃ r, e = .ok r) →
      (items = [] → ∃ t, exec i s = .next t ∧ t.mem = d2.2.mem ∧ ChainsOn x t.cx ∧ t.cx.regs = x.regs ∧ t.cx.fp = x.fp ∧
        t.cx.pend = x.pend ∧ t.cx.held = x.held ∧ t.cx.vregs = x.vregs ∧ t.cx.appends = x.appends) ∧
      (items ≠ [] → ¬ free → ∃ t, exec i s = .next t ∧ t.mem = s1.mem ∧ t.cx.held = [] ∧ t.cx.pend = x.pend ++ x.held ∧
        t.cx.pc = x.pc ∧ t.cx.cvy = x.cvy ∧ t.cx.regs = x.regs ∧ t.cx.fp = x.fp) ∧
      (items ≠ [] → free → capacity < new → ∃ t, exec i s = .next t ∧ t.mem = s1.mem ∧ t.cx.held = [] ∧
        t.cx.pend = x.pend ++ x.held ∧ t.cx.appends = x.appends ∧ t.cx.regs = x.regs ∧ ChainsOn x t.cx ∧
        t.cx.fp = { x.fp with flags := x.fp.flags ||| flagSAT }) ∧
      (items ≠ [] → free → new ≤ capacity → ∀ places : List Place,
        (∀ j < items.length, ∃ r, places[j]? = some r ∧ resolve s2 (x.acc s.cur) .store (base + (old + j) * size) = .ok r) →
        places.length = items.length →
        ∃ t ws, exec i s = .next t ∧ t.mem = s2.mem ∧ t.mill = s2.mill ∧
          (p.enc = false → Uncounted s s.cur p.cls → t.mem = memWriteN s1.mem (p.loc + 16) (valBytes 4 new)) ∧
          t.cx.pend = x.pend ++ x.held ++ ws ∧ t.cx.held = [] ∧ t.cx.strip.forced = true ∧ ChainsOn x t.cx ∧
          ws.length = items.length ∧
          (∀ j (h : j < items.length) r, places[j]? = some r → ws[j]? = some (r.write g.toNat (valBytes size (match v with
            | none => items[j].1
            | some e => x.elem e.toNat x.width items[j].2.1 items[j].2.2)))) ∧
          (let threshold := field now 20 4
           let target := field now 24 2
           let owed := threshold ≠ 0 ∧ old / threshold < new / threshold ∧ field now 26 2 % 2 = 1 ∧ target < 768
           (owed → t.cx.appends = x.appends ++ [{ target := target, tail := .ofNat 64 new, items := ws }]) ∧
           (¬ owed → t.cx.appends = x.appends)) ∧
          t.cx.regs = x.regs ∧ t.cx.conds = x.conds ∧ t.cx.fp = x.fp ∧ t.cx.vregs = x.vregs))

/-! ### The matrix unit -/

/-- R129, R131, R348, R349: MATT is a boundary; it attaches the lowest run of as many contiguous free bands as there
are, up to c, clears every set of them and puts the grant in sD and MGRANT; with bands attached already it
raises trap 0x0B with TVAL 0x02. MDET is a boundary that commits no accumulators; it detaches and clears the
context's bands. -/
def Sys2Proof.Spec.MattAttachesAndMdetDetaches : Prop :=
  ∀ (s : State) (d : BitVec 5) (c : BitVec 3),
    let x := s.cx
    let band (t : State) (b : Nat) : Option Holder := (t.tileAt (tileOf s.cur)).bands.toList.getD b none
    let run (f g : Nat) : Prop := f + g ≤ 4 ∧ ∀ k < g, band s (f + k) = none
    let cleared (t : State) (b : Nat) : Prop := ∀ set < 4, ∀ row < 64, ∀ col < 32,
      accumulator t b set row col = 0 ∧ committedCopy t b set row col = 0
    let rest (t : State) : Prop :=
      t.cx = { x with
        regs := t.cx.regs, mgCount := t.cx.mgCount, mgFirst := t.cx.mgFirst, pend := t.cx.pend, held := [], strip := .reset
        ckpt := t.cx.ckpt, pc := t.cx.pc, cvy := none, wait := none, notice := t.cx.notice }
    (x.mgCount ≠ 0 → exec (.matt d c) s = .next (takeTrap s (trapOf 0x0B 2))) ∧
    (x.mgCount = 0 → x.leaves = false →
      ∃ t g f, exec (.matt d c) s = .next t ∧ BoundaryOnly s t ∧ WentTo x t.cx x.nextPc ∧ rest t ∧
        t.cx.mgCount = g ∧ t.cx.mgFirst = f ∧
        (∀ n, t.cx.reg n = if n = 0 then 0 else if n = d then .ofNat 64 g else x.reg n) ∧
        g ≤ c.toNat ∧ run f g ∧ (g = 0 → f = 0) ∧ (∀ k, g < k → k ≤ c.toNat → ∀ f', ¬ run f' k) ∧
        (g ≠ 0 → ∀ f' < f, ¬ run f' g) ∧
        ∀ b < 4, band t b = (if f ≤ b ∧ b < f + g then some (.ctx s.cur) else band s b) ∧
          (f ≤ b ∧ b < f + g → cleared t b)) ∧
    (x.leaves = false →
      ∃ t, exec .mdet s = .next t ∧ BoundaryOnly s t ∧ WentTo x t.cx x.nextPc ∧ rest t ∧ t.cx.mgCount = 0 ∧
        t.cx.mgFirst = 0 ∧ t.cx.regs = x.regs ∧
        ∀ b < 4, band t b = (if band s b = some (.ctx s.cur) then none else band s b) ∧
          (band s b = some (.ctx s.cur) → cleared t b) ∧
          (band s b ≠ some (.ctx s.cur) → ∀ set < 4, ∀ row < 64, ∀ col < 32,
            accumulator t b set row col = accumulator s b set row col ∧
            committedCopy t b set row col = committedCopy s b set row col))

/-- R129, R132: MCLAIM holds the lowest slot that no context holds, zeroed, with scales of 127 and no tag, and gives
its number, or all ones where there is none; MREL marks a held slot released, and raises trap 0x0B with TVAL
0x09 for any other. -/
def Sys2Proof.Spec.MclaimAndMrelManageSlots : Prop :=
  ∀ (s : State) (d a : BitVec 5),
    let x := s.cx
    let f := (x.reg a).toNat
    let rest (t : State) : Prop := MatrixOnly s t ∧ KeepsBands' s t ∧ WentTo x t.cx x.nextPc ∧
      t.cx = { x with regs := t.cx.regs, strip := t.cx.strip, pc := t.cx.pc, cvy := none, wait := none
                      notice := t.cx.notice }
    ((∀ n < 64, (tileSlot s n).holder ≠ none) → WritesReg s (.mclaim d) d (.allOnes 64)) ∧
    (∀ n < 64, (tileSlot s n).holder = none → (∀ k < n, (tileSlot s k).holder ≠ none) →
      ∃ t, exec (.mclaim d) s = .next t ∧ rest t ∧
        tileSlot t n = { holder := some (.ctx s.cur), released := false, rows := [], scales := [], tag := none } ∧
        (∀ k, k ≠ n → tileSlot t k = tileSlot s k) ∧
        (∀ r, t.cx.reg r = if r = 0 then 0 else if r = d then .ofNat 64 n else x.reg r)) ∧
    (HoldsSlot s f → ∃ t, exec (.mrel a) s = .next t ∧ rest t ∧ t.cx.regs = x.regs ∧ t.cx.strip = x.strip ∧
      tileSlot t f = { tileSlot s f with released := true } ∧ ∀ k, k ≠ f → tileSlot t k = tileSlot s k) ∧
    (¬ HoldsSlot s f → exec (.mrel a) s = .next (takeTrap s (trapOf 0x0B 9)))

/-- R129, R131, R132, R348, R349: MATT and MDET attach and detach bands, MCLAIM and MREL hold and release slots. -/
def Obligations.BandsAndSlotsAreManaged : Prop :=
  Spec.MattAttachesAndMdetDetaches ∧ Spec.MclaimAndMrelManageSlots

/-- R129, R133, R348: MLDB copies the in-shape bits of one register into a held slot, its rows beyond VROWS and
columns beyond VCOLS as zero, the scale bytes of a blocked type and 127 elsewhere, and tags it with the type. -/
def Obligations.MldbLoadsASlot : Prop :=
  ∀ (s : State) (k : BitVec 1) (a b : BitVec 5),
    let x := s.cx
    let f := (x.src a).toNat
    let w := x.width
    Issues s [b] b 0 → isMatrixType x.et = true →
    (x.passed = false → ¬ HoldsSlot s f → exec (.mldb k a b) s = .next (takeTrap s (trapOf 0x0B 9))) ∧
    (HoldsSlot s f → x.zeroShape = true ∨ isBlocked x.et = false ∨ x.vcols = bandDepth x.et →
      ∃ t, exec (.mldb k a b) s = .next t ∧ ChainsOn x t.cx ∧ t.mem = s.mem ∧
        (∀ n, n ≠ f → tileSlot t n = tileSlot s n) ∧ (tileSlot t f).holder = some (.ctx s.cur) ∧
        (tileSlot t f).released = false ∧ (tileSlot t f).tag = some x.vtype.etype ∧
        (∀ r < 32, ∀ c, (c + 1) * w ≤ 2048 → rowField w c ((tileSlot t f).row r) =
          if r < x.vrows ∧ c < x.vcols then rowField w c (x.vrow b.toNat r) else 0) ∧
        (∀ j < 64, (tileSlot t f).scale j =
          if isBlocked x.et = true ∧ j < x.nblk then x.scaleByte b.toNat j else 127) ∧
        (∀ b' set row col, accumulator t b' set row col = accumulator s b' set row col) ∧
        t.cx.regs = x.regs ∧ t.cx.vregs = x.vregs ∧ t.cx.scales = x.scales ∧ t.cx.fp = x.fp ∧ t.cx.mat = x.mat ∧
        t.cx.pend ++ t.cx.held = x.pend ++ x.held)

/-- R92, R104, R128, R129, R134, R257, R350: an MMA that passes its checks and reads no scale with the poison flag
adds to every accumulator of rows below MROWS and columns below MCOLS the products of its chain. For s8 that is
the integer sum of the products below MDEPTH, modulo 2^32. For the other types it is the steps of R104 in order:
the bands of the chain, in each the 32 rows of processing elements, and in each of these its depth indices below
MDEPTH together, with one rounding; one with none leaves the partial sum. MFLAGS gains the flags of the steps.
Every other accumulator, the slots, the registers and memory are as before. -/
def Obligations.MmaAddsItsProducts : Prop :=
  ∀ (s : State) (k : BitVec 1) (d a : BitVec 5) (n : BitVec 2),
    let x := s.cx
    let per := 64 / ewidth x.et
    let D := 32 * per
    let f := (x.src a).toNat
    let wide := x.qmat.wide
    let rows := x.qmat.rows.toNat
    let cols := x.qmat.cols.toNat
    let depth := x.qmat.depth.toNat
    let band j := if wide = true then x.mgFirst + j / 32 else x.mgFirst
    let col j := if wide = true then j % 32 else j
    let bands j := if wide = true then [j / 32] else List.range x.mgCount
    let base q := if wide = true then 0 else q * D
    let group q := if wide = true then d.toNat else d.toNat + q * x.group
    let aCode i q c := if x.vcols ≤ c then 0 else x.elem (group q) x.width i c
    let bCode j q c := rowField x.width c ((tileSlot s (f + q)).row (j % 32))
    let aScale i q c := if isBlocked x.et = true then x.scale (group q) ((i * x.vcols + c) / 256) else 127
    let bScale j q c := if isBlocked x.et = true then (tileSlot s (f + q)).scale (j % 32 * (D / 256) + c / 256) else 127
    let product (i j kk : Nat) : Int :=
      let q := if wide = true then j / 32 else kk / D
      intOf 8 true (aCode i q (kk % D)) * intOf 8 true (bCode j q (kk % D))
    let acc : FFmt := if x.et = 11 then .f64 else .f32
    let old (i j : Nat) := accumulator s (band j) n.toNat i (col j)
    let steps (v : Nat → Nat → Nat → Nat × Flags) (i j : Nat) : Prop :=
      v i j 0 = (old i j, 0) ∧ ∀ step < 32 * (bands j).length,
        let q := (bands j).getD (step / 32) 0
        let K := ((List.range per).map (step % 32 * per + ·)).filter fun c => base q + c < depth
        let r := v i j (step + 1)
        (K = [] → r = ((v i j step).1, 0)) ∧
        (K ≠ [] → PeStep (efmt x.et) acc K (aCode i q) (bCode j q) (aScale i q) (bScale j q)
          ((v i j step).1 % 2 ^ acc.width) r)
    ProductFits s d f → (∀ v ∈ mmaScales x (s.tileAt (tileOf s.cur)) d.toNat f, v < 256) →
      ∃ t, exec (.mma k d a n) s = .next t ∧ ChainsOn x t.cx ∧
      (isInt x.et = true → t.cx.mat = x.mat ∧ ∀ i < rows, ∀ j < cols, 0 < depth →
        accumulator t (band j) n.toNat i (col j) =
          ((intOf 32 true (old i j) + ((List.range depth).map (product i j)).sum) % 2 ^ 32).toNat) ∧
      (isInt x.et = false → ∃ v : Nat → Nat → Nat → Nat × Flags, (∀ i < rows, ∀ j < cols, 0 < depth → steps v i j) ∧
        (∀ i < rows, ∀ j < cols, 0 < depth →
          accumulator t (band j) n.toNat i (col j) = (v i j (32 * (bands j).length)).1) ∧
        ∀ e ∈ [(0, 0), (2, 2), (3, 3), (4, 4)], t.cx.mat.flags.getLsbD e.1 = true ↔ x.mat.flags.getLsbD e.1 = true ∨
          (0 < depth ∧ ∃ i < rows, ∃ j < cols, ∃ step < 32 * (bands j).length, (v i j (step + 1)).2.getLsbD e.2 = true)) ∧
      (∀ b' set row c', row < 64 → c' < 32 → set < 4 →
        (∀ i < rows, ∀ j < cols, 0 < depth → ¬ (b' = band j ∧ set = n.toNat ∧ row = i ∧ c' = col j)) →
        accumulator t b' set row c' = accumulator s b' set row c') ∧
      (∀ b' set row c', committedCopy t b' set row c' = committedCopy s b' set row c') ∧
      (∀ m, tileSlot t m = tileSlot s m) ∧ t.mem = s.mem ∧ (∃ fl, t.cx.mat = { x.mat with flags := x.mat.flags ||| fl }) ∧
      t.cx = { x with
        mat := t.cx.mat, strip := t.cx.strip, pc := t.cx.pc, cvy := t.cx.cvy, wait := t.cx.wait, notice := t.cx.notice
        vsElem := t.cx.vsElem, vsMember := t.cx.vsMember }

/-- R129, R135, R349: MZERO clears the working copy of set n of every attached band, whatever the type and the
shape; every other accumulator and every committed copy are as before. With no band attached it raises trap 0x0B
with TVAL 0x01 at its issue. -/
def Obligations.MzeroClearsTheWorkingCopies : Prop :=
  ∀ (s : State) (k : BitVec 1) (n : BitVec 2),
    (s.cx.mgCount = 0 → s.cx.passed = false → exec (.mzero k n) s = .next (takeTrap s (trapOf 0x0B 1))) ∧
    (s.cx.mgCount ≠ 0 → ∃ t, exec (.mzero k n) s = .next t ∧ MatrixOnly s t ∧ ChainsOn s.cx t.cx ∧
      (∀ b < 4, ∀ set < 4, ∀ row < 64, ∀ col < 32,
        accumulator t b set row col =
          (if (s.tileAt (tileOf s.cur)).bands.toList.getD b none = some (.ctx s.cur) ∧ set = n.toNat then 0
           else accumulator s b set row col) ∧
        committedCopy t b set row col = committedCopy s b set row col) ∧
      (t.tileAt (tileOf s.cur)).bands = (s.tileAt (tileOf s.cur)).bands ∧ (∀ m, tileSlot t m = tileSlot s m) ∧
      t.cx = { s.cx with pc := t.cx.pc, cvy := t.cx.cvy, wait := t.cx.wait, notice := t.cx.notice, vsElem := t.cx.vsElem
                         vsMember := t.cx.vsMember })

/-- R95, R97, R99, R129, R137: MDRAIN writes every in-shape element with the accumulator of its row, counted from
sB, and its column, 0 beyond the sets, read exactly and converted to the type: a floating one as a conversion of
its format converts it, an s32 one rounded once to a floating type, or brought to the nearest bound of an
integer type, with SAT. FPFLAGS gains the flags of the elements, and each that is rounded draws under mode 5. (A
signalling NaN sets NV: log entry 19.) It raises trap 0x03 for a blocked type and trap 0x0B with TVAL 0x01 where
no band is attached. -/
def Obligations.MdrainWritesAccumulators : Prop :=
  ∀ (s : State) (k : BitVec 1) (d b : BitVec 5) (n : BitVec 2),
    let x := s.cx
    let entry (r c : Nat) : Nat :=
      let i := (x.src b).toNat + r
      if 64 ≤ i then 0
      else if x.qmat.wide = true then
        (if c / 32 < x.mgCount then accumulator s (x.mgFirst + c / 32) n.toNat i (c % 32) else 0)
      else if c < 32 then accumulator s x.mgFirst n.toNat i c else 0
    Issues s [d] d 0 →
    (x.passed = false → isBlocked x.et = true →
      exec (.mdrain k d b n) s = .next (takeTrap s (illegalWord s (.mdrain k d b n)))) ∧
    (x.passed = false → isBlocked x.et = false → x.zeroShape = false → x.mgCount = 0 →
      exec (.mdrain k d b n) s = .next (takeTrap s (trapOf 0x0B 1))) ∧
    (isBlocked x.et = false → x.zeroShape = true ∨ (x.mgCount ≠ 0 ∧ x.qmat.rev = 1 ∧ x.qmat.afmt ≠ 3) →
      ∃ v : Nat → Nat → Nat × Flags,
        WritesElements s (.mdrain k d b n) d 0 0 0 x.width True (fun _ r c => (v r c).1) ∧
        RaisesFlags s (.mdrain k d b n) 0 0 (¬ (x.qmat.afmt = 2 ∧ isInt x.et = true)) (fun _ r c => (v r c).2) ∧
        ∀ r c,
          let g := elementDraw s 0 0 (r * x.vcols + c)
          let sum : Int := intOf 32 true (entry r c)
          let bound := saturated x.width (isSigned x.et) sum
          let acc : FFmt := if x.qmat.afmt = 1 then .f64 else .f32
          let code := entry r c % 2 ^ acc.width
          (x.qmat.afmt = 2 → isInt x.et = true →
            v r c = ((bound % 2 ^ x.width).toNat, if bound = sum then 0 else flagSAT)) ∧
          (x.qmat.afmt = 2 → isInt x.et = false → Rounded (efmt x.et) x.qfp.ctl g sum false (v r c)) ∧
          (x.qmat.afmt ≠ 2 → isInt x.et = false → ToFormat acc (efmt x.et) false x.qfp.ctl g code (v r c)) ∧
          (x.qmat.afmt ≠ 2 → isInt x.et = true →
            ToInteger acc x.width (isSigned x.et) false x.qfp.rm.toNat g code (v r c)))

/-! ### Copies, fences and messages -/

/-- R40, R184, R186 and R187 (engines), R210: an XCOPY that passes its checks commits the strip as a forced one and
puts a command with the context's space and level behind those of its channel, gives it the channel's next
identifier, in sD too, and raises XNEXT by 1; a command that touches nothing completes at once; with 16 commands
outstanding it waits; with no live plane it raises trap 0x14. -/
def Sys2Proof.Spec.XcopyEnqueuesACommand : Prop :=
  ∀ (s : State) (d a b : BitVec 5) (c : BitVec 2) (n : BitVec 1) (l : BitVec 5),
    let x := s.cx
    let i : Instr := .xcopy d a b c n l
    let old := x.chan c.toNat
    let dims := layoutDims x l
    let size := dimCount dims * (x.width / 8)
    let cmd : CopyCmd :=
      { id := old.next, src := x.reg a, dst := x.reg b, esz := x.width / 8, dims := dims, notify := n == 1
        space := x.space, sup := x.sup
        st := if x.zeroShape = true ∨ dims = [] ∨ dimCount dims = 0 then .completed else .queued }
    let cmds := old.cmds ++ [cmd]
    Issues s [l] l 0 →
    (x.width = 4 ∨ 8 < x.vcols ∨ 2 ^ 40 ≤ size → exec i s = .next (takeTrap s (illegalWord s i))) ∧
    (x.width ≠ 4 → x.vcols ≤ 8 → size < 2 ^ 40 →
      let strides := dims.map (·.ss) ++ dims.map (·.ds)
      (∀ v, ((x.reg a) :: (x.reg b) :: strides).find? (fun v => v.toNat % (x.width / 8) != 0) = some v →
        exec i s = .next (takeTrap s (trapOf 0x04 v))) ∧
      ((∀ v ∈ (x.reg a) :: (x.reg b) :: strides, v.toNat % (x.width / 8) = 0) →
        (s.planesDead = true → exec i s = .next (takeTrap s (trapOf 0x14 0))) ∧
        (s.planesDead = false → old.cause = 0 → old.cmds.length < 16 → ∃ t, exec i s = .next t ∧ t.mem = s.mem ∧ WentTo x t.cx x.nextPc ∧
          t.cx.held = [] ∧ t.cx.pend = x.pend ++ x.held ∧ t.cx.strip.forced = true ∧
          (∀ r, t.cx.reg r = if r = 0 then 0 else if r = d then old.next.setWidth 64 else x.reg r) ∧
          (t.cx.chan c.toNat).next = old.next + 1 ∧
          (t.cx.chan c.toNat).cmds = cmds.dropWhile (fun m => m.st == .completed) ∧
          (t.cx.chan c.toNat).done =
            (((cmds.takeWhile fun m => m.st == .completed).getLast?).map (·.id)).getD old.done ∧
          (∀ k, k ≠ c.toNat → t.cx.chan k = x.chan k) ∧ t.cx.vregs = x.vregs ∧ t.cx.conds = x.conds ∧ t.cx.fp = x.fp ∧
          t.cx.trap = x.trap ∧ t.cx.loops = x.loops) ∧
        (s.planesDead = false → old.cause = 0 → 16 ≤ old.cmds.length → ∃ t, exec i s = .next t ∧ t.cx.wait = some { kind := .room, instr := i, marks := [], place := none } ∧
          t.cx.regs = x.regs ∧ t.cx.pc = x.pc ∧ (∀ k, t.cx.chan k = x.chan k) ∧ t.mem = s.mem)))

/-- R184, R189 and R190 (engines), R210: XWAIT retires where its identifier is not pending, waits while it is, and
on a channel that stopped with a fault not yet delivered marks it delivered and raises trap 0x13 with the
fault's address and channel. That a pending identifier raises trap 0x14 where a command before it needs a plane
and none is live is log entry 46's. -/
def Sys2Proof.Spec.XwaitWaitsForItsIdentifier : Prop :=
  ∀ (s : State) (a : BitVec 5) (c : BitVec 2),
    let x := s.cx
    let ch := x.chan c.toNat
    let id := (x.reg a).setWidth 32
    let pending := (id - ch.done - 1).toNat < (ch.next - ch.done - 1).toNat
    let needs := ∃ m ∈ ch.cmds, precedes m.id (id + 1) = true ∧ m.st ≠ .completed ∧ m.carried s s.cur = false
    (ch.cause = 0 → ¬ pending → ∃ t, exec (.xwait a c) s = .next t ∧ OnlyCx s t ∧ WentTo x t.cx x.nextPc ∧
      t.cx = { x with chans := t.cx.chans, early := [], pc := t.cx.pc, cvy := none, wait := none
                      notice := t.cx.notice } ∧
      ∀ k, t.cx.chan k = x.chan k) ∧
    (ch.cause = 0 → pending → s.planesDead = false ∨ ¬ needs → exec (.xwait a c) s =
      .next (s.setCx { x with wait := some { kind := .xwait, instr := .xwait a c, marks := [(c.toNat, id)], place := none } })) ∧
    (ch.cause = 0 → pending → s.planesDead = true → needs → exec (.xwait a c) s = .next (takeTrap s (trapOf 0x14 0))) ∧
    (ch.cause ≠ 0 → ch.dlv = false → exec (.xwait a c) s =
      .next (takeTrap (s.setCx (x.setChan c.toNat { ch with dlv := true }))
        (trapOf 0x13 (.ofNat 64 (ch.faddr.toNat % 2 ^ 55 + c.toNat * 2 ^ 56)))))

/-- R40, R184, R186, R187, R189 and R190 (engines), R210: XCOPY queues a command of its channel, and XWAIT waits for
one; that an XWAIT on a pending identifier raises trap 0x14 where no plane is live is log entry 46's. -/
def Obligations.CopiesAreQueuedAndAwaited : Prop :=
  Spec.XcopyEnqueuesACommand ∧ Spec.XwaitWaitsForItsIdentifier

/-- R181, R185 (ordering), R210: a FENCE of an empty mask only retires. Any other commits the strip as a forced one;
where the channels it names hold nothing, the SENDs it names have gone, and every write it names is accepted
(below die scope, and only outside the tile) or performed, it retires; while a named write is still to be
performed it waits; with no live plane it raises trap 0x14 where its scope is die or wider, or, by log entry 46,
where it would wait for a SEND or for a write that no plane has accepted. Which early reads it drops is log
entry 68's. -/
def Obligations.FenceOrdersNamedStreams : Prop :=
  ∀ (s : State) (m : BitVec 13) (p : BitVec 3),
    let x := s.cx
    let named (w : Write) : Prop := m.toNat / 2 ^ w.strm % 2 = 1
    let rest := ∀ k < 4, (x.chan k).cmds = [] ∧ (x.chan k).cause = 0
    let sends := m.toNat / 2 ^ 12 % 2 = 1 ∧ ∃ f ∈ s.fab.flights, f.msg.node = s.node ∧ f.msg.sender = s.cur
    let needs := sends ∨ ∃ w ∈ x.pend ++ x.held, named w ∧ w.carried s.cur = false ∧ w.acc = none
    (m = 0 → ∃ t, exec (.fence m p) s = .next t ∧ OnlyCx s t ∧ WentTo x t.cx x.nextPc ∧
      t.cx = { x with pc := t.cx.pc, cvy := none, wait := none, notice := t.cx.notice }) ∧
    (m ≠ 0 → s.planesDead = true → 3 ≤ p.toNat → exec (.fence m p) s = .next (takeTrap s (trapOf 0x14 0))) ∧
    (m ≠ 0 → s.planesDead = true → p.toNat < 3 → rest → needs → ∃ u,
      exec (.fence m p) s = .next (takeTrap u (trapOf 0x14 0)) ∧ u.cx.held = [] ∧ u.cx.pend = x.pend ++ x.held ∧
        u.mem = s.mem ∧ u.cx.regs = x.regs) ∧
    (m ≠ 0 → s.planesDead = false ∨ (p.toNat < 3 ∧ ¬ needs) → rest →
      (¬ sends →
        (∀ w ∈ x.pend ++ x.held, named w → p.toNat < 3 ∧ w.carried s.cur = false) →
        ∃ t, exec (.fence m p) s = .next t ∧ WentTo x t.cx x.nextPc ∧ t.mem = s.mem ∧ t.cx.held = [] ∧
          t.cx.pend.length = (x.pend ++ x.held).length ∧ (∀ w ∈ t.cx.pend, named w → w.acc ≠ none) ∧
          t.cx.pend.map (fun w => { w with acc := none }) = (x.pend ++ x.held).map (fun w => { w with acc := none }) ∧
          t.cx.strip.forced = true ∧
          (∀ e, e ∈ t.cx.early ↔ e ∈ x.early ∧ m.toNat / 2 ^ e.strm % 2 = 0) ∧
          t.cx = { x with pend := t.cx.pend, held := [], early := t.cx.early, chans := t.cx.chans, strip := t.cx.strip, ckpt := t.cx.ckpt
                          pc := t.cx.pc, cvy := none, wait := none, notice := t.cx.notice }) ∧
      ((∃ w ∈ x.pend ++ x.held, named w ∧ (3 ≤ p.toNat ∨ w.carried s.cur = true)) →
        ∃ t, exec (.fence m p) s = .next t ∧ t.cx.wait = some { kind := .order, instr := .fence m p, marks := [], place := none } ∧
          t.cx.held = [] ∧ t.cx.pend = x.pend ++ x.held ∧ t.cx.regs = x.regs ∧ t.cx.pc = x.pc ∧ t.mem = s.mem))

/-- R205, R206, R210, R356: a SEND to a destination that is none raises trap 0x09 with the word and sends nothing;
any other commits the strip, captures its register and sends a grant request for the slot, for whose reply it
waits; with no live plane it raises trap 0x14. -/
def Sys2Proof.Spec.SendRequestsAGrant : Prop :=
  ∀ (s : State) (v a : BitVec 5) (n : BitVec 2),
    let x := s.cx
    let w := (x.reg a).toNat
    let i : Instr := .send v a n
    let ctx := 2 * (192 * (w / 2 ^ 10 % 2) + 4 * (w / 2 ^ 11 % 64) + w / 2 ^ 17 % 4) + w / 2 ^ 19 % 2
    let legal := w < 2 ^ 22 ∧ w / 2 ^ 20 = n.toNat ∧ w / 2 ^ 11 % 64 ≤ 47 ∧ s.nodeExists (w % 1024) = true
    Issues s [v] v 0 →
    (¬ legal → exec i s = .next (takeTrap s (trapOf 0x09 (x.reg a)))) ∧
    (legal → s.planesDead = true → exec i s = .next (takeTrap s (trapOf 0x14 0))) ∧
    (legal → s.planesDead = false → ∃ t, exec i s = .next t ∧
      t.fab = { s.fab with requests := s.fab.requests ++
        [{ node := s.node, sender := s.cur, asid := x.space.asid, sup := x.sup, dstNode := w % 1024, dst := ctx
           tag := n.toNat }] } ∧
      t.cx.wait = some { kind := .grant, instr := i, marks := [], place := none } ∧ v.toNat ∈ t.cx.strip.captured ∧ t.cx.held = [] ∧
      t.cx.pend = x.pend ++ x.held ∧ t.cx.regs = x.regs ∧ t.cx.vregs = x.vregs ∧ t.cx.pc = x.pc ∧ t.mem = s.mem)

/-- R207, R210, R356: a RECV whose slot holds a message writes the in-shape elements of the one register with the
message's bits, zero where the message has none, and scale bytes with the message's, 127 where it has none; the
slot is then empty. While the slot holds no message it waits; with no live plane it raises trap 0x14. -/
def Sys2Proof.Spec.RecvWritesOneRegister : Prop :=
  ∀ (s : State) (v : BitVec 5) (n : BitVec 2),
    let x := s.cx
    let w := x.width
    Issues s [v] v 0 →
    (s.planesDead = true → exec (.recv v n) s = .next (takeTrap s (trapOf 0x14 0))) ∧
    (s.planesDead = false → ∀ msg, x.slot n.toNat = .full msg → s.fab.waiting = [] → ∃ t, exec (.recv v n) s = .next t ∧
      t.mem = s.mem ∧ t.fab = s.fab ∧ WentTo x t.cx x.nextPc ∧ t.cx.slot n.toNat = .empty ∧
      (∀ k, k ≠ n.toNat → t.cx.slot k = x.slot k) ∧
      (x.vrows ≤ 32 → ∀ reg row, row < 32 → reg ≠ v.toNat → t.cx.vrow reg row = x.vrow reg row) ∧
      (x.zeroShape = false → x.vrows ≤ 32 → ∀ r < x.vrows, r < 2 * x.lanes → ∀ c < x.vcols, (c + 1) * w ≤ 2048 →
        rowField w c (t.cx.vrow v.toNat r) =
          if r < msg.rows then rowField w c ((msg.data.getD r 0).toNat % 2 ^ (msg.cols * msg.width)) else 0) ∧
      (x.zeroShape = false → isBlocked x.et = true → ∀ j < 64, j < x.nblk →
        t.cx.scaleByte v.toNat j = (msg.scales.getD j 127).toNat) ∧
      t.cx.regs = x.regs ∧ t.cx.conds = x.conds ∧ t.cx.fp = x.fp ∧ t.cx.held = [] ∧ t.cx.pend = x.pend ++ x.held) ∧
    (s.planesDead = false → (∀ msg, x.slot n.toNat ≠ .full msg) → ∃ t, exec (.recv v n) s = .next t ∧
      t.cx.wait = some { kind := .recv, instr := .recv v n, marks := [], place := none } ∧ t.cx.regs = x.regs ∧ t.cx.pc = x.pc ∧
      t.cx.vregs = x.vregs ∧ t.mem = s.mem)

/-- R205 to R207, R210, R356: SEND asks for its slot, and RECV takes a message into a register. -/
def Obligations.MessagesAreSentAndReceived : Prop :=
  Spec.SendRequestsAGrant ∧ Spec.RecvWritesOneRegister

/-! ### Tasks and handlers -/

/-- R40, R210, R339: a GSPAWN or GSIG whose address is not a multiple of 128 raises trap 0x04 with it and does
nothing else; any other releases at module scope, which commits the strip as a forced one, and then waits until
the mill takes its request (or, while a write is not yet performed, waits for that first); with no live plane it
raises trap 0x14. -/
def Sys2Proof.Spec.MillRequestsReleaseAndWait : Prop :=
  ∀ (s : State) (r : BitVec 5), ∀ i ∈ [Instr.gspawn r, .gsig r],
    ((s.cx.reg r).toNat % 128 ≠ 0 → exec i s = .next (takeTrap s (trapOf 0x04 (s.cx.reg r)))) ∧
    ((s.cx.reg r).toNat % 128 = 0 →
      (s.planesDead = true → exec i s = .next (takeTrap s (trapOf 0x14 0))) ∧
      (Quiet s → ∃ t, exec i s = .next t ∧ t.cx.wait = some { kind := .mill, instr := i, marks := [], place := none } ∧
        t.cx.strip.forced = true ∧ t.cx.regs = s.cx.regs ∧ t.cx.pc = s.cx.pc ∧ t.mem = s.mem ∧ t.mill = s.mill) ∧
      (s.planesDead = false → (∀ k < 4, (s.cx.chan k).cmds = [] ∧ (s.cx.chan k).cause = 0) →
        (∃ w ∈ s.cx.pend ++ s.cx.held, w.strm < 8) →
        ∃ t, exec i s = .next t ∧ t.cx.wait = some { kind := .order, instr := i, marks := [], place := none } ∧ t.cx.held = [] ∧
          t.cx.pend = s.cx.pend ++ s.cx.held ∧ t.mill = s.mill))

/-- R40, R208, R362: a TEND with nothing of the context under way ends the task: its lanes, bands and slots are
free, its receive slots empty, the level user, and the retirement is on its way to the mill; with accesses under
way it waits, its strip committed and forced. At supervisor level without a task it raises trap 0x01. -/
def Sys2Proof.Spec.TendEndsTheTask : Prop :=
  ∀ s : State,
    let x := s.cx
    let n := tileOf s.cur
    (x.sup = true → x.trap.task = false →
      exec .tend s = .next (takeTrap s (trapOf 0x01 (.ofNat 64 ((encodeNat .tend).getD 0))))) ∧
    (x.sup = false ∨ x.trap.task = true →
      (∀ h, x.task = some h → Quiet s → s.fab.requests = [] → s.fab.waiting = [] → s.fab.replies = [] →
        ∃ t, exec .tend s = .next t ∧ t.cx.task = none ∧ t.cx.lanes = 0 ∧ t.cx.vtype.ill = true ∧ t.cx.mgCount = 0 ∧
          t.cx.sup = false ∧ t.cx.cvy = none ∧ t.cx.wait = none ∧ t.cx.loops = [] ∧ t.cx.ret.entries = [] ∧
          t.cx.trap.task = false ∧ t.cx.trap.cocoon = false ∧ t.cx.held = [] ∧ t.cx.pend = [] ∧
          (∀ k < 4, t.cx.slot k = .empty) ∧
          (∀ b < 4, (t.tileAt n).bands.toList.getD b none ≠ some (.ctx s.cur)) ∧
          (∀ f, ((t.tileAt n).slot f).holder ≠ some (.ctx s.cur)) ∧
          t.mill = { s.mill with ends := s.mill.ends ++ [{ ctx := s.cur, task := h }] } ∧ t.mem = s.mem ∧
          t.cx.regs = x.regs ∧ (∀ c, c ≠ s.cur → t.ctxAt c = s.ctxAt c)) ∧
      (s.planesDead = false → (∀ k < 4, (x.chan k).cause = 0) →
        (x.pend ++ x.held ≠ [] ∨ ∃ k < 4, (x.chan k).cmds ≠ []) →
        ∃ t, exec .tend s = .next t ∧ t.cx.wait = some { kind := .tend, instr := .tend, marks := [], place := none } ∧
          t.cx.task = x.task ∧ t.cx.held = [] ∧ t.cx.pend = x.pend ++ x.held ∧ t.cx.strip.forced = true ∧
          t.mill = s.mill ∧ t.mem = s.mem))

/-- R40, R208, R210, R339, R362: GSPAWN and GSIG release and wait for the mill, and TEND ends the task. -/
def Obligations.TasksRequestAndEnd : Prop :=
  Spec.MillRequestsReleaseAndWait ∧ Spec.TendEndsTheTask

/-- R194, R195, R213, R226, R362, R389: a user interrupt is taken at user level outside a handler, for the lowest
cause pending and enabled: UIEPC, UICAUSE and UIVAL receive the convoy not yet issued, the cause and its value,
act is set, s24 to s31 and the shadow set change places, and the PC is UIVEC; a moult does not hold it up, a
save that is due comes first, and so does a WAIT out of which the task was saved. (That a moult does not hold it
up, and which of the three comes first, is log entry 47's.) UIRET puts the main set back, clears act and goes to
UIEPC; at supervisor level or with act clear it raises trap 0x01. -/
def Obligations.UserInterruptsAndUiret : Prop :=
  ∀ s : State,
    let x := s.cx
    let swapped (y : Context) : Prop :=
      (∀ r : Fin 32, r.val < 24 → y.regs[r] = x.regs[r]) ∧ ∀ k : Fin 8,
        y.regs[24 + k.val]'(by omega) = x.ui.shadow[k] ∧ y.ui.shadow[k] = x.regs[24 + k.val]'(by omega)
    (∀ c : Nat, c < 768 → s.cur = c → x.sup = false → x.ui.act = false → x.task ≠ none → x.start = none →
      x.stopped = false → x.saving = false → x.ended = false → x.qfault = none → x.queue = [] → x.wait = none →
      x.cvy = none → x.rewaits ≠ some x.convoyStart → saveDue s c = false → s.migration = none → s.fab.replies = [] → s.fab.requests = [] → s.fab.waiting = [] →
      ∀ k, 1 ≤ k → k ≤ 4 → (∀ j, 1 ≤ j → j < k → (x.ui.pend &&& x.ui.en).getLsbD (j - 1) = false) →
        (x.ui.pend &&& x.ui.en).getLsbD (k - 1) = true →
        ∃ t, exec (.userInterruptTake c) s = .next t ∧ OnlyCx s t ∧ swapped t.cx ∧ t.cx.pc = x.ui.vec ∧
          t.cx.ui = { x.ui with
            pend := x.ui.pend &&& ~~~(1#4 <<< (k - 1)), epc := x.pc, cause := .ofNat 8 k
            val := x.ui.held.toList.getD (k - 1) 0, act := true, shadow := t.cx.ui.shadow } ∧
          t.cx = { x with regs := t.cx.regs, ui := t.cx.ui, pc := t.cx.pc, strip := t.cx.strip, tally := t.cx.tally }) ∧
    (∀ c < 768, saveDue s c = true ∨ (s.ctxAt c).rewaits = some (s.ctxAt c).convoyStart →
      exec (.userInterruptTake c) s = .next s) ∧
    (x.sup = false → x.ui.act = true → ∃ t, exec .uiret s = .next t ∧ OnlyCx s t ∧ swapped t.cx ∧
      WentTo x t.cx x.ui.epc ∧ t.cx.ui = { x.ui with act := false, shadow := t.cx.ui.shadow } ∧
      t.cx = { x with regs := t.cx.regs, ui := t.cx.ui, pc := t.cx.pc, cvy := none, wait := none
                      notice := t.cx.notice }) ∧
    (x.sup = true ∨ x.ui.act = false →
      exec .uiret s = .next (takeTrap s (trapOf 0x01 (.ofNat 64 ((encodeNat .uiret).getD 0)))))

/-- R56, R267, R311, R355, R388: PREF and NOP only retire; ADJ sets the context's policy; FETCHB forgets the words
the context has fetched; WAIT retires where a cause is pending and enabled, and stalls otherwise, wakeable by
later events alone. -/
def Sys2Proof.Spec.HintsPoliciesAndWait : Prop :=
  ∀ (s : State) (r : BitVec 5) (n : BitVec 12) (p : BitVec 2),
    let x := s.cx
    let only (i : Instr) (f : Context → Context) : Prop :=
      ∃ t, exec i s = .next t ∧ OnlyCx s t ∧ WentTo x t.cx x.nextPc ∧
        t.cx = { f x with pc := t.cx.pc, cvy := none, wait := none, notice := t.cx.notice }
    only (.pref r n) id ∧ only .nop id ∧ only (.adj p) (fun x => { x with cpol := p }) ∧
    only .fetchb (fun x => { x with fetched := [] }) ∧
    (x.ui.pend &&& x.ui.en ≠ 0 → only .wait (fun x => { x with rewaits := none })) ∧
    (x.ui.pend &&& x.ui.en = 0 → exec .wait s =
      .next (s.setCx { x with
        wake := false, rewaits := none, wait := some { kind := .wake, instr := .wait, marks := [], place := none } }))

/-- R81, R210, R267: a DCWB whose blocks all translate as reads commits the strip as a forced one, and retires where
no write of the context to a line of its range is still to be performed, the homes of these lines then
delivering no older word (log entry 14), and otherwise waits; the first block that fails raises its trap and
nothing is done. An IINV waits for every core with the lines of its blocks that translate as a fetch; with no
live plane it raises trap 0x14. That IINV needs a plane is log entry 46's; how the ranges wrap and that no block
gains A is log entry 61's. -/
def Sys2Proof.Spec.CodeMaintenance : Prop :=
  ∀ (s : State) (r : BitVec 5) (n : BitVec 12),
    let x := s.cx
    let blocks := codeBlocks (x.reg r) n
    let place (va : Nat) (p : Place) : Prop := resolve s (x.acc s.cur) .load va = .ok p
    (∀ va cause, va ∈ blocks → resolve s (x.acc s.cur) .load va = .error cause →
      (∀ k, blocks.idxOf va = k → ∀ b ∈ blocks.take k, ∃ p, place b p) →
      exec (.dcwb r n) s = .next (takeTrap s (trapOf cause (.ofNat 64 va)))) ∧
    ((∀ va ∈ blocks, ∃ p, place va p) →
      let writesTo (w : Write) : Prop := ∃ va ∈ blocks, ∃ p, place va p ∧ w.loc / 64 = p.loc / 64
      ((∀ w ∈ x.pend ++ x.held, ¬ writesTo w) → ∃ t, exec (.dcwb r n) s = .next t ∧ WentTo x t.cx x.nextPc ∧
        t.mem = s.mem ∧ t.cx.held = [] ∧ t.cx.pend = x.pend ++ x.held ∧ t.cx.strip.forced = true ∧
        (∀ e, e ∈ t.stale ↔ e ∈ s.stale ∧ ∀ va ∈ blocks, ∀ p, place va p → p.loc / 64 ≠ e.1 / 64) ∧
        t.cx = { x with pend := t.cx.pend, held := [], strip := t.cx.strip, ckpt := t.cx.ckpt, pc := t.cx.pc, cvy := none
                        wait := none, notice := t.cx.notice }) ∧
      (s.planesDead = false → (∃ w ∈ x.pend ++ x.held, writesTo w) → ∃ t, exec (.dcwb r n) s = .next t ∧
        (∃ w, t.cx.wait = some w ∧ w.kind = .dcwb ∧ w.instr = .dcwb r n) ∧ t.cx.pc = x.pc ∧ t.cx.regs = x.regs ∧
        t.mem = s.mem)) ∧
    (s.planesDead = true → exec (.iinv r n) s = .next (takeTrap s (trapOf 0x14 0))) ∧
    (s.planesDead = false → ∃ t marks, exec (.iinv r n) s = .next t ∧ OnlyCx s t ∧
      t.cx = { x with wait := some { kind := .iinv, instr := .iinv r n, marks := marks, place := none } } ∧
      ∀ l, l ∈ marks ↔ l.2 = 0 ∧ ∃ va ∈ blocks, ∃ p, resolve s (x.acc s.cur) .fetch va = .ok p ∧
        isLocalPlace p.loc = false ∧ l.1 = p.loc / 64)

/-- R56, R81, R210, R267, R311, R355, R388: PREF, NOP, ADJ, FETCHB, WAIT, DCWB and IINV; an IINV or DCWB with no
live plane follows log entry 46, and the ranges of both log entry 61. -/
def Obligations.HintsPoliciesAndCodeMaintenance : Prop :=
  Spec.HintsPoliciesAndWait ∧ Spec.CodeMaintenance

/-! ### Traps and system instructions -/

/-- R222: TRAP raises trap 0x12 with its imm12 as TVAL and the next sequential convoy as TEPC, at both levels; with
inh set it is a double trap. (Which policy TSTATUS keeps is log entry 78's reading of R57.) -/
def Obligations.TrapRaisesASoftwareTrap : Prop :=
  ∀ (s : State) (n : BitVec 12),
    let x := s.cx
    (x.trap.inh = false → ∃ t, exec (.trap n) s = .next t ∧ OnlyCx s t ∧
      t.cx = { x with
        trap := { x.trap with
          pp := x.sup, inh := true, wroteRec := false, cause := 0x12, epc := x.nextPc &&& 0x007FFFFFFFFFFFFC
          val := n.setWidth 64, pol := if x.sup then x.trap.pol else x.cpol }
        sup := true, pc := x.trap.vec, cvy := none, wait := none, strip := { x.strip with forced := true }
        tally := t.cx.tally, queue := [] } ∧ CountsTrap x t.cx) ∧
    (x.trap.inh = true → ∃ t, exec (.trap n) s = .next t ∧ OnlyCx s t ∧ t.cx = { x with stopped := true })

/-- R116, R217 to R220, R232, R246: a precise trap saves the level, the cause, its value and the convoy's start,
sets inh, goes to TVEC at supervisor level, and undoes the loop-end test of its convoy; nothing else changes but
what only the handler's return needs. A trap with inh set, or a queued one with a cocoon waiting or with a
record or cocoon that cannot be written, stops the context, and no register changes; a record that was written
before its cocoon failed stays. A queued trap writes its fault record at TFREC, where it has one, and the header
and queue of its fault cocoon at TFREC + 0x2400 under KEYDEF.ckey, sets cocoon, and names in VSTART where its
convoy goes on and in TEPC the oldest convoy that the scalar unit has not issued; the queue's convoys wait for
ERET. (Which convoys have issued behind the fault is log entry 11's, the bytes of the dump and the captured
groups that wait with it log entry 15's, and which policy is kept log entry 78's.) -/
def Obligations.TrapEntryAndDoubleTraps : Prop :=
  ∀ (s : State) (tr : Trap),
    let x := s.cx
    let entered (y : Context) (cause : Nat) (val epc : Word) : Prop :=
      y.trap.pp = x.sup ∧ y.trap.inh = true ∧ y.trap.cause = .ofNat 8 cause ∧ y.trap.val = val ∧
        y.trap.epc = epc &&& 0x007FFFFFFFFFFFFC ∧ y.trap.task = x.trap.task ∧ y.trap.frec = x.trap.frec ∧
        y.trap.vec = x.trap.vec ∧
        y.trap.pol = (if x.sup = true then x.trap.pol else x.cpol) ∧ y.sup = true ∧ y.pc = x.trap.vec ∧ y.cvy = none ∧ y.wait = none ∧
        y.strip = { x.strip with forced := true } ∧ CountsTrap x y ∧ y.queue = []
    (tr.queued = false → x.trap.inh = false →
      OnlyCx s (takeTrap s tr) ∧ entered (takeTrap s tr).cx tr.cause tr.tval x.convoyStart ∧
      (takeTrap s tr).cx.trap.cocoon = x.trap.cocoon ∧ (takeTrap s tr).cx.trap.wroteRec = false ∧
      (takeTrap s tr).cx.loops = (match x.cvy with
        | some v => v.loops0
        | none => x.loops) ∧
      (takeTrap s tr).cx = { x with
        trap := (takeTrap s tr).cx.trap, sup := true, pc := x.trap.vec, cvy := none, wait := none
        strip := { x.strip with forced := true }, loops := (takeTrap s tr).cx.loops
        tally := (takeTrap s tr).cx.tally, queue := [] }) ∧
    (x.trap.inh = true ∨ (tr.queued = true ∧ x.trap.cocoon = true) → ∀ epc rcd dump,
      takeTrapAt s tr epc rcd dump = s.setCx { x with stopped := true }) ∧
    (∀ f, s.cur < 768 → x.qfault = some f → x.stopped = false → (∀ v, x.cvy = some v → isBound v.words = false) →
      let y : Context := { x with
        pc := x.convoyStart, cvy := none, wait := none, qfault := none
        loops := (match x.cvy with
          | some v => v.loops0
          | none => x.loops)
        vsElem := .ofNat 17 f.elem, vsMember := .ofNat 2 f.cvy.idx }
      let s0 := s.setCx y
      let a : Acc := { space := x.space, sup := true, ctx := s.cur }
      let recorded := if f.rcd = [] then some s0 else writeBlock s0 a none x.trap.frec.toNat f.rcd
      let dump := x.captureQueue [] (f.cvy :: x.queue)
      let cocoon (u : State) : List Byte := faultCocoon u y s.cur y.pc dump
      let saved (u : State) : Option State :=
        writeBlock u a (some x.space.ckey.toNat) (x.trap.frec.toNat + 0x2400) (cocoon u)
      let stops := exec (.queuedTrap s.cur) s = .next (s.setCx { x with qfault := none, stopped := true })
      (x.trap.inh = true ∨ x.trap.cocoon = true → stops) ∧
      (recorded = none → stops) ∧
      (x.trap.inh = false → x.trap.cocoon = false → ∀ u, recorded = some u → saved u = none →
        ∃ t, exec (.queuedTrap s.cur) s = .next t ∧ t.mem = u.mem ∧ t.cx = { x with qfault := none, stopped := true } ∧
          ∀ c, c ≠ s.cur → t.ctxAt c = s.ctxAt c) ∧
      (x.trap.inh = false → x.trap.cocoon = false → ∀ u v, recorded = some u → saved u = some v →
        ∃ t, exec (.queuedTrap s.cur) s = .next t ∧ t.mem = v.mem ∧ entered t.cx f.cause f.tval y.pc ∧
          t.cx.trap.cocoon = true ∧ t.cx.trap.wroteRec = !f.rcd.isEmpty ∧ t.cx.redump = dump ∧
          dump.map (fun v => { v with index := [] }) = (f.cvy :: x.queue).map (fun v => { v with index := [] }) ∧
          t.cx = { y with
            trap := t.cx.trap, sup := true, pc := x.trap.vec, strip := t.cx.strip, tally := t.cx.tally
            queue := [], redump := t.cx.redump } ∧
          (∀ c, c ≠ s.cur → t.ctxAt c = s.ctxAt c) ∧
          let field (o n : Nat) : Nat := bytesVal (((cocoon u).drop o).take n)
          field 0x00 4 = 0x4E434F43 ∧ field 0x04 1 = 1 ∧ field 0x05 1 = 0 ∧ field 0x06 2 = s.cur ∧
            field 0x20 8 = f.elem % 2 ^ 17 + f.cvy.idx % 4 * 2 ^ 32 ∧ field 0x28 8 = y.pc.toNat ∧
            field 0x30 1 = x.vrows % 256 ∧ field 0x31 1 = x.lanes % 256 ∧ field 0x32 2 = x.vcols % 65536 ∧
            field 0x34 1 = x.group ∧ field 0x37 1 = (x.queue.length + 1) % 256 ∧
            field 0x38 4 = x.ret.spilled.toNat))

/-- R57, R210, R220, R223, R237, R325: ERET raises trap 0x11 at user level; with no task the context becomes free,
its handler's stores committed (log entry 95); otherwise it returns to the level and the PC that the trap saved,
with inh clear, and a cocoon's convoys issue first, the oldest from VSTART.member; one whose lines need a plane
where none is live raises trap 0x14; a cocoon that is no dump of this part fails the launch with 0x0E, and that
the context then stops is log entry 58's. (That the adjunct policy goes back to the task's is log entry 78's
reading of R57, and the dump's bytes are log entry 15's.) -/
def Obligations.EretReturns : Prop :=
  ∀ s : State,
    let x := s.cx
    (x.sup = false → exec .eret s = .next (takeTrap s (trapOf 0x11 (.ofNat 64 ((encodeNat .eret).getD 0))))) ∧
    (x.sup = true → x.trap.task = false →
      exec .eret s = .next (s.setCx { x with
        pend := x.pend ++ x.held, held := [], sup := false, cvy := none, wait := none, early := [] })) ∧
    (x.sup = true → x.trap.task = true → x.trap.cocoon = false → exec .eret s = .next (s.setCx { x with
      trap := { x.trap with inh := false }, sup := x.trap.pp, pc := x.trap.epc, cpol := if x.trap.pp then x.cpol else x.trap.pol, cvy := none
      queue := [], redump := [], wait := none })) ∧
    (x.sup = true → x.trap.task = true → x.trap.cocoon = true → s.planesDead = true → dumpLeavesTile s = true →
      exec .eret s = .next (takeTrap s (trapOf 0x14 0))) ∧
    (x.sup = true → x.trap.task = true → x.trap.cocoon = true → s.planesDead = false ∨ dumpLeavesTile s = false →
      (∀ vs, reloadDump s = some vs → ∃ t, exec .eret s = .next t ∧ t.mem = (touchDump s).mem ∧
        t.cx.cvy = (vs.head?.map fun v => { v with next := x.trap.epc, idx := x.vsMember.toNat }) ∧
        t.cx.queue = vs.tail.map (fun v => { v with next := x.trap.epc }) ∧
        t.cx = { x with
          trap := { x.trap with inh := false, cocoon := false }, sup := x.trap.pp, pc := x.trap.epc
          cpol := if x.trap.pp then x.cpol else x.trap.pol
          cvy := t.cx.cvy, queue := t.cx.queue, redump := [], wait := none } ∧
        ∀ c, c ≠ s.cur → t.ctxAt c = s.ctxAt c) ∧
      (reloadDump s = none → ∃ t, exec .eret s = .next t ∧ t.mem = (touchDump s).mem ∧ t.cx = { x with stopped := true } ∧
        ∀ l, s.launch x.launchNo = some l → l.failed = none → l.tearing = false →
          t.launch x.launchNo = some { l with failed := some 0x0E }))

/-- R75, R76, R82 to R85, R127, R151, R161, R183 and R192 (engines), R202, R215, R224, R236, R242, R353: what MFS
reads of every register that software can foresee, at the levels that may read it; PhysicalReadings has those
that it cannot; an access that is not permitted raises trap 0x11, or 0x01 for a number without a register. -/
def Sys2Proof.Spec.MfsReadsEveryRegister : Prop :=
  ∀ (s : State) (r : BitVec 5),
    let x := s.cx
    let k := s.coreAt (coreOf s.cur)
    let reads (n : Nat) (v : Word) : Prop := WritesReg s (.mfs r (.ofNat 12 n)) r v
    let nat (v : Nat) : Word := .ofNat 64 v
    let chan (c : Nat) : CopyChan := x.chan c
    let bit (b : Bool) : Nat := b.toNat
    let faults (n cause : Nat) : Prop := exec (.mfs r (.ofNat 12 n)) s =
      .next (takeTrap s (trapOf cause (.ofNat 64 ((encodeNat (.mfs r (.ofNat 12 n))).getD 0))))
    (reads 0x00 (nat (bit x.vtype.ill + 2 * x.vtype.glog.toNat + 8 * bit x.vtype.ta + 16 * bit x.vtype.ix +
        256 * x.vtype.etype.toNat)) ∧
      reads 0x01 (nat x.vrows) ∧ reads 0x02 (nat x.vcols) ∧
      reads 0x03 (nat (x.vsElem.toNat + 2 ^ 32 * x.vsMember.toNat)) ∧ reads 0x04 (nat (2 * x.cap.toNat)) ∧
      reads 0x05 (nat x.lanes) ∧ reads 0x0A (nat (x.fp.rm.toNat + 8 * bit x.fp.ftz + 16 * bit x.fp.sat8)) ∧
      reads 0x0B (x.fp.flags.setWidth 64) ∧ reads 0x0C (x.fp.seed.setWidth 64) ∧ reads 0x0D (x.fp.rqshift.setWidth 64) ∧
      reads 0x10 (nat (x.mgCount + 16 * x.mgFirst)) ∧ reads 0x11 (x.mat.rows.setWidth 64) ∧
      reads 0x12 (x.mat.cols.setWidth 64) ∧ reads 0x13 (x.mat.depth.setWidth 64) ∧
      reads 0x14 (nat (bit x.mat.wide + 2 * x.mat.afmt.toNat + 256 * x.mat.rev.toNat)) ∧
      reads 0x15 (x.mat.flags.setWidth 64) ∧ reads 0x18 x.fp.scoff) ∧
    (∀ c < 4, reads (0x20 + c) ((chan c).done.setWidth 64) ∧ reads (0x24 + c) ((chan c).next.setWidth 64) ∧
      reads (0x28 + c) (nat ((chan c).cause.toNat + 2 ^ 8 * bit (chan c).side + 2 ^ 9 * bit (chan c).dlv +
        2 ^ 32 * (chan c).fid.toNat))) ∧
    (reads 0x2C (x.resthr.setWidth 64) ∧ reads 0x30 x.ui.vec ∧ reads 0x31 (x.ui.cause.setWidth 64) ∧
      reads 0x32 x.ui.epc ∧ reads 0x33 (nat (2 * x.ui.en.toNat + 2 ^ 9 * x.ui.pend.toNat + 2 ^ 63 * bit x.ui.act)) ∧
      reads 0x34 x.ui.val ∧ reads 0x38 (nat (x.ret.entries.length + 2 ^ 32 * x.ret.spilled.toNat)) ∧
      reads 0x39 x.ret.spill ∧ reads 0x40 x.taskseq ∧ reads 0x41 x.taskrec ∧ reads 0x48 (x.ckmask.setWidth 64) ∧
      reads 0x60 0x10 ∧ reads 0x68 (nat (s.fab.map.toNat % 2 ^ 64)) ∧ reads 0x69 (nat (s.fab.map.toNat / 2 ^ 64))) ∧
    (∀ n < 8, reads (0x200 + n) ((k.evsel.toList.getD n 0).setWidth 64)) ∧
    (x.sup = true →
      reads 0x100 x.trap.vec ∧ reads 0x101 (x.trap.cause.setWidth 64) ∧ reads 0x102 x.trap.epc ∧
      reads 0x103 x.trap.val ∧
      reads 0x104 (nat (bit x.trap.pp + 2 * bit x.trap.cocoon + 4 * bit x.trap.inh + 8 * bit x.trap.wroteRec +
        16 * bit x.trap.task)) ∧
      reads 0x105 x.trap.frec ∧ reads 0x110 x.space.ptroot ∧ reads 0x111 (x.space.asid.setWidth 64) ∧
      reads 0x112 (nat (x.space.dkey.toNat + 2 ^ 16 * x.space.ckey.toNat)) ∧
      reads 0x120 (nat (x.cap.toNat + 2 ^ 8 * bit x.evict)) ∧ reads 0x121 (k.preemptd.setWidth 64) ∧
      reads 0x122 (k.preemptwin.setWidth 64) ∧ reads 0x130 (k.chkseed.setWidth 64) ∧
      reads 0x140 (nat (x.saveLen.toNat + 2 ^ 32 * x.saveKind.toNat))) ∧
    (x.sup = false → ∀ n ∈ privilegedNumbers, faults n 0x11) ∧ ∀ n, Unassigned n → faults n 0x01

/-- R50, R51, R54, R58 to R61, R290: what MFS reads of STRIMB, ADJCNT, STRSTAT, CYCLE (R18) and EVCNT (R398). The
demands, the nodes that are over, and how far a clock or a count has gone are physical; the demands stay in
their range, a clock does not run back, an adjunct count stands while the context has no task or no adjunct of
its kind may run, the other fields are the string's and the tile's own, and a counter of traps or of user
interrupts counts them exactly. -/
def Sys2Proof.Spec.PhysicalReadings : Prop :=
  ∀ (s : State) (r : BitVec 5), s.cur < 768 →
    let x := s.cx
    let tile := tileOf s.cur
    let g := s.strAt (strOf s.cur)
    let core := coreOf s.cur
    let reads (n : Nat) (p : Nat → State → Prop) : Prop :=
      ∃ t v, exec (.mfs r (.ofNat 12 n)) s = .next t ∧ Retired x t.cx ∧ p v.toNat t ∧
        (∀ q, t.cx.reg q = if q = 0 then 0 else if q = r then v else x.reg q) ∧
        t = { s with ctxs := t.ctxs, cores := t.cores, strs := t.strs, tick := t.tick } ∧
        (∀ c, c ≠ s.cur → t.ctxAt c = s.ctxAt c) ∧
        t.cx = { x with regs := t.cx.regs, adjV := t.cx.adjV, adjM := t.cx.adjM, pc := t.cx.pc, cvy := none, wait := none
                        notice := t.cx.notice }
    let permits (n : Nat) (b : Nat) : Prop := ∀ i < 8, (s.ctxAt (n * 8 + i)).task ≠ none →
      (s.ctxAt (n * 8 + i)).start = none → (s.ctxAt (n * 8 + i)).cpol.getLsbD b = true
    (g.step ≤ 2 →
      reads 0x50 (fun v _ => (∀ k < 3, v / 2 ^ (16 * k) % 2 ^ 16 ≤ 512 ∨ 65024 ≤ v / 2 ^ (16 * k) % 2 ^ 16) ∧
        v / 2 ^ 48 = max g.step (min g.cap 2)) ∧
      reads 0x52 (fun v _ =>
        v % 4 = max g.step (min g.cap 2) ∧ v / 4 % 4 = min g.cap 2 ∧ v / 2 ^ 4 % 16 = g.adjreq.toNat ∧
        (∀ p < 4, v / 2 ^ (8 + p) % 2 = 1 ↔ g.adjreq.getLsbD p = true ∧
          (permits (strOf s.cur * 4 + p) 0 ∨ permits (strOf s.cur * 4 + p) 1)) ∧
        (v / 2 ^ 15 % 2 = 1 ↔ g.floor = true) ∧ v / 2 ^ 16 % 4 = tile % 4 ∧
        (v / 2 ^ 18 % 2 = 1 ↔ permits tile 0) ∧ (v / 2 ^ 19 % 2 = 1 ↔ permits tile 1) ∧
        v / 2 ^ 20 % 4 = x.cpol.toNat ∧ v / 2 ^ 22 % 4 = 0 ∧ v / 2 ^ 24 = strOf s.cur)) ∧
    reads 0x51 (fun v t => v = t.cx.adjV.toNat + 2 ^ 32 * t.cx.adjM.toNat ∧
      (x.task = none ∨ ¬ (g.adjreq.getLsbD (tile % 4) = true ∧ permits tile 1) → t.cx.adjV = x.adjV) ∧
      (x.task = none ∨ ¬ (g.adjreq.getLsbD (tile % 4) = true ∧ permits tile 0) → t.cx.adjM = x.adjM)) ∧
    reads 0x58 (fun v t => g.clock ≤ (t.strAt (strOf s.cur)).clock ∧
      v = ((s.coreAt core).cycle0.toNat + (t.strAt (strOf s.cur)).clock) % 2 ^ 64) ∧
    ∀ n < 8,
      let sel := (s.coreAt core).evsel.toList.getD n 0
      let old := ((s.coreAt core).evcnt.toList.getD n 0).toNat
      let source := sel.toNat % 256
      let counts := sel.getLsbD 8 = true ∧ 1 ≤ source ∧ source ≤ 9
      let count (t : Tally) : Nat :=
        if source = 8 then t.interrupts else if sel.getLsbD 9 = true then t.userTraps else t.userTraps + t.supTraps
      reads (0x208 + n) (fun v t =>
        (¬ counts → v = old) ∧
        (counts → source = 7 ∨ source = 8 →
          let now := count (s.ctxAt (2 * core)).tally + count (s.ctxAt (2 * core + 1)).tally
          v = (old + (now - (s.coreAt core).seen.toList.getD n 0)) % 2 ^ 64 ∧
            (t.coreAt core).seen.toList.getD n 0 = now))

/-- R75, R76, R82 to R85, R127, R151, R161, R183 and R192 (engines), R202, R215, R224, R242, R353: what MFS reads. -/
def Obligations.MfsReadsItsRegister : Prop :=
  Spec.MfsReadsEveryRegister ∧ Spec.PhysicalReadings

/-- R8, R82 to R85, R127, R151, R161, R192 (engines), R215, R224, R242, R290, R353: what MTS writes: each defined
field at its position, reserved bits ignored, rounding modes 6 and 7 and caps out of range leaving their field,
seeds never 0; nothing else changes; an access that is not permitted raises its trap and changes nothing. -/
def Obligations.MtsWritesItsFields : Prop :=
  ∀ (s : State) (r : BitVec 5),
    let x := s.cx
    let v := x.reg r
    let core := coreOf s.cur
    let k := s.coreAt core
    let writes (n : Nat) (f : Context) : Prop :=
      ∃ t, exec (.mts r (.ofNat 12 n)) s = .next t ∧ OnlyCx s t ∧ Retired x t.cx ∧
        t.cx = { f with pc := t.cx.pc, cvy := none, wait := none, notice := t.cx.notice }
    let writesCore (n : Nat) (f : Core) : Prop :=
      ∃ t, exec (.mts r (.ofNat 12 n)) s = .next t ∧ Retired x t.cx ∧ t.coreAt core = { f with seen := (t.coreAt core).seen } ∧
        (∀ c, c ≠ core → t.coreAt c = s.coreAt c) ∧ t = { s with ctxs := t.ctxs, cores := t.cores } ∧
        t.cx = { x with pc := t.cx.pc, cvy := none, wait := none, notice := t.cx.notice }
    let faults (n cause : Nat) : Prop := exec (.mts r (.ofNat 12 n)) s =
      .next (takeTrap s (trapOf cause (.ofNat 64 ((encodeNat (.mts r (.ofNat 12 n))).getD 0))))
    (writes 0x03 { x with vsElem := v.extractLsb' 0 17, vsMember := v.extractLsb' 32 2 } ∧
      writes 0x0A { x with fp := { x.fp with
        rm := if v.toNat % 8 < 6 then v.extractLsb' 0 3 else x.fp.rm, ftz := v.getLsbD 3, sat8 := v.getLsbD 4 } } ∧
      writes 0x0B { x with fp := { x.fp with flags := v.extractLsb' 0 6 } } ∧
      writes 0x0C { x with fp := { x.fp with seed := if v.toNat % 2 ^ 32 = 0 then 1 else v.extractLsb' 0 32 } } ∧
      writes 0x0D { x with fp := { x.fp with rqshift := v.extractLsb' 0 8 } } ∧
      writes 0x11 { x with mat := { x.mat with rows := v.extractLsb' 0 7 } } ∧
      writes 0x12 { x with mat := { x.mat with cols := v.extractLsb' 0 8 } } ∧
      writes 0x13 { x with mat := { x.mat with depth := v.extractLsb' 0 12 } } ∧
      writes 0x14 { x with mat := { x.mat with
        wide := v.getLsbD 0, afmt := v.extractLsb' 1 2, rev := v.extractLsb' 8 8 } } ∧
      writes 0x15 { x with mat := { x.mat with flags := v.extractLsb' 0 5 &&& 0x1D } } ∧
      writes 0x18 { x with fp := { x.fp with scoff := v } } ∧
      writes 0x2C { x with resthr := v.extractLsb' 0 32 } ∧
      writes 0x30 { x with ui := { x.ui with vec := v &&& 0x007FFFFFFFFFFFFC } } ∧
      writes 0x33 { x with ui := { x.ui with en := v.extractLsb' 1 4 } } ∧
      writes 0x39 { x with ret := { x.ret with spill := v &&& 0x007FFFFFFFFFFFF8 } } ∧
      writes 0x48 { x with ckmask := v.extractLsb' 0 33 &&& 0x1FFFFFFFE }) ∧
    (x.sup = true →
      writes 0x100 { x with trap := { x.trap with vec := v &&& 0x007FFFFFFFFFFFFC } } ∧
      writes 0x101 { x with trap := { x.trap with cause := v.extractLsb' 0 8 } } ∧
      writes 0x102 { x with trap := { x.trap with epc := v &&& 0x007FFFFFFFFFFFFC } } ∧
      writes 0x103 { x with trap := { x.trap with val := v } } ∧
      writes 0x104 { x with trap := { x.trap with pp := v.getLsbD 0, inh := v.getLsbD 2 } } ∧
      writes 0x105 { x with trap := { x.trap with frec := v &&& 0x007FFFFFFFFF8000 } } ∧
      writes 0x110 { x with space := { x.space with ptroot := v &&& 0x00000FFFFFFF0000 } } ∧
      writes 0x111 { x with space := { x.space with asid := v.extractLsb' 0 16 } } ∧
      writes 0x112 { x with space := { x.space with dkey := v.extractLsb' 0 12, ckey := v.extractLsb' 16 12 } } ∧
      writes 0x120 (if 1 ≤ v.toNat % 32 ∧ v.toNat % 32 ≤ 16 then { x with cap := v.extractLsb' 0 5 } else x) ∧
      writes 0x140 x ∧
      writesCore 0x121 { k with preemptd := v.extractLsb' 0 5 } ∧
      writesCore 0x122 { k with preemptwin := v.extractLsb' 0 16 } ∧
      writesCore 0x130 { k with chkseed := if v.toNat % 2 ^ 16 = 0 then 1 else v.extractLsb' 0 16 } ∧
      (∀ n < 8, coreCounts (k.evsel.toList.getD n 0) = false →
        writesCore (0x200 + n) { k with evsel := k.evsel.setIfInBounds n (v.extractLsb' 0 10) }) ∧
      (∀ n < 8, ∃ t, exec (.mts r (.ofNat 12 (0x200 + n))) s = .next t ∧ Retired x t.cx ∧
        (t.coreAt core).evsel = k.evsel.setIfInBounds n (v.extractLsb' 0 10) ∧
        ∀ m, m ≠ n → (t.coreAt core).evcnt.toList.getD m 0 = k.evcnt.toList.getD m 0) ∧
      ∀ n < 8, writesCore (0x208 + n) { k with evcnt := k.evcnt.setIfInBounds n v }) ∧
    (x.sup = false → ∀ n ∈ privilegedNumbers, faults n 0x11) ∧
    (∀ n ∈ readableNumbers, faults n (if x.sup = true then 0x11 else 0x01)) ∧
    (x.sup = false → ∀ n ∈ counterNumbers, faults n 0x01) ∧ ∀ n, Unassigned n → faults n 0x01

/-- R175, R210, R214, R236, R237, R238, R325: CSAVE, CLOAD and TLBINV raise trap 0x11 at user level. At supervisor
level TLBINV releases at system scope and then waits for every target, or raises trap 0x14 with no live plane; a
CSAVE without an interrupted user task, and a CLOAD onto a task, raise trap 0x0E, and a base that is no multiple
of 1 MiB trap 0x04; a CSAVE whose cocoon is written takes the task off the context; a CLOAD whose cocoon is read
puts its task on, with TEPC at its PC and its length and kind in CTXSAVE, and goes on. (That CLOAD counts the
context's own lanes is log entry 66's, that a header's lanes are taken as at most 16 log entry 67's; the cap of
16 after CSAVE, and the entry that the mill keeps of its task, are the model's own, log entries 66 and 67.) -/
def Obligations.SavesLoadsAndInvalidations : Prop :=
  ∀ (s : State) (r : BitVec 5) (k : BitVec 2),
    let x := s.cx
    let va := x.reg r
    (x.sup = false → ∀ i ∈ [Instr.csave r, .cload r, .tlbinv r k],
      exec i s = .next (takeTrap s (trapOf 0x11 (.ofNat 64 ((encodeNat i).getD 0))))) ∧
    (x.sup = true →
      (s.planesDead = true → exec (.tlbinv r k) s = .next (takeTrap s (trapOf 0x14 0))) ∧
      (Quiet s → ∃ t, exec (.tlbinv r k) s = .next t ∧ t.mem = s.mem ∧ t.tlb = s.tlb ∧ t.cx.regs = x.regs ∧
        t.cx.pc = x.pc ∧ t.cx.wait = some { kind := .tlbinv, instr := .tlbinv r k, marks := [], place := none }) ∧
      (x.trap.task = false ∨ x.trap.pp = true →
        exec (.csave r) s = .next (takeTrap s (trapOf 0x0E 0x4000000000000000))) ∧
      (x.trap.task = true → x.trap.pp = false → va.toNat % 2 ^ 20 ≠ 0 →
        exec (.csave r) s = .next (takeTrap s (trapOf 0x04 va))) ∧
      (x.trap.task = true → exec (.cload r) s = .next (takeTrap s (trapOf 0x0E 0x4000000000000000))) ∧
      (x.trap.task = false → va.toNat % 2 ^ 20 ≠ 0 → exec (.cload r) s = .next (takeTrap s (trapOf 0x04 va))) ∧
      (x.trap.task = true → x.trap.pp = false → va.toNat % 2 ^ 20 = 0 → x.trap.cocoon = false → s.planesDead = false →
        extentFault s (x.saverAcc s.cur) x.space.ckey.toNat va.toNat (cocoonLength (bodyAreas x none)) = none →
        x.pend ++ x.held = [] → x.channelsRest = true → ∀ u h, x.task = some h →
        saveTask (forceCommit s) 2 va.toNat x.trap.epc none = .ok u →
        ∃ t, exec (.csave r) s = .next t ∧ t.mem = u.mem ∧ t.cx.task = none ∧ t.cx.trap.task = false ∧ t.cx.lanes = 0 ∧
          t.cx.mgCount = 0 ∧ t.cx.cap = 16 ∧ t.cx.regs = x.regs ∧ t.cx.sup = true ∧ t.cx.pc = x.nextPc ∧
          t.cx.saveKind = 2 ∧ t.mill.saved = s.mill.saved ++
            [{ ctx := s.cur, task := h, seq := x.taskseq, lanes := x.lanes, space := x.space, whole := false
               flagged := x.flaggedScales none, inWait := x.rewaits.isSome }]) ∧
      (x.trap.task = false → va.toNat % 2 ^ 20 = 0 → s.planesDead = false → ∀ header c u,
        readBlock s (x.saverAcc s.cur) (some x.space.ckey.toNat) va.toNat 256 = .ok header → headerFault header = none →
        let v := touchBlock s (x.saverAcc s.cur) .load (some x.space.ckey.toNat) va.toNat 256
        parkedElsewhere header s.cur = false → readCocoon v (x.saverAcc s.cur) x.space.ckey.toNat va.toNat = .ok c →
        min (leAt c.header 0x31 1) 16 ≤ x.lanes + s.freeLanes s.cur →
        adoptTask c x.nextPc (touchCocoon v (x.saverAcc s.cur) x.space.ckey.toNat va.toNat header) = .ok u →
        ∃ t, exec (.cload r) s = .next t ∧ t.mem = u.mem ∧ t.cx.pc = x.nextPc ∧ t.cx.task ≠ none ∧
          t.cx.trap.task = true ∧ t.cx.trap.pp = false ∧
          t.cx.saveLen.toNat = leAt c.header 0x10 4 ∧ t.cx.saveKind.toNat = leAt c.header 5 1 % 16 ∧
          t.cx.trap.epc = leWord c.header 0x28 &&& 0x007FFFFFFFFFFFFC ∧ t.cx.sup = true))

/-! ### Events: waits that end -/

/-- R77, R175, R185 and R188 (ordering), R189 (engines), R226, R267, R319, R320, R323, R361, R388, R389: a wait that
can end ends, and its instruction retires or goes on: WAIT at an event, XWAIT when its identifier is done, DCWB
when its writes are performed, IINV and TLBINV when what they remove is gone from every cache, a FENCE or a
release when what it orders is performed: an AMO or a CAS then performs its atomic, and a GSPAWN, a GSIG or a
TLBINV goes on to wait for the mill or for its targets; and a VSHAPE, with the rows that it wanted when its wait
began, when a lane is free. A victim of a notice that is to be saved goes on from none of the waits that R226
names, and no user interrupt breaks them off. (When a TLBINV's targets are done is log entry 62's reading, that
one after which no entry is left that an edit of the access tables affects ends that edit log entry 80's, which
early reads a wait's end drops log entry 68's, and that VSTART is 0 behind a grant log entry 85's.) A SEND that
waits for its reply where no plane is live raises trap 0x14. -/
def Sys2Proof.Spec.WaitsEnd : Prop :=
  ∀ (s : State) (c : Nat) (i : Instr) (ms : List (Nat × BitVec 32)), c < 768 →
    let x := s.ctxAt c
    (saveDue s c = true → ∀ ok, ∀ j ∈ [Instr.waitWake c, .xwaitRetire c, .xcopyEnqueue c, .recvSlotFull c, .grantReply c ok,
      .fenceWaitEnd c, .vshapeLaneGrant c, .userInterruptTake c], exec j s = .next s) ∧
    (s.planesDead = true → saveDue s c = false → x.trap.inh = false → ∀ v a n ok, WaitsIn s c .grant (.send v a n) ms →
      ∃ t, exec (.grantReply c ok) s = .next t ∧ (t.ctxAt c).trap.cause = 0x14 ∧
        (t.ctxAt c).trap.epc = x.convoyStart &&& 0x007FFFFFFFFFFFFC ∧ (t.ctxAt c).pc = x.trap.vec ∧ t.mem = s.mem ∧
        t.fab.flights = s.fab.flights) ∧
    (Runs s → saveDue s c = false →
    (WaitsIn s c .wake i ms → x.wake = true ∨ x.ui.pend &&& x.ui.en ≠ 0 →
      ∃ t, exec (.waitWake c) s = .next t ∧ RetiresIn s t c) ∧
    (∀ k id, WaitsIn s c .xwait i ((k, id) :: ms) → (x.chan k).cause = 0 →
      ¬ (id - (x.chan k).done - 1).toNat < ((x.chan k).next - (x.chan k).done - 1).toNat →
      ∃ t, exec (.xwaitRetire c) s = .next t ∧ RetiresIn (s.setCtx c { x with early := [] }) t c) ∧
    (WaitsIn s c .dcwb i ms → (∀ w ∈ x.pend, ∀ m ∈ ms, w.loc / 64 ≠ m.1) →
      ∃ t, exec (.dcwbComplete c) s = .next t ∧ RetiresIn s t c) ∧
    (WaitsIn s c .iinv i ms → ∃ t, exec (.iinvComplete c) s = .next t ∧ RetiresIn { s with cores := t.cores } t c ∧
      (∀ n loc, tabFind (t.coreAt n).icache loc =
        if ∃ m ∈ ms, loc / 64 = m.1 then none else tabFind (s.coreAt n).icache loc) ∧
      ∀ n, t.coreAt n = { s.coreAt n with icache := (t.coreAt n).icache }) ∧
    (∀ r k, WaitsIn s c .tlbinv (.tlbinv r k) ms → targetsDone s (x.dropsOf r k) = true →
      ∃ t, exec (.tlbinvComplete c) s = .next t ∧ 
        RetiresIn { s with tlb := t.tlb, tablesOld := t.tablesOld } t c ∧ (s.tablesOld = none → t.tablesOld = none) ∧
        (∀ old, s.tablesOld = some old → ((∃ e ∈ t.tlb, e.affected s old = true) → t.tablesOld = some old) ∧
          ((∀ e ∈ t.tlb, e.affected s old = false) → t.tablesOld = none)) ∧
        ∀ e, e ∈ t.tlb ↔ e ∈ s.tlb ∧ ¬ removes k.toNat (x.reg r) x.space.asid e) ∧
    (AtRest s c →
      let kept (m : Nat) : List EarlyRead := x.early.filter fun e => !bitOf m e.strm
      (∀ m p, WaitsIn s c .order (.fence m p) [] → ∃ t, exec (.fenceWaitEnd c) s = .next t ∧
        RetiresIn (s.setCtx c { x with early := kept m.toNat }) t c) ∧
      (∀ (a b : BitVec 5) (sc : BitVec 3) (u : BitVec 2) (p : Place), WaitsAt s c .order (.stRel a b sc u) [] (some p) →
        ∃ t, exec (.fenceWaitEnd c) s = .next t ∧
          RetiresIn (s.setCtx c { x with
            early := kept 0x1FFF
            pend := [{ p.write 0 (valBytes (2 ^ u.toNat) (x.reg b).toNat) with loose := true }] }) t c) ∧
      (∀ (d a b : BitVec 5) (sc : BitVec 3) (v : BitVec 1) (p : Place) (j : Instr) (new : Option Nat),
        let n := 2 ^ (2 + v.toNat)
        let u := { s with cur := c }.setCx { x with early := kept 0x1FFF, wait := none }
        let old := bytesVal (fetchBytes s.keys s.mem p.loc p.key p.enc n)
        WaitsAt s c .order j [] (some p) →
        (j, new) ∈ atomicResults d a b sc v old ((x.reg b).toNat % 2 ^ (8 * n)) ((x.reg d).toNat % 2 ^ (8 * n)) →
        x.held = [] → arrivesLast s c (p.write 0 (zeros n)) = true → readsPoison s x p n = false →
        ∃ t, exec (.fenceWaitEnd c) s = .next t ∧ WentTo x (t.ctxAt c) x.nextPc ∧
          (∀ r, (t.ctxAt c).reg r = if r = 0 then 0 else if r = d then .ofNat 64 old else x.reg r) ∧
          (new = none → t.mem = s.mem ∧ t.mill = s.mill) ∧
          (∀ y, new = some y → t.mem = (performWrite u c (p.write 0 (valBytes n y))).mem ∧
            t.mill = (performWrite u c (p.write 0 (valBytes n y))).mill ∧
            (Uncounted s c p.cls → t.mem = putBytes s.keys s.mem p.loc p.key p.enc (valBytes n y) ∧ t.mill = s.mill)) ∧
          (∀ d, d ≠ c → t.ctxAt d = s.ctxAt d) ∧ (∀ e ∈ (t.ctxAt c).early, e ∈ x.early) ∧
          t.ctxAt c = { x with regs := (t.ctxAt c).regs, early := (t.ctxAt c).early, pc := (t.ctxAt c).pc, cvy := none
                               wait := none, notice := (t.ctxAt c).notice }) ∧
      (∀ r, ∀ j ∈ [Instr.gspawn r, .gsig r], WaitsIn s c .order j [] → exec (.fenceWaitEnd c) s =
        .next (s.setCtx c { x with early := kept 0x1FFF, wait := some { kind := .mill, instr := j, marks := [], place := none } })) ∧
      (∀ r k, WaitsIn s c .order (.tlbinv r k) [] → exec (.fenceWaitEnd c) s =
        .next (s.setCtx c { x with early := kept 0x1FFF, wait := some { kind := .tlbinv, instr := .tlbinv r k, marks := [], place := none } }))) ∧
    (∀ (d a b e : BitVec 5) (g : BitVec 2) (ta ix : BitVec 1) asked k,
      WaitsIn s c .lanes (.vshape d a b e g ta ix) ((asked, k) :: ms) → asked ≠ 0 →
      x.lanes + (s.ctxAt (siblingOf c)).lanes < 16 →
      let want := min asked 32
      let lanes := min ((want + 1) / 2) (16 - (s.ctxAt (siblingOf c)).lanes)
      ∃ t, exec (.vshapeLaneGrant c) s = .next t ∧ t = s.setCtx c (t.ctxAt c) ∧ (t.ctxAt c).lanes = lanes ∧
        (t.ctxAt c).vrows = min want (2 * lanes) ∧ (t.ctxAt c).vcols = min (x.reg b).toNat (2048 / ewidth e.toNat) ∧
        (t.ctxAt c).vtype = { ill := false, glog := g, ta := ta == 1, ix := ix == 1, etype := e } ∧
        (t.ctxAt c).pc = x.nextPc ∧ (t.ctxAt c).wait = none ∧ (t.ctxAt c).vsElem = 0 ∧ (t.ctxAt c).vsMember = 0 ∧
        ∀ n, (t.ctxAt c).reg n = if n = 0 then 0
          else if n = d then .ofNat 64 ((t.ctxAt c).vcols * 2 ^ 32 + (t.ctxAt c).vrows) else x.reg n))

/-- R40, R187 (engines), R205 to R207, R227, R238: a TEND whose accesses are all performed ends its task, an XCOPY
that finds room takes its identifier, a granted SEND sends its message and one that is refused raises trap 0x09,
a RECV takes the message that has come, and a CLOAD whose lanes are free goes on, its cocoon read and checked
anew (log entry 97). -/
def Sys2Proof.Spec.WaitingCommandsGoOn : Prop :=
  ∀ (s : State) (c : Nat) (ms : List (Nat × BitVec 32)), c < 768 → Runs s → saveDue s c = false →
    let x := s.ctxAt c
    (∀ i h, WaitsIn s c .tend i ms → x.task = some h → AtRest s c →
      ∃ t, exec (.tendWaitEnd c) s = .next t ∧ (t.ctxAt c).task = none ∧ (t.ctxAt c).lanes = 0 ∧
        (t.ctxAt c).trap.task = false ∧ (t.ctxAt c).sup = false ∧
        t.mill = { s.mill with ends := s.mill.ends ++ [{ ctx := c, task := h }] } ∧ t.mem = s.mem) ∧
    (∀ (d a b : BitVec 5) (k : BitVec 2) (n : BitVec 1) (l : BitVec 5), WaitsIn s c .room (.xcopy d a b k n l) ms →
      (x.chan k.toNat).cause = 0 → (x.chan k.toNat).cmds.length < 16 →
      ∃ t, exec (.xcopyEnqueue c) s = .next t ∧ ((t.ctxAt c).chan k.toNat).next = (x.chan k.toNat).next + 1 ∧
        (∀ r, (t.ctxAt c).reg r = if r = 0 then 0 else if r = d then (x.chan k.toNat).next.setWidth 64 else x.reg r) ∧
        (t.ctxAt c).wait = none ∧ (t.ctxAt c).pc = x.nextPc ∧ t = s.setCtx c (t.ctxAt c)) ∧
    (∀ (v a : BitVec 5) (n : BitVec 2) (ok : Bool), WaitsIn s c .grant (.send v a n) ms →
      (({ node := s.node, sender := c, asid := x.space.asid, sup := x.sup, dstNode := (x.reg a).toNat % 1024
          dst := destContext (x.reg a).toNat, tag := n.toNat }, ok) : GrantReq × Bool) ∈ s.fab.replies →
      ∃ t, exec (.grantReply c ok) s = .next t ∧ t.fab.replies.length + 1 = s.fab.replies.length ∧ t.mem = s.mem ∧
        (ok = true → ∃ f, t.fab.flights = s.fab.flights ++ [f] ∧ f.dstNode = (x.reg a).toNat % 1024 ∧
          f.dst = destContext (x.reg a).toNat ∧ f.tag = n.toNat ∧
          (let v := f.dstNode * 4096 + f.dst / 2 * 8 + f.dst % 2 * 4 + f.tag
           f.plane = s.fab.map.toNat / 4 ^ (v % 64 ^^^ v / 64 % 64 ^^^ v / 2 ^ 12 % 64 ^^^ v / 2 ^ 18 % 64) % 4) ∧ f.msg.rows = x.vrows ∧ f.msg.cols = x.vcols ∧
          f.msg.width = x.width ∧ f.msg.node = s.node ∧ f.msg.sender = c ∧
          (∀ r < x.vrows, f.msg.data.getD r 0 = .ofNat 2048 (x.vrow v.toNat r % 2 ^ (x.vcols * x.width))) ∧
          WentTo x (t.ctxAt c) x.nextPc) ∧
        (ok = false → x.trap.inh = false → (t.ctxAt c).trap.cause = 0x09 ∧ (t.ctxAt c).trap.val = x.reg a ∧
          (t.ctxAt c).pc = x.trap.vec ∧ t.fab.flights = s.fab.flights)) ∧
    (∀ (v : BitVec 5) (n : BitVec 2) (msg : Message), WaitsIn s c .recv (.recv v n) ms → x.slot n.toNat = .full msg →
      s.fab.waiting = [] →
      ∃ t, exec (.recvSlotFull c) s = .next t ∧ (t.ctxAt c).slot n.toNat = .empty ∧ WentTo x (t.ctxAt c) x.nextPc ∧
        (t.ctxAt c).regs = x.regs ∧ t.mem = s.mem ∧
        (x.zeroShape = false → x.vrows ≤ 32 → ∀ r < x.vrows, r < 2 * x.lanes → ∀ k < x.vcols,
          (k + 1) * x.width ≤ 2048 → rowField x.width k ((t.ctxAt c).vrow v.toNat r) =
            if r < msg.rows then rowField x.width k ((msg.data.getD r 0).toNat % 2 ^ (msg.cols * msg.width))
            else 0)) ∧
    (∀ r, WaitsIn s c .cload (.cload r) ms →
      let u := { s with cur := c }.setCtx c { x with wait := none }
      let a := x.saverAcc c
      let va := (x.reg r).toNat
      let read := touchBlock u a .load (some x.space.ckey.toNat) va 256
      ∀ header k v, readBlock u a (some x.space.ckey.toNat) va 256 = .ok header → headerFault header = none →
        parkedElsewhere header c = false → readCocoon read a x.space.ckey.toNat va = .ok k →
        min (leAt k.header 0x31 1) 16 ≤ x.lanes + u.freeLanes c →
        adoptTask k x.nextPc (touchCocoon read a x.space.ckey.toNat va header) = .ok v →
        ∃ t, exec (.cloadLaneGrant c) s = .next t ∧ t = { v with cur := s.cur } ∧ (t.ctxAt c).task ≠ none ∧
          (t.ctxAt c).pc = x.nextPc ∧ (t.ctxAt c).trap.task = true)

/-- R40, R77, R175, R185 (ordering), R187 and R189 (engines), R206, R207, R227, R238, R267, R388: every wait that
can end ends, with the effect that its instruction waited for; that an AMO, CAS or ST release which waited acts
at the place that its first check gave, with no second check, is log entry 59's (DEDUCED), that a SEND which
waits with no live plane raises trap 0x14 log entry 46's, the end of a TLBINV wait log entry 62's, and the lanes
that a CLOAD counts log entry 66's. -/
def Obligations.WaitsEndAndGoOn : Prop :=
  Spec.WaitsEnd ∧ Spec.WaitingCommandsGoOn

/-! ### Events: writes, copies, messages and planes -/

/-- R44, R181, R182 and R183 (ordering), R361: a committed write that nothing must precede is performed at its home
and leaves its context's list, the words it replaces staying for fetches (log entry 14; what it changes first
where it counts for a replay, WritesOfALaunchAreCounted states: R250, R252); the notification of a VCAPP whose
items are performed raises user interrupt 0x02 at its target. -/
def Sys2Proof.Spec.WritesArePerformed : Prop :=
  ∀ (s : State) (c : Nat), c < 768 →
    let x := s.ctxAt c
    (∀ n w, x.pend[n]? = some w → mayPerform s c n = true →
      ∀ i ∈ [Instr.bufferedWritePerform c n, .unheldWritePerform c n],
        let u := countWrite s x.launchNo w
        ∃ t, exec i s = .next t ∧ t.mem = putWrite s.keys u.mem w ∧ t.mill = u.mill ∧ (t.ctxAt c).pend = x.pend.eraseIdx n ∧
          (∀ e ∈ (t.ctxAt c).early, e ∈ x.early) ∧
          t = { s.setCtx c { x with pend := x.pend.eraseIdx n, early := (t.ctxAt c).early } with
                mem := t.mem, mill := t.mill, tlb := t.tlb, poison := t.poison, plain := t.plain, stale := t.stale } ∧
          (∀ loc, ∀ o ∈ tabGet [] s.stale loc, o ∈ tabGet [] t.stale loc) ∧ (w.dirties s.node = false → t.stale = s.stale) ∧
          (Uncounted s c w.cls → t.mem = putWrite s.keys s.mem w ∧ t.mill = s.mill ∧ t.tlb = s.tlb ∧
            (Memory.wf s.mem = true → w.enc = false → w.nib = none →
              (∀ k < w.bytes.length, memRead t.mem (w.loc + k) = w.bytes.getD k 0) ∧
              ∀ a, ¬ (w.loc ≤ a ∧ a < w.loc + w.bytes.length) → memRead t.mem a = memRead s.mem a))) ∧
    (∀ n app, x.appends[n]? = some app → app.waits x = false → app.target ≠ c →
      ∃ t, exec (.vcappThresholdNotify c n) s = .next t ∧ (t.ctxAt c).appends = x.appends.eraseIdx n ∧
        Raised (s.ctxAt app.target) (t.ctxAt app.target) 0x02 app.tail ∧ t.mem = s.mem ∧
        ∀ d, d ≠ c → d ≠ app.target → t.ctxAt d = s.ctxAt d)

/-- R250 to R252: what a write does before it is performed by a task of a launch that may be replayed. One that
counts and is not versioned ends replayability. One to an SHD page reads the directory of the shadow pool: the
first to its page puts the page's stored bytes into the lowest free slot of the shadow pool and names it in the
slot's directory entry; with no slot free the launch stops being replayable; a page named already is left alone.
(A pool that fails to translate meanwhile: log entry 95.) -/
def Sys2Proof.Spec.WritesOfALaunchAreCounted : Prop :=
  ∀ (s : State) (n : Nat) (w : Write),
    let ends := s.mapLaunch n fun l => { l with replayable := false }
    (s.launch n = none → countWrite s n w = s) ∧
    (∀ l, s.launch n = some l → l.replayable = false ∨ w.cls = .uncounted → countWrite s n w = s) ∧
    ∀ l, s.launch n = some l → l.replayable = true →
      (w.cls = .unversioned → countWrite s n w = ends ∧ ends.launch n = some { l with replayable := false } ∧
        ends = { s with mill := { s.mill with launches := ends.mill.launches } }) ∧
      (w.cls = .versioned →
        let page := w.loc / 2 ^ 16 * 2 ^ 16
        let slots := min (l.poolLen.toNat / 2 ^ 16 - 1) 8192
        let s1 := touchBlock s l.acc .load none l.pool.toNat (8 * slots)
        let entry (i : Nat) : Nat := dirEntry s1 l i
        let named (i : Nat) : Prop := entry i % 2 = 1 ∧ entry i / 2 ^ 26 % 2 ^ 28 = page / 2 ^ 16 % 2 ^ 28
        ((∃ i < slots, named i) → countWrite s n w = s1) ∧
        ((∀ i < slots, ¬ named i ∧ entry i % 2 = 1) →
          countWrite s n w = s1.mapLaunch n fun l => { l with replayable := false }) ∧
        (∀ i < slots, (∀ j < slots, ¬ named j) → (∀ j < i, entry j % 2 = 1) → entry i % 2 = 0 →
          ∀ p, resolve s1 l.acc .store (l.pool.toNat + (i + 1) * 2 ^ 16) = .ok p →
          let s2 := touch s1 l.acc .store p
          let copied := copyPage s2 page p.loc
          (∀ v, writeBlock copied l.acc none (l.pool.toNat + 8 * i)
              (valBytes 8 (1 + w.key * 2 ^ 14 + page / 2 ^ 16 % 2 ^ 28 * 2 ^ 26)) = some v → countWrite s n w = v) ∧
          copied = { s2 with mem := copied.mem, poison := copied.poison } ∧
          (Memory.wf s2.mem = true →
            (∀ k < 65536, memRead copied.mem (p.loc + k) = memRead s2.mem (page + k)) ∧
            ∀ a, ¬ (p.loc ≤ a ∧ a < p.loc + 65536) → memRead copied.mem a = memRead s2.mem a)))

/-- R153, R179, R187, R188 and R190 (engines), R210, R211: where the fabric runs, or every element stays in its
tile, a copy command that may start and whose bytes all translate starts, and one with a byte that fails stops
its channel at the lowest such address; a started command does what it has still to do, in element order (a byte
written twice holds the element of the higher number), and lets XDONE pass it. -/
def Sys2Proof.Spec.CopiesArePerformed : Prop :=
  ∀ (s : State) (c : Nat), c < 768 →
    let x := s.ctxAt c
    let s' := { s with cur := c }
    ∀ k id cmd, k < 4 → (x.chan k).cmd id = some cmd → s.migration = none →
      (s.fab.undealt = 0 ∧ s.planesDead = false) ∨ cmd.carried s c = true →
      let a := cmd.acc c
      (mayStart (x.chan k) cmd = true →
        ((∀ e ∈ cmd.addrs, (∃ p, resolve s' a .load e.1.toNat = .ok p) ∧ ∃ p, resolve s' a .store e.2.toNat = .ok p) →
          ∃ t pages, exec (.copyCommandStart c k id) s = .next t ∧
            (t.ctxAt c).chan k = (x.chan k).setCmd id (.started pages [] []) ∧ (t.ctxAt c).regs = x.regs) ∧
        (∀ va side cause, lowestFault (copyFailures s' a cmd) = some (va, side, cause) →
          ∃ t, exec (.copyCommandStart c k id) s = .next t ∧ t = s.setCtx c (t.ctxAt c) ∧
            (t.ctxAt c).chan k = { (x.chan k).setCmd id .faulted with
              cause := .ofNat 8 cause, side := side, dlv := false, fid := id, faddr := .ofNat 64 va } ∧
            (t.ctxAt c).wake = true)) ∧
      (∀ pages got put, cmd.st = .started pages got put → mayComplete s c k cmd pages = true →
        let rest := copyRest s' a pages cmd got put
        let v := cmd.addrs.zipIdx.foldl
          (fun v e => if (tabFind got e.2).isSome then v else copyTouch v a pages e.1.1) s'
        let u := rest.foldl (copyWrite c k a pages) v
        ∃ t, exec (.copyCommandComplete c k id) s = .next t ∧ (t.ctxAt c).regs = x.regs ∧
          t.mem = u.mem ∧ t.mill = u.mill ∧
          ((t.ctxAt c).chan k).cmds = ((x.chan k).setCmd id .completed).cmds.dropWhile (fun m => m.st == .completed) ∧
          ((t.ctxAt c).chan k).next = (x.chan k).next ∧
          (∀ items : List (Place × Place), items.length = cmd.addrs.length →
            (∀ (j : Nat) e q, cmd.addrs[j]? = some e → items[j]? = some q →
              keptPlace s' a pages e.1.toNat = some q.1 ∧ keptPlace s' a pages e.2.toNat = some q.2) →
            (∀ q ∈ items, Uncounted s c q.2.cls) →
            let bytes (j : Nat) (q : Place × Place) : List Byte := match tabFind got j with
              | some d => d.1
              | none => fetchBytes s.keys s.mem q.1.loc q.1.key q.1.enc cmd.esz
            t.mill = s.mill ∧
            t.mem = (items.zipIdx.filter fun e => !put.contains e.2).foldl
              (fun m e => putBytes s.keys m e.1.2.loc e.1.2.key e.1.2.enc (bytes e.2 e.1)) s.mem ∧
            (Memory.wf s.mem = true → (∀ q ∈ items, q.2.enc = false) → got = [] → put = [] →
              (∀ (j : Nat) q, items[j]? = some q →
                (∀ (h : Nat) r, j < h → items[h]? = some r → q.2.loc + cmd.esz ≤ r.2.loc ∨ r.2.loc + cmd.esz ≤ q.2.loc) →
                memReadN t.mem q.2.loc (bytes j q).length = bytes j q) ∧
              ∀ b, (∀ q ∈ items, ¬ (q.2.loc ≤ b ∧ b < q.2.loc + cmd.esz)) → memRead t.mem b = memRead s.mem b)))

/-- R200, R206, R207: a grant request that reaches a context with a task of the sender's ASID, or comes from
supervisor level, reserves an empty slot for the sender and is granted; one of another ASID is refused; one for
a context without a task, or for a slot that is not empty, waits. It passes none of its tile that must come
before it. A message fills the slot reserved for it and raises user interrupt 0x03, past any whose reservation a
saved task holds. -/
def Sys2Proof.Spec.MessagesAreGrantedAndArrive : Prop :=
  ∀ s : State, s.migration = none → s.planesDead = false →
    (∀ n r, s.fab.undealt = 0 → s.fab.requests[n]? = some r → r.dstNode = s.node → r.tag < 4 →
      s.fab.waiting = [] → (∀ e ∈ s.fab.requests.take n, e.ordered s r = false) →
      let y := s.ctxAt r.dst
      let holds := y.task ≠ none ∧ y.start = none
      let known := r.sup = true ∨ y.space.asid = r.asid
      let fab := { s.fab with requests := s.fab.requests.eraseIdx n }
      (holds → known → y.slot r.tag = .empty → ∃ t, exec (.grantRequest n) s = .next t ∧
        t.fab = { fab with replies := s.fab.replies ++ [(r, true)] } ∧
        (t.ctxAt r.dst).slot r.tag = .reserved r.node r.sender ∧ (∀ d, d ≠ r.dst → t.ctxAt d = s.ctxAt d) ∧
        t.mem = s.mem) ∧
      (holds → ¬ known → exec (.grantRequest n) s =
        .next { s with fab := { fab with
          replies := if r.node = s.node then s.fab.replies ++ [(r, false)] else s.fab.replies } }) ∧
      (¬ holds ∨ (known ∧ y.slot r.tag ≠ .empty) →
        exec (.grantRequest n) s = .next { s with fab := { fab with waiting := [r] } })) ∧
    (∀ c tag f, c < 768 → tag < 4 →
      s.fab.flights.find? (fun f => f.dst == c && f.tag == tag && arrives s f) = some f →
      (s.ctxAt c).slot tag = .reserved f.msg.node f.msg.sender →
      ∃ t, exec (.messageArrival c tag) s = .next t ∧ (t.ctxAt c).slot tag = .full f.msg ∧
        t.fab = { s.fab with flights := s.fab.flights.erase f } ∧
        Raised (s.ctxAt c) (t.ctxAt c) 0x03 (.ofNat 64 (tag + f.msg.node * 4 + f.msg.sender * 2 ^ 12)) ∧
        t.mem = s.mem ∧ ∀ d, d ≠ c → t.ctxAt d = s.ctxAt d)

/-- What the fabric carries is performed: writes, copies, notifications, grants and messages. That a message passes
one whose reservation a saved task holds is log entry 50's, and a copy's A and D and element order log entry
49's. -/
def Obligations.WritesCopiesAndMessagesArePerformed : Prop :=
  Spec.WritesArePerformed ∧ Spec.WritesOfALaunchAreCounted ∧ Spec.CopiesArePerformed ∧
    Spec.MessagesAreGrantedAndArrive

/-- R198, R199, R202, R209, R211, R212, R279: a retransmitted flit changes nothing; the death of a port's plane, or
one that the mesh or a peer reports, marks the plane dead once, begins a moult unless no plane is left, puts the
messages on it on a live plane, and makes vector 3 at both ports; a moult deals the dead planes' buckets to the
live planes in turn and leaves every other bucket (MSI-X that is off sends nothing: log entry 93). -/
def Obligations.PlanesDieAndMoult : Prop :=
  ∀ s : State,
    let dies (u t : State) (k : Nat) : Prop :=
      let dead := u.fab.dead ||| (1#4 <<< k)
      (u.fab.dead.getLsbD k = true → t = u) ∧
      (u.fab.dead.getLsbD k = false → Vectored s.host t.host [1, 2] 3 ∧
        t = { u with
          fab := { u.fab with
            dead := dead, undealt := if dead = 15 then 0 else u.fab.undealt ||| (1#4 <<< k), flights := t.fab.flights }
          host := { u.host with msix := t.host.msix, ports := t.host.ports } } ∧
        t.fab.flights.map (fun f => { f with plane := 0 }) = u.fab.flights.map (fun f => { f with plane := 0 }) ∧
        (∀ (n : Nat) f, u.fab.flights[n]? = some f → dead.getLsbD f.plane = false → t.fab.flights[n]? = some f) ∧
        (dead ≠ 15 → ∀ f ∈ t.fab.flights, dead.getLsbD f.plane = false))
    (∀ p < 48, exec (.flitRetransmit p) s = .next s ∧
      (p ∉ s.fab.portsDown → ∃ t, exec (.portDown p) s = .next t ∧
        dies { s with fab := { s.fab with portsDown := s.fab.portsDown ++ [p] } } t (p % 24 / 6))) ∧
    (∀ d k, d < 2 → k < 4 → ∃ t, exec (.meshUncorrectableError d k) s = .next t ∧ dies s t k) ∧
    (∀ k < 4, ∃ t, exec (.planeDeathLearned k) s = .next t ∧ dies s t k) ∧
    (s.fab.undealt ≠ 0 → s.migration = none → (∀ e ∈ s.ctxs, ∀ w ∈ e.2.pend, w.acc = none) →
      (∀ f ∈ s.fab.flights, f.dstNode = s.node ∧ arrives s f = false) →
      let old (b : Nat) : Nat := s.fab.map.toNat / 4 ^ b % 4
      let lost (b : Nat) : Bool := s.fab.undealt.getLsbD (old b)
      let live := (List.range 4).filter fun k => !s.fab.dead.getLsbD k
      ∃ t, exec .moultRemap s = .next t ∧ t.fab.undealt = 0 ∧ t.fab.dead = s.fab.dead ∧
        t.host.moults = s.host.moults + 1 ∧ Vectored s.host t.host [1, 2] 3 ∧ t.mem = s.mem ∧ t.ctxs = s.ctxs ∧
        ∀ b < 64, t.fab.map.toNat / 4 ^ b % 4 =
          if lost b = true then live.getD (((List.range b).filter lost).length % live.length) 0 else old b)

/-! ### Events: the mill -/

/-- R20, R21, R24, R27, R155, R211, R279, R283: an 8-byte LAUNCH write joins its master's queue of 8, or sets ovf
where that is full; a narrower one is ignored, and so is one that the MMIO table refuses (log entry 94); a
port's write in a moult or migration is held at its entry (in a migration by log entry 40). A LAUNCH value that
names no usable space is rejected: LBAD and bad of its master, and vector 2 at its port (log entry 93). One
whose block, word, roots and parameters pass is accepted as the next launch. -/
def Obligations.LaunchesAreQueuedAndAccepted : Prop :=
  ∀ (s : State) (m : Nat) (v : Word), 1 ≤ m → m ≤ 3 →
    let h := s.host
    (s.flows = false → m ≠ 3 → ∀ n, exec (.launchWrite m n v) s =
      .next { s with host := { h with entry := h.entry ++ [.busWrite m 8 n v] } }) ∧
    ((s.flows = true ∨ m = 3) → mmioAllows s m 8 true = false → ∀ n, exec (.launchWrite m n v) s = .next s) ∧
    (Reaches s m 8 true → ∀ n, n ≠ 8 → exec (.launchWrite m n v) s = .next s) ∧
    (Reaches s m 8 true → (h.queue m).length < 8 → ∃ t, exec (.launchWrite m 8 v) s = .next t ∧ t.host.queue m = h.queue m ++ [v] ∧
      (∀ k, 1 ≤ k → k ≠ m → t.host.queue k = h.queue k) ∧ t = { s with host := { h with queues := t.host.queues } }) ∧
    (Reaches s m 8 true → 8 ≤ (h.queue m).length → exec (.launchWrite m 8 v) s =
      .next { s with host := { h with ovf := h.ovf.setIfInBounds (m - 1) true } }) ∧
    (h.queue m = [v] → (∀ k, 1 ≤ k → k ≤ 3 → k ≠ m → h.queue k = []) →
      let e := tabGet ⟨0, 0, 0, false⟩ h.spaces (v.toNat / 2 ^ 56 % 64)
      let usable := v.toNat < 2 ^ 62 ∧ v.toNat / 2 ^ 55 % 2 = 0 ∧ h.bootst ≠ 2 ∧ e.valid = true
      (¬ usable → ∃ t, exec .launchAccept s = .next t ∧ t.host.queue m = [] ∧
        t.host.lbad.toList.getD (m - 1) 0 = v ∧ t.host.bad.toList.getD (m - 1) false = true ∧
        Vectored h t.host (if m = 3 then [] else [m]) 2 ∧ t.mem = s.mem ∧
        t.mill.launches.map (·.num) = s.mill.launches.map (·.num)) ∧
      (usable →
        let u := { s with host := { h with queues := h.queues.setIfInBounds (m - 1) [] } }
        let l b := launchOf (s.mill.nextNum + 1) m v (.ofWords e.ptroot e.asid e.keydef) b
        ∀ b, readBlock u (l []).acc none (v.toNat % 2 ^ 55) 64 = .ok b → wordWritable u (l b) = true →
          lowestCause (blockCauses u (l b) (v.toNat % 2 ^ 55) b) = none →
          ∃ t, exec .launchAccept s = .next t ∧ t.host.accepted = true ∧ t.mill.nextNum = s.mill.nextNum + 1 ∧
            ∃ n ∈ t.mill.launches, n.num = s.mill.nextNum + 1 ∧ n.master = m ∧ n.value = v ∧
              n.space = .ofWords e.ptroot e.asid e.keydef ∧ n.word = leWord b 0x38))

/-- R30, R32, R34 to R36, R46: a pick that dispatches gives the record's next iteration to a context that no task or
handler holds, on a string, with lanes and bands, as the mill knows them. The task starts with its indices,
parameter, number and record in s1 to s7, every other register 0, the PC at the entry, an illegal type, policy
3, a cap of 16, and the launch's space. -/
def Sys2Proof.Spec.TasksAreDispatchedAndStart : Prop :=
  ∀ s : State,
    (∀ l r c u, restorable s = none → chooseNotice s = none → choose s = some (l, r, c) →
      writeBlock s l.acc none (r.addr.toNat + 0x50) (valBytes 8 (r.dispatched + 1)) = some u →
      c < 768 ∧ (s.ctxAt c).task = none ∧ (s.ctxAt c).sup = false ∧ (s.strAt (strOf c)).rdy = true ∧
      ((∀ p b, .string (strOf c) p b ∉ s.mill.links) → (s.strAt (strOf c)).hold = false) ∧
      r.lanes ≤ freeSeen s c ∧ ((∀ a b p q, .core (coreOf c) a b p q ∉ s.mill.links) → r.lanes ≤ s.freeLanes c) ∧
      r.bands ≤ bandsSeen s (tileOf c) ∧ ((∀ b, .tile (tileOf c) b ∉ s.mill.links) → r.bands ≤ freeBands s (tileOf c)) ∧
      ∃ t, exec .dispatchPick s = .next t ∧ t.mem = u.mem ∧
        (t.ctxAt c).task = some { launch := l.num, rcd := r.addr, prio := r.prio, weight := classWeight s r.cls } ∧
        (t.ctxAt c).start = some
          { idx := walkAt r.ext r.order.toNat r.blocking r.dispatched, seq := r.dispatched, entry := r.entry
            param := r.param, space := l.space }) ∧
    (∀ c h i l, c < 768 → (s.ctxAt c).task = some h → (s.ctxAt c).start = some i → (s.ctxAt c).ended = false →
      s.launch h.launch = some l → l.failed = none → l.tearing = false →
      ∃ t, exec (.taskStart c) s = .next t ∧
        let y := t.ctxAt c
        (∀ r, y.reg r =
          if 1 ≤ r.toNat ∧ r.toNat ≤ 4 then .ofNat 64 (i.idx.getD (r.toNat - 1) 0)
          else if r = 5 then i.param else if r = 6 then .ofNat 64 i.seq else if r = 7 then h.rcd else 0) ∧
        y.pc = i.entry ∧ y.sup = false ∧ y.task = some h ∧ y.start = none ∧ y.vtype.ill = true ∧ y.vrows = 0 ∧
        y.vcols = 0 ∧ y.lanes = 0 ∧ y.cpol = 3 ∧ y.cap = 16 ∧ y.evict = false ∧ y.space = i.space ∧
        y.taskseq = .ofNat 64 i.seq ∧ y.taskrec = h.rcd ∧ y.conds = 0 ∧ y.loops = [] ∧ y.ret.entries = [] ∧
        y.ret.spill = 0x007F00000003F000 + .ofNat 64 (c % 2 * 0x400) ∧
        y.fp.seed = (let q := BitVec.ofNat 32 i.seq ^^^ 0xACE12345; if q = 0 then 1 else q) ∧ y.fp.flags = 0 ∧
        y.mat.rev = 1 ∧ y.trap.task = true ∧ y.trap.pp = false ∧ y.trap.inh = false ∧ y.trap.cocoon = false ∧
        y.trap.vec = (s.ctxAt c).trap.vec ∧ y.trap.frec = (s.ctxAt c).trap.frec ∧ t.mem = s.mem)

/-- R26, R29, R30, R160, R424: what becoming ready does to a tracked record. A record whose 128 bytes cannot be
read, or that gives a cause of R25, fails its launch with it, the lowest of its own and of those that the mill
detects with it; any other gets its fields from the record, its counters are zeroed in memory, and it takes the
next place in readiness order, unless it has no iteration; without its flag bit 0 its launch is no longer
replayable. The reads that pass their checks set A in either case. -/
def Sys2Proof.Spec.RecordsBecomeReady : Prop :=
  ∀ (s : State) (n : Nat) (va : Word) (l : Launch), s.launch n = some l →
    let fails (u : State) (d : Nat) : State := u.mapLaunch n fun k =>
      if k.tearing = true then k else { k with failed := some (match k.failed with
        | none => d
        | some c => min c d) }
    (∀ e, readBlock s l.acc none va.toNat 128 = .error e → makeReady s n va = fails s 0x04) ∧
    ∀ b, readBlock s l.acc none va.toNat 128 = .ok b →
      let field (o k : Nat) : Nat := bytesVal ((b.drop o).take k)
      let ext := [field 0x10 4, field 0x14 4, field 0x18 4, field 0x1C 4]
      let u := touchBlock (touchBlock s l.acc .load none va.toNat 128) l.acc .load none (field 0x38 8) (8 * field 0x34 4)
      (∀ c cs, recordCauses s l va.toNat b = c :: cs → ∃ d ∈ c :: cs, (∀ e ∈ c :: cs, d ≤ e) ∧
        makeReady s n va = fails u d) ∧
      (recordCauses s l va.toNat b = [] →
        let t := makeReady s n va
        (∀ v w, writeBlock u l.acc none (va.toNat + 0x40) (zeros 8) = some v →
          writeBlock v l.acc none (va.toNat + 0x50) (zeros 8) = some w → t.mem = w.mem) ∧
        t.mill.nextReady = s.mill.nextReady + 1 ∧
        (∀ k, t.launch n = some k → k.replayable = true → field 0x29 1 % 2 = 1) ∧
        ∀ q, s.rcd n va = some q → t.rcd n va = some { q with
          wasReady := true
          readyNo := if ext.foldl (· * ·) 1 = 0 then none else some s.mill.nextReady
          entry := .ofNat 64 (field 0x00 8), param := .ofNat 64 (field 0x08 8), ext := ext, order := .ofNat 8 (field 0x20 1)
          blocking := [field 0x21 1, field 0x22 1, field 0x23 1, field 0x24 1], prio := min (field 0x25 1) l.ceiling
          cls := field 0x26 1, lanes := field 0x27 1, bands := field 0x28 1, flags := .ofNat 8 (field 0x29 1)
          saveBase := .ofNat 64 (field 0x48 8), succCount := field 0x34 4, succList := .ofNat 64 (field 0x38 8)
          dispatched := 0, retired := 0 })

/-- R22, R25, R36, R38 to R40, R250, R253, R279: the mill takes the retirement of the lowest context number and
counts it at its record, in memory too, also where the launch has failed meanwhile; the last one completes the
record, which sends vector 1 where it asks for it; a request of GSPAWN that it takes lets the instruction retire
and tracks the record, which becomes ready where its count is 0; one of GSIG lowers the count by 1 at its home,
fails the launch with 0x0C where the count is 0 already, and readies the record whose count reaches 0; a launch
that is over is gone with its records and its word is written; a torn-down launch whose tasks are gone runs
again. (That this happens whatever the planes do is log entry 32's, the order of what a completion does log
entry 33's, that a failed launch's records and requests go on log entry 76's, the MSI-X rules log entry 93's,
and that a request without a launch only retires log entry 63's.) -/
def Sys2Proof.Spec.TheMillCountsAndCompletes : Prop :=
  ∀ s : State,
    (∀ e, e ∈ s.mill.ends → (∀ f ∈ s.mill.ends, f ≠ e → e.ctx < f.ctx) →
      ∃ t, exec .tendRetirement s = .next t ∧ t.mill.ends = s.mill.ends.erase e ∧
        ∀ l r, s.launch e.task.launch = some l → s.rcd e.task.launch e.task.rcd = some r → r.retired + 1 ≠ r.total →
          (t.rcd e.task.launch e.task.rcd).map (·.retired) = some (r.retired + 1) ∧
          ∀ u, writeBlock s l.acc none (r.addr.toNat + 0x40) (valBytes 8 (r.retired + 1)) = some u → t.mem = u.mem) ∧
    (∀ e, e ∈ s.mill.ends → (∀ f ∈ s.mill.ends, f ≠ e → e.ctx < f.ctx) →
      ∀ l r, s.launch e.task.launch = some l → s.rcd e.task.launch e.task.rcd = some r → r.retired + 1 = r.total →
        r.succCount = 0 → ∃ t, exec .tendRetirement s = .next t ∧ t.rcd e.task.launch e.task.rcd = none ∧
          Vectored s.host t.host
            (if r.flags.getLsbD 1 = true ∧ (l.master = 1 ∨ l.master = 2) then [l.master] else []) 1) ∧
    (∀ c r ms, c < 768 →
      let x := s.ctxAt c
      (WaitsIn s c .mill (.gspawn r) ms → ∃ t, exec (.spawnRequest c) s = .next t ∧ (t.ctxAt c).pc = x.nextPc ∧
        (t.ctxAt c).wait = none ∧ (t.ctxAt c).cvy = none ∧ (t.ctxAt c).regs = x.regs ∧
        ∀ u l loc b, RetiresIn s u c → u.launch x.launchNo = some l →
          recPlace u l (x.reg r) = some loc → trackedAt u loc = none →
          readBlock u l.acc none ((x.reg r).toNat + 0x30) 4 = .ok b →
          let v := track (touchBlock u l.acc .load none ((x.reg r).toNat + 0x30) 4) l.num (x.reg r)
          (bytesVal b ≠ 0 → t.mill.recs = s.mill.recs ++ [Rec.fresh l.num (x.reg r)] ∧ t.mem = v.mem) ∧
          (bytesVal b = 0 → BecomesReady v t l.num (x.reg r))) ∧
      (WaitsIn s c .mill (.gsig r) ms → ∃ t, exec (.signalRequest c) s = .next t ∧ (t.ctxAt c).pc = x.nextPc ∧
        (t.ctxAt c).wait = none ∧ (t.ctxAt c).cvy = none ∧ (t.ctxAt c).regs = x.regs ∧
        ∀ u l loc p, RetiresIn s u c → u.launch x.launchNo = some l → (x.reg r).toNat % 128 = 0 →
          recPlace u l (x.reg r) = some loc → resolve u l.acc .atomic ((x.reg r).toNat + 0x30) = .ok p →
          let old := bytesVal (fetchBytes u.keys u.mem p.loc p.key p.enc 4)
          let w : Write := { p.write 0 (valBytes 4 (old - 1)) with
            cls := (match p.page with
              | none => .uncounted
              | some e => if e.node = s.node ∧ e.size = 16 ∧ e.shd = true then .versioned else .unversioned) }
          let v := performAt (countWrite (touch u l.acc .atomic p) l.num w) w
          (old = 0 → t.mem = (touch u l.acc .atomic p).mem ∧ t.mill.recs = s.mill.recs ∧
            ((∀ k ∈ s.mill.launches, k.num = l.num → k.failed = none ∧ k.tearing = false) →
              t.launch l.num = some { l with failed := some 0x0C })) ∧
          (2 ≤ old → t.mem = v.mem ∧
            (trackedAt v loc = none → t.mill.recs = s.mill.recs ++ [Rec.fresh l.num (x.reg r)]) ∧
            (∀ q, trackedAt v loc = some q → t.mill.recs = s.mill.recs)) ∧
          (old = 1 →
            (trackedAt v loc = none → BecomesReady (track v l.num (x.reg r)) t l.num (x.reg r)) ∧
            (∀ q, trackedAt v loc = some q →
              (q.wasReady = true → t.mill.recs = s.mill.recs ∧ t.mem = v.mem) ∧
              (q.wasReady = false → BecomesReady v t q.launch q.addr))) ∧
          (Memory.wf s.mem = true → old ≠ 0 → p.enc = false → l.replayable = false →
            littleEndian v.mem p.loc 4 = old - 1))) ∧
    (∀ n l, s.launch n = some l → launchOver s l = true →
      ∃ t, exec (.completionWordWrite n) s = .next t ∧ (∀ k ∈ t.mill.launches, k.num ≠ n) ∧
        (∀ r ∈ t.mill.recs, r.launch ≠ n) ∧ (∀ q ∈ t.mill.saved, q.task.launch ≠ n) ∧
        (l.pooled = false →
          let u := dropWork s n
          let w := { u with mill := { u.mill with launches := u.mill.launches.filter (·.num != n) } }
          let code := match l.failed with
            | some cause => 0x80000000 + cause
            | none => if l.replays = 0 then 1 else 2
          ∀ v, writeBlock w l.acc none l.word.toNat (valBytes 4 code) = some v → t.mem = v.mem ∧
            Vectored s.host t.host (if l.msix = true ∧ (l.master = 1 ∨ l.master = 2) then [l.master] else []) 0)) ∧
    (∀ n l, s.launch n = some l → l.tearing = true → contextsGone s n = true → s.flows = true →
      ∃ t, exec (.replayRerun n) s = .next t ∧
        ∃ k ∈ t.mill.launches, k.num = n ∧ k.tearing = false ∧ k.replays = l.replays + 1)

/-- Tasks are dispatched and start, records become ready, and the mill counts and completes them (log entries 32,
33, 63, 76, 77, and 93 for MSI-X). -/
def Obligations.TheMillDispatchesAndCounts : Prop :=
  Spec.TasksAreDispatchedAndStart ∧ Spec.RecordsBecomeReady ∧ Spec.TheMillCountsAndCompletes

/-- R26, R210, R220, R226, R229, R230, R253: a victim of a notice that waits, or stands between convoys with its
window used up, stops to be saved, its strip committed; a save whose cocoon is written frees the context and
gives the task to the mill; the task of a launch that has failed or is torn down, and one that the runtime ends,
leaves its context once its accesses are performed (log entry 34). -/
def Obligations.TasksAreSavedAndEnded : Prop :=
  ∀ (s : State) (c : Nat), c < 768 →
    let x := s.ctxAt c
    (∀ n, x.notice = some n → x.task ≠ none → x.start = none → x.sup = false → x.stopped = false → x.saving = false →
      x.ended = false → x.qfault = none → x.queue = [] → s.flows = true →
      ((∃ w, x.wait = some w ∧ w.kind ∈ [.wake, .xwait, .recv, .grant, .order, .lanes, .room]) ∨
        (x.wait = none ∧ x.cvy = none ∧ (s.coreAt (coreOf c)).preemptwin.toNat ≤ n.convoys)) →
      ∃ t, exec (.preemptwinExpiry c) s = .next t ∧ (t.ctxAt c).saving = true ∧ (t.ctxAt c).pc = x.convoyStart ∧
        (t.ctxAt c).cvy = none ∧ (t.ctxAt c).wait = none ∧ (t.ctxAt c).held = [] ∧
        (t.ctxAt c).pend = x.pend ++ x.held ∧ (t.ctxAt c).strip.forced = true ∧ (t.ctxAt c).regs = x.regs ∧
        t.mem = s.mem) ∧
    (∀ h r u, x.saving = true → x.sup = false → x.stopped = false → x.qfault = none → x.queue = [] → x.pend = [] → x.channelsRest = true →
      s.flows = true → x.task = some h → (s.liveLaunch h.launch).isSome = true → s.rcd h.launch h.rcd = some r →
      saveTask { s with cur := c } 1 (r.saveBase.toNat + c * 2 ^ 20) x.pc none = .ok u →
      ∃ t, exec (.wholeSaveDone c) s = .next t ∧ t.mem = u.mem ∧ Freed (t.ctxAt c) ∧ (t.ctxAt c).saveKind = 1 ∧
        t.mill.saved = s.mill.saved ++
          [{ ctx := c, task := h, seq := x.taskseq, lanes := x.lanes, space := x.space, whole := true
             flagged := x.flaggedScales none, inWait := x.rewaits.isSome }]) ∧
    (∀ h l, x.task = some h → x.ended = false → s.launch h.launch = some l →
      (l.failed ≠ none ∨ l.tearing = true →
        ∃ t, exec (.taskEndByMill c) s = .next t ∧ t.mem = s.mem ∧
          (x.pend = [] → x.channelsRest = true → Freed (t.ctxAt c)) ∧
          (x.pend ≠ [] → (t.ctxAt c).ended = true ∧ (t.ctxAt c).held = [] ∧ (t.ctxAt c).pend = x.pend ∧
            (t.ctxAt c).task = x.task)) ∧
      (x.stopped = true ∨ x.sup = true →
        ∃ t, exec (.taskEndedByRuntime c) s = .next t ∧ t.mem = s.mem ∧
          (∃ k ∈ t.mill.launches, k.num = h.launch ∧ k.failed = if l.failed = none ∧ l.tearing = false then some 0x0E
            else l.failed) ∧
          (x.pend = [] → x.channelsRest = true → Freed (t.ctxAt c))))

/-! ### Events: strings, the host block, errors and migrations -/

namespace Sys2Proof.Spec

/-- A register write of a whole dword (z = 0), of its low half or of its high half: where it starts in the dword,
how many bytes it has, and what the dword then holds (R276). -/
def partStart (z : Nat) : Nat := if z = 2 then 4 else 0
def partSize (z : Nat) : Nat := if z = 0 then 8 else 4
def partOf (z : Nat) (old v : Word) : Word :=
  if z = 0 then v
  else if z = 1 then .ofNat 64 (old.toNat / 2 ^ 32 * 2 ^ 32 + v.toNat % 2 ^ 32)
  else .ofNat 64 (v.toNat % 2 ^ 32 * 2 ^ 32 + old.toNat % 2 ^ 32)

/-- A port's access in a moult or a migration waits at its entry (R211), and an access that the MMIO table refuses
ends in `refused` (R155; log entry 94). -/
def HeldOrRefused (s : State) (m off : Nat) (write : Bool) (i : Instr) (mv : Move) (refused : State) : Prop :=
  (s.flows = false → m ≠ 3 → exec i s = .next { s with host := { s.host with entry := s.host.entry ++ [mv] } }) ∧
  ((s.flows = true ∨ m = 3) → mmioAllows s m off write = false → exec i s = .next refused)

end Sys2Proof.Spec

/-- R18, R47, R50, R54, R59, R62, R279, R282, R285, R287, R289: an adjunct request is latched for the tile beside
the over node; a step down (which a latched request has preceded, R50 and R53) or up moves the balance step by
1, and where the effective step changes clears the requests; a floor at step 2 comes about at both ports once; a
string that is requested is powered, with new CYCLE values, and one that is gated and idle is not any more.
PARTSZ, STRCAP and STRPWR are written under SEMA, and PARTSZ only up to 8 and while no task runs. (That floor is
cleared where only the balance step changes is log entry 38's, that a step down or a floor without a latched
request does nothing log entry 4's, that a port's write waits through a migration log entry 40's, and what the
MSI-X and MMIO tables turn away log entries 93 and 94.) -/
def Obligations.StringsThrottleAndPower : Prop :=
  ∀ (s : State) (n : Nat), n < 24 →
    let t0 := s.strAt n
    let sets (i : Instr) (t : Str) : Prop := exec i s = .next (s.setStr n t)
    let effective (step cap : Nat) : Nat := max step (min cap 2)
    let stepped (t : Str) (step cap : Nat) : Str :=
      let same := effective step cap = effective t.step t.cap
      { t with
        step := step, cap := cap, adjreq := if same then t.adjreq else 0
        floor := if same ∧ step = t.step then t.floor else false }
    (t0.rdy = true →
      (∀ node, 1 ≤ node → node ≤ 3 →
        sets (.adjunctRequest n node true) { t0 with adjreq := t0.adjreq ||| (1#4 <<< (node - 1)) } ∧
        sets (.adjunctRequest n node false) { t0 with adjreq := t0.adjreq ||| (1#4 <<< node) }) ∧
      (t0.step < 2 → t0.adjreq ≠ 0 → sets (.throttleDown n) (stepped t0 (t0.step + 1) t0.cap)) ∧
      (t0.adjreq = 0 → exec (.throttleDown n) s = .next s ∧ exec (.stringFloor n) s = .next s) ∧
      (0 < t0.step → sets (.throttleUp n) (stepped t0 (t0.step - 1) t0.cap)) ∧
      (t0.step = 2 → t0.adjreq ≠ 0 → ∃ t, exec (.stringFloor n) s = .next t ∧
        (∀ k, t.strAt k = if k = n then { t0 with floor := true } else s.strAt k) ∧
        Vectored s.host t.host (if t0.floor = true then [] else [1, 2]) 4 ∧
        t = { s with strs := t.strs, host := { s.host with msix := t.host.msix, ports := t.host.ports } })) ∧
    (t0.pwr = true → t0.rdy = false → s.host.booted = true → s.host.bootst = 1 →
      ∃ t, exec (.stringPowered n) s = .next t ∧
        (∀ k, t.strAt k =
          if k = n then { t0 with rdy := true, step := 0, adjreq := 0, floor := false, clock := 0 } else s.strAt k) ∧
        (∀ c, t.coreAt c = if c / 16 = n then { s.coreAt c with cycle0 := (t.coreAt c).cycle0 } else s.coreAt c) ∧
        t = { s with strs := t.strs, cores := t.cores, tick := t.tick }) ∧
    (t0.pwr = false → t0.rdy = true → strBusy s n = false →
      sets (.stringUnpowered n) { t0 with rdy := false, adjreq := 0, floor := false }) ∧
    (∀ m d (v : Word), 1 ≤ m → m ≤ 3 → d < 2 →
      let size := 0x100000 + 0x10000 * d
      let caps := 0x100028 + 0x10000 * d
      let power := 0x100010 + 0x10000 * d
      let rejected : Host.Outcome State Fault Refusal := .next { s with host := { s.host with rej := true } }
      (∀ e ∈ [(Instr.partszWrite m d v, size), (.strcapWrite m d v, caps), (.strpwrWrite m d v, power)],
        HeldOrRefused s m e.2 true e.1 (.busWrite m e.2 8 v) s ∧
        (Reaches s m e.2 true → s.host.owner ≠ m → exec e.1 s = rejected)) ∧
      (s.host.owner = m →
        (Reaches s m size true →
          (v.toNat % 16 ≤ 8 → (∀ e ∈ s.ctxs, e.2.task = none) →
            exec (.partszWrite m d v) s = .next (s.setDie d { s.dieAt d with partsz := v.toNat % 16 })) ∧
          (8 < v.toNat % 16 ∨ (∃ e ∈ s.ctxs, e.2.task ≠ none) → exec (.partszWrite m d v) s = rejected)) ∧
        (Reaches s m caps true → ∃ t, exec (.strcapWrite m d v) s = .next t ∧ t = { s with strs := t.strs } ∧ ∀ k < 24,
          t.strAt k = if k / 12 = d then stepped (s.strAt k) (s.strAt k).step (v.toNat / 4 ^ (k % 12) % 4) else s.strAt k) ∧
        (Reaches s m power true → s.host.bootst = 1 →
          ((∀ k < 12, (s.strAt (12 * d + k)).pwr = true → v.getLsbD k = false →
              (s.strAt (12 * d + k)).hold = true ∧ strBusy s (12 * d + k) = false) →
            ∃ t, exec (.strpwrWrite m d v) s = .next t ∧ t = { s with strs := t.strs } ∧ ∀ k < 24,
              t.strAt k = { s.strAt k with pwr := if k / 12 = d then v.getLsbD (k % 12) else (s.strAt k).pwr }) ∧
          ((∃ k < 12, (s.strAt (12 * d + k)).pwr = true ∧ v.getLsbD k = false ∧
              ((s.strAt (12 * d + k)).hold = false ∨ strBusy s (12 * d + k) = true)) →
            exec (.strpwrWrite m d v) s = rejected))))

/-- R152, R156, R276, R277, R281, R282, R284, R287, R288: SEMA is taken by a read and given back by its owner or its
port's link-down; key slots are loaded and emptied, access tables flushed, measurements extended and quotes
signed under SEMA; every other master's command sets rej and does nothing else. BAR2 reaches HBM of the own
node, raw. The boot ROM fills key slot 0 and measures, or fails the boot; a module reset puts back every
register. (A read of BAR2 evicts what a cache holds under another key index. Logs 16, 40, 42, 43, 44, 94.) -/
def Sys2Proof.Spec.HostCommands : Prop :=
  ∀ (s : State) (m : Nat), 1 ≤ m → m ≤ 3 →
    let h := s.host
    let rejected : Host.Outcome State Fault Refusal := .next { s with host := { h with rej := true } }
    (HeldOrRefused s m 0 false (.semaRead m) (.busRead m 0 8) { s with host := { h with lastRead := .allOnes 64 } }) ∧
    (Reaches s m 0 false → ∃ t, exec (.semaRead m) s = .next t ∧
      let owner := if h.owner = 0 then m else h.owner
      t = { s with host := { h with owner := owner, lastRead := .ofNat 64 (owner + 256 * h.rej.toNat) } }) ∧
    (∀ v : Word, HeldOrRefused s m 0 true (.semaWrite m v) (.busWrite m 0 8 v) s ∧
      (Reaches s m 0 true →
        (h.owner = m → exec (.semaWrite m v) s =
          .next { s with host := { h with owner := 0, rej := h.rej && !v.getLsbD 8 } }) ∧
        (h.owner ≠ m → exec (.semaWrite m v) s = rejected))) ∧
    (m < 3 → exec (.pcieLinkDown m) s =
      .next (if h.owner = m then { s with host := { h with owner := 0 } } else s)) ∧
    (∀ n < 4096, ∀ e ∈ [(Instr.keycmdLoad m n, 0x2000, n + 2 ^ 16), (.keycmdEmpty m n, 0x2000, n + 2 ^ 17),
        (.atflushGo m, 0x38, 1), (.resetGo m, 0x30, 1), (.qcmdGo m, 0x10428, 1)] ++
        (if n < 16 then [(.meascmdExtend m n, 0x10320, n)] else []),
      HeldOrRefused s m e.2.1 true e.1 (.busWrite m e.2.1 8 (.ofNat 64 e.2.2)) s ∧
      (Reaches s m e.2.1 true → h.owner ≠ m → exec e.1 s = rejected)) ∧
    (h.owner = m →
      (Reaches s m 0x2000 true →
        (∀ n, 1 ≤ n → n < 4096 →
          let slot := s.node * 4096 + n
          ∀ e ∈ [(Instr.keycmdLoad m n, some h.keyBits), (.keycmdEmpty m n, none)],
            ∃ t, exec e.1 s = .next t ∧ t = { s with keys := t.keys, mem := t.mem, plain := t.plain } ∧
              (∀ k, k ≠ slot → tabFind t.keys k = tabFind s.keys k) ∧
              (∀ b, e.2 = some b → tabFind t.keys slot = some b) ∧
              (e.2 = none → t.mem = s.mem) ∧
              ((∀ l ∈ s.plain, l.under slot = false) → t.mem = s.mem ∧ t.plain = s.plain)) ∧
        exec (.keycmdLoad m 0) s = .next s ∧ exec (.keycmdEmpty m 0) s = .next s) ∧
      (Reaches s m 0x38 true → exec (.atflushGo m) s = .next { s with host := { h with atflush := true } }) ∧
      (Reaches s m 0x10428 true → exec (.qcmdGo m) s = .next { s with host := { h with qgo := true } }) ∧
      (Reaches s m 0x10320 true → ∀ n, 2 ≤ n → n < 16 → ∃ t, exec (.meascmdExtend m n) s = .next t ∧
        t.host.meas.toList.getD n 0 =
          .ofNat 256 (sha3 (natBytes 32 (h.meas.toList.getD n 0).toNat ++ natBytes 32 h.measin.toNat)) ∧
        (∀ k, k ≠ n → t.host.meas.toList.getD k 0 = h.meas.toList.getD k 0) ∧
        t = { s with host := { h with meas := t.host.meas, meascmd := .ofNat 4 n } }) ∧
      (Reaches s m 0x30 true → ∃ t, exec (.resetGo m) s = .next t ∧ t.ctxs = [] ∧ t.cores = [] ∧ t.tiles = [] ∧
        t.strs = [] ∧ t.dies = [] ∧ t.mill = .reset ∧ t.fab = .reset ∧ t.tlb = [] ∧ t.tablesOld = none ∧
        t.host = { HostBlk.reset with msix := h.msix, lastRead := h.lastRead })) ∧
    (h.atflush = true → Runs s → targetsDone s (fun _ => true) = true → exec .atflushDone s =
      .next { s with tlb := [], tablesOld := none, host := { h with atflush := false } }) ∧
    (h.qgo = true → ∃ t, exec .quoteReady s = .next t ∧ t.host.qgo = false ∧ t.host.qsig.length = 2420 ∧
      t = { s with host := { h with qgo := false, qsig := t.host.qsig } }) ∧
    (h.booted = false → ∃ t, exec .bootRom s = .next t ∧ t.host.booted = true ∧
      tabFind t.keys (s.node * 4096) = some (Config.nodeKey s.tick) ∧
      (Config.firmwareVerifies = false → t.host.bootst = 2) ∧
      (Config.firmwareVerifies = true → t.host.bootst = h.bootst ∧ t.host.meas.toList.getD 0 0 =
        .ofNat 256 (sha3 (natBytes 32 (h.meas.toList.getD 0 0).toNat ++ natBytes 32 Config.firmwareDigest.toNat)))) ∧
    (∀ off n (v : Word),
      (s.flows = false →
        exec (.bar2Read off n) s = .next { s with host := { h with entry := h.entry ++ [.bar2Read off n] } } ∧
        exec (.bar2Write off n v) s = .next { s with host := { h with entry := h.entry ++ [.bar2Write off n v] } }) ∧
      (s.flows = true →
        (∀ loc, 0 < n → bar2Place s off n false = some loc → ∃ t, exec (.bar2Read off n) s = .next t ∧
          t = { s with plain := t.plain, host := { h with lastRead := .ofNat 64 (bytesVal (memReadN s.mem loc n)) } } ∧
          ∀ l, l ∈ t.plain ↔ l ∈ s.plain ∧ (l.slot = 0 ∨ l.line * 64 + 64 ≤ loc ∨ loc + n ≤ l.line * 64)) ∧
        (bar2Place s off n false = none → exec (.bar2Read off n) s =
          .next { s with host := { h with lastRead := .ofNat 64 (2 ^ (8 * n) - 1) } }) ∧
        (∀ loc, bar2Place s off n true = some loc → n ≤ 8 → loc % 64 + n ≤ 64 → Memory.wf s.mem = true →
          ∃ t, exec (.bar2Write off n v) s = .next t ∧
            t = { s with mem := t.mem, poison := t.poison, plain := t.plain } ∧
            (∀ k < n, memRead t.mem (loc + k) = .ofNat 8 (v.toNat / 256 ^ k)) ∧
            ∀ a, ¬ (loc ≤ a ∧ a < loc + n) → memRead t.mem a = memRead s.mem a) ∧
        (bar2Place s off n true = none → exec (.bar2Write off n v) s = .next s)))

/-- R155, R156, R197, R202, R211, R276, R281, R282, R284, R285, R286, R290: a register write of 4 or 8 bytes at its
natural alignment writes its dword's fields, or those of its half, under SEMA, and one without SEMA sets rej and
does nothing else; any other size or alignment is ignored; LSTAT and the counters need no SEMA; NODEID and TORUS
are refused once a launch has been accepted. Reserved bits of an access-table entry stay 0, and the tables of
before an edit are kept while an entry of the TLB that it affects is left. The images in SPACE are held as
written (log entry 97). (Logs 40, 42, 43, 44, 80, 94.) -/
def Sys2Proof.Spec.RegisterWrites : Prop :=
  ∀ (s : State) (m : Nat) (v : Word), 1 ≤ m → m ≤ 3 →
    let h := s.host
    (∀ off n, HeldOrRefused s m off true (.registerWrite m off n v) (.registerWrite m off n v) s ∧
      (Reaches s m off true → (n ≠ 4 ∧ n ≠ 8) ∨ off % n ≠ 0 → exec (.registerWrite m off n v) s = .next s)) ∧
    ∀ z < 3,
      let write (off : Nat) : Instr := .registerWrite m (off + partStart z) (partSize z) v
      let reaches (off : Nat) : Prop := Reaches s m (off + partStart z) true
      let sets (off : Nat) (h' : HostBlk) : Prop := reaches off → exec (write off) s = .next { s with host := h' }
      let put (old : Word) : Word := partOf z old v
      (h.owner ≠ m → ∀ off ∈ [0x20, 0x28, 0x40, 0x48, 0x50, 0x1000, 0x17F8, 0x2008, 0x2040, 0x10300, 0x10420, 0x20000, 0x20008,
          0x80000, 0x8AFF8, 0x100008, 0x110008], sets off { h with rej := true }) ∧
      sets 0x10 { h with
        ovf := if (put 0).getLsbD 8 then h.ovf.setIfInBounds (m - 1) false else h.ovf
        bad := if (put 0).getLsbD 9 then h.bad.setIfInBounds (m - 1) false else h.bad } ∧
      (h.owner = m →
        sets 0x20 { h with clsw := put h.clsw } ∧ sets 0x28 { h with bar2base := put h.bar2base &&& 0x00000FFFC0000000 } ∧
        sets 0x40 { h with migbase := put h.migbase &&& 0x00000FFFFFFF0000 } ∧
        sets 0x48 { h with miglen := (put (h.miglen.setWidth 64)).extractLsb' 0 32 } ∧
        (let p : BitVec 32 := (put (h.scrubp.setWidth 64)).extractLsb' 0 32
         sets 0x50 { h with scrubp := if p = 0 then 1 else p }) ∧
        (∀ n < 64, ∀ d < 4, reaches (0x1000 + 32 * n + 8 * d) → ∃ t, exec (write (0x1000 + 32 * n + 8 * d)) s = .next t ∧
          (∀ k, tabGet ⟨0, 0, 0, false⟩ t.host.spaces k =
            let e := tabGet ⟨0, 0, 0, false⟩ h.spaces k
            if k = n then
              { ptroot := if d = 0 then put e.ptroot else e.ptroot, asid := if d = 1 then put e.asid else e.asid
                keydef := if d = 2 then put e.keydef else e.keydef
                valid := if d = 3 then (put (.ofNat 64 e.valid.toNat)).getLsbD 0 else e.valid }
            else e) ∧ t = { s with host := { h with spaces := t.host.spaces } }) ∧
        (∀ n < 8, sets (0x2008 + 8 * n) { h with
          keydata := h.keydata.setIfInBounds n (put (h.keydata.toList.getD n 0)) }) ∧
        (h.accepted = false →
          sets 0x20008 { h with torus := (put (h.torus.setWidth 64)).extractLsb' 0 10 } ∧
          (reaches 0x20000 → ∃ t, exec (write 0x20000) s = .next t ∧
            t.host = { h with nodeid := (put (h.nodeid.setWidth 64)).extractLsb' 0 10 })) ∧
        (h.accepted = true → sets 0x20000 { h with rej := true } ∧ sets 0x20008 { h with rej := true }) ∧
        (h.qgo = false → sets 0x10420 { h with qsel := (put (h.qsel.setWidth 64)).extractLsb' 0 16 }) ∧
        (h.qgo = true → sets 0x10420 { h with rej := true }) ∧
        (∀ target < 11, ∀ e < 256, ∀ d < 2, reaches (0x80000 + 0x1000 * target + 16 * e + 8 * d) →
          ∃ t, exec (write (0x80000 + 0x1000 * target + 16 * e + 8 * d)) s = .next t ∧
          t = { s with tables := t.tables, tablesOld := t.tablesOld } ∧
          (let old := s.tablesOld.getD s.tables
           ((∃ e ∈ s.tlb, e.affected t old = true) → t.tablesOld = some old) ∧
             ((∀ e ∈ s.tlb, e.affected t old = false) → t.tablesOld = none)) ∧ ∀ k, tabFind t.tables k =
            if k = ((s.node * 11 + target) * 256 + e) * 2 + d then
              some (put (tabGet 0 s.tables k) &&& if d = 0 then 0x0FFFFFFF else 0xC0FFFFFFFFFFFFFF)
            else tabFind s.tables k) ∧
        (∀ d < 2, reaches (0x100008 + 0x10000 * d) → ∃ t, exec (write (0x100008 + 0x10000 * d)) s = .next t ∧
          t = { s with strs := t.strs } ∧ ∀ k < 24, t.strAt k =
            { s.strAt k with hold := if k / 12 = d ∧ z ≠ 2 then v.getLsbD (k % 12) else (s.strAt k).hold })) ∧
      (∀ n < 8, ∀ c < 384, reaches (0x200040 + 0x100 * c + 8 * n) →
        ∃ t, exec (write (0x200040 + 0x100 * c + 8 * n)) s = .next t ∧
        t.coreAt c = { s.coreAt c with
          evcnt := (s.coreAt c).evcnt.setIfInBounds n (put (((countCore s c n).coreAt c).evcnt.toList.getD n 0))
          seen := (t.coreAt c).seen } ∧
        (∀ k, k ≠ c → t.coreAt k = s.coreAt k) ∧ t = { s with cores := t.cores, tick := t.tick })

/-- R152, R155, R156, R197, R202, R211, R276, R277, R281, R282, R284 to R288, R290: commands and register writes of
the host block (log entries 16, 40, 42, 43, 44, 80 and 94). -/
def Obligations.TheHostBlockAnswers : Prop :=
  Spec.HostCommands ∧ Spec.RegisterWrites

/-- A checked word that starts at an element has results that the checker recomputes: A of R241 is at least 1.
Conversions and scans start at element 0, and where an earlier member writes v0 the mask is not known yet (log
entry 97). -/
def Sys2Proof.Spec.HasResults (x : Context) (unknown : Bool) (start : Nat) (w : BitVec 32) : Prop :=
  let whole := ∃ k d a m q t o, decode w = .ok (.vcvt k d a m q t) ∨ decode w = .ok (.vbq k d a m q t) ∨
    decode w = .ok (.vbdq k d a m q t) ∨ decode w = .ok (.vscan k d a m q o)
  x.zeroShape = false ∧ ((∃ k d a n, decode w = .ok (.mma k d a n) ∧ x.qmat.rows ≠ 0 ∧ x.qmat.cols ≠ 0 ∧ x.qmat.depth ≠ 0) ∨
    (∃ k d a m q o, decode w = .ok (.vred k d a m q o) ∨ decode w = .ok (.vredAll k d a m q o)) ∨
    (isChecked w = true ∧ (∀ k d a n, decode w ≠ .ok (.mma k d a n)) ∧
      ∃ n, (whole ∨ start ≤ n) ∧ n < x.inShape ∧ x.active (w.getLsbD 9 && !unknown) (n / x.vcols) (n % x.vcols) = true))

/-- R173, R174, R181 and R183 (ordering), R216, R241, R244 to R249, R258, R292: a mismatch or a pinned error of a
task at user level whose strip is not forced rewinds it to its checkpoint, the fifth excepted, and no mismatch
strikes where nothing that is recomputed still awaits its comparison; an error that cannot be pinned is told to
the mill, and at user level takes trap 0x10, with the PC of the load that met it at issue, or all ones where
that is not named. A patrol visit that finds a line uncorrectable leaves stored poison. A page that may move
stalls the accesses, and its leaf then names the new place, here in the node's own pool (log entry 92), and
counts the move. A convoy that frames and passes its checks stands ready, and one whose checks read a descriptor
stays at fetch while a write that must come first is not performed (R181, R183). (Where an error may strike is
log entry 35's, what of an error cannot be named log entry 36's, and how the stall of a migration is observed
log entry 45's.) -/
def Obligations.ErrorsMigrationsAndFetch : Prop :=
  ∀ (s : State) (c : Nat), c < 768 →
    let x := s.ctxAt c
    let running := x.task ≠ none ∧ x.start = none ∧ x.stopped = false ∧ x.ended = false
    let k := x.ckpt
    let rewinds (i : Instr) : Prop := x.strip.forced = false → x.sup = false → x.strip.pinned < 4 →
      ∃ t, exec i s = .next t ∧ t.mem = s.mem ∧
        let y := t.ctxAt c
        y.pc = k.resume ∧ y.cvy = none ∧ y.wait = none ∧ y.held = [] ∧ y.pend = x.pend ∧ y.queue = [] ∧
        y.vregs = k.vregs ∧ y.scales = k.scales ∧ y.vtype = k.vtype ∧ y.vrows = k.vrows ∧ y.vcols = k.vcols ∧
        y.fp = k.fp ∧ y.mat = k.mat ∧ y.loops = k.loops ∧ y.ret = k.ret ∧ y.strip.pinned = x.strip.pinned + 1 ∧
        y.vsElem = 0 ∧ y.vsMember = 0 ∧
        (x.ui.act = k.act → ∀ r : Fin 32, y.regs[r] = if k.mask.getLsbD r.val = true then k.regs[r] else x.regs[r]) ∧
        y.conds = if k.mask.getLsbD 32 = true then k.conds else x.conds
    let checks : Prop := x.strip.mmaPcs ≠ [] ∨ ∃ v j w, x.cvy = some v ∧ v.idx ≤ j ∧ v.words[j]? = some w ∧
      HasResults x (((v.words.take j).drop v.idx).any x.writesMask) (if j = v.idx then x.startElem else 0) w
    (running → checks → rewinds (.checkerMismatch c)) ∧
    (running → ¬ checks → exec (.checkerMismatch c) s = .next s) ∧
    (running → x.cvy ≠ none → rewinds (.uncorrectableError c true false true)) ∧
    (running → ∀ l named, s.launch x.launchNo = some l →
      ∃ t, exec (.uncorrectableError c false true named) s = .next t ∧ t.mem = s.mem ∧
        (∃ l' ∈ t.mill.launches, l'.num = x.launchNo ∧
          (l.tearing = false → l.replayable = true → l.replays < 3 → l'.tearing = true) ∧
          (l.tearing = false → ¬ (l.replayable = true ∧ l.replays < 3) → l.failed = none → l'.failed = some 0x0F)) ∧
        (x.sup = false → x.trap.inh = false → (t.ctxAt c).trap.cause = 0x10 ∧
          (t.ctxAt c).trap.val = (if named = true then x.convoyStart else .allOnes 64) ∧
          (t.ctxAt c).sup = true ∧ (t.ctxAt c).pc = x.trap.vec) ∧
        (x.sup = true ∨ x.trap.inh = true → t.ctxAt c = x)) ∧
    (∀ line, s.patrols line = true → ∀ corrected, ∃ t, exec (.patrolVisit line corrected true) s = .next t ∧
      tabFind t.poison line = some (.allOnes 128) ∧ (∀ l, l ≠ line → tabFind t.poison l = tabFind s.poison l) ∧
      t = { s with poison := t.poison, patrol := t.patrol }) ∧
    (∀ va dest frame mig, moveOf s c va dest frame = some mig →
      exec (.pageMigration c va dest frame) s = .next { s with migration := some mig } ∧
      mig.destNode = s.node ∧ mig.destFrame = frame ∧ mig.moves < 4 ∧ mig.entry.size = 16 ∧ mig.entry.cow = false ∧
      mig.entry.key ≠ 0 ∧ mig.entry.node ≠ s.node) ∧
    (∀ mig, s.migration = some mig → mig.moves < 4 → mig.destNode < 1024 → mig.destFrame < 2 ^ 28 →
      Memory.wf s.mem = true → ∃ t, exec .migrationDone s = .next t ∧ t.migration = none ∧
        (let pte := bytesVal (memReadN t.mem mig.entry.leaf 8)
         pte / 2 ^ 54 = mig.destNode ∧ pte / 2 ^ 26 % 2 ^ 28 = mig.destFrame ∧ pte / 2 ^ 11 % 8 = mig.moves + 1 ∧
         (pte / 2 ^ 10 % 2 = 1 ↔ mig.moves = 3)) ∧
        ∀ a, ¬ (mig.newPage ≤ a ∧ a < mig.newPage + 2 ^ 16) → ¬ (mig.entry.leaf ≤ a ∧ a < mig.entry.leaf + 8) →
          memRead t.mem a = memRead s.mem a) ∧
    (∀ u v ws, x.runs = true → x.cvy = none → x.queue = [] → x.qfault = none → saveDue s c = false → s.flows = true →
      frameFrom x.pc 4 0 { s with cur := c } [] = (u, .ok ws) →
      (checksMayRead ws u = false → exec (.convoyFetch c) s = .next { u with cur := s.cur }) ∧
      (checksMayRead ws u = true → passChecks u x.pc ws = .ok v →
        exec (.convoyFetch c) s = .next { v with cur := s.cur } ∧
          ∃ cv, v.cx.cvy = some cv ∧ cv.start = x.pc ∧ cv.words = ws))

/-! ### The machine as a whole -/

namespace Sys2Proof.Spec

/-- It is a context's turn, in the state in which its convoy runs: no host access that was held at its entry goes on
first, and the environment has the context run next, or the machine's own turn falls to it (log entry 10). -/
def Turn (s : State) (c : Nat) (u : State) : Prop :=
  (s.flows = true → s.host.entry = []) ∧
  ((∃ rest, s.inputs = .run c :: rest ∧ u = { s with inputs := rest, tick := s.tick + 1, cur := c }) ∨
   (s.inputs = [] ∧ nextContext s = some c ∧ (s.fromContext = false ∨ nextEvent s = none) ∧
    u = { s with tick := s.tick + 1, fromContext := true, cur := c }))

/-- The step goes on with a convoy that stands issued in f: it executes the member that is next, and if that is not
the last, the others after it as long as nothing stops them (R115). -/
def GoesOnWith (s f : State) : Prop :=
  ∀ v w i, f.cx.cvy = some v → v.words[v.idx]? = some w → decode w = .ok i →
    (v.words.length ≤ v.idx + 1 → step s = exec i f) ∧
    step s = (match exec i f with
      | .next t => if goesOn f.cx t.cx = true then runMembers 3 t else .next t
      | o => o)

/-- A shape never has more than the 32 rows of 16 lanes. -/
def Rows32 (s : State) : Prop := ∀ c, (s.ctxAt c).vrows ≤ 32 ∧ (s.ctxAt c).ckpt.vrows ≤ 32

end Sys2Proof.Spec

/-- R65, R115, R117, R160, R181 and R183 (ordering), R194, R210, R211, R216, R267, R278, R291, R292, R294: on a
context's turn, where it may issue, no member has faulted and no user interrupt is taken, the 4 little-endian
bytes at its pc, where no other copy of the word is kept, no write of the context is on its way and no key
encrypts them, are one word; where it is not chained and passes the checks, and decodes to an instruction, the
step is exec of it, once the convoy has issued: one of vector or matrix words takes its scalar operands and the
settings that it reads with it into the vector queue, and its members' checks are over. A member of a longer
convoy is executed the same way, and the step goes on with the next member as long as nothing stops it. A convoy
that ERET reloaded is checked again as it issues, its trap precise (log entry 15), and what its checks read
stays read; it stays where it is while a write that their reads must follow is not performed (R181, R183); one
that stands in the queue goes on unchecked, but for a member that needs a plane where none is live. A user
interrupt that is pending and enabled is taken before. An event that comes about, and a host access that waited
at its entry, is exec of it. The turns and their order are the model's choice (log entry 10). -/
def Obligations.StepRunsTheDecodedInstruction : Prop :=
  ∀ s : State,
    (∀ f v, f.cx.cvy = some v → OnlyCx f (issueConvoy f) ∧ (issueConvoy f).cx =
      if isBound v.words = true then
        { f.cx with
          cvy := some { v with
            regs := some (v.regs.getD f.cx.regs), ctl := some (v.ctl.getD f.cx.settings), passed := true }
          strip := { f.cx.strip with lastBound := some v.start } }
      else f.cx) ∧
    (∀ c u, Turn s c u → mayIssue u = false → step s = .next { u with cur := s.cur }) ∧
    (∀ c u, Turn s c u → mayIssue u = true → u.cx.qfault = none → interruptReady u c = false →
      (u.cx.cvy = none → u.cx.queue = [] →
        (∀ p t f i, resolve u (u.cx.acc c) .fetch u.cx.pc.toNat = .ok p → p.enc = false →
          u.cx.held = [] → u.cx.pend = [] →
          wordsUnder p.key u.stale p.loc = [] → wordsUnder p.key u.cx.fetched p.loc = [] → wordsUnder p.key (u.coreAt (coreOf c)).icache p.loc = [] →
          let v := touch u (u.cx.acc c) .fetch p
          let w : BitVec 32 := .ofNat 32 (littleEndian v.mem p.loc 4)
          kBit w = false → t = keepCode v c p w → checksMayRead [w] t = true →
          passChecks t u.cx.pc [w] = .ok f →
          decode w = .ok i → step s = exec i (issueConvoy f)) ∧
        GoesOnWith s (issueConvoy (fetchConvoy u)) ∧
        ((fetchConvoy u).cx.cvy = none → step s = .next (issueConvoy (fetchConvoy u)))) ∧
      (∀ v r, u.cx.cvy = some v ∧ r = u ∨
          (∃ rest, u.cx.cvy = none ∧ u.cx.queue = v :: rest ∧ r = u.setCx { u.cx with cvy := some v, queue := rest }) →
        (v.idx < v.words.length → v.passed = false →
          let ws := v.words.drop v.idx
          (checksMayRead ws r = false → step s = .next r) ∧
          (checksMayRead ws r = true → membersCheck ws r = none → GoesOnWith s (issueConvoy r)) ∧
          (checksMayRead ws r = true → ∀ t, membersCheck ws r = some t → step s = .next (takeTrap (withChecks r r ws) t))) ∧
        (v.idx < v.words.length → v.passed = true →
          let cut := r.planesDead = true ∧ ∃ t, membersCheck ((v.words.drop v.idx).take 1) r = some t ∧ t.cause = 0x14
          (¬ cut → GoesOnWith s r) ∧
          (cut → step s = .next (takeTrap (r.mapCx (·.standAt v)) (trapOf 0x14 0)))) ∧
        (v.words.length ≤ v.idx →
          step s = .next (takeTrap r (trapOf 0x02 (v.start + .ofNat 64 (4 * v.idx))))))) ∧
    (∀ c u, Turn s c u → mayIssue u = true → u.cx.qfault = none → interruptReady u c = true →
      step s = exec (.userInterruptTake c) u) ∧
    ((s.flows = true → s.host.entry = []) →
      (∀ i rest, s.inputs = .event i :: rest → encodeNat i = none →
        step s = exec i { s with inputs := rest, tick := s.tick + 1 }) ∧
      ∀ i, s.inputs = [] → nextEvent s = some i → (s.fromContext = true ∨ nextContext s = none) →
        step s = exec i { s with tick := s.tick + 1, fromContext := false }) ∧
    ∀ mv rest, s.flows = true → s.host.entry = mv :: rest →
      let u := { s with host := { s.host with entry := rest }, tick := s.tick + 1 }
      (∀ m off n v, mv = .registerWrite m off n v → step s = exec (.registerWrite m off n v) u) ∧
      (∀ off n, mv = .bar2Read off n → step s = exec (.bar2Read off n) u) ∧
      ∀ off n v, mv = .bar2Write off n v → step s = exec (.bar2Write off n v) u

/-- R291 to R312: words written out from the encodings of the spec decode to the instructions that they encode, and
words of no row or with a reserved field do not. -/
def Obligations.WordsDecode : Prop :=
  (∀ e ∈ ([(0x02312800, .addReg 3 2 10), (0x04307FFF, .addImm 3 0 0x7FFF), (0x40448150, .mma 0 4 9 1),
      (0xC0448150, .mma 1 4 9 1), (0x410015D0, .mdrain 0 16 5 1), (0x429214CC, .xcopy 9 4 5 1 1 6),
      (0x42048280, .xwait 9 1), (0x26000000, .vrel), (0x48900010, .gspawn 9)] : List (Nat × Instr)),
    decode (.ofNat 32 e.1) = .ok e.2) ∧
  (∀ e ∈ ([(0x4C000500, .trap 5), (0x4C305820, .mfs 3 0x058), (0x4C400A30, .mts 4 0x00A),
      (0x4C000050, .nop)] : List (Nat × Instr)), decode (.ofNat 32 e.1) = .ok e.2) ∧
  ∀ w ∈ ([0x00000000, 0xFFFFFFFF, 0x7E000000, 0x4C000051] : List Nat),
    ∃ e, decode (.ofNat 32 w) = .error e

/-- R291 to R312: the word of every well-formed instruction decodes to that instruction, with every operand, whether
it is given as a number, a 32-bit word, or 4 little-endian bytes with more after them; it has 32 bits, and no
two instructions share a word. -/
def Obligations.EncodeDecodeAgree : Prop :=
  ∀ (i : Instr) (w : Nat), i.wf = true → encodeNat i = some w →
    w < 2 ^ 32 ∧ decodeNat w = .ok i ∧ decode (.ofNat 32 w) = .ok i ∧
    (∀ rest, decodeBytes (bytesOfNat 4 w ++ rest) = .ok (i, rest)) ∧ decodeTableWord 32 w = some i ∧
    ∀ j, j.wf = true → encodeNat j = some w → j = i

/-- R3, R143 (the list form is the model's own): every step that goes on keeps the memory's list in its canonical
form. -/
def Obligations.StepKeepsTheMemoryForm : Prop :=
  ∀ s t : State, s.Inv → step s = .next t → t.Inv

/-- R73, R76, R77, R246: no step gives a context, or its strip checkpoint, a shape of more than 32 rows. -/
def Obligations.StepKeepsShapesWithinTheLanes : Prop :=
  ∀ s t : State, Rows32 s → step s = .next t → Rows32 t

/-- R214, R215, R224, R294: a word executed at user level leaves the context's space, its trap vector, its fault
area and its lane cap, and the pre-emption registers of every core, and enters supervisor level only by a trap;
no word changes the level, the space or the trap registers of another context. A lone privileged word fetched at
user level raises trap 0x11 before it executes, and a word that is no instruction trap 0x01, unless an earlier
check fails. -/
def Obligations.NoUserWordGainsPrivilege : Prop :=
  (∀ (s t : State) (i : Instr), (encodeNat i).isSome = true → exec i s = .next t →
    let x := s.cx
    let y := t.ctxAt s.cur
    (∀ c, c ≠ s.cur → (t.ctxAt c).sup = (s.ctxAt c).sup ∧ (t.ctxAt c).space = (s.ctxAt c).space ∧
      (t.ctxAt c).trap = (s.ctxAt c).trap) ∧
    (x.sup = false → y.space = x.space ∧ y.trap.vec = x.trap.vec ∧ y.trap.frec = x.trap.frec ∧ y.cap = x.cap ∧
      (∀ n, (t.coreAt n).preemptd = (s.coreAt n).preemptd ∧ (t.coreAt n).preemptwin = (s.coreAt n).preemptwin ∧
        (t.coreAt n).evsel = (s.coreAt n).evsel) ∧
      (y.sup = true → y.trap.pp = false ∧ y.trap.inh = true ∧ y.pc = x.trap.vec))) ∧
  ∀ (s : State) (a0 : Word) (w : BitVec 32), s.cx.loops = [] →
    (∀ e, decode w = .error e → passChecks s a0 [w] = .error (trapOf 0x01 (w.setWidth 64))) ∧
    (∀ i, decode w = .ok i → s.cx.sup = false →
      (i = .eret ∨ (∃ r, i = .csave r) ∨ (∃ r, i = .cload r) ∨ (∃ r k, i = .tlbinv r k)) →
      passChecks s a0 [w] = .error (trapOf 0x11 (w.setWidth 64)))

/-- R83, R202, R215, R224, R242, R281, R285, R286, R288: what module reset leaves where the spec gives a value, and
that both invariants hold there. That memory reads as 0 is the model's choice (log entry 1). -/
def Obligations.ResetLeavesTheResetValues : Prop :=
  let s := State.reset
  s.Inv ∧ Rows32 s ∧ (∀ a, memRead s.mem a = 0) ∧
  (∀ c, let x := s.ctxAt c
    x.runs = false ∧ x.task = none ∧ x.trap.vec = 0 ∧ x.trap.cause = 0 ∧ x.trap.epc = 0 ∧ x.trap.val = 0 ∧
    x.trap.pp = false ∧ x.trap.cocoon = false ∧ x.trap.inh = false ∧ x.trap.wroteRec = false ∧ x.trap.task = false ∧
    x.trap.frec = 0) ∧
  (∀ n, (s.coreAt n).preemptd = 4 ∧ (s.coreAt n).preemptwin = 4096 ∧ (s.coreAt n).chkseed = 0xACE1) ∧
  (∀ b < 64, s.fab.map.toNat / 4 ^ b % 4 = b % 4) ∧ s.fab.dead = 0 ∧
  (∀ n < 24, (s.strAt n).pwr = true ∧ (s.strAt n).rdy = false ∧ (s.strAt n).hold = false ∧ (s.strAt n).cap = 0) ∧
  (∀ d < 2, (s.dieAt d).partsz = 0) ∧
  (let h := s.host
   h.owner = 0 ∧ h.rej = false ∧ (∀ q ∈ h.queues.toList, q = []) ∧ h.clsw = 0x1010101008040201 ∧ h.bar2base = 0 ∧
   h.atflush = false ∧ h.bar2size = 30 ∧ h.migbase = 0 ∧ h.miglen = 0 ∧ h.scrubp = 86400 ∧ h.nodeid = 0 ∧ h.torus = 0 ∧ h.moults = 0 ∧
   h.bootst = 0 ∧ (∀ m ∈ h.meas.toList, m = 0) ∧ h.measin = 0 ∧ h.nonce = 0 ∧ h.qsel = 0 ∧ h.qgo = false)
end

