-- ==== Sys2Proof/Laws/Memory.lean ====
section
/-! SUPPORT. What the sparse tables and the memory's list of cells read as after a change, and that every memory
operation keeps the canonical form. -/

namespace Sys2Proof.Machine

/-! ### Tables -/

theorem tabGet_tabSet {α : Type} (d : α) (t : Tab α) (i j : Nat) (v : α) :
    tabGet d (tabSet t i v) j = if j = i then v else tabGet d t j := by
  induction t with
  | nil => rfl
  | cons e t ih =>
    obtain ⟨k, x⟩ := e
    by_cases h : i < k
    · simp [tabSet, tabGet, h]
    · by_cases h' : i = k
      · subst h'; by_cases hj : j = i <;> simp [tabSet, tabGet, hj]
      · by_cases hk : j = k
        · subst hk; simp [tabSet, tabGet, h, h', Ne.symm h']
        · simp [tabSet, tabGet, h, h', hk, ih]

@[simp] theorem tabGet_tabSet_self {α : Type} (d : α) (t : Tab α) (i : Nat) (v : α) :
    tabGet d (tabSet t i v) i = v := by simp [tabGet_tabSet]

theorem tabGet_tabSet_of_ne {α : Type} (d : α) (t : Tab α) {i j : Nat} (v : α) (h : j ≠ i) :
    tabGet d (tabSet t i v) j = tabGet d t j := by simp [tabGet_tabSet, h]

theorem tabFind_tabSet {α : Type} (t : Tab α) (i j : Nat) (v : α) :
    tabFind (tabSet t i v) j = if j = i then some v else tabFind t j := by
  induction t with
  | nil => rfl
  | cons e t ih =>
    obtain ⟨k, x⟩ := e
    by_cases h : i < k
    · simp [tabSet, tabFind, h]
    · by_cases h' : i = k
      · subst h'; by_cases hj : j = i <;> simp [tabSet, tabFind, hj]
      · by_cases hk : j = k
        · subst hk; simp [tabSet, tabFind, h, h', Ne.symm h']
        · simp [tabSet, tabFind, h, h', hk, ih]

/-! ### The canonical form as a rising chain -/

/-- Every listed address is above `lo`. -/
def memAbove (lo : Nat) (m : List Host.Cell) : Prop := ∀ e ∈ m, lo < e.1

theorem memSorted_cons (k : Nat) (v : Byte) (m : List Host.Cell) :
    memSorted ((k, v) :: m) = true ↔ v ≠ unlistedByte ∧ memAbove k m ∧ memSorted m = true := by
  induction m generalizing k v with
  | nil => simp [memSorted, memAbove]
  | cons e m ih =>
    obtain ⟨k', v'⟩ := e
    constructor
    · intro h
      simp only [memSorted, Bool.and_eq_true, bne_iff_ne, decide_eq_true_eq] at h
      obtain ⟨⟨hv, hk⟩, hm⟩ := h
      refine ⟨hv, ?_, hm⟩
      intro e he
      rcases List.mem_cons.1 he with rfl | he
      · exact hk
      · exact Nat.lt_trans hk (((ih k' v').1 hm).2.1 e he)
    · rintro ⟨hv, ha, hm⟩
      simp only [memSorted, Bool.and_eq_true, bne_iff_ne, decide_eq_true_eq]
      exact ⟨⟨hv, ha _ List.mem_cons_self⟩, hm⟩

theorem memAbove_insert {lo a : Nat} (b : Byte) {m : List Host.Cell} (h : memAbove lo m) (ha : lo < a) :
    memAbove lo (memInsert m a b) := by
  induction m with
  | nil => intro e he; simp [memInsert] at he; subst he; exact ha
  | cons e m ih =>
    obtain ⟨k, v⟩ := e
    have hm : memAbove lo m := fun e he => h e (List.mem_cons_of_mem _ he)
    have hk : lo < k := h _ List.mem_cons_self
    unfold memInsert
    split
    · intro e he; rcases List.mem_cons.1 he with rfl | he
      · exact ha
      · exact h e he
    · split
      · intro e he; rcases List.mem_cons.1 he with rfl | he
        · exact ha
        · exact hm e he
      · intro e he; rcases List.mem_cons.1 he with rfl | he
        · exact hk
        · exact ih hm e he

theorem memAbove_erase {lo : Nat} (a : Nat) {m : List Host.Cell} (h : memAbove lo m) :
    memAbove lo (memErase m a) := by
  induction m with
  | nil => exact h
  | cons e m ih =>
    obtain ⟨k, v⟩ := e
    have hm : memAbove lo m := fun e he => h e (List.mem_cons_of_mem _ he)
    unfold memErase
    split
    · exact hm
    · intro e he; rcases List.mem_cons.1 he with rfl | he
      · exact h _ List.mem_cons_self
      · exact ih hm e he

theorem wf_nil : Memory.wf [] = true := rfl

theorem memInsert_wf {m : List Host.Cell} (h : Memory.wf m = true) (a : Nat) {b : Byte} (hb : b ≠ unlistedByte) :
    Memory.wf (memInsert m a b) = true := by
  induction m with
  | nil => simp [memInsert, Memory.wf, memSorted, hb]
  | cons e m ih =>
    obtain ⟨k, v⟩ := e
    have h' := (memSorted_cons k v m).1 h
    unfold memInsert
    split
    · rename_i hlt
      refine (memSorted_cons _ _ _).2 ⟨hb, ?_, h⟩
      intro e he; rcases List.mem_cons.1 he with rfl | he
      · exact hlt
      · exact Nat.lt_trans hlt (h'.2.1 e he)
    · split
      · rename_i heq
        subst heq
        exact (memSorted_cons _ _ _).2 ⟨hb, h'.2.1, h'.2.2⟩
      · exact (memSorted_cons _ _ _).2 ⟨h'.1, memAbove_insert b h'.2.1 (by omega), ih h'.2.2⟩

theorem memErase_wf {m : List Host.Cell} (h : Memory.wf m = true) (a : Nat) : Memory.wf (memErase m a) = true := by
  induction m with
  | nil => rfl
  | cons e m ih =>
    obtain ⟨k, v⟩ := e
    have h' := (memSorted_cons k v m).1 h
    unfold memErase
    split
    · exact h'.2.2
    · exact (memSorted_cons _ _ _).2 ⟨h'.1, memAbove_erase a h'.2.1, ih h'.2.2⟩

/-- One byte written keeps the canonical form. -/
theorem memWrite_wf {m : List Host.Cell} (h : Memory.wf m = true) (a : Nat) (b : Byte) :
    Memory.wf (memWrite m a b) = true := by
  unfold memWrite
  split
  · exact memErase_wf h a
  · exact memInsert_wf h a ‹_›

/-- Bytes written keep the canonical form. -/
theorem memWriteN_wf {m : List Host.Cell} (h : Memory.wf m = true) (a : Nat) (bs : List Byte) :
    Memory.wf (memWriteN m a bs) = true := by
  induction bs generalizing m a with
  | nil => exact h
  | cons b bs ih => exact ih (memWrite_wf h a b) (a + 1)

/-- A line's bytes put back keep the canonical form. -/
theorem putBytes_wf (keys : Tab (BitVec 512)) {m : List Host.Cell} (h : Memory.wf m = true) (loc key : Nat)
    (enc : Bool) (bs : List Byte) : Memory.wf (putBytes keys m loc key enc bs) = true := by
  unfold putBytes
  split <;> exact memWriteN_wf h _ _

/-- A write performed at its home keeps the canonical form. -/
theorem putWrite_wf (keys : Tab (BitVec 512)) {m : List Host.Cell} (h : Memory.wf m = true) (w : Write) :
    Memory.wf (putWrite keys m w) = true := putBytes_wf keys h _ _ _ _

/-- Writes performed one after another keep the canonical form. -/
theorem foldl_putWrite_wf (keys : Tab (BitVec 512)) (ws : List Write) {m : List Host.Cell}
    (h : Memory.wf m = true) : Memory.wf (ws.foldl (putWrite keys) m) = true := by
  induction ws generalizing m with
  | nil => exact h
  | cons w ws ih => exact ih (putWrite_wf keys h w)

/-! ### Reading back -/

theorem memRead_above {lo a : Nat} {m : List Host.Cell} (h : memAbove lo m) (ha : a ≤ lo) :
    memRead m a = unlistedByte := by
  induction m with
  | nil => rfl
  | cons e m ih =>
    obtain ⟨k, v⟩ := e
    have hk : lo < k := h _ List.mem_cons_self
    have : a ≠ k := by omega
    simp [memRead, this, ih fun e he => h e (List.mem_cons_of_mem _ he)]

theorem memRead_insert (m : List Host.Cell) (a a' : Nat) (b : Byte) :
    memRead (memInsert m a b) a' = if a' = a then b else memRead m a' := by
  induction m with
  | nil => rfl
  | cons e m ih =>
    obtain ⟨k, v⟩ := e
    by_cases h : a < k
    · simp [memInsert, memRead, h]
    · by_cases h' : a = k
      · subst h'; by_cases hj : a' = a <;> simp [memInsert, memRead, hj]
      · by_cases hk : a' = k
        · subst hk; simp [memInsert, memRead, h, h', Ne.symm h']
        · simp [memInsert, memRead, h, h', hk, ih]

theorem memRead_erase {m : List Host.Cell} (h : Memory.wf m = true) (a a' : Nat) :
    memRead (memErase m a) a' = if a' = a then unlistedByte else memRead m a' := by
  induction m with
  | nil => simp [memErase, memRead]
  | cons e m ih =>
    obtain ⟨k, v⟩ := e
    have h' := (memSorted_cons k v m).1 h
    by_cases hk : a = k
    · subst hk
      by_cases hj : a' = a
      · subst hj; simp [memErase, memRead_above h'.2.1 (Nat.le_refl _)]
      · simp [memErase, memRead, hj]
    · by_cases hj : a' = k
      · subst hj; simp [memErase, memRead, hk, Ne.symm hk]
      · simp [memErase, memRead, hk, hj, ih h'.2.2]

/-- What every address reads as after one byte is written. -/
theorem memRead_memWrite {m : List Host.Cell} (h : Memory.wf m = true) (a a' : Nat) (b : Byte) :
    memRead (memWrite m a b) a' = if a' = a then b else memRead m a' := by
  unfold memWrite
  split
  · subst_vars; exact memRead_erase h a a'
  · exact memRead_insert m a a' b

/-- An address outside the bytes written reads as before. -/
theorem memRead_memWriteN_of_outside {m : List Host.Cell} (h : Memory.wf m = true) (a a' : Nat) (bs : List Byte)
    (hout : a' < a ∨ a + bs.length ≤ a') : memRead (memWriteN m a bs) a' = memRead m a' := by
  induction bs generalizing m a with
  | nil => rfl
  | cons b bs ih =>
    have hl : (b :: bs).length = bs.length + 1 := rfl
    have : a' ≠ a := by omega
    rw [memWriteN, ih (memWrite_wf h a b) (a + 1) (by omega), memRead_memWrite h, if_neg this]

/-- A byte of those written reads as what was written. -/
theorem memRead_memWriteN_of_inside {m : List Host.Cell} (h : Memory.wf m = true) (a : Nat) (bs : List Byte)
    (i : Nat) (hi : i < bs.length) : memRead (memWriteN m a bs) (a + i) = bs[i] := by
  induction bs generalizing m a i with
  | nil => exact absurd hi (Nat.not_lt_zero i)
  | cons b bs ih =>
    cases i with
    | zero =>
      rw [memWriteN, memRead_memWriteN_of_outside (memWrite_wf h a b) _ _ _ (by omega), memRead_memWrite h]
      simp
    | succ i =>
      have hi' : i < bs.length := by simpa using hi
      have e : a + (i + 1) = a + 1 + i := by omega
      rw [memWriteN, e, ih (memWrite_wf h a b) (a + 1) i hi']
      simp

end Sys2Proof.Machine
end

