-- ==== Sys2Proof/Laws/State.lean ====
section
/-! SUPPORT. What each field reads as after each update of the state or of a context, so that no later proof unfolds a
record update. -/

namespace Sys2Proof.Machine

/-! ### The fields of the state after an update of one of its parts -/

@[simp] theorem State.setCtx_ctxs (s : State) (c : Nat) (x : Context) : (s.setCtx c x).ctxs = tabSet s.ctxs c x := rfl
@[simp] theorem State.setCtx_cur (s : State) (c : Nat) (x : Context) : (s.setCtx c x).cur = s.cur := rfl
@[simp] theorem State.setCtx_cores (s : State) (c : Nat) (x : Context) : (s.setCtx c x).cores = s.cores := rfl
@[simp] theorem State.setCtx_tiles (s : State) (c : Nat) (x : Context) : (s.setCtx c x).tiles = s.tiles := rfl
@[simp] theorem State.setCtx_strs (s : State) (c : Nat) (x : Context) : (s.setCtx c x).strs = s.strs := rfl
@[simp] theorem State.setCtx_dies (s : State) (c : Nat) (x : Context) : (s.setCtx c x).dies = s.dies := rfl
@[simp] theorem State.setCtx_mill (s : State) (c : Nat) (x : Context) : (s.setCtx c x).mill = s.mill := rfl
@[simp] theorem State.setCtx_fab (s : State) (c : Nat) (x : Context) : (s.setCtx c x).fab = s.fab := rfl
@[simp] theorem State.setCtx_host (s : State) (c : Nat) (x : Context) : (s.setCtx c x).host = s.host := rfl
@[simp] theorem State.setCtx_mem (s : State) (c : Nat) (x : Context) : (s.setCtx c x).mem = s.mem := rfl
@[simp] theorem State.setCtx_tlb (s : State) (c : Nat) (x : Context) : (s.setCtx c x).tlb = s.tlb := rfl
@[simp] theorem State.setCtx_keys (s : State) (c : Nat) (x : Context) : (s.setCtx c x).keys = s.keys := rfl
@[simp] theorem State.setCtx_tables (s : State) (c : Nat) (x : Context) : (s.setCtx c x).tables = s.tables := rfl
@[simp] theorem State.setCtx_tablesOld (s : State) (c : Nat) (x : Context) : (s.setCtx c x).tablesOld = s.tablesOld := rfl
@[simp] theorem State.setCtx_plain (s : State) (c : Nat) (x : Context) : (s.setCtx c x).plain = s.plain := rfl
@[simp] theorem State.setCtx_poison (s : State) (c : Nat) (x : Context) : (s.setCtx c x).poison = s.poison := rfl
@[simp] theorem State.setCtx_stale (s : State) (c : Nat) (x : Context) : (s.setCtx c x).stale = s.stale := rfl
@[simp] theorem State.setCtx_patrol (s : State) (c : Nat) (x : Context) : (s.setCtx c x).patrol = s.patrol := rfl
@[simp] theorem State.setCtx_pool (s : State) (c : Nat) (x : Context) : (s.setCtx c x).pool = s.pool := rfl
@[simp] theorem State.setCtx_migration (s : State) (c : Nat) (x : Context) : (s.setCtx c x).migration = s.migration := rfl
@[simp] theorem State.setCtx_inputs (s : State) (c : Nat) (x : Context) : (s.setCtx c x).inputs = s.inputs := rfl
@[simp] theorem State.setCtx_fromContext (s : State) (c : Nat) (x : Context) : (s.setCtx c x).fromContext = s.fromContext := rfl
@[simp] theorem State.setCtx_tick (s : State) (c : Nat) (x : Context) : (s.setCtx c x).tick = s.tick := rfl

@[simp] theorem State.setCore_ctxs (s : State) (c : Nat) (x : Core) : (s.setCore c x).ctxs = s.ctxs := rfl
@[simp] theorem State.setCore_cur (s : State) (c : Nat) (x : Core) : (s.setCore c x).cur = s.cur := rfl
@[simp] theorem State.setCore_cores (s : State) (c : Nat) (x : Core) : (s.setCore c x).cores = tabSet s.cores c x := rfl
@[simp] theorem State.setCore_tiles (s : State) (c : Nat) (x : Core) : (s.setCore c x).tiles = s.tiles := rfl
@[simp] theorem State.setCore_strs (s : State) (c : Nat) (x : Core) : (s.setCore c x).strs = s.strs := rfl
@[simp] theorem State.setCore_dies (s : State) (c : Nat) (x : Core) : (s.setCore c x).dies = s.dies := rfl
@[simp] theorem State.setCore_mill (s : State) (c : Nat) (x : Core) : (s.setCore c x).mill = s.mill := rfl
@[simp] theorem State.setCore_fab (s : State) (c : Nat) (x : Core) : (s.setCore c x).fab = s.fab := rfl
@[simp] theorem State.setCore_host (s : State) (c : Nat) (x : Core) : (s.setCore c x).host = s.host := rfl
@[simp] theorem State.setCore_mem (s : State) (c : Nat) (x : Core) : (s.setCore c x).mem = s.mem := rfl
@[simp] theorem State.setCore_tlb (s : State) (c : Nat) (x : Core) : (s.setCore c x).tlb = s.tlb := rfl
@[simp] theorem State.setCore_keys (s : State) (c : Nat) (x : Core) : (s.setCore c x).keys = s.keys := rfl
@[simp] theorem State.setCore_tables (s : State) (c : Nat) (x : Core) : (s.setCore c x).tables = s.tables := rfl
@[simp] theorem State.setCore_tablesOld (s : State) (c : Nat) (x : Core) : (s.setCore c x).tablesOld = s.tablesOld := rfl
@[simp] theorem State.setCore_plain (s : State) (c : Nat) (x : Core) : (s.setCore c x).plain = s.plain := rfl
@[simp] theorem State.setCore_poison (s : State) (c : Nat) (x : Core) : (s.setCore c x).poison = s.poison := rfl
@[simp] theorem State.setCore_stale (s : State) (c : Nat) (x : Core) : (s.setCore c x).stale = s.stale := rfl
@[simp] theorem State.setCore_patrol (s : State) (c : Nat) (x : Core) : (s.setCore c x).patrol = s.patrol := rfl
@[simp] theorem State.setCore_pool (s : State) (c : Nat) (x : Core) : (s.setCore c x).pool = s.pool := rfl
@[simp] theorem State.setCore_migration (s : State) (c : Nat) (x : Core) : (s.setCore c x).migration = s.migration := rfl
@[simp] theorem State.setCore_inputs (s : State) (c : Nat) (x : Core) : (s.setCore c x).inputs = s.inputs := rfl
@[simp] theorem State.setCore_fromContext (s : State) (c : Nat) (x : Core) : (s.setCore c x).fromContext = s.fromContext := rfl
@[simp] theorem State.setCore_tick (s : State) (c : Nat) (x : Core) : (s.setCore c x).tick = s.tick := rfl

@[simp] theorem State.setTile_ctxs (s : State) (c : Nat) (x : Tile) : (s.setTile c x).ctxs = s.ctxs := rfl
@[simp] theorem State.setTile_cur (s : State) (c : Nat) (x : Tile) : (s.setTile c x).cur = s.cur := rfl
@[simp] theorem State.setTile_cores (s : State) (c : Nat) (x : Tile) : (s.setTile c x).cores = s.cores := rfl
@[simp] theorem State.setTile_tiles (s : State) (c : Nat) (x : Tile) : (s.setTile c x).tiles = tabSet s.tiles c x := rfl
@[simp] theorem State.setTile_strs (s : State) (c : Nat) (x : Tile) : (s.setTile c x).strs = s.strs := rfl
@[simp] theorem State.setTile_dies (s : State) (c : Nat) (x : Tile) : (s.setTile c x).dies = s.dies := rfl
@[simp] theorem State.setTile_mill (s : State) (c : Nat) (x : Tile) : (s.setTile c x).mill = s.mill := rfl
@[simp] theorem State.setTile_fab (s : State) (c : Nat) (x : Tile) : (s.setTile c x).fab = s.fab := rfl
@[simp] theorem State.setTile_host (s : State) (c : Nat) (x : Tile) : (s.setTile c x).host = s.host := rfl
@[simp] theorem State.setTile_mem (s : State) (c : Nat) (x : Tile) : (s.setTile c x).mem = s.mem := rfl
@[simp] theorem State.setTile_tlb (s : State) (c : Nat) (x : Tile) : (s.setTile c x).tlb = s.tlb := rfl
@[simp] theorem State.setTile_keys (s : State) (c : Nat) (x : Tile) : (s.setTile c x).keys = s.keys := rfl
@[simp] theorem State.setTile_tables (s : State) (c : Nat) (x : Tile) : (s.setTile c x).tables = s.tables := rfl
@[simp] theorem State.setTile_tablesOld (s : State) (c : Nat) (x : Tile) : (s.setTile c x).tablesOld = s.tablesOld := rfl
@[simp] theorem State.setTile_plain (s : State) (c : Nat) (x : Tile) : (s.setTile c x).plain = s.plain := rfl
@[simp] theorem State.setTile_poison (s : State) (c : Nat) (x : Tile) : (s.setTile c x).poison = s.poison := rfl
@[simp] theorem State.setTile_stale (s : State) (c : Nat) (x : Tile) : (s.setTile c x).stale = s.stale := rfl
@[simp] theorem State.setTile_patrol (s : State) (c : Nat) (x : Tile) : (s.setTile c x).patrol = s.patrol := rfl
@[simp] theorem State.setTile_pool (s : State) (c : Nat) (x : Tile) : (s.setTile c x).pool = s.pool := rfl
@[simp] theorem State.setTile_migration (s : State) (c : Nat) (x : Tile) : (s.setTile c x).migration = s.migration := rfl
@[simp] theorem State.setTile_inputs (s : State) (c : Nat) (x : Tile) : (s.setTile c x).inputs = s.inputs := rfl
@[simp] theorem State.setTile_fromContext (s : State) (c : Nat) (x : Tile) : (s.setTile c x).fromContext = s.fromContext := rfl
@[simp] theorem State.setTile_tick (s : State) (c : Nat) (x : Tile) : (s.setTile c x).tick = s.tick := rfl

@[simp] theorem State.setStr_ctxs (s : State) (c : Nat) (x : Str) : (s.setStr c x).ctxs = s.ctxs := rfl
@[simp] theorem State.setStr_cur (s : State) (c : Nat) (x : Str) : (s.setStr c x).cur = s.cur := rfl
@[simp] theorem State.setStr_cores (s : State) (c : Nat) (x : Str) : (s.setStr c x).cores = s.cores := rfl
@[simp] theorem State.setStr_tiles (s : State) (c : Nat) (x : Str) : (s.setStr c x).tiles = s.tiles := rfl
@[simp] theorem State.setStr_strs (s : State) (c : Nat) (x : Str) : (s.setStr c x).strs = tabSet s.strs c x := rfl
@[simp] theorem State.setStr_dies (s : State) (c : Nat) (x : Str) : (s.setStr c x).dies = s.dies := rfl
@[simp] theorem State.setStr_mill (s : State) (c : Nat) (x : Str) : (s.setStr c x).mill = s.mill := rfl
@[simp] theorem State.setStr_fab (s : State) (c : Nat) (x : Str) : (s.setStr c x).fab = s.fab := rfl
@[simp] theorem State.setStr_host (s : State) (c : Nat) (x : Str) : (s.setStr c x).host = s.host := rfl
@[simp] theorem State.setStr_mem (s : State) (c : Nat) (x : Str) : (s.setStr c x).mem = s.mem := rfl
@[simp] theorem State.setStr_tlb (s : State) (c : Nat) (x : Str) : (s.setStr c x).tlb = s.tlb := rfl
@[simp] theorem State.setStr_keys (s : State) (c : Nat) (x : Str) : (s.setStr c x).keys = s.keys := rfl
@[simp] theorem State.setStr_tables (s : State) (c : Nat) (x : Str) : (s.setStr c x).tables = s.tables := rfl
@[simp] theorem State.setStr_tablesOld (s : State) (c : Nat) (x : Str) : (s.setStr c x).tablesOld = s.tablesOld := rfl
@[simp] theorem State.setStr_plain (s : State) (c : Nat) (x : Str) : (s.setStr c x).plain = s.plain := rfl
@[simp] theorem State.setStr_poison (s : State) (c : Nat) (x : Str) : (s.setStr c x).poison = s.poison := rfl
@[simp] theorem State.setStr_stale (s : State) (c : Nat) (x : Str) : (s.setStr c x).stale = s.stale := rfl
@[simp] theorem State.setStr_patrol (s : State) (c : Nat) (x : Str) : (s.setStr c x).patrol = s.patrol := rfl
@[simp] theorem State.setStr_pool (s : State) (c : Nat) (x : Str) : (s.setStr c x).pool = s.pool := rfl
@[simp] theorem State.setStr_migration (s : State) (c : Nat) (x : Str) : (s.setStr c x).migration = s.migration := rfl
@[simp] theorem State.setStr_inputs (s : State) (c : Nat) (x : Str) : (s.setStr c x).inputs = s.inputs := rfl
@[simp] theorem State.setStr_fromContext (s : State) (c : Nat) (x : Str) : (s.setStr c x).fromContext = s.fromContext := rfl
@[simp] theorem State.setStr_tick (s : State) (c : Nat) (x : Str) : (s.setStr c x).tick = s.tick := rfl

@[simp] theorem State.setDie_ctxs (s : State) (c : Nat) (x : Die) : (s.setDie c x).ctxs = s.ctxs := rfl
@[simp] theorem State.setDie_cur (s : State) (c : Nat) (x : Die) : (s.setDie c x).cur = s.cur := rfl
@[simp] theorem State.setDie_cores (s : State) (c : Nat) (x : Die) : (s.setDie c x).cores = s.cores := rfl
@[simp] theorem State.setDie_tiles (s : State) (c : Nat) (x : Die) : (s.setDie c x).tiles = s.tiles := rfl
@[simp] theorem State.setDie_strs (s : State) (c : Nat) (x : Die) : (s.setDie c x).strs = s.strs := rfl
@[simp] theorem State.setDie_dies (s : State) (c : Nat) (x : Die) : (s.setDie c x).dies = tabSet s.dies c x := rfl
@[simp] theorem State.setDie_mill (s : State) (c : Nat) (x : Die) : (s.setDie c x).mill = s.mill := rfl
@[simp] theorem State.setDie_fab (s : State) (c : Nat) (x : Die) : (s.setDie c x).fab = s.fab := rfl
@[simp] theorem State.setDie_host (s : State) (c : Nat) (x : Die) : (s.setDie c x).host = s.host := rfl
@[simp] theorem State.setDie_mem (s : State) (c : Nat) (x : Die) : (s.setDie c x).mem = s.mem := rfl
@[simp] theorem State.setDie_tlb (s : State) (c : Nat) (x : Die) : (s.setDie c x).tlb = s.tlb := rfl
@[simp] theorem State.setDie_keys (s : State) (c : Nat) (x : Die) : (s.setDie c x).keys = s.keys := rfl
@[simp] theorem State.setDie_tables (s : State) (c : Nat) (x : Die) : (s.setDie c x).tables = s.tables := rfl
@[simp] theorem State.setDie_tablesOld (s : State) (c : Nat) (x : Die) : (s.setDie c x).tablesOld = s.tablesOld := rfl
@[simp] theorem State.setDie_plain (s : State) (c : Nat) (x : Die) : (s.setDie c x).plain = s.plain := rfl
@[simp] theorem State.setDie_poison (s : State) (c : Nat) (x : Die) : (s.setDie c x).poison = s.poison := rfl
@[simp] theorem State.setDie_stale (s : State) (c : Nat) (x : Die) : (s.setDie c x).stale = s.stale := rfl
@[simp] theorem State.setDie_patrol (s : State) (c : Nat) (x : Die) : (s.setDie c x).patrol = s.patrol := rfl
@[simp] theorem State.setDie_pool (s : State) (c : Nat) (x : Die) : (s.setDie c x).pool = s.pool := rfl
@[simp] theorem State.setDie_migration (s : State) (c : Nat) (x : Die) : (s.setDie c x).migration = s.migration := rfl
@[simp] theorem State.setDie_inputs (s : State) (c : Nat) (x : Die) : (s.setDie c x).inputs = s.inputs := rfl
@[simp] theorem State.setDie_fromContext (s : State) (c : Nat) (x : Die) : (s.setDie c x).fromContext = s.fromContext := rfl
@[simp] theorem State.setDie_tick (s : State) (c : Nat) (x : Die) : (s.setDie c x).tick = s.tick := rfl

@[simp] theorem State.setCx_cur (s : State) (x : Context) : (s.setCx x).cur = s.cur := rfl
@[simp] theorem State.setCx_cores (s : State) (x : Context) : (s.setCx x).cores = s.cores := rfl
@[simp] theorem State.setCx_tiles (s : State) (x : Context) : (s.setCx x).tiles = s.tiles := rfl
@[simp] theorem State.setCx_strs (s : State) (x : Context) : (s.setCx x).strs = s.strs := rfl
@[simp] theorem State.setCx_dies (s : State) (x : Context) : (s.setCx x).dies = s.dies := rfl
@[simp] theorem State.setCx_mill (s : State) (x : Context) : (s.setCx x).mill = s.mill := rfl
@[simp] theorem State.setCx_fab (s : State) (x : Context) : (s.setCx x).fab = s.fab := rfl
@[simp] theorem State.setCx_host (s : State) (x : Context) : (s.setCx x).host = s.host := rfl
@[simp] theorem State.setCx_mem (s : State) (x : Context) : (s.setCx x).mem = s.mem := rfl
@[simp] theorem State.setCx_tlb (s : State) (x : Context) : (s.setCx x).tlb = s.tlb := rfl
@[simp] theorem State.setCx_keys (s : State) (x : Context) : (s.setCx x).keys = s.keys := rfl
@[simp] theorem State.setCx_tables (s : State) (x : Context) : (s.setCx x).tables = s.tables := rfl
@[simp] theorem State.setCx_tablesOld (s : State) (x : Context) : (s.setCx x).tablesOld = s.tablesOld := rfl
@[simp] theorem State.setCx_plain (s : State) (x : Context) : (s.setCx x).plain = s.plain := rfl
@[simp] theorem State.setCx_poison (s : State) (x : Context) : (s.setCx x).poison = s.poison := rfl
@[simp] theorem State.setCx_stale (s : State) (x : Context) : (s.setCx x).stale = s.stale := rfl
@[simp] theorem State.setCx_patrol (s : State) (x : Context) : (s.setCx x).patrol = s.patrol := rfl
@[simp] theorem State.setCx_pool (s : State) (x : Context) : (s.setCx x).pool = s.pool := rfl
@[simp] theorem State.setCx_migration (s : State) (x : Context) : (s.setCx x).migration = s.migration := rfl
@[simp] theorem State.setCx_inputs (s : State) (x : Context) : (s.setCx x).inputs = s.inputs := rfl
@[simp] theorem State.setCx_fromContext (s : State) (x : Context) : (s.setCx x).fromContext = s.fromContext := rfl
@[simp] theorem State.setCx_tick (s : State) (x : Context) : (s.setCx x).tick = s.tick := rfl

@[simp] theorem State.mapCx_cur (s : State) (f : Context → Context) : (s.mapCx f).cur = s.cur := rfl
@[simp] theorem State.mapCx_cores (s : State) (f : Context → Context) : (s.mapCx f).cores = s.cores := rfl
@[simp] theorem State.mapCx_tiles (s : State) (f : Context → Context) : (s.mapCx f).tiles = s.tiles := rfl
@[simp] theorem State.mapCx_strs (s : State) (f : Context → Context) : (s.mapCx f).strs = s.strs := rfl
@[simp] theorem State.mapCx_dies (s : State) (f : Context → Context) : (s.mapCx f).dies = s.dies := rfl
@[simp] theorem State.mapCx_mill (s : State) (f : Context → Context) : (s.mapCx f).mill = s.mill := rfl
@[simp] theorem State.mapCx_fab (s : State) (f : Context → Context) : (s.mapCx f).fab = s.fab := rfl
@[simp] theorem State.mapCx_host (s : State) (f : Context → Context) : (s.mapCx f).host = s.host := rfl
@[simp] theorem State.mapCx_mem (s : State) (f : Context → Context) : (s.mapCx f).mem = s.mem := rfl
@[simp] theorem State.mapCx_tlb (s : State) (f : Context → Context) : (s.mapCx f).tlb = s.tlb := rfl
@[simp] theorem State.mapCx_keys (s : State) (f : Context → Context) : (s.mapCx f).keys = s.keys := rfl
@[simp] theorem State.mapCx_tables (s : State) (f : Context → Context) : (s.mapCx f).tables = s.tables := rfl
@[simp] theorem State.mapCx_tablesOld (s : State) (f : Context → Context) : (s.mapCx f).tablesOld = s.tablesOld := rfl
@[simp] theorem State.mapCx_plain (s : State) (f : Context → Context) : (s.mapCx f).plain = s.plain := rfl
@[simp] theorem State.mapCx_poison (s : State) (f : Context → Context) : (s.mapCx f).poison = s.poison := rfl
@[simp] theorem State.mapCx_stale (s : State) (f : Context → Context) : (s.mapCx f).stale = s.stale := rfl
@[simp] theorem State.mapCx_patrol (s : State) (f : Context → Context) : (s.mapCx f).patrol = s.patrol := rfl
@[simp] theorem State.mapCx_pool (s : State) (f : Context → Context) : (s.mapCx f).pool = s.pool := rfl
@[simp] theorem State.mapCx_migration (s : State) (f : Context → Context) : (s.mapCx f).migration = s.migration := rfl
@[simp] theorem State.mapCx_inputs (s : State) (f : Context → Context) : (s.mapCx f).inputs = s.inputs := rfl
@[simp] theorem State.mapCx_fromContext (s : State) (f : Context → Context) : (s.mapCx f).fromContext = s.fromContext := rfl
@[simp] theorem State.mapCx_tick (s : State) (f : Context → Context) : (s.mapCx f).tick = s.tick := rfl

@[simp] theorem State.retireWith_cur (s : State) (f : Context → Context) : (s.retireWith f).cur = s.cur := rfl
@[simp] theorem State.retireWith_cores (s : State) (f : Context → Context) : (s.retireWith f).cores = s.cores := rfl
@[simp] theorem State.retireWith_tiles (s : State) (f : Context → Context) : (s.retireWith f).tiles = s.tiles := rfl
@[simp] theorem State.retireWith_strs (s : State) (f : Context → Context) : (s.retireWith f).strs = s.strs := rfl
@[simp] theorem State.retireWith_dies (s : State) (f : Context → Context) : (s.retireWith f).dies = s.dies := rfl
@[simp] theorem State.retireWith_mill (s : State) (f : Context → Context) : (s.retireWith f).mill = s.mill := rfl
@[simp] theorem State.retireWith_fab (s : State) (f : Context → Context) : (s.retireWith f).fab = s.fab := rfl
@[simp] theorem State.retireWith_host (s : State) (f : Context → Context) : (s.retireWith f).host = s.host := rfl
@[simp] theorem State.retireWith_mem (s : State) (f : Context → Context) : (s.retireWith f).mem = s.mem := rfl
@[simp] theorem State.retireWith_tlb (s : State) (f : Context → Context) : (s.retireWith f).tlb = s.tlb := rfl
@[simp] theorem State.retireWith_keys (s : State) (f : Context → Context) : (s.retireWith f).keys = s.keys := rfl
@[simp] theorem State.retireWith_tables (s : State) (f : Context → Context) : (s.retireWith f).tables = s.tables := rfl
@[simp] theorem State.retireWith_tablesOld (s : State) (f : Context → Context) : (s.retireWith f).tablesOld = s.tablesOld := rfl
@[simp] theorem State.retireWith_plain (s : State) (f : Context → Context) : (s.retireWith f).plain = s.plain := rfl
@[simp] theorem State.retireWith_poison (s : State) (f : Context → Context) : (s.retireWith f).poison = s.poison := rfl
@[simp] theorem State.retireWith_stale (s : State) (f : Context → Context) : (s.retireWith f).stale = s.stale := rfl
@[simp] theorem State.retireWith_patrol (s : State) (f : Context → Context) : (s.retireWith f).patrol = s.patrol := rfl
@[simp] theorem State.retireWith_pool (s : State) (f : Context → Context) : (s.retireWith f).pool = s.pool := rfl
@[simp] theorem State.retireWith_migration (s : State) (f : Context → Context) : (s.retireWith f).migration = s.migration := rfl
@[simp] theorem State.retireWith_inputs (s : State) (f : Context → Context) : (s.retireWith f).inputs = s.inputs := rfl
@[simp] theorem State.retireWith_fromContext (s : State) (f : Context → Context) : (s.retireWith f).fromContext = s.fromContext := rfl
@[simp] theorem State.retireWith_tick (s : State) (f : Context → Context) : (s.retireWith f).tick = s.tick := rfl

@[simp] theorem State.draw_ctxs (s : State) : s.draw.2.ctxs = s.ctxs := rfl
@[simp] theorem State.draw_cur (s : State) : s.draw.2.cur = s.cur := rfl
@[simp] theorem State.draw_cores (s : State) : s.draw.2.cores = s.cores := rfl
@[simp] theorem State.draw_tiles (s : State) : s.draw.2.tiles = s.tiles := rfl
@[simp] theorem State.draw_strs (s : State) : s.draw.2.strs = s.strs := rfl
@[simp] theorem State.draw_dies (s : State) : s.draw.2.dies = s.dies := rfl
@[simp] theorem State.draw_mill (s : State) : s.draw.2.mill = s.mill := rfl
@[simp] theorem State.draw_fab (s : State) : s.draw.2.fab = s.fab := rfl
@[simp] theorem State.draw_host (s : State) : s.draw.2.host = s.host := rfl
@[simp] theorem State.draw_mem (s : State) : s.draw.2.mem = s.mem := rfl
@[simp] theorem State.draw_tlb (s : State) : s.draw.2.tlb = s.tlb := rfl
@[simp] theorem State.draw_keys (s : State) : s.draw.2.keys = s.keys := rfl
@[simp] theorem State.draw_tables (s : State) : s.draw.2.tables = s.tables := rfl
@[simp] theorem State.draw_tablesOld (s : State) : s.draw.2.tablesOld = s.tablesOld := rfl
@[simp] theorem State.draw_plain (s : State) : s.draw.2.plain = s.plain := rfl
@[simp] theorem State.draw_poison (s : State) : s.draw.2.poison = s.poison := rfl
@[simp] theorem State.draw_stale (s : State) : s.draw.2.stale = s.stale := rfl
@[simp] theorem State.draw_patrol (s : State) : s.draw.2.patrol = s.patrol := rfl
@[simp] theorem State.draw_pool (s : State) : s.draw.2.pool = s.pool := rfl
@[simp] theorem State.draw_migration (s : State) : s.draw.2.migration = s.migration := rfl
@[simp] theorem State.draw_inputs (s : State) : s.draw.2.inputs = s.inputs := rfl
@[simp] theorem State.draw_fromContext (s : State) : s.draw.2.fromContext = s.fromContext := rfl
@[simp] theorem State.draw_tick (s : State) : s.draw.2.tick = s.tick + 1 := rfl

/-! ### The parts after an update -/

theorem State.ctxAt_setCtx (s : State) (c n : Nat) (x : Context) :
    (s.setCtx c x).ctxAt n = if n = c then x else s.ctxAt n := tabGet_tabSet _ _ _ _ _

@[simp] theorem State.ctxAt_setCtx_self (s : State) (c : Nat) (x : Context) : (s.setCtx c x).ctxAt c = x :=
  tabGet_tabSet_self _ _ _ _

theorem State.coreAt_setCore (s : State) (c n : Nat) (x : Core) :
    (s.setCore c x).coreAt n = if n = c then x else s.coreAt n := tabGet_tabSet _ _ _ _ _

@[simp] theorem State.coreAt_setCore_self (s : State) (c : Nat) (x : Core) : (s.setCore c x).coreAt c = x :=
  tabGet_tabSet_self _ _ _ _

theorem State.tileAt_setTile (s : State) (c n : Nat) (x : Tile) :
    (s.setTile c x).tileAt n = if n = c then x else s.tileAt n := tabGet_tabSet _ _ _ _ _

@[simp] theorem State.tileAt_setTile_self (s : State) (c : Nat) (x : Tile) : (s.setTile c x).tileAt c = x :=
  tabGet_tabSet_self _ _ _ _

theorem State.strAt_setStr (s : State) (c n : Nat) (x : Str) :
    (s.setStr c x).strAt n = if n = c then x else s.strAt n := tabGet_tabSet _ _ _ _ _

@[simp] theorem State.strAt_setStr_self (s : State) (c : Nat) (x : Str) : (s.setStr c x).strAt c = x :=
  tabGet_tabSet_self _ _ _ _

theorem State.dieAt_setDie (s : State) (c n : Nat) (x : Die) :
    (s.setDie c x).dieAt n = if n = c then x else s.dieAt n := tabGet_tabSet _ _ _ _ _

@[simp] theorem State.dieAt_setDie_self (s : State) (c : Nat) (x : Die) : (s.setDie c x).dieAt c = x :=
  tabGet_tabSet_self _ _ _ _

@[simp] theorem State.cx_setCx (s : State) (x : Context) : (s.setCx x).cx = x := tabGet_tabSet_self _ _ _ _

@[simp] theorem State.cx_mapCx (s : State) (f : Context → Context) : (s.mapCx f).cx = f s.cx := s.cx_setCx _

@[simp] theorem State.cx_retireWith (s : State) (f : Context → Context) : (s.retireWith f).cx = (f s.cx).retire :=
  s.cx_setCx _

theorem State.ctxAt_setCx (s : State) (x : Context) (c : Nat) :
    (s.setCx x).ctxAt c = if c = s.cur then x else s.ctxAt c := s.ctxAt_setCtx _ _ _

theorem State.ctxAt_mapCx (s : State) (f : Context → Context) (c : Nat) :
    (s.mapCx f).ctxAt c = if c = s.cur then f s.cx else s.ctxAt c := s.ctxAt_setCtx _ _ _

theorem State.ctxAt_retireWith (s : State) (f : Context → Context) (c : Nat) :
    (s.retireWith f).ctxAt c = if c = s.cur then (f s.cx).retire else s.ctxAt c := s.ctxAt_setCtx _ _ _

/-- A change of one context leaves every other part of the machine as it was. -/
theorem State.mapCx_eq (s : State) (f : Context → Context) : s.mapCx f = { s with ctxs := (s.mapCx f).ctxs } := rfl

/-! ### A context after a scalar register or condition bit is written -/

@[simp] theorem Context.setReg_conds (x : Context) (r : BitVec 5) (v : Word) : (x.setReg r v).conds = x.conds := by
  unfold Context.setReg; split <;> rfl
@[simp] theorem Context.setReg_pc (x : Context) (r : BitVec 5) (v : Word) : (x.setReg r v).pc = x.pc := by
  unfold Context.setReg; split <;> rfl
@[simp] theorem Context.setReg_sup (x : Context) (r : BitVec 5) (v : Word) : (x.setReg r v).sup = x.sup := by
  unfold Context.setReg; split <;> rfl
@[simp] theorem Context.setReg_cvy (x : Context) (r : BitVec 5) (v : Word) : (x.setReg r v).cvy = x.cvy := by
  unfold Context.setReg; split <;> rfl
@[simp] theorem Context.setReg_wait (x : Context) (r : BitVec 5) (v : Word) : (x.setReg r v).wait = x.wait := by
  unfold Context.setReg; split <;> rfl
@[simp] theorem Context.setReg_stopped (x : Context) (r : BitVec 5) (v : Word) : (x.setReg r v).stopped = x.stopped := by
  unfold Context.setReg; split <;> rfl
@[simp] theorem Context.setReg_lanes (x : Context) (r : BitVec 5) (v : Word) : (x.setReg r v).lanes = x.lanes := by
  unfold Context.setReg; split <;> rfl
@[simp] theorem Context.setReg_vtype (x : Context) (r : BitVec 5) (v : Word) : (x.setReg r v).vtype = x.vtype := by
  unfold Context.setReg; split <;> rfl
@[simp] theorem Context.setReg_vrows (x : Context) (r : BitVec 5) (v : Word) : (x.setReg r v).vrows = x.vrows := by
  unfold Context.setReg; split <;> rfl
@[simp] theorem Context.setReg_vcols (x : Context) (r : BitVec 5) (v : Word) : (x.setReg r v).vcols = x.vcols := by
  unfold Context.setReg; split <;> rfl
@[simp] theorem Context.setReg_vregs (x : Context) (r : BitVec 5) (v : Word) : (x.setReg r v).vregs = x.vregs := by
  unfold Context.setReg; split <;> rfl
@[simp] theorem Context.setReg_scales (x : Context) (r : BitVec 5) (v : Word) : (x.setReg r v).scales = x.scales := by
  unfold Context.setReg; split <;> rfl
@[simp] theorem Context.setReg_vsElem (x : Context) (r : BitVec 5) (v : Word) : (x.setReg r v).vsElem = x.vsElem := by
  unfold Context.setReg; split <;> rfl
@[simp] theorem Context.setReg_vsMember (x : Context) (r : BitVec 5) (v : Word) : (x.setReg r v).vsMember = x.vsMember := by
  unfold Context.setReg; split <;> rfl
@[simp] theorem Context.setReg_fp (x : Context) (r : BitVec 5) (v : Word) : (x.setReg r v).fp = x.fp := by
  unfold Context.setReg; split <;> rfl
@[simp] theorem Context.setReg_mat (x : Context) (r : BitVec 5) (v : Word) : (x.setReg r v).mat = x.mat := by
  unfold Context.setReg; split <;> rfl
@[simp] theorem Context.setReg_mgCount (x : Context) (r : BitVec 5) (v : Word) : (x.setReg r v).mgCount = x.mgCount := by
  unfold Context.setReg; split <;> rfl
@[simp] theorem Context.setReg_mgFirst (x : Context) (r : BitVec 5) (v : Word) : (x.setReg r v).mgFirst = x.mgFirst := by
  unfold Context.setReg; split <;> rfl
@[simp] theorem Context.setReg_resthr (x : Context) (r : BitVec 5) (v : Word) : (x.setReg r v).resthr = x.resthr := by
  unfold Context.setReg; split <;> rfl
@[simp] theorem Context.setReg_ckmask (x : Context) (r : BitVec 5) (v : Word) : (x.setReg r v).ckmask = x.ckmask := by
  unfold Context.setReg; split <;> rfl
@[simp] theorem Context.setReg_loops (x : Context) (r : BitVec 5) (v : Word) : (x.setReg r v).loops = x.loops := by
  unfold Context.setReg; split <;> rfl
@[simp] theorem Context.setReg_ret (x : Context) (r : BitVec 5) (v : Word) : (x.setReg r v).ret = x.ret := by
  unfold Context.setReg; split <;> rfl
@[simp] theorem Context.setReg_ui (x : Context) (r : BitVec 5) (v : Word) : (x.setReg r v).ui = x.ui := by
  unfold Context.setReg; split <;> rfl
@[simp] theorem Context.setReg_trap (x : Context) (r : BitVec 5) (v : Word) : (x.setReg r v).trap = x.trap := by
  unfold Context.setReg; split <;> rfl
@[simp] theorem Context.setReg_chans (x : Context) (r : BitVec 5) (v : Word) : (x.setReg r v).chans = x.chans := by
  unfold Context.setReg; split <;> rfl
@[simp] theorem Context.setReg_recv (x : Context) (r : BitVec 5) (v : Word) : (x.setReg r v).recv = x.recv := by
  unfold Context.setReg; split <;> rfl
@[simp] theorem Context.setReg_space (x : Context) (r : BitVec 5) (v : Word) : (x.setReg r v).space = x.space := by
  unfold Context.setReg; split <;> rfl
@[simp] theorem Context.setReg_taskseq (x : Context) (r : BitVec 5) (v : Word) : (x.setReg r v).taskseq = x.taskseq := by
  unfold Context.setReg; split <;> rfl
@[simp] theorem Context.setReg_taskrec (x : Context) (r : BitVec 5) (v : Word) : (x.setReg r v).taskrec = x.taskrec := by
  unfold Context.setReg; split <;> rfl
@[simp] theorem Context.setReg_cpol (x : Context) (r : BitVec 5) (v : Word) : (x.setReg r v).cpol = x.cpol := by
  unfold Context.setReg; split <;> rfl
@[simp] theorem Context.setReg_adjV (x : Context) (r : BitVec 5) (v : Word) : (x.setReg r v).adjV = x.adjV := by
  unfold Context.setReg; split <;> rfl
@[simp] theorem Context.setReg_adjM (x : Context) (r : BitVec 5) (v : Word) : (x.setReg r v).adjM = x.adjM := by
  unfold Context.setReg; split <;> rfl
@[simp] theorem Context.setReg_cap (x : Context) (r : BitVec 5) (v : Word) : (x.setReg r v).cap = x.cap := by
  unfold Context.setReg; split <;> rfl
@[simp] theorem Context.setReg_capWaited (x : Context) (r : BitVec 5) (v : Word) : (x.setReg r v).capWaited = x.capWaited := by
  unfold Context.setReg; split <;> rfl
@[simp] theorem Context.setReg_capBack (x : Context) (r : BitVec 5) (v : Word) : (x.setReg r v).capBack = x.capBack := by
  unfold Context.setReg; split <;> rfl
@[simp] theorem Context.setReg_evict (x : Context) (r : BitVec 5) (v : Word) : (x.setReg r v).evict = x.evict := by
  unfold Context.setReg; split <;> rfl
@[simp] theorem Context.setReg_saveLen (x : Context) (r : BitVec 5) (v : Word) : (x.setReg r v).saveLen = x.saveLen := by
  unfold Context.setReg; split <;> rfl
@[simp] theorem Context.setReg_saveKind (x : Context) (r : BitVec 5) (v : Word) : (x.setReg r v).saveKind = x.saveKind := by
  unfold Context.setReg; split <;> rfl
@[simp] theorem Context.setReg_held (x : Context) (r : BitVec 5) (v : Word) : (x.setReg r v).held = x.held := by
  unfold Context.setReg; split <;> rfl
@[simp] theorem Context.setReg_pend (x : Context) (r : BitVec 5) (v : Word) : (x.setReg r v).pend = x.pend := by
  unfold Context.setReg; split <;> rfl
@[simp] theorem Context.setReg_appends (x : Context) (r : BitVec 5) (v : Word) : (x.setReg r v).appends = x.appends := by
  unfold Context.setReg; split <;> rfl
@[simp] theorem Context.setReg_strip (x : Context) (r : BitVec 5) (v : Word) : (x.setReg r v).strip = x.strip := by
  unfold Context.setReg; split <;> rfl
@[simp] theorem Context.setReg_ckpt (x : Context) (r : BitVec 5) (v : Word) : (x.setReg r v).ckpt = x.ckpt := by
  unfold Context.setReg; split <;> rfl
@[simp] theorem Context.setReg_redump (x : Context) (r : BitVec 5) (v : Word) : (x.setReg r v).redump = x.redump := by
  unfold Context.setReg; split <;> rfl
@[simp] theorem Context.setReg_qfault (x : Context) (r : BitVec 5) (v : Word) : (x.setReg r v).qfault = x.qfault := by
  unfold Context.setReg; split <;> rfl
@[simp] theorem Context.setReg_queue (x : Context) (r : BitVec 5) (v : Word) : (x.setReg r v).queue = x.queue := by
  unfold Context.setReg; split <;> rfl
@[simp] theorem Context.setReg_early (x : Context) (r : BitVec 5) (v : Word) : (x.setReg r v).early = x.early := by
  unfold Context.setReg; split <;> rfl
@[simp] theorem Context.setReg_pause (x : Context) (r : BitVec 5) (v : Word) : (x.setReg r v).pause = x.pause := by
  unfold Context.setReg; split <;> rfl
@[simp] theorem Context.setReg_defer (x : Context) (r : BitVec 5) (v : Word) : (x.setReg r v).defer = x.defer := by
  unfold Context.setReg; split <;> rfl
@[simp] theorem Context.setReg_notice (x : Context) (r : BitVec 5) (v : Word) : (x.setReg r v).notice = x.notice := by
  unfold Context.setReg; split <;> rfl
@[simp] theorem Context.setReg_wake (x : Context) (r : BitVec 5) (v : Word) : (x.setReg r v).wake = x.wake := by
  unfold Context.setReg; split <;> rfl
@[simp] theorem Context.setReg_task (x : Context) (r : BitVec 5) (v : Word) : (x.setReg r v).task = x.task := by
  unfold Context.setReg; split <;> rfl
@[simp] theorem Context.setReg_start (x : Context) (r : BitVec 5) (v : Word) : (x.setReg r v).start = x.start := by
  unfold Context.setReg; split <;> rfl
@[simp] theorem Context.setReg_saving (x : Context) (r : BitVec 5) (v : Word) : (x.setReg r v).saving = x.saving := by
  unfold Context.setReg; split <;> rfl
@[simp] theorem Context.setReg_ended (x : Context) (r : BitVec 5) (v : Word) : (x.setReg r v).ended = x.ended := by
  unfold Context.setReg; split <;> rfl
@[simp] theorem Context.setReg_rewaits (x : Context) (r : BitVec 5) (v : Word) : (x.setReg r v).rewaits = x.rewaits := by
  unfold Context.setReg; split <;> rfl
@[simp] theorem Context.setReg_fetched (x : Context) (r : BitVec 5) (v : Word) : (x.setReg r v).fetched = x.fetched := by
  unfold Context.setReg; split <;> rfl
@[simp] theorem Context.setReg_tally (x : Context) (r : BitVec 5) (v : Word) : (x.setReg r v).tally = x.tally := by
  unfold Context.setReg; split <;> rfl

@[simp] theorem Context.setCond_regs (x : Context) (r : BitVec 3) (v : Bool) : (x.setCond r v).regs = x.regs := by
  unfold Context.setCond; split <;> rfl
@[simp] theorem Context.setCond_pc (x : Context) (r : BitVec 3) (v : Bool) : (x.setCond r v).pc = x.pc := by
  unfold Context.setCond; split <;> rfl
@[simp] theorem Context.setCond_sup (x : Context) (r : BitVec 3) (v : Bool) : (x.setCond r v).sup = x.sup := by
  unfold Context.setCond; split <;> rfl
@[simp] theorem Context.setCond_cvy (x : Context) (r : BitVec 3) (v : Bool) : (x.setCond r v).cvy = x.cvy := by
  unfold Context.setCond; split <;> rfl
@[simp] theorem Context.setCond_wait (x : Context) (r : BitVec 3) (v : Bool) : (x.setCond r v).wait = x.wait := by
  unfold Context.setCond; split <;> rfl
@[simp] theorem Context.setCond_stopped (x : Context) (r : BitVec 3) (v : Bool) : (x.setCond r v).stopped = x.stopped := by
  unfold Context.setCond; split <;> rfl
@[simp] theorem Context.setCond_lanes (x : Context) (r : BitVec 3) (v : Bool) : (x.setCond r v).lanes = x.lanes := by
  unfold Context.setCond; split <;> rfl
@[simp] theorem Context.setCond_vtype (x : Context) (r : BitVec 3) (v : Bool) : (x.setCond r v).vtype = x.vtype := by
  unfold Context.setCond; split <;> rfl
@[simp] theorem Context.setCond_vrows (x : Context) (r : BitVec 3) (v : Bool) : (x.setCond r v).vrows = x.vrows := by
  unfold Context.setCond; split <;> rfl
@[simp] theorem Context.setCond_vcols (x : Context) (r : BitVec 3) (v : Bool) : (x.setCond r v).vcols = x.vcols := by
  unfold Context.setCond; split <;> rfl
@[simp] theorem Context.setCond_vregs (x : Context) (r : BitVec 3) (v : Bool) : (x.setCond r v).vregs = x.vregs := by
  unfold Context.setCond; split <;> rfl
@[simp] theorem Context.setCond_scales (x : Context) (r : BitVec 3) (v : Bool) : (x.setCond r v).scales = x.scales := by
  unfold Context.setCond; split <;> rfl
@[simp] theorem Context.setCond_vsElem (x : Context) (r : BitVec 3) (v : Bool) : (x.setCond r v).vsElem = x.vsElem := by
  unfold Context.setCond; split <;> rfl
@[simp] theorem Context.setCond_vsMember (x : Context) (r : BitVec 3) (v : Bool) : (x.setCond r v).vsMember = x.vsMember := by
  unfold Context.setCond; split <;> rfl
@[simp] theorem Context.setCond_fp (x : Context) (r : BitVec 3) (v : Bool) : (x.setCond r v).fp = x.fp := by
  unfold Context.setCond; split <;> rfl
@[simp] theorem Context.setCond_mat (x : Context) (r : BitVec 3) (v : Bool) : (x.setCond r v).mat = x.mat := by
  unfold Context.setCond; split <;> rfl
@[simp] theorem Context.setCond_mgCount (x : Context) (r : BitVec 3) (v : Bool) : (x.setCond r v).mgCount = x.mgCount := by
  unfold Context.setCond; split <;> rfl
@[simp] theorem Context.setCond_mgFirst (x : Context) (r : BitVec 3) (v : Bool) : (x.setCond r v).mgFirst = x.mgFirst := by
  unfold Context.setCond; split <;> rfl
@[simp] theorem Context.setCond_resthr (x : Context) (r : BitVec 3) (v : Bool) : (x.setCond r v).resthr = x.resthr := by
  unfold Context.setCond; split <;> rfl
@[simp] theorem Context.setCond_ckmask (x : Context) (r : BitVec 3) (v : Bool) : (x.setCond r v).ckmask = x.ckmask := by
  unfold Context.setCond; split <;> rfl
@[simp] theorem Context.setCond_loops (x : Context) (r : BitVec 3) (v : Bool) : (x.setCond r v).loops = x.loops := by
  unfold Context.setCond; split <;> rfl
@[simp] theorem Context.setCond_ret (x : Context) (r : BitVec 3) (v : Bool) : (x.setCond r v).ret = x.ret := by
  unfold Context.setCond; split <;> rfl
@[simp] theorem Context.setCond_ui (x : Context) (r : BitVec 3) (v : Bool) : (x.setCond r v).ui = x.ui := by
  unfold Context.setCond; split <;> rfl
@[simp] theorem Context.setCond_trap (x : Context) (r : BitVec 3) (v : Bool) : (x.setCond r v).trap = x.trap := by
  unfold Context.setCond; split <;> rfl
@[simp] theorem Context.setCond_chans (x : Context) (r : BitVec 3) (v : Bool) : (x.setCond r v).chans = x.chans := by
  unfold Context.setCond; split <;> rfl
@[simp] theorem Context.setCond_recv (x : Context) (r : BitVec 3) (v : Bool) : (x.setCond r v).recv = x.recv := by
  unfold Context.setCond; split <;> rfl
@[simp] theorem Context.setCond_space (x : Context) (r : BitVec 3) (v : Bool) : (x.setCond r v).space = x.space := by
  unfold Context.setCond; split <;> rfl
@[simp] theorem Context.setCond_taskseq (x : Context) (r : BitVec 3) (v : Bool) : (x.setCond r v).taskseq = x.taskseq := by
  unfold Context.setCond; split <;> rfl
@[simp] theorem Context.setCond_taskrec (x : Context) (r : BitVec 3) (v : Bool) : (x.setCond r v).taskrec = x.taskrec := by
  unfold Context.setCond; split <;> rfl
@[simp] theorem Context.setCond_cpol (x : Context) (r : BitVec 3) (v : Bool) : (x.setCond r v).cpol = x.cpol := by
  unfold Context.setCond; split <;> rfl
@[simp] theorem Context.setCond_adjV (x : Context) (r : BitVec 3) (v : Bool) : (x.setCond r v).adjV = x.adjV := by
  unfold Context.setCond; split <;> rfl
@[simp] theorem Context.setCond_adjM (x : Context) (r : BitVec 3) (v : Bool) : (x.setCond r v).adjM = x.adjM := by
  unfold Context.setCond; split <;> rfl
@[simp] theorem Context.setCond_cap (x : Context) (r : BitVec 3) (v : Bool) : (x.setCond r v).cap = x.cap := by
  unfold Context.setCond; split <;> rfl
@[simp] theorem Context.setCond_capWaited (x : Context) (r : BitVec 3) (v : Bool) : (x.setCond r v).capWaited = x.capWaited := by
  unfold Context.setCond; split <;> rfl
@[simp] theorem Context.setCond_capBack (x : Context) (r : BitVec 3) (v : Bool) : (x.setCond r v).capBack = x.capBack := by
  unfold Context.setCond; split <;> rfl
@[simp] theorem Context.setCond_evict (x : Context) (r : BitVec 3) (v : Bool) : (x.setCond r v).evict = x.evict := by
  unfold Context.setCond; split <;> rfl
@[simp] theorem Context.setCond_saveLen (x : Context) (r : BitVec 3) (v : Bool) : (x.setCond r v).saveLen = x.saveLen := by
  unfold Context.setCond; split <;> rfl
@[simp] theorem Context.setCond_saveKind (x : Context) (r : BitVec 3) (v : Bool) : (x.setCond r v).saveKind = x.saveKind := by
  unfold Context.setCond; split <;> rfl
@[simp] theorem Context.setCond_held (x : Context) (r : BitVec 3) (v : Bool) : (x.setCond r v).held = x.held := by
  unfold Context.setCond; split <;> rfl
@[simp] theorem Context.setCond_pend (x : Context) (r : BitVec 3) (v : Bool) : (x.setCond r v).pend = x.pend := by
  unfold Context.setCond; split <;> rfl
@[simp] theorem Context.setCond_appends (x : Context) (r : BitVec 3) (v : Bool) : (x.setCond r v).appends = x.appends := by
  unfold Context.setCond; split <;> rfl
@[simp] theorem Context.setCond_strip (x : Context) (r : BitVec 3) (v : Bool) : (x.setCond r v).strip = x.strip := by
  unfold Context.setCond; split <;> rfl
@[simp] theorem Context.setCond_ckpt (x : Context) (r : BitVec 3) (v : Bool) : (x.setCond r v).ckpt = x.ckpt := by
  unfold Context.setCond; split <;> rfl
@[simp] theorem Context.setCond_redump (x : Context) (r : BitVec 3) (v : Bool) : (x.setCond r v).redump = x.redump := by
  unfold Context.setCond; split <;> rfl
@[simp] theorem Context.setCond_qfault (x : Context) (r : BitVec 3) (v : Bool) : (x.setCond r v).qfault = x.qfault := by
  unfold Context.setCond; split <;> rfl
@[simp] theorem Context.setCond_queue (x : Context) (r : BitVec 3) (v : Bool) : (x.setCond r v).queue = x.queue := by
  unfold Context.setCond; split <;> rfl
@[simp] theorem Context.setCond_early (x : Context) (r : BitVec 3) (v : Bool) : (x.setCond r v).early = x.early := by
  unfold Context.setCond; split <;> rfl
@[simp] theorem Context.setCond_pause (x : Context) (r : BitVec 3) (v : Bool) : (x.setCond r v).pause = x.pause := by
  unfold Context.setCond; split <;> rfl
@[simp] theorem Context.setCond_defer (x : Context) (r : BitVec 3) (v : Bool) : (x.setCond r v).defer = x.defer := by
  unfold Context.setCond; split <;> rfl
@[simp] theorem Context.setCond_notice (x : Context) (r : BitVec 3) (v : Bool) : (x.setCond r v).notice = x.notice := by
  unfold Context.setCond; split <;> rfl
@[simp] theorem Context.setCond_wake (x : Context) (r : BitVec 3) (v : Bool) : (x.setCond r v).wake = x.wake := by
  unfold Context.setCond; split <;> rfl
@[simp] theorem Context.setCond_task (x : Context) (r : BitVec 3) (v : Bool) : (x.setCond r v).task = x.task := by
  unfold Context.setCond; split <;> rfl
@[simp] theorem Context.setCond_start (x : Context) (r : BitVec 3) (v : Bool) : (x.setCond r v).start = x.start := by
  unfold Context.setCond; split <;> rfl
@[simp] theorem Context.setCond_saving (x : Context) (r : BitVec 3) (v : Bool) : (x.setCond r v).saving = x.saving := by
  unfold Context.setCond; split <;> rfl
@[simp] theorem Context.setCond_ended (x : Context) (r : BitVec 3) (v : Bool) : (x.setCond r v).ended = x.ended := by
  unfold Context.setCond; split <;> rfl
@[simp] theorem Context.setCond_rewaits (x : Context) (r : BitVec 3) (v : Bool) : (x.setCond r v).rewaits = x.rewaits := by
  unfold Context.setCond; split <;> rfl
@[simp] theorem Context.setCond_fetched (x : Context) (r : BitVec 3) (v : Bool) : (x.setCond r v).fetched = x.fetched := by
  unfold Context.setCond; split <;> rfl
@[simp] theorem Context.setCond_tally (x : Context) (r : BitVec 3) (v : Bool) : (x.setCond r v).tally = x.tally := by
  unfold Context.setCond; split <;> rfl

/-! ### A context after its word retires -/

@[simp] theorem Context.countConvoy_regs (x : Context) : x.countConvoy.regs = x.regs := by
  unfold Context.countConvoy; split <;> (try split) <;> rfl
@[simp] theorem Context.countConvoy_conds (x : Context) : x.countConvoy.conds = x.conds := by
  unfold Context.countConvoy; split <;> (try split) <;> rfl
@[simp] theorem Context.countConvoy_pc (x : Context) : x.countConvoy.pc = x.pc := by
  unfold Context.countConvoy; split <;> (try split) <;> rfl
@[simp] theorem Context.countConvoy_sup (x : Context) : x.countConvoy.sup = x.sup := by
  unfold Context.countConvoy; split <;> (try split) <;> rfl
@[simp] theorem Context.countConvoy_cvy (x : Context) : x.countConvoy.cvy = x.cvy := by
  unfold Context.countConvoy; split <;> (try split) <;> rfl
@[simp] theorem Context.countConvoy_wait (x : Context) : x.countConvoy.wait = x.wait := by
  unfold Context.countConvoy; split <;> (try split) <;> rfl
@[simp] theorem Context.countConvoy_stopped (x : Context) : x.countConvoy.stopped = x.stopped := by
  unfold Context.countConvoy; split <;> (try split) <;> rfl
@[simp] theorem Context.countConvoy_lanes (x : Context) : x.countConvoy.lanes = x.lanes := by
  unfold Context.countConvoy; split <;> (try split) <;> rfl
@[simp] theorem Context.countConvoy_vtype (x : Context) : x.countConvoy.vtype = x.vtype := by
  unfold Context.countConvoy; split <;> (try split) <;> rfl
@[simp] theorem Context.countConvoy_vrows (x : Context) : x.countConvoy.vrows = x.vrows := by
  unfold Context.countConvoy; split <;> (try split) <;> rfl
@[simp] theorem Context.countConvoy_vcols (x : Context) : x.countConvoy.vcols = x.vcols := by
  unfold Context.countConvoy; split <;> (try split) <;> rfl
@[simp] theorem Context.countConvoy_vregs (x : Context) : x.countConvoy.vregs = x.vregs := by
  unfold Context.countConvoy; split <;> (try split) <;> rfl
@[simp] theorem Context.countConvoy_scales (x : Context) : x.countConvoy.scales = x.scales := by
  unfold Context.countConvoy; split <;> (try split) <;> rfl
@[simp] theorem Context.countConvoy_vsElem (x : Context) : x.countConvoy.vsElem = x.vsElem := by
  unfold Context.countConvoy; split <;> (try split) <;> rfl
@[simp] theorem Context.countConvoy_vsMember (x : Context) : x.countConvoy.vsMember = x.vsMember := by
  unfold Context.countConvoy; split <;> (try split) <;> rfl
@[simp] theorem Context.countConvoy_fp (x : Context) : x.countConvoy.fp = x.fp := by
  unfold Context.countConvoy; split <;> (try split) <;> rfl
@[simp] theorem Context.countConvoy_mat (x : Context) : x.countConvoy.mat = x.mat := by
  unfold Context.countConvoy; split <;> (try split) <;> rfl
@[simp] theorem Context.countConvoy_mgCount (x : Context) : x.countConvoy.mgCount = x.mgCount := by
  unfold Context.countConvoy; split <;> (try split) <;> rfl
@[simp] theorem Context.countConvoy_mgFirst (x : Context) : x.countConvoy.mgFirst = x.mgFirst := by
  unfold Context.countConvoy; split <;> (try split) <;> rfl
@[simp] theorem Context.countConvoy_resthr (x : Context) : x.countConvoy.resthr = x.resthr := by
  unfold Context.countConvoy; split <;> (try split) <;> rfl
@[simp] theorem Context.countConvoy_ckmask (x : Context) : x.countConvoy.ckmask = x.ckmask := by
  unfold Context.countConvoy; split <;> (try split) <;> rfl
@[simp] theorem Context.countConvoy_loops (x : Context) : x.countConvoy.loops = x.loops := by
  unfold Context.countConvoy; split <;> (try split) <;> rfl
@[simp] theorem Context.countConvoy_ret (x : Context) : x.countConvoy.ret = x.ret := by
  unfold Context.countConvoy; split <;> (try split) <;> rfl
@[simp] theorem Context.countConvoy_ui (x : Context) : x.countConvoy.ui = x.ui := by
  unfold Context.countConvoy; split <;> (try split) <;> rfl
@[simp] theorem Context.countConvoy_trap (x : Context) : x.countConvoy.trap = x.trap := by
  unfold Context.countConvoy; split <;> (try split) <;> rfl
@[simp] theorem Context.countConvoy_chans (x : Context) : x.countConvoy.chans = x.chans := by
  unfold Context.countConvoy; split <;> (try split) <;> rfl
@[simp] theorem Context.countConvoy_recv (x : Context) : x.countConvoy.recv = x.recv := by
  unfold Context.countConvoy; split <;> (try split) <;> rfl
@[simp] theorem Context.countConvoy_space (x : Context) : x.countConvoy.space = x.space := by
  unfold Context.countConvoy; split <;> (try split) <;> rfl
@[simp] theorem Context.countConvoy_taskseq (x : Context) : x.countConvoy.taskseq = x.taskseq := by
  unfold Context.countConvoy; split <;> (try split) <;> rfl
@[simp] theorem Context.countConvoy_taskrec (x : Context) : x.countConvoy.taskrec = x.taskrec := by
  unfold Context.countConvoy; split <;> (try split) <;> rfl
@[simp] theorem Context.countConvoy_cpol (x : Context) : x.countConvoy.cpol = x.cpol := by
  unfold Context.countConvoy; split <;> (try split) <;> rfl
@[simp] theorem Context.countConvoy_adjV (x : Context) : x.countConvoy.adjV = x.adjV := by
  unfold Context.countConvoy; split <;> (try split) <;> rfl
@[simp] theorem Context.countConvoy_adjM (x : Context) : x.countConvoy.adjM = x.adjM := by
  unfold Context.countConvoy; split <;> (try split) <;> rfl
@[simp] theorem Context.countConvoy_cap (x : Context) : x.countConvoy.cap = x.cap := by
  unfold Context.countConvoy; split <;> (try split) <;> rfl
@[simp] theorem Context.countConvoy_capWaited (x : Context) : x.countConvoy.capWaited = x.capWaited := by
  unfold Context.countConvoy; split <;> (try split) <;> rfl
@[simp] theorem Context.countConvoy_capBack (x : Context) : x.countConvoy.capBack = x.capBack := by
  unfold Context.countConvoy; split <;> (try split) <;> rfl
@[simp] theorem Context.countConvoy_evict (x : Context) : x.countConvoy.evict = x.evict := by
  unfold Context.countConvoy; split <;> (try split) <;> rfl
@[simp] theorem Context.countConvoy_saveLen (x : Context) : x.countConvoy.saveLen = x.saveLen := by
  unfold Context.countConvoy; split <;> (try split) <;> rfl
@[simp] theorem Context.countConvoy_saveKind (x : Context) : x.countConvoy.saveKind = x.saveKind := by
  unfold Context.countConvoy; split <;> (try split) <;> rfl
@[simp] theorem Context.countConvoy_held (x : Context) : x.countConvoy.held = x.held := by
  unfold Context.countConvoy; split <;> (try split) <;> rfl
@[simp] theorem Context.countConvoy_pend (x : Context) : x.countConvoy.pend = x.pend := by
  unfold Context.countConvoy; split <;> (try split) <;> rfl
@[simp] theorem Context.countConvoy_appends (x : Context) : x.countConvoy.appends = x.appends := by
  unfold Context.countConvoy; split <;> (try split) <;> rfl
@[simp] theorem Context.countConvoy_strip (x : Context) : x.countConvoy.strip = x.strip := by
  unfold Context.countConvoy; split <;> (try split) <;> rfl
@[simp] theorem Context.countConvoy_ckpt (x : Context) : x.countConvoy.ckpt = x.ckpt := by
  unfold Context.countConvoy; split <;> (try split) <;> rfl
@[simp] theorem Context.countConvoy_redump (x : Context) : x.countConvoy.redump = x.redump := by
  unfold Context.countConvoy; split <;> (try split) <;> rfl
@[simp] theorem Context.countConvoy_qfault (x : Context) : x.countConvoy.qfault = x.qfault := by
  unfold Context.countConvoy; split <;> (try split) <;> rfl
@[simp] theorem Context.countConvoy_queue (x : Context) : x.countConvoy.queue = x.queue := by
  unfold Context.countConvoy; split <;> (try split) <;> rfl
@[simp] theorem Context.countConvoy_early (x : Context) : x.countConvoy.early = x.early := by
  unfold Context.countConvoy; split <;> (try split) <;> rfl
@[simp] theorem Context.countConvoy_pause (x : Context) : x.countConvoy.pause = x.pause := by
  unfold Context.countConvoy; split <;> (try split) <;> rfl
@[simp] theorem Context.countConvoy_defer (x : Context) : x.countConvoy.defer = x.defer := by
  unfold Context.countConvoy; split <;> (try split) <;> rfl
@[simp] theorem Context.countConvoy_wake (x : Context) : x.countConvoy.wake = x.wake := by
  unfold Context.countConvoy; split <;> (try split) <;> rfl
@[simp] theorem Context.countConvoy_task (x : Context) : x.countConvoy.task = x.task := by
  unfold Context.countConvoy; split <;> (try split) <;> rfl
@[simp] theorem Context.countConvoy_start (x : Context) : x.countConvoy.start = x.start := by
  unfold Context.countConvoy; split <;> (try split) <;> rfl
@[simp] theorem Context.countConvoy_saving (x : Context) : x.countConvoy.saving = x.saving := by
  unfold Context.countConvoy; split <;> (try split) <;> rfl
@[simp] theorem Context.countConvoy_ended (x : Context) : x.countConvoy.ended = x.ended := by
  unfold Context.countConvoy; split <;> (try split) <;> rfl
@[simp] theorem Context.countConvoy_rewaits (x : Context) : x.countConvoy.rewaits = x.rewaits := by
  unfold Context.countConvoy; split <;> (try split) <;> rfl
@[simp] theorem Context.countConvoy_fetched (x : Context) : x.countConvoy.fetched = x.fetched := by
  unfold Context.countConvoy; split <;> (try split) <;> rfl
@[simp] theorem Context.countConvoy_tally (x : Context) : x.countConvoy.tally = x.tally := by
  unfold Context.countConvoy; split <;> (try split) <;> rfl

@[simp] theorem Context.goto_regs (x : Context) (pc : Word) : (x.goto pc).regs = x.regs := x.countConvoy_regs
@[simp] theorem Context.goto_conds (x : Context) (pc : Word) : (x.goto pc).conds = x.conds := x.countConvoy_conds
@[simp] theorem Context.goto_pc (x : Context) (pc : Word) : (x.goto pc).pc = pc := rfl
@[simp] theorem Context.goto_sup (x : Context) (pc : Word) : (x.goto pc).sup = x.sup := x.countConvoy_sup
@[simp] theorem Context.goto_cvy (x : Context) (pc : Word) : (x.goto pc).cvy = none := rfl
@[simp] theorem Context.goto_wait (x : Context) (pc : Word) : (x.goto pc).wait = none := rfl
@[simp] theorem Context.goto_stopped (x : Context) (pc : Word) : (x.goto pc).stopped = x.stopped := x.countConvoy_stopped
@[simp] theorem Context.goto_lanes (x : Context) (pc : Word) : (x.goto pc).lanes = x.lanes := x.countConvoy_lanes
@[simp] theorem Context.goto_vtype (x : Context) (pc : Word) : (x.goto pc).vtype = x.vtype := x.countConvoy_vtype
@[simp] theorem Context.goto_vrows (x : Context) (pc : Word) : (x.goto pc).vrows = x.vrows := x.countConvoy_vrows
@[simp] theorem Context.goto_vcols (x : Context) (pc : Word) : (x.goto pc).vcols = x.vcols := x.countConvoy_vcols
@[simp] theorem Context.goto_vregs (x : Context) (pc : Word) : (x.goto pc).vregs = x.vregs := x.countConvoy_vregs
@[simp] theorem Context.goto_scales (x : Context) (pc : Word) : (x.goto pc).scales = x.scales := x.countConvoy_scales
@[simp] theorem Context.goto_vsElem (x : Context) (pc : Word) : (x.goto pc).vsElem = x.vsElem := x.countConvoy_vsElem
@[simp] theorem Context.goto_vsMember (x : Context) (pc : Word) : (x.goto pc).vsMember = x.vsMember := x.countConvoy_vsMember
@[simp] theorem Context.goto_fp (x : Context) (pc : Word) : (x.goto pc).fp = x.fp := x.countConvoy_fp
@[simp] theorem Context.goto_mat (x : Context) (pc : Word) : (x.goto pc).mat = x.mat := x.countConvoy_mat
@[simp] theorem Context.goto_mgCount (x : Context) (pc : Word) : (x.goto pc).mgCount = x.mgCount := x.countConvoy_mgCount
@[simp] theorem Context.goto_mgFirst (x : Context) (pc : Word) : (x.goto pc).mgFirst = x.mgFirst := x.countConvoy_mgFirst
@[simp] theorem Context.goto_resthr (x : Context) (pc : Word) : (x.goto pc).resthr = x.resthr := x.countConvoy_resthr
@[simp] theorem Context.goto_ckmask (x : Context) (pc : Word) : (x.goto pc).ckmask = x.ckmask := x.countConvoy_ckmask
@[simp] theorem Context.goto_loops (x : Context) (pc : Word) : (x.goto pc).loops = x.loops := x.countConvoy_loops
@[simp] theorem Context.goto_ret (x : Context) (pc : Word) : (x.goto pc).ret = x.ret := x.countConvoy_ret
@[simp] theorem Context.goto_ui (x : Context) (pc : Word) : (x.goto pc).ui = x.ui := x.countConvoy_ui
@[simp] theorem Context.goto_trap (x : Context) (pc : Word) : (x.goto pc).trap = x.trap := x.countConvoy_trap
@[simp] theorem Context.goto_chans (x : Context) (pc : Word) : (x.goto pc).chans = x.chans := x.countConvoy_chans
@[simp] theorem Context.goto_recv (x : Context) (pc : Word) : (x.goto pc).recv = x.recv := x.countConvoy_recv
@[simp] theorem Context.goto_space (x : Context) (pc : Word) : (x.goto pc).space = x.space := x.countConvoy_space
@[simp] theorem Context.goto_taskseq (x : Context) (pc : Word) : (x.goto pc).taskseq = x.taskseq := x.countConvoy_taskseq
@[simp] theorem Context.goto_taskrec (x : Context) (pc : Word) : (x.goto pc).taskrec = x.taskrec := x.countConvoy_taskrec
@[simp] theorem Context.goto_cpol (x : Context) (pc : Word) : (x.goto pc).cpol = x.cpol := x.countConvoy_cpol
@[simp] theorem Context.goto_adjV (x : Context) (pc : Word) : (x.goto pc).adjV = x.adjV := x.countConvoy_adjV
@[simp] theorem Context.goto_adjM (x : Context) (pc : Word) : (x.goto pc).adjM = x.adjM := x.countConvoy_adjM
@[simp] theorem Context.goto_cap (x : Context) (pc : Word) : (x.goto pc).cap = x.cap := x.countConvoy_cap
@[simp] theorem Context.goto_capWaited (x : Context) (pc : Word) : (x.goto pc).capWaited = x.capWaited := x.countConvoy_capWaited
@[simp] theorem Context.goto_capBack (x : Context) (pc : Word) : (x.goto pc).capBack = x.capBack := x.countConvoy_capBack
@[simp] theorem Context.goto_evict (x : Context) (pc : Word) : (x.goto pc).evict = x.evict := x.countConvoy_evict
@[simp] theorem Context.goto_saveLen (x : Context) (pc : Word) : (x.goto pc).saveLen = x.saveLen := x.countConvoy_saveLen
@[simp] theorem Context.goto_saveKind (x : Context) (pc : Word) : (x.goto pc).saveKind = x.saveKind := x.countConvoy_saveKind
@[simp] theorem Context.goto_held (x : Context) (pc : Word) : (x.goto pc).held = x.held := x.countConvoy_held
@[simp] theorem Context.goto_pend (x : Context) (pc : Word) : (x.goto pc).pend = x.pend := x.countConvoy_pend
@[simp] theorem Context.goto_appends (x : Context) (pc : Word) : (x.goto pc).appends = x.appends := x.countConvoy_appends
@[simp] theorem Context.goto_strip (x : Context) (pc : Word) : (x.goto pc).strip = x.strip := x.countConvoy_strip
@[simp] theorem Context.goto_ckpt (x : Context) (pc : Word) : (x.goto pc).ckpt = x.ckpt := x.countConvoy_ckpt
@[simp] theorem Context.goto_redump (x : Context) (pc : Word) : (x.goto pc).redump = x.redump := x.countConvoy_redump
@[simp] theorem Context.goto_qfault (x : Context) (pc : Word) : (x.goto pc).qfault = x.qfault := x.countConvoy_qfault
@[simp] theorem Context.goto_queue (x : Context) (pc : Word) : (x.goto pc).queue = x.queue := x.countConvoy_queue
@[simp] theorem Context.goto_early (x : Context) (pc : Word) : (x.goto pc).early = x.early := x.countConvoy_early
@[simp] theorem Context.goto_pause (x : Context) (pc : Word) : (x.goto pc).pause = x.pause := x.countConvoy_pause
@[simp] theorem Context.goto_defer (x : Context) (pc : Word) : (x.goto pc).defer = x.defer := x.countConvoy_defer
@[simp] theorem Context.goto_wake (x : Context) (pc : Word) : (x.goto pc).wake = x.wake := x.countConvoy_wake
@[simp] theorem Context.goto_task (x : Context) (pc : Word) : (x.goto pc).task = x.task := x.countConvoy_task
@[simp] theorem Context.goto_start (x : Context) (pc : Word) : (x.goto pc).start = x.start := x.countConvoy_start
@[simp] theorem Context.goto_saving (x : Context) (pc : Word) : (x.goto pc).saving = x.saving := x.countConvoy_saving
@[simp] theorem Context.goto_ended (x : Context) (pc : Word) : (x.goto pc).ended = x.ended := x.countConvoy_ended
@[simp] theorem Context.goto_rewaits (x : Context) (pc : Word) : (x.goto pc).rewaits = x.rewaits := x.countConvoy_rewaits
@[simp] theorem Context.goto_fetched (x : Context) (pc : Word) : (x.goto pc).fetched = x.fetched := x.countConvoy_fetched
@[simp] theorem Context.goto_tally (x : Context) (pc : Word) : (x.goto pc).tally = x.tally := x.countConvoy_tally

@[simp] theorem Context.retire_regs (x : Context) : x.retire.regs = x.regs := x.goto_regs x.nextPc
@[simp] theorem Context.retire_conds (x : Context) : x.retire.conds = x.conds := x.goto_conds x.nextPc
@[simp] theorem Context.retire_pc (x : Context) : x.retire.pc = x.nextPc := x.goto_pc x.nextPc
@[simp] theorem Context.retire_sup (x : Context) : x.retire.sup = x.sup := x.goto_sup x.nextPc
@[simp] theorem Context.retire_cvy (x : Context) : x.retire.cvy = none := x.goto_cvy x.nextPc
@[simp] theorem Context.retire_wait (x : Context) : x.retire.wait = none := x.goto_wait x.nextPc
@[simp] theorem Context.retire_stopped (x : Context) : x.retire.stopped = x.stopped := x.goto_stopped x.nextPc
@[simp] theorem Context.retire_lanes (x : Context) : x.retire.lanes = x.lanes := x.goto_lanes x.nextPc
@[simp] theorem Context.retire_vtype (x : Context) : x.retire.vtype = x.vtype := x.goto_vtype x.nextPc
@[simp] theorem Context.retire_vrows (x : Context) : x.retire.vrows = x.vrows := x.goto_vrows x.nextPc
@[simp] theorem Context.retire_vcols (x : Context) : x.retire.vcols = x.vcols := x.goto_vcols x.nextPc
@[simp] theorem Context.retire_vregs (x : Context) : x.retire.vregs = x.vregs := x.goto_vregs x.nextPc
@[simp] theorem Context.retire_scales (x : Context) : x.retire.scales = x.scales := x.goto_scales x.nextPc
@[simp] theorem Context.retire_vsElem (x : Context) : x.retire.vsElem = x.vsElem := x.goto_vsElem x.nextPc
@[simp] theorem Context.retire_vsMember (x : Context) : x.retire.vsMember = x.vsMember := x.goto_vsMember x.nextPc
@[simp] theorem Context.retire_fp (x : Context) : x.retire.fp = x.fp := x.goto_fp x.nextPc
@[simp] theorem Context.retire_mat (x : Context) : x.retire.mat = x.mat := x.goto_mat x.nextPc
@[simp] theorem Context.retire_mgCount (x : Context) : x.retire.mgCount = x.mgCount := x.goto_mgCount x.nextPc
@[simp] theorem Context.retire_mgFirst (x : Context) : x.retire.mgFirst = x.mgFirst := x.goto_mgFirst x.nextPc
@[simp] theorem Context.retire_resthr (x : Context) : x.retire.resthr = x.resthr := x.goto_resthr x.nextPc
@[simp] theorem Context.retire_ckmask (x : Context) : x.retire.ckmask = x.ckmask := x.goto_ckmask x.nextPc
@[simp] theorem Context.retire_loops (x : Context) : x.retire.loops = x.loops := x.goto_loops x.nextPc
@[simp] theorem Context.retire_ret (x : Context) : x.retire.ret = x.ret := x.goto_ret x.nextPc
@[simp] theorem Context.retire_ui (x : Context) : x.retire.ui = x.ui := x.goto_ui x.nextPc
@[simp] theorem Context.retire_trap (x : Context) : x.retire.trap = x.trap := x.goto_trap x.nextPc
@[simp] theorem Context.retire_chans (x : Context) : x.retire.chans = x.chans := x.goto_chans x.nextPc
@[simp] theorem Context.retire_recv (x : Context) : x.retire.recv = x.recv := x.goto_recv x.nextPc
@[simp] theorem Context.retire_space (x : Context) : x.retire.space = x.space := x.goto_space x.nextPc
@[simp] theorem Context.retire_taskseq (x : Context) : x.retire.taskseq = x.taskseq := x.goto_taskseq x.nextPc
@[simp] theorem Context.retire_taskrec (x : Context) : x.retire.taskrec = x.taskrec := x.goto_taskrec x.nextPc
@[simp] theorem Context.retire_cpol (x : Context) : x.retire.cpol = x.cpol := x.goto_cpol x.nextPc
@[simp] theorem Context.retire_adjV (x : Context) : x.retire.adjV = x.adjV := x.goto_adjV x.nextPc
@[simp] theorem Context.retire_adjM (x : Context) : x.retire.adjM = x.adjM := x.goto_adjM x.nextPc
@[simp] theorem Context.retire_cap (x : Context) : x.retire.cap = x.cap := x.goto_cap x.nextPc
@[simp] theorem Context.retire_capWaited (x : Context) : x.retire.capWaited = x.capWaited := x.goto_capWaited x.nextPc
@[simp] theorem Context.retire_capBack (x : Context) : x.retire.capBack = x.capBack := x.goto_capBack x.nextPc
@[simp] theorem Context.retire_evict (x : Context) : x.retire.evict = x.evict := x.goto_evict x.nextPc
@[simp] theorem Context.retire_saveLen (x : Context) : x.retire.saveLen = x.saveLen := x.goto_saveLen x.nextPc
@[simp] theorem Context.retire_saveKind (x : Context) : x.retire.saveKind = x.saveKind := x.goto_saveKind x.nextPc
@[simp] theorem Context.retire_held (x : Context) : x.retire.held = x.held := x.goto_held x.nextPc
@[simp] theorem Context.retire_pend (x : Context) : x.retire.pend = x.pend := x.goto_pend x.nextPc
@[simp] theorem Context.retire_appends (x : Context) : x.retire.appends = x.appends := x.goto_appends x.nextPc
@[simp] theorem Context.retire_strip (x : Context) : x.retire.strip = x.strip := x.goto_strip x.nextPc
@[simp] theorem Context.retire_ckpt (x : Context) : x.retire.ckpt = x.ckpt := x.goto_ckpt x.nextPc
@[simp] theorem Context.retire_redump (x : Context) : x.retire.redump = x.redump := x.goto_redump x.nextPc
@[simp] theorem Context.retire_qfault (x : Context) : x.retire.qfault = x.qfault := x.goto_qfault x.nextPc
@[simp] theorem Context.retire_queue (x : Context) : x.retire.queue = x.queue := x.goto_queue x.nextPc
@[simp] theorem Context.retire_early (x : Context) : x.retire.early = x.early := x.goto_early x.nextPc
@[simp] theorem Context.retire_pause (x : Context) : x.retire.pause = x.pause := x.goto_pause x.nextPc
@[simp] theorem Context.retire_defer (x : Context) : x.retire.defer = x.defer := x.goto_defer x.nextPc
@[simp] theorem Context.retire_wake (x : Context) : x.retire.wake = x.wake := x.goto_wake x.nextPc
@[simp] theorem Context.retire_task (x : Context) : x.retire.task = x.task := x.goto_task x.nextPc
@[simp] theorem Context.retire_start (x : Context) : x.retire.start = x.start := x.goto_start x.nextPc
@[simp] theorem Context.retire_saving (x : Context) : x.retire.saving = x.saving := x.goto_saving x.nextPc
@[simp] theorem Context.retire_ended (x : Context) : x.retire.ended = x.ended := x.goto_ended x.nextPc
@[simp] theorem Context.retire_rewaits (x : Context) : x.retire.rewaits = x.rewaits := x.goto_rewaits x.nextPc
@[simp] theorem Context.retire_fetched (x : Context) : x.retire.fetched = x.fetched := x.goto_fetched x.nextPc
@[simp] theorem Context.retire_tally (x : Context) : x.retire.tally = x.tally := x.goto_tally x.nextPc
/-! ### Contexts and states are equal when their fields are -/

theorem Context.eq_of_fields {x y : Context}
    (h0 : x.regs = y.regs) (h1 : x.conds = y.conds) (h2 : x.pc = y.pc) (h3 : x.sup = y.sup) (h4 : x.cvy = y.cvy)
    (h5 : x.wait = y.wait) (h6 : x.stopped = y.stopped) (h7 : x.lanes = y.lanes) (h8 : x.vtype = y.vtype)
    (h9 : x.vrows = y.vrows) (h10 : x.vcols = y.vcols) (h11 : x.vregs = y.vregs) (h12 : x.scales = y.scales)
    (h13 : x.vsElem = y.vsElem) (h14 : x.vsMember = y.vsMember) (h15 : x.fp = y.fp) (h16 : x.mat = y.mat)
    (h17 : x.mgCount = y.mgCount) (h18 : x.mgFirst = y.mgFirst) (h19 : x.resthr = y.resthr)
    (h20 : x.ckmask = y.ckmask) (h21 : x.loops = y.loops) (h22 : x.ret = y.ret) (h23 : x.ui = y.ui)
    (h24 : x.trap = y.trap) (h25 : x.chans = y.chans) (h26 : x.recv = y.recv) (h27 : x.space = y.space)
    (h28 : x.taskseq = y.taskseq) (h29 : x.taskrec = y.taskrec) (h30 : x.cpol = y.cpol) (h31 : x.adjV = y.adjV)
    (h32 : x.adjM = y.adjM) (h33 : x.cap = y.cap) (h34 : x.capWaited = y.capWaited) (h35 : x.capBack = y.capBack)
    (h36 : x.evict = y.evict) (h37 : x.saveLen = y.saveLen) (h38 : x.saveKind = y.saveKind) (h39 : x.held = y.held)
    (h40 : x.pend = y.pend) (h41 : x.appends = y.appends) (h42 : x.strip = y.strip) (h43 : x.ckpt = y.ckpt)
    (h44 : x.redump = y.redump) (h45 : x.qfault = y.qfault) (h46 : x.queue = y.queue) (h47 : x.early = y.early)
    (h48 : x.pause = y.pause) (h49 : x.defer = y.defer) (h50 : x.notice = y.notice) (h51 : x.wake = y.wake)
    (h52 : x.task = y.task) (h53 : x.start = y.start) (h54 : x.saving = y.saving) (h55 : x.ended = y.ended)
    (h56 : x.rewaits = y.rewaits) (h57 : x.fetched = y.fetched) (h58 : x.tally = y.tally) : x = y := by
  cases x; cases y; simp only at *; subst_vars; rfl

theorem State.eq_of_fields {s t : State}
    (h0 : s.ctxs = t.ctxs) (h1 : s.cur = t.cur) (h2 : s.cores = t.cores) (h3 : s.tiles = t.tiles)
    (h4 : s.strs = t.strs) (h5 : s.dies = t.dies) (h6 : s.mill = t.mill) (h7 : s.fab = t.fab) (h8 : s.host = t.host)
    (h9 : s.mem = t.mem) (h10 : s.tlb = t.tlb) (h11 : s.keys = t.keys) (h12 : s.tables = t.tables)
    (h13 : s.tablesOld = t.tablesOld) (h14 : s.plain = t.plain) (h15 : s.poison = t.poison) (h16 : s.stale = t.stale)
    (h17 : s.patrol = t.patrol) (h18 : s.pool = t.pool) (h19 : s.migration = t.migration) (h20 : s.inputs = t.inputs)
    (h21 : s.fromContext = t.fromContext) (h22 : s.tick = t.tick) : s = t := by
  cases s; cases t; simp only at *; subst_vars; rfl


/-! ### Registers and condition bits read back -/

/-- s0 reads as zero, and a write to it is discarded (R63). -/
theorem Context.reg_setReg (x : Context) (d r : BitVec 5) (v : Word) :
    (x.setReg d v).reg r = if r = d ∧ d ≠ 0 then v else x.reg r := by
  by_cases hd : d = 0
  · rw [show x.setReg d v = x from if_pos hd]; exact (if_neg fun h : r = d ∧ d ≠ 0 => h.2 hd).symm
  · rw [show x.setReg d v = { x with regs := x.regs.set d.toNat v d.isLt } from if_neg hd]
    unfold Context.reg
    by_cases h : r = d
    · subst h; simp only [hd, if_false, ne_eq, not_false_eq_true, and_self, if_true]; exact Vector.getElem_set_self _
    · have : d.toNat ≠ r.toNat := fun e => h (BitVec.eq_of_toNat_eq e.symm)
      simp only [h, false_and, if_false]
      split
      · rfl
      · exact Vector.getElem_set_ne _ _ this

@[simp] theorem Context.reg_zero (x : Context) : x.reg 0 = 0 := rfl

@[simp] theorem Context.cond_seven (x : Context) : x.cond 7 = true := by simp [Context.cond]

/-- One bit of a 7-bit set replaced. -/
theorem condBits (c : BitVec 7) (d n : Nat) (hn : n < 7) (v : Bool) :
    ((c &&& ~~~(1#7 <<< d)) ||| ((if v then 1#7 else 0#7) <<< d)).getLsbD n = if n = d then v else c.getLsbD n := by
  by_cases h : n = d
  · subst h; cases v <;> simp [hn]
  · by_cases hl : n < d
    · cases v <;> simp [hn, h, hl]
    · have : n - d ≠ 0 := by omega
      cases v <;> simp [hn, h, hl, this]

/-- c7 reads as 1, and a write to it is discarded (R63). -/
theorem Context.cond_setCond (x : Context) (d n : BitVec 3) (v : Bool) :
    (x.setCond d v).cond n = if n = d ∧ d ≠ 7 then v else x.cond n := by
  by_cases hd : d = 7
  · rw [show x.setCond d v = x from if_pos hd]; exact (if_neg fun h : n = d ∧ d ≠ 7 => h.2 hd).symm
  · rw [show x.setCond d v = _ from if_neg hd]
    by_cases hn : n = 7
    · subst hn; exact (if_neg fun h : (7 : BitVec 3) = d ∧ d ≠ 7 => hd h.1.symm).symm
    · have hn' : n.toNat < 7 := by
        have := n.isLt
        have : n.toNat ≠ 7 := fun e => hn (BitVec.eq_of_toNat_eq e)
        omega
      have e : (n == 7) = false := by simpa using hn
      unfold Context.cond
      rw [condBits _ _ _ hn', e, Bool.false_or, Bool.false_or]
      by_cases h : n = d
      · subst h; rw [if_pos rfl, if_pos ⟨rfl, hd⟩]
      · have : n.toNat ≠ d.toNat := fun e => h (BitVec.eq_of_toNat_eq e)
        simp [h, this]

/-- The registers that a retirement leaves. -/
@[simp] theorem Context.reg_retire (x : Context) (r : BitVec 5) : x.retire.reg r = x.reg r := by
  simp [Context.reg]

/-- What a retirement does to an outstanding notice (R226). -/
theorem Context.notice_goto (x : Context) (pc : Word) :
    (x.goto pc).notice = if x.sup then x.notice else x.notice.map fun n => { n with convoys := n.convoys + 1 } := by
  show x.countConvoy.notice = _
  unfold Context.countConvoy
  cases h : x.notice <;> cases h' : x.sup <;> simp [h]

/-- A context goes to another place: only its PC, its convoy, its wait and an outstanding notice change. -/
theorem Context.goto_eq (x : Context) (pc : Word) :
    x.goto pc = { x with pc := pc, cvy := none, wait := none, notice := (x.goto pc).notice } := by
  apply Context.eq_of_fields <;> simp

@[simp] theorem Context.cond_retire (x : Context) (n : BitVec 3) : x.retire.cond n = x.cond n := by
  simp [Context.cond]

@[simp] theorem Context.nextPc_setReg (x : Context) (r : BitVec 5) (v : Word) : (x.setReg r v).nextPc = x.nextPc := by
  simp [Context.nextPc]

@[simp] theorem Context.nextPc_setCond (x : Context) (n : BitVec 3) (v : Bool) : (x.setCond n v).nextPc = x.nextPc := by
  simp [Context.nextPc]

end Sys2Proof.Machine
end

