-- ==== Sys2Proof/Laws/Mill.lean ====
section
/-! SUPPORT. What the mill sees of cores, tiles and strings: what the oldest message on a crossing says, and with nothing on its
crossings every part as it is (R46); and what the return of a grant changes (R206). -/

namespace Sys2Proof.Machine

/-! ### Crossings -/

@[simp] theorem State.sendMill_links (s : State) (m : LinkMsg) : (s.sendMill m).mill.links = s.mill.links ++ [m] := rfl

theorem State.sendMill_rest (s : State) (m : LinkMsg) :
    s.sendMill m = { s with mill := { s.mill with links := s.mill.links ++ [m] } } := rfl

/-- What comes onto a crossing changes nothing but what is on it. -/
theorem millLags_rest (p : MillPart) (s : State) : millLags p s = { s with mill := { s.mill with links := (millLags p s).mill.links } } := rfl

/-- An eligible context is free, its string powered, and its core and tile have what the record asks for as the mill sees
them. -/
theorem eligible_free {s : State} {l : Launch} {r : Rec} {c : Nat} (h : eligible s l r c = true) :
    inMillView s c = false ∧ (s.strAt (strOf c)).rdy = true ∧ r.lanes ≤ freeSeen s c ∧ r.bands ≤ bandsSeen s (tileOf c) := by
  unfold eligible busySeen takesSeen at h
  simp only [Bool.and_eq_true, Bool.not_eq_true', Bool.or_eq_false_iff, decide_eq_true_eq] at h
  exact ⟨h.1.1.1.1.1, h.1.1.1.2.1, h.1.2, h.2⟩

/-- A task that a restore takes has its lanes free in fact. -/
theorem restorable_fits {s : State} {t : SavedTask × Launch × Rec} (h : restorable s = some t) :
    t.1.lanes ≤ s.freeLanes t.1.ctx := by
  unfold restorable at h
  split at h
  · cases h
  · simp only [] at h
    split at h
    · rename_i hc
      cases h
      simp only [Bool.and_eq_true, decide_eq_true_eq] at hc
      exact hc.2.trans (min_le_right _ _)
    · cases h

/-- A restore tells the mill the lanes of its context alone: nothing else changes. -/
theorem giveLanes_rest (s : State) (c : Nat) :
    giveLanes s c = { s with mill := { s.mill with links := (giveLanes s c).mill.links } } := rfl

/-- With nothing on its crossings the mill sees every part as it is. -/
theorem seen_of_no_links {s : State} (h : s.mill.links = []) (c : Nat) :
    lanesSeen s c = (s.ctxAt c).lanes ∧ busySeen s c = inMillView s c ∧ bandsSeen s c = freeBands s c ∧
      takesSeen s c = (s.strAt c).takesTasks ∧ s.powered c = (s.strAt c).rdy := by
  simp [lanesSeen, busySeen, bandsSeen, takesSeen, State.powered, h, seenCore, seenString, Str.takesTasks]

/-! ### Grants that are returned -/

theorem returnGrant_mem (s : State) (r : GrantReq) : (returnGrant s r).mem = s.mem := by
  unfold returnGrant; dsimp only
  split
  · rfl
  · split <;> rfl

theorem dropReturned_mem (c : Nat) (s : State) : (dropReturned c s).mem = s.mem := by
  unfold dropReturned
  generalize s.fab.returned = l
  induction l generalizing s with
  | nil => rfl
  | cons r rs ih =>
    rw [List.foldl_cons, ih]
    dsimp only
    split <;> rfl

end Sys2Proof.Machine
end

