-- ==== Sys2Proof/Laws/Ops.lean ====
section
/-! SUPPORT. What each shared operation can do: what it leaves as it was, and that it keeps the memory's canonical
form. -/

namespace Sys2Proof.Machine

/-! ### Accesses -/

/-- Nothing but the memory's bytes, its poison marks, the lines cached as plain text and the kept translations differ. -/
def MemoryOnly (s t : State) : Prop := t = { s with mem := t.mem, tlb := t.tlb, poison := t.poison, plain := t.plain }

theorem MemoryOnly.refl (s : State) : MemoryOnly s s := rfl

theorem MemoryOnly.trans {s t u : State} (h : MemoryOnly s t) (g : MemoryOnly t u) : MemoryOnly s u := by
  unfold MemoryOnly at *; rw [g, h]

theorem MemoryOnly.cx {s t : State} (h : MemoryOnly s t) : t.cx = s.cx := by rw [h]; rfl

theorem MemoryOnly.ctxs {s t : State} (h : MemoryOnly s t) : t.ctxs = s.ctxs := by rw [h]

/-- What an access leaves behind touches kept translations and its leaf's A and D bits (R160, R163). -/
theorem touch_memoryOnly (s : State) (a : Acc) (k : AccKind) (p : Place) : MemoryOnly s (touch s a k p) := by
  unfold touch; split <;> rfl

theorem touch_wf {s : State} (h : Memory.wf s.mem = true) (a : Acc) (k : AccKind) (p : Place) :
    Memory.wf (touch s a k p).mem = true := by
  unfold touch
  split
  · exact h
  · exact memWrite_wf h _ _

/-- In a local window an access leaves nothing behind. -/
theorem touch_of_window (s : State) (a : Acc) (k : AccKind) {p : Place} (h : p.page = none) : touch s a k p = s := by
  unfold touch; rw [h]

theorem performAt_memoryOnly (s : State) (w : Write) : MemoryOnly s (performAt s w) := rfl

theorem performAt_wf {s : State} (h : Memory.wf s.mem = true) (w : Write) : Memory.wf (performAt s w).mem = true :=
  putWrite_wf s.keys h w

/-- Whatever each step of a run over a list keeps, the run keeps. -/
theorem foldl_keeps {α β : Type} (P : β → Prop) (f : β → α → β) (hf : ∀ b a, P b → P (f b a)) (l : List α) (b : β)
    (h : P b) : P (l.foldl f b) := by
  induction l generalizing b with
  | nil => exact h
  | cons a l ih => exact ih _ (hf _ _ h)

/-- A block that is written changes the memory alone, and keeps its form (R229, R235). -/
theorem writeBlock_keeps {s t : State} {a : Acc} {key : Option Nat} {va : Nat} {bs : List Byte}
    (h : writeBlock s a key va bs = some t) : MemoryOnly s t ∧ (Memory.wf s.mem = true → Memory.wf t.mem = true) := by
  unfold writeBlock at h
  split at h
  · cases h
  · cases h
    exact ⟨foldl_keeps _ _ (fun b e hb => (hb.trans (touch_memoryOnly b a .store e.1)).trans rfl) _ _ (.refl s),
      fun hw => foldl_keeps (fun b : State => Memory.wf b.mem = true) _
        (fun b e hb => performAt_wf (touch_wf hb a .store e.1) _) _ _ hw⟩

/-- What a block that was read leaves behind (R160). -/
theorem touchBlock_keeps (s : State) (a : Acc) (k : AccKind) (key : Option Nat) (va n : Nat) :
    MemoryOnly s (touchBlock s a k key va n) ∧
      (Memory.wf s.mem = true → Memory.wf (touchBlock s a k key va n).mem = true) := by
  unfold touchBlock
  split
  · exact ⟨.refl s, id⟩
  · exact ⟨foldl_keeps _ _ (fun b e hb => hb.trans (touch_memoryOnly b a k e.1)) _ _ (.refl s),
      fun hw => foldl_keeps (fun b : State => Memory.wf b.mem = true) _ (fun b e hb => touch_wf hb a k e.1) _ _ hw⟩

/-- A scalar access is aligned and its place passes every check, or there is a trap (R142, R162). -/
theorem scalarPlace_ok {s : State} {k : AccKind} {va : Word} {sz : Nat} {p : Place}
    (h : scalarPlace s k va sz = .ok p) :
    va.toNat % 2 ^ sz = 0 ∧ reach s (s.cx.acc s.cur) k va.toNat = .ok p := by
  unfold scalarPlace at h
  split at h
  · cases h
  · rename_i ha
    split at h
    · cases h
    · rename_i q hq; cases h; exact ⟨by simpa using ha, hq⟩

theorem reach_ok {s : State} {a : Acc} {k : AccKind} {va : Nat} {p : Place} (h : reach s a k va = .ok p) :
    resolve s a k va = .ok p ∧ (s.planesDead = true → tileCarried (coreOf a.ctx) (tileOf a.ctx) p.loc = true) := by
  unfold reach at h
  split at h
  · cases h
  · rename_i q hq
    split at h
    · cases h
    · rename_i hn
      cases h
      refine ⟨hq, fun hd => ?_⟩
      simp only [Bool.and_eq_true, Bool.not_eq_true', not_and] at hn
      simpa using hn hd

/-! ### The current context -/

@[simp] theorem State.mapCx_cx (s : State) (f : Context → Context) : (s.mapCx f).cx = f s.cx := by
  simp [State.mapCx, State.setCx, State.cx]


/-- A change of the current context changes no other. -/
theorem State.mapCx_ctxAt (s : State) (f : Context → Context) (c : Nat) :
    (s.mapCx f).ctxAt c = if c = s.cur then f s.cx else s.ctxAt c := State.ctxAt_setCtx s s.cur c _

theorem State.mapCx_rest (s : State) (f : Context → Context) : s.mapCx f = { s with ctxs := (s.mapCx f).ctxs } := rfl

/-- A free value: only the counter moves on. -/
theorem State.draw_snd (s : State) : s.draw.2 = { s with tick := s.tick + 1 } := rfl

/-- What an event does to its context leaves the turn as it was. -/
@[simp] theorem State.within_cur (s : State) (c : Nat) (f : State → State) : (s.within c f).cur = s.cur := rfl
@[simp] theorem State.within_mem (s : State) (c : Nat) (f : State → State) :
    (s.within c f).mem = (f { s with cur := c }).mem := rfl

/-! ### The strip -/

theorem commitAccumulators_rest (s : State) (c : Nat) :
    commitAccumulators s c = { s with tiles := (commitAccumulators s c).tiles } := by
  by_cases h : ((s.tileAt (tileOf c)).bandsOf (.ctx c)).isEmpty = true <;> simp [commitAccumulators, h, State.setTile]

/-- An early commit (R81, R189): the held writes follow those under way, the strip is forced, and its checkpoint is the
state as it is; of the other state only the tile's committed copies change. -/
theorem forceCommit_rest (s : State) :
    forceCommit s = { s with ctxs := (forceCommit s).ctxs, tiles := (forceCommit s).tiles } := by
  unfold forceCommit
  rw [State.mapCx_rest, commitAccumulators_rest]

theorem forceCommit_mem (s : State) : (forceCommit s).mem = s.mem := by rw [forceCommit_rest]

theorem forceCommit_cur (s : State) : (forceCommit s).cur = s.cur := by rw [forceCommit_rest]

theorem commitAccumulators_cx (s : State) (c : Nat) : (commitAccumulators s c).cx = s.cx := by
  rw [commitAccumulators_rest]; rfl

theorem forceCommit_cx (s : State) : let x := s.cx
    (forceCommit s).cx = { x with
      pend := x.pend ++ x.held, held := []
      strip := { x.strip with forced := true, renamed := [], captured := [], spares := 0, readSlots := [], mmaPcs := [] }
      ckpt := x.checkpoint x.convoyStart } := by
  simp only [forceCommit, State.mapCx_cx, commitAccumulators_cx]
  rfl

theorem forceCommit_ownWrites (s : State) : (forceCommit s).cx.ownWrites = s.cx.ownWrites := by
  simp [forceCommit_cx, Context.ownWrites]

/-- What an early commit leaves alone of the memory, the turn and the current context. -/
theorem commitIf_keeps (p : Prop) [Decidable p] (s : State) :
    let t := if p then forceCommit s else s
    t.mem = s.mem ∧ t.cur = s.cur ∧ t.cx.ownWrites = s.cx.ownWrites ∧ t.cx.regs = s.cx.regs ∧
      t.cx.conds = s.cx.conds ∧ t.cx.pc = s.cx.pc := by
  intro t
  by_cases h : p
  · have e : t = forceCommit s := if_pos h
    rw [e]
    refine ⟨forceCommit_mem s, forceCommit_cur s, forceCommit_ownWrites s, ?_, ?_, ?_⟩ <;> rw [forceCommit_cx]
  · have e : t = s := if_neg h
    rw [e]; exact ⟨rfl, rfl, rfl, rfl, rfl, rfl⟩

/-- A held write: the context's own writes get it as their newest, and no byte of memory changes (R189). -/
theorem holdWrite_keeps (s : State) (w : Write) :
    (holdWrite s w).mem = s.mem ∧ (holdWrite s w).cur = s.cur ∧ (holdWrite s w).cx.ownWrites = s.cx.ownWrites ++ [w] ∧
      (holdWrite s w).cx.regs = s.cx.regs ∧ (holdWrite s w).cx.conds = s.cx.conds ∧ (holdWrite s w).cx.pc = s.cx.pc := by
  unfold holdWrite
  obtain ⟨a1, a2, a3, a4, a5, a6⟩ := commitIf_keeps (131072 < s.cx.heldBytes + w.bytes.length) s
  generalize (if 131072 < s.cx.heldBytes + w.bytes.length then forceCommit s else s) = u at *
  have b : (u.mapCx fun x => { x with held := x.held ++ [w] }).cx = { u.cx with held := u.cx.held ++ [w] } := by simp
  obtain ⟨c1, c2, c3, c4, c5, c6⟩ := commitIf_keeps
    (131072 ≤ (u.mapCx fun x => { x with held := x.held ++ [w] }).cx.heldBytes)
    (u.mapCx fun x => { x with held := x.held ++ [w] })
  refine ⟨c1.trans a1, c2.trans a2, c3.trans ?_, c4.trans ?_, c5.trans ?_, c6.trans ?_⟩
  · rw [b, ← a3]; simp [Context.ownWrites]
  all_goals rw [b]; assumption

theorem holdWrite_wf {s : State} (h : Memory.wf s.mem = true) (w : Write) : Memory.wf (holdWrite s w).mem = true := by
  rw [(holdWrite_keeps s w).1]; exact h

/-! ### Traps -/

/-- A double trap stops the context and changes nothing else (R220). -/
theorem doubleTrap_cx (s : State) : (doubleTrap s).cx = { s.cx with stopped := true } := by simp [doubleTrap]

theorem doubleTrap_mem (s : State) : (doubleTrap s).mem = s.mem := rfl

/-- What a queued trap writes before its handler changes the memory alone, and keeps its form (R167, R219). -/
theorem writeFault_keeps (s : State) (epc : Word) (rcd : List Byte) (dump : List Convoy) :
    MemoryOnly s (writeFault s epc rcd dump).1 ∧
      (Memory.wf s.mem = true → Memory.wf (writeFault s epc rcd dump).1.mem = true) := by
  unfold writeFault
  simp only []
  split
  · exact ⟨.refl _, id⟩
  · rename_i s1 h1
    have k1 : MemoryOnly s s1 ∧ (Memory.wf s.mem = true → Memory.wf s1.mem = true) := by
      split at h1
      · cases h1; exact ⟨.refl _, id⟩
      · exact writeBlock_keeps h1
    split
    · exact k1
    · rename_i s2 h2
      have k2 := writeBlock_keeps h2
      exact ⟨k1.1.trans k2.1, fun h => k2.2 (k1.2 h)⟩

/-- Trap entry (R219, R220): after at most a record and a cocoon were written, a double trap, or the registers of entry. A
precise trap writes nothing. -/
theorem takeTrapAt_cases (s : State) (t : Trap) (epc : Word) (rcd : List Byte) (dump : List Convoy) :
    ∃ u, MemoryOnly s u ∧ (Memory.wf s.mem = true → Memory.wf u.mem = true) ∧ (t.queued = false → u = s) ∧
      (takeTrapAt s t epc rcd dump = doubleTrap u ∨
        s.cx.trap.inh = false ∧ takeTrapAt s t epc rcd dump = u.mapCx (enterTrap t epc (!rcd.isEmpty) dump)) := by
  unfold takeTrapAt
  split
  · exact ⟨s, .refl _, id, fun _ => rfl, .inl rfl⟩
  · rename_i hi
    have hinh : s.cx.trap.inh = false := by
      cases h : s.cx.trap.inh <;> simp_all
    cases hq : t.queued with
    | false => exact ⟨s, .refl _, id, fun _ => rfl, .inr ⟨hinh, by simp⟩⟩
    | true =>
      have k := writeFault_keeps s epc rcd dump
      refine ⟨(writeFault s epc rcd dump).1, k.1, k.2, by simp, ?_⟩
      simp only [if_true]
      split
      · exact .inr ⟨hinh, rfl⟩
      · exact .inl rfl

theorem takeTrapAt_wf {s : State} (h : Memory.wf s.mem = true) (t : Trap) (epc : Word) (rcd : List Byte)
    (dump : List Convoy) : Memory.wf (takeTrapAt s t epc rcd dump).mem = true := by
  obtain ⟨u, -, hw, -, e | ⟨-, e⟩⟩ := takeTrapAt_cases s t epc rcd dump <;> rw [e] <;> exact hw h

theorem takeTrap_wf {s : State} (h : Memory.wf s.mem = true) (t : Trap) : Memory.wf (takeTrap s t).mem = true := by
  unfold takeTrap
  refine takeTrapAt_wf ?_ _ _ _ _
  split <;> exact h

theorem raiseQueued_mem (s : State) (cause : Nat) (tval : Word) (word : BitVec 32) (elem : Nat)
    (index : Option (List Row2048)) (rcd : List Byte) : (raiseQueued s cause tval word elem index rcd).mem = s.mem := rfl

theorem takeQueuedTrap_wf {s : State} (h : Memory.wf s.mem = true) (cause : Nat) (tval : Word) (rcd : List Byte) :
    Memory.wf (takeQueuedTrap s cause tval rcd).mem = true := by
  have k := fun y : Context => takeTrapAt_wf (s := s.setCx y) (by exact h)
  unfold takeQueuedTrap
  simp only []
  split
  · exact k _ _ _ _ _
  · exact k _ _ _ _ _

theorem takeQueued_wf {s : State} (h : Memory.wf s.mem = true) (f : QueueFault) :
    Memory.wf (takeQueued s f).mem = true := takeQueuedTrap_wf h _ _ _

/-- What ERET leaves of the machine (R223). -/
theorem leaveTrap_cx (s : State) (dump : List Convoy) : let x := s.cx
    (leaveTrap s dump).cx = { x with
      trap := { x.trap with inh := false, cocoon := false }, sup := x.trap.pp, pc := x.trap.epc
      cpol := if x.trap.pp then x.cpol else x.trap.pol
      cvy := dump.head?.map fun v => { v with next := x.trap.epc, idx := x.vsMember.toNat }
      queue := dump.tail.map fun v => { v with next := x.trap.epc }, redump := [], wait := none } := by
  cases dump <;> simp [leaveTrap]

theorem leaveTrap_mem (s : State) (dump : List Convoy) : (leaveTrap s dump).mem = s.mem := rfl

/-! ### Launches and replay -/

@[simp] theorem State.mapLaunch_mem (s : State) (n : Nat) (f : Launch → Launch) : (s.mapLaunch n f).mem = s.mem := rfl
@[simp] theorem State.mapLaunch_ctxs (s : State) (n : Nat) (f : Launch → Launch) : (s.mapLaunch n f).ctxs = s.ctxs := rfl
@[simp] theorem State.failLaunch_mem (s : State) (n cause : Nat) : (s.failLaunch n cause).mem = s.mem := rfl
@[simp] theorem State.failLaunch_ctxs (s : State) (n cause : Nat) : (s.failLaunch n cause).ctxs = s.ctxs := rfl

theorem copyPage_wf {s : State} (h : Memory.wf s.mem = true) (src dst : Nat) :
    Memory.wf (copyPage s src dst).mem = true := by
  unfold copyPage
  generalize memReadN s.mem src (2 ^ 16) = bs
  exact memWriteN_wf h dst bs

theorem copyPage_ctxs (s : State) (src dst : Nat) : (copyPage s src dst).ctxs = s.ctxs := by
  unfold copyPage
  generalize memReadN s.mem src (2 ^ 16) = bs
  rfl

/-- A page's copy into the shadow pool changes no context (R252). -/
theorem shadowCopy_keeps (s : State) (l : Launch) (loc key : Nat) :
    (shadowCopy s l loc key).ctxs = s.ctxs ∧
      (Memory.wf s.mem = true → Memory.wf (shadowCopy s l loc key).mem = true) := by
  obtain ⟨kc, kw⟩ := touchBlock_keeps s l.acc .load none l.pool.toNat (8 * l.slotCount)
  unfold shadowCopy
  simp only []
  generalize touchBlock s l.acc .load none l.pool.toNat (8 * l.slotCount) = d at *
  split
  · exact ⟨kc.ctxs, kw⟩
  · split
    · exact ⟨kc.ctxs, kw⟩
    · split
      · exact ⟨kc.ctxs, kw⟩
      · rename_i dst _
        have kt := touch_memoryOnly d l.acc .store dst
        have hm : Memory.wf s.mem = true → Memory.wf (touch d l.acc .store dst).mem = true := fun h => touch_wf (kw h) _ _ _
        generalize touch d l.acc .store dst = e at *
        cases hw : writeBlock (copyPage e (loc / 2 ^ 16 * 2 ^ 16) dst.loc) l.acc none
            (l.pool.toNat + 8 * _) (valBytes 8 (dirWord key (loc / 2 ^ 16 * 2 ^ 16))) with
        | none => exact ⟨kc.ctxs, kw⟩
        | some t =>
          have k := writeBlock_keeps hw
          exact ⟨(k.1.ctxs.trans (copyPage_ctxs _ _ _)).trans (kt.ctxs.trans kc.ctxs), fun h => k.2 (copyPage_wf (hm h) _ _)⟩

theorem countWrite_keeps (s : State) (n : Nat) (w : Write) :
    (countWrite s n w).ctxs = s.ctxs ∧ (Memory.wf s.mem = true → Memory.wf (countWrite s n w).mem = true) := by
  unfold countWrite
  split
  · exact ⟨rfl, id⟩
  · split
    · exact ⟨rfl, id⟩
    · split
      · exact ⟨rfl, id⟩
      · exact shadowCopy_keeps s _ _ _
      · exact ⟨rfl, id⟩

/-- An access of a context leaves the memory and every other context as they were, and of its own only reads performed
early (R182). -/
theorem dropEarly_mem (s : State) (c strm loc n : Nat) : (s.dropEarly c strm loc n).mem = s.mem := by
  unfold State.dropEarly; split <;> rfl

theorem dropEarly_none {s : State} {c : Nat} (h : (s.ctxAt c).early = []) (strm loc n : Nat) :
    s.dropEarly c strm loc n = s := by simp [State.dropEarly, h]

theorem dropBytes_mem (s : State) (c loc n : Nat) : (s.dropBytes c loc n).mem = s.mem := by
  unfold State.dropBytes; simp only []; split <;> rfl

theorem dropBytes_none {s : State} {c : Nat} (h : (s.ctxAt c).early = []) (loc n : Nat) : s.dropBytes c loc n = s := by
  simp [State.dropBytes, h]

/-- What a write leaves of the words it replaces is kept for fetches alone (R269). -/
theorem keepStale_rest (s : State) (w : Write) : keepStale s w = { s with stale := (keepStale s w).stale } := by
  by_cases h : (!w.dirties s.node) = true <;> simp only [keepStale, h] <;> rfl

theorem keepStale_mem (s : State) (w : Write) : (keepStale s w).mem = s.mem := by rw [keepStale_rest]

theorem keepStale_ctxs (s : State) (w : Write) : (keepStale s w).ctxs = s.ctxs := by rw [keepStale_rest]

theorem cleanLines_rest (s : State) (lines : List Nat) :
    cleanLines s lines = { s with stale := (cleanLines s lines).stale } := rfl

/-- An edit of the access tables that comes into effect takes the older tables away and nothing else (R156). -/
theorem settleTables_rest (s : State) : settleTables s = { s with tablesOld := (settleTables s).tablesOld } := by
  unfold settleTables
  cases h : s.tablesOld with
  | none => simp
  | some old => by_cases g : (s.tlb.any (·.affected s old)) = true <;> simp [g]

/-- A write performed at its home keeps the memory's form, and changes of the contexts only reads performed early (R44,
R182). -/
theorem performWrite_keeps (s : State) (c : Nat) (w : Write) :
    (performWrite s c w).ctxs = (if w.loose then s.dropBytes c w.loc w.bytes.length
      else s.dropEarly c w.strm w.loc w.bytes.length).ctxs ∧
      (Memory.wf s.mem = true → Memory.wf (performWrite s c w).mem = true) := by
  have hm : (if w.loose then s.dropBytes c w.loc w.bytes.length
      else s.dropEarly c w.strm w.loc w.bytes.length).mem = s.mem := by
    split
    · exact dropBytes_mem ..
    · exact dropEarly_mem ..
  unfold performWrite
  simp only []
  generalize (if w.loose then s.dropBytes c w.loc w.bytes.length
    else s.dropEarly c w.strm w.loc w.bytes.length) = t at *
  have k := countWrite_keeps t (t.ctxAt c).launchNo w
  exact ⟨(keepStale_ctxs _ w).trans k.1, fun h => performAt_wf (by rw [keepStale_mem]; exact k.2 (hm ▸ h)) w⟩

theorem tellMill_mem (s : State) (n : Nat) : (tellMill s n).mem = s.mem := rfl

theorem unpinnable_wf {s : State} (h : Memory.wf s.mem = true) (cause : Nat) (tval : Word) (queued : Bool) :
    Memory.wf (unpinnable s cause tval queued).mem = true := by
  unfold unpinnable
  simp only []
  split
  · exact h
  · split
    · exact takeQueuedTrap_wf (s := tellMill s s.cx.launchNo) h _ _ _
    · exact takeTrap_wf (s := tellMill s s.cx.launchNo) h _

/-- Whatever its change keeps of the memory's form, a scalar read with that change keeps (R245, R249). -/
theorem consume_wf {s : State} (h : Memory.wf s.mem = true) (strm : Nat) (p : Place) (n : Nat) (f : State → Nat → State)
    (hf : ∀ t v, Memory.wf t.mem = true → Memory.wf (f t v).mem = true) :
    Memory.wf (consume s strm p n f).mem = true := by
  unfold consume
  simp only []
  split
  · split
    · exact unpinnable_wf h _ _ _
    · exact hf _ _ (unpinnable_wf h _ _ _)
  · exact hf _ _ (by rw [dropEarly_mem]; exact h)

/-- A read of a line without stored poison, none of which was performed early, is the change with the value that is
there. -/
theorem consume_clean {s : State} {strm : Nat} {p : Place} {n : Nat} (f : State → Nat → State)
    (h : readsPoison s s.cx p n = false) (he : s.cx.early = []) :
    consume s strm p n f = f s (bytesVal (readPlace s s.cx p n)) := by
  have e : s.dropEarly s.cur strm p.loc n = s := dropEarly_none he _ _ _
  simp [consume, h, e, loadBytes, Context.earlyOf, he]

end Sys2Proof.Machine
end

