-- ==== Sys2Proof/Laws/PerInstr.lean ====
section
/-! SUPPORT. Statements made of every instruction as syntax, one lemma for each constructor. -/

namespace Sys2Proof.Laws.EncodeBound

/-- An instruction's word has 32 bits (R291); an event has no word. -/
def Statement (i : Instr) : Prop := ∀ w, encodeNat i = some w → w < 2 ^ 32

theorem addReg : ∀ d0 : BitVec 5, ∀ a0 : BitVec 5, ∀ b0 : BitVec 5, Statement (.addReg d0 a0 b0) := by
  intro d0 a0 b0 w hw
  have hw : some (rowAddReg.pack [d0.toNat, a0.toNat, b0.toNat]) = some w := hw
  cases hw
  have := d0.isLt
  have := a0.isLt
  have := b0.isLt
  show 0x02000000 + (d0.toNat * 2 ^ 20 + (a0.toNat * 2 ^ 15 + (b0.toNat * 2 ^ 10 + 0))) < 2 ^ 32
  omega

theorem addImm : ∀ d0 : BitVec 5, ∀ a0 : BitVec 5, ∀ i0 : BitVec 15, Statement (.addImm d0 a0 i0) := by
  intro d0 a0 i0 w hw
  have hw : some (rowAddImm.pack [d0.toNat, a0.toNat, i0.toNat]) = some w := hw
  cases hw
  have := d0.isLt
  have := a0.isLt
  have := i0.isLt
  show 0x04000000 + (d0.toNat * 2 ^ 20 + (a0.toNat * 2 ^ 15 + (i0.toNat * 2 ^ 0 + 0))) < 2 ^ 32
  omega

theorem andReg : ∀ d0 : BitVec 5, ∀ a0 : BitVec 5, ∀ b0 : BitVec 5, Statement (.andReg d0 a0 b0) := by
  intro d0 a0 b0 w hw
  have hw : some (rowAndReg.pack [d0.toNat, a0.toNat, b0.toNat]) = some w := hw
  cases hw
  have := d0.isLt
  have := a0.isLt
  have := b0.isLt
  show 0x02000060 + (d0.toNat * 2 ^ 20 + (a0.toNat * 2 ^ 15 + (b0.toNat * 2 ^ 10 + 0))) < 2 ^ 32
  omega

theorem andImm : ∀ d0 : BitVec 5, ∀ a0 : BitVec 5, ∀ i0 : BitVec 15, Statement (.andImm d0 a0 i0) := by
  intro d0 a0 i0 w hw
  have hw : some (rowAndImm.pack [d0.toNat, a0.toNat, i0.toNat]) = some w := hw
  cases hw
  have := d0.isLt
  have := a0.isLt
  have := i0.isLt
  show 0x06000000 + (d0.toNat * 2 ^ 20 + (a0.toNat * 2 ^ 15 + (i0.toNat * 2 ^ 0 + 0))) < 2 ^ 32
  omega

theorem orReg : ∀ d0 : BitVec 5, ∀ a0 : BitVec 5, ∀ b0 : BitVec 5, Statement (.orReg d0 a0 b0) := by
  intro d0 a0 b0 w hw
  have hw : some (rowOrReg.pack [d0.toNat, a0.toNat, b0.toNat]) = some w := hw
  cases hw
  have := d0.isLt
  have := a0.isLt
  have := b0.isLt
  show 0x02000070 + (d0.toNat * 2 ^ 20 + (a0.toNat * 2 ^ 15 + (b0.toNat * 2 ^ 10 + 0))) < 2 ^ 32
  omega

theorem orImm : ∀ d0 : BitVec 5, ∀ a0 : BitVec 5, ∀ i0 : BitVec 15, Statement (.orImm d0 a0 i0) := by
  intro d0 a0 i0 w hw
  have hw : some (rowOrImm.pack [d0.toNat, a0.toNat, i0.toNat]) = some w := hw
  cases hw
  have := d0.isLt
  have := a0.isLt
  have := i0.isLt
  show 0x08000000 + (d0.toNat * 2 ^ 20 + (a0.toNat * 2 ^ 15 + (i0.toNat * 2 ^ 0 + 0))) < 2 ^ 32
  omega

theorem xorReg : ∀ d0 : BitVec 5, ∀ a0 : BitVec 5, ∀ b0 : BitVec 5, Statement (.xorReg d0 a0 b0) := by
  intro d0 a0 b0 w hw
  have hw : some (rowXorReg.pack [d0.toNat, a0.toNat, b0.toNat]) = some w := hw
  cases hw
  have := d0.isLt
  have := a0.isLt
  have := b0.isLt
  show 0x02000080 + (d0.toNat * 2 ^ 20 + (a0.toNat * 2 ^ 15 + (b0.toNat * 2 ^ 10 + 0))) < 2 ^ 32
  omega

theorem xorImm : ∀ d0 : BitVec 5, ∀ a0 : BitVec 5, ∀ i0 : BitVec 15, Statement (.xorImm d0 a0 i0) := by
  intro d0 a0 i0 w hw
  have hw : some (rowXorImm.pack [d0.toNat, a0.toNat, i0.toNat]) = some w := hw
  cases hw
  have := d0.isLt
  have := a0.isLt
  have := i0.isLt
  show 0x0A000000 + (d0.toNat * 2 ^ 20 + (a0.toNat * 2 ^ 15 + (i0.toNat * 2 ^ 0 + 0))) < 2 ^ 32
  omega

theorem sub : ∀ d0 : BitVec 5, ∀ a0 : BitVec 5, ∀ b0 : BitVec 5, Statement (.sub d0 a0 b0) := by
  intro d0 a0 b0 w hw
  have hw : some (rowSub.pack [d0.toNat, a0.toNat, b0.toNat]) = some w := hw
  cases hw
  have := d0.isLt
  have := a0.isLt
  have := b0.isLt
  show 0x02000010 + (d0.toNat * 2 ^ 20 + (a0.toNat * 2 ^ 15 + (b0.toNat * 2 ^ 10 + 0))) < 2 ^ 32
  omega

theorem mul : ∀ d0 : BitVec 5, ∀ a0 : BitVec 5, ∀ b0 : BitVec 5, Statement (.mul d0 a0 b0) := by
  intro d0 a0 b0 w hw
  have hw : some (rowMul.pack [d0.toNat, a0.toNat, b0.toNat]) = some w := hw
  cases hw
  have := d0.isLt
  have := a0.isLt
  have := b0.isLt
  show 0x02000020 + (d0.toNat * 2 ^ 20 + (a0.toNat * 2 ^ 15 + (b0.toNat * 2 ^ 10 + 0))) < 2 ^ 32
  omega

theorem mulh : ∀ d0 : BitVec 5, ∀ a0 : BitVec 5, ∀ b0 : BitVec 5, ∀ z0 : BitVec 1, Statement (.mulh d0 a0 b0 z0) := by
  intro d0 a0 b0 z0 w hw
  have hw : some (rowMulh.pack [d0.toNat, a0.toNat, b0.toNat, z0.toNat]) = some w := hw
  cases hw
  have := d0.isLt
  have := a0.isLt
  have := b0.isLt
  have := z0.isLt
  show 0x02000030 + (d0.toNat * 2 ^ 20 + (a0.toNat * 2 ^ 15 + (b0.toNat * 2 ^ 10 + (z0.toNat * 2 ^ 3 + 0)))) < 2 ^ 32
  omega

theorem div : ∀ d0 : BitVec 5, ∀ a0 : BitVec 5, ∀ b0 : BitVec 5, ∀ z0 : BitVec 1, Statement (.div d0 a0 b0 z0) := by
  intro d0 a0 b0 z0 w hw
  have hw : some (rowDiv.pack [d0.toNat, a0.toNat, b0.toNat, z0.toNat]) = some w := hw
  cases hw
  have := d0.isLt
  have := a0.isLt
  have := b0.isLt
  have := z0.isLt
  show 0x02000040 + (d0.toNat * 2 ^ 20 + (a0.toNat * 2 ^ 15 + (b0.toNat * 2 ^ 10 + (z0.toNat * 2 ^ 3 + 0)))) < 2 ^ 32
  omega

theorem rem : ∀ d0 : BitVec 5, ∀ a0 : BitVec 5, ∀ b0 : BitVec 5, ∀ z0 : BitVec 1, Statement (.rem d0 a0 b0 z0) := by
  intro d0 a0 b0 z0 w hw
  have hw : some (rowRem.pack [d0.toNat, a0.toNat, b0.toNat, z0.toNat]) = some w := hw
  cases hw
  have := d0.isLt
  have := a0.isLt
  have := b0.isLt
  have := z0.isLt
  show 0x02000050 + (d0.toNat * 2 ^ 20 + (a0.toNat * 2 ^ 15 + (b0.toNat * 2 ^ 10 + (z0.toNat * 2 ^ 3 + 0)))) < 2 ^ 32
  omega

theorem shlReg : ∀ d0 : BitVec 5, ∀ a0 : BitVec 5, ∀ b0 : BitVec 5, Statement (.shlReg d0 a0 b0) := by
  intro d0 a0 b0 w hw
  have hw : some (rowShlReg.pack [d0.toNat, a0.toNat, b0.toNat]) = some w := hw
  cases hw
  have := d0.isLt
  have := a0.isLt
  have := b0.isLt
  show 0x02000090 + (d0.toNat * 2 ^ 20 + (a0.toNat * 2 ^ 15 + (b0.toNat * 2 ^ 10 + 0))) < 2 ^ 32
  omega

theorem shrReg : ∀ d0 : BitVec 5, ∀ a0 : BitVec 5, ∀ b0 : BitVec 5, Statement (.shrReg d0 a0 b0) := by
  intro d0 a0 b0 w hw
  have hw : some (rowShrReg.pack [d0.toNat, a0.toNat, b0.toNat]) = some w := hw
  cases hw
  have := d0.isLt
  have := a0.isLt
  have := b0.isLt
  show 0x020000A0 + (d0.toNat * 2 ^ 20 + (a0.toNat * 2 ^ 15 + (b0.toNat * 2 ^ 10 + 0))) < 2 ^ 32
  omega

theorem sraReg : ∀ d0 : BitVec 5, ∀ a0 : BitVec 5, ∀ b0 : BitVec 5, Statement (.sraReg d0 a0 b0) := by
  intro d0 a0 b0 w hw
  have hw : some (rowSraReg.pack [d0.toNat, a0.toNat, b0.toNat]) = some w := hw
  cases hw
  have := d0.isLt
  have := a0.isLt
  have := b0.isLt
  show 0x020000B0 + (d0.toNat * 2 ^ 20 + (a0.toNat * 2 ^ 15 + (b0.toNat * 2 ^ 10 + 0))) < 2 ^ 32
  omega

theorem shlImm : ∀ d0 : BitVec 5, ∀ a0 : BitVec 5, ∀ n0 : BitVec 6, Statement (.shlImm d0 a0 n0) := by
  intro d0 a0 n0 w hw
  have hw : some (rowShlImm.pack [d0.toNat, a0.toNat, n0.toNat]) = some w := hw
  cases hw
  have := d0.isLt
  have := a0.isLt
  have := n0.isLt
  show 0x0C000000 + (d0.toNat * 2 ^ 20 + (a0.toNat * 2 ^ 15 + (n0.toNat * 2 ^ 0 + 0))) < 2 ^ 32
  omega

theorem shrImm : ∀ d0 : BitVec 5, ∀ a0 : BitVec 5, ∀ n0 : BitVec 6, Statement (.shrImm d0 a0 n0) := by
  intro d0 a0 n0 w hw
  have hw : some (rowShrImm.pack [d0.toNat, a0.toNat, n0.toNat]) = some w := hw
  cases hw
  have := d0.isLt
  have := a0.isLt
  have := n0.isLt
  show 0x0C002000 + (d0.toNat * 2 ^ 20 + (a0.toNat * 2 ^ 15 + (n0.toNat * 2 ^ 0 + 0))) < 2 ^ 32
  omega

theorem sraImm : ∀ d0 : BitVec 5, ∀ a0 : BitVec 5, ∀ n0 : BitVec 6, Statement (.sraImm d0 a0 n0) := by
  intro d0 a0 n0 w hw
  have hw : some (rowSraImm.pack [d0.toNat, a0.toNat, n0.toNat]) = some w := hw
  cases hw
  have := d0.isLt
  have := a0.isLt
  have := n0.isLt
  show 0x0C004000 + (d0.toNat * 2 ^ 20 + (a0.toNat * 2 ^ 15 + (n0.toNat * 2 ^ 0 + 0))) < 2 ^ 32
  omega

theorem min : ∀ d0 : BitVec 5, ∀ a0 : BitVec 5, ∀ b0 : BitVec 5, ∀ z0 : BitVec 1, Statement (.min d0 a0 b0 z0) := by
  intro d0 a0 b0 z0 w hw
  have hw : some (rowMin.pack [d0.toNat, a0.toNat, b0.toNat, z0.toNat]) = some w := hw
  cases hw
  have := d0.isLt
  have := a0.isLt
  have := b0.isLt
  have := z0.isLt
  show 0x020000C0 + (d0.toNat * 2 ^ 20 + (a0.toNat * 2 ^ 15 + (b0.toNat * 2 ^ 10 + (z0.toNat * 2 ^ 3 + 0)))) < 2 ^ 32
  omega

theorem max : ∀ d0 : BitVec 5, ∀ a0 : BitVec 5, ∀ b0 : BitVec 5, ∀ z0 : BitVec 1, Statement (.max d0 a0 b0 z0) := by
  intro d0 a0 b0 z0 w hw
  have hw : some (rowMax.pack [d0.toNat, a0.toNat, b0.toNat, z0.toNat]) = some w := hw
  cases hw
  have := d0.isLt
  have := a0.isLt
  have := b0.isLt
  have := z0.isLt
  show 0x020000D0 + (d0.toNat * 2 ^ 20 + (a0.toNat * 2 ^ 15 + (b0.toNat * 2 ^ 10 + (z0.toNat * 2 ^ 3 + 0)))) < 2 ^ 32
  omega

theorem clz : ∀ d0 : BitVec 5, ∀ a0 : BitVec 5, Statement (.clz d0 a0) := by
  intro d0 a0 w hw
  have hw : some (rowClz.pack [d0.toNat, a0.toNat]) = some w := hw
  cases hw
  have := d0.isLt
  have := a0.isLt
  show 0x020000E0 + (d0.toNat * 2 ^ 20 + (a0.toNat * 2 ^ 15 + 0)) < 2 ^ 32
  omega

theorem popc : ∀ d0 : BitVec 5, ∀ a0 : BitVec 5, Statement (.popc d0 a0) := by
  intro d0 a0 w hw
  have hw : some (rowPopc.pack [d0.toNat, a0.toNat]) = some w := hw
  cases hw
  have := d0.isLt
  have := a0.isLt
  show 0x020000F0 + (d0.toNat * 2 ^ 20 + (a0.toNat * 2 ^ 15 + 0)) < 2 ^ 32
  omega

theorem sel : ∀ d0 : BitVec 5, ∀ a0 : BitVec 5, ∀ b0 : BitVec 5, ∀ c0 : BitVec 3, Statement (.sel d0 a0 b0 c0) := by
  intro d0 a0 b0 c0 w hw
  have hw : some (rowSel.pack [d0.toNat, a0.toNat, b0.toNat, c0.toNat]) = some w := hw
  cases hw
  have := d0.isLt
  have := a0.isLt
  have := b0.isLt
  have := c0.isLt
  show 0x02000100 + (d0.toNat * 2 ^ 20 + (a0.toNat * 2 ^ 15 + (b0.toNat * 2 ^ 10 + (c0.toNat * 2 ^ 0 + 0)))) < 2 ^ 32
  omega

theorem cmpReg : ∀ c0 : BitVec 3, ∀ a0 : BitVec 5, ∀ b0 : BitVec 5, ∀ z0 : BitVec 1, ∀ r0 : BitVec 3, Statement (.cmpReg c0 a0 b0 z0 r0) := by
  intro c0 a0 b0 z0 r0 w hw
  have hw : some (rowCmpReg.pack [c0.toNat, a0.toNat, b0.toNat, z0.toNat, r0.toNat]) = some w := hw
  cases hw
  have := c0.isLt
  have := a0.isLt
  have := b0.isLt
  have := z0.isLt
  have := r0.isLt
  show 0x02000110 + (c0.toNat * 2 ^ 20 + (a0.toNat * 2 ^ 15 + (b0.toNat * 2 ^ 10 + (z0.toNat * 2 ^ 3 + (r0.toNat * 2 ^ 0 + 0))))) < 2 ^ 32
  omega

theorem cmpImm : ∀ c0 : BitVec 3, ∀ r0 : BitVec 3, ∀ a0 : BitVec 5, ∀ z0 : BitVec 1, ∀ i0 : BitVec 13, Statement (.cmpImm c0 r0 a0 z0 i0) := by
  intro c0 r0 a0 z0 i0 w hw
  have hw : some (rowCmpImm.pack [c0.toNat, r0.toNat, a0.toNat, z0.toNat, i0.toNat]) = some w := hw
  cases hw
  have := c0.isLt
  have := r0.isLt
  have := a0.isLt
  have := z0.isLt
  have := i0.isLt
  show 0x0E000000 + (c0.toNat * 2 ^ 22 + (r0.toNat * 2 ^ 19 + (a0.toNat * 2 ^ 14 + (z0.toNat * 2 ^ 13 + (i0.toNat * 2 ^ 0 + 0))))) < 2 ^ 32
  omega

theorem cbitAnd : ∀ d0 : BitVec 3, ∀ a0 : BitVec 3, ∀ b0 : BitVec 3, Statement (.cbitAnd d0 a0 b0) := by
  intro d0 a0 b0 w hw
  have hw : some (rowCbitAnd.pack [d0.toNat, a0.toNat, b0.toNat]) = some w := hw
  cases hw
  have := d0.isLt
  have := a0.isLt
  have := b0.isLt
  show 0x02000120 + (d0.toNat * 2 ^ 20 + (a0.toNat * 2 ^ 15 + (b0.toNat * 2 ^ 10 + 0))) < 2 ^ 32
  omega

theorem cbitOr : ∀ d0 : BitVec 3, ∀ a0 : BitVec 3, ∀ b0 : BitVec 3, Statement (.cbitOr d0 a0 b0) := by
  intro d0 a0 b0 w hw
  have hw : some (rowCbitOr.pack [d0.toNat, a0.toNat, b0.toNat]) = some w := hw
  cases hw
  have := d0.isLt
  have := a0.isLt
  have := b0.isLt
  show 0x02000121 + (d0.toNat * 2 ^ 20 + (a0.toNat * 2 ^ 15 + (b0.toNat * 2 ^ 10 + 0))) < 2 ^ 32
  omega

theorem cbitXor : ∀ d0 : BitVec 3, ∀ a0 : BitVec 3, ∀ b0 : BitVec 3, Statement (.cbitXor d0 a0 b0) := by
  intro d0 a0 b0 w hw
  have hw : some (rowCbitXor.pack [d0.toNat, a0.toNat, b0.toNat]) = some w := hw
  cases hw
  have := d0.isLt
  have := a0.isLt
  have := b0.isLt
  show 0x02000122 + (d0.toNat * 2 ^ 20 + (a0.toNat * 2 ^ 15 + (b0.toNat * 2 ^ 10 + 0))) < 2 ^ 32
  omega

theorem cbitAndn : ∀ d0 : BitVec 3, ∀ a0 : BitVec 3, ∀ b0 : BitVec 3, Statement (.cbitAndn d0 a0 b0) := by
  intro d0 a0 b0 w hw
  have hw : some (rowCbitAndn.pack [d0.toNat, a0.toNat, b0.toNat]) = some w := hw
  cases hw
  have := d0.isLt
  have := a0.isLt
  have := b0.isLt
  show 0x02000123 + (d0.toNat * 2 ^ 20 + (a0.toNat * 2 ^ 15 + (b0.toNat * 2 ^ 10 + 0))) < 2 ^ 32
  omega

theorem cbitSet : ∀ d0 : BitVec 3, Statement (.cbitSet d0) := by
  intro d0 w hw
  have hw : some (rowCbitSet.pack [d0.toNat]) = some w := hw
  cases hw
  have := d0.isLt
  show 0x02000124 + (d0.toNat * 2 ^ 20 + 0) < 2 ^ 32
  omega

theorem cbitClear : ∀ d0 : BitVec 3, Statement (.cbitClear d0) := by
  intro d0 w hw
  have hw : some (rowCbitClear.pack [d0.toNat]) = some w := hw
  cases hw
  have := d0.isLt
  show 0x02000125 + (d0.toNat * 2 ^ 20 + 0) < 2 ^ 32
  omega

theorem cbitNot : ∀ d0 : BitVec 3, ∀ a0 : BitVec 3, Statement (.cbitNot d0 a0) := by
  intro d0 a0 w hw
  have hw : some (rowCbitNot.pack [d0.toNat, a0.toNat]) = some w := hw
  cases hw
  have := d0.isLt
  have := a0.isLt
  show 0x02000126 + (d0.toNat * 2 ^ 20 + (a0.toNat * 2 ^ 15 + 0)) < 2 ^ 32
  omega

theorem cbitMove : ∀ d0 : BitVec 3, ∀ a0 : BitVec 3, Statement (.cbitMove d0 a0) := by
  intro d0 a0 w hw
  have hw : some (rowCbitMove.pack [d0.toNat, a0.toNat]) = some w := hw
  cases hw
  have := d0.isLt
  have := a0.isLt
  show 0x02000127 + (d0.toNat * 2 ^ 20 + (a0.toNat * 2 ^ 15 + 0)) < 2 ^ 32
  omega

theorem lui : ∀ d0 : BitVec 5, ∀ i0 : BitVec 20, Statement (.lui d0 i0) := by
  intro d0 i0 w hw
  have hw : some (rowLui.pack [d0.toNat, i0.toNat]) = some w := hw
  cases hw
  have := d0.isLt
  have := i0.isLt
  show 0x10000000 + (d0.toNat * 2 ^ 20 + (i0.toNat * 2 ^ 0 + 0)) < 2 ^ 32
  omega

theorem fadd : ∀ d0 : BitVec 5, ∀ a0 : BitVec 5, ∀ b0 : BitVec 5, ∀ f0 : BitVec 2, Statement (.fadd d0 a0 b0 f0) := by
  intro d0 a0 b0 f0 w hw
  have hw : some (rowFadd.pack [d0.toNat, a0.toNat, b0.toNat, f0.toNat]) = some w := hw
  cases hw
  have := d0.isLt
  have := a0.isLt
  have := b0.isLt
  have := f0.isLt
  show 0x12000000 + (d0.toNat * 2 ^ 20 + (a0.toNat * 2 ^ 15 + (b0.toNat * 2 ^ 10 + (f0.toNat * 2 ^ 2 + 0)))) < 2 ^ 32
  omega

theorem fsub : ∀ d0 : BitVec 5, ∀ a0 : BitVec 5, ∀ b0 : BitVec 5, ∀ f0 : BitVec 2, Statement (.fsub d0 a0 b0 f0) := by
  intro d0 a0 b0 f0 w hw
  have hw : some (rowFsub.pack [d0.toNat, a0.toNat, b0.toNat, f0.toNat]) = some w := hw
  cases hw
  have := d0.isLt
  have := a0.isLt
  have := b0.isLt
  have := f0.isLt
  show 0x12000010 + (d0.toNat * 2 ^ 20 + (a0.toNat * 2 ^ 15 + (b0.toNat * 2 ^ 10 + (f0.toNat * 2 ^ 2 + 0)))) < 2 ^ 32
  omega

theorem fmul : ∀ d0 : BitVec 5, ∀ a0 : BitVec 5, ∀ b0 : BitVec 5, ∀ f0 : BitVec 2, Statement (.fmul d0 a0 b0 f0) := by
  intro d0 a0 b0 f0 w hw
  have hw : some (rowFmul.pack [d0.toNat, a0.toNat, b0.toNat, f0.toNat]) = some w := hw
  cases hw
  have := d0.isLt
  have := a0.isLt
  have := b0.isLt
  have := f0.isLt
  show 0x12000020 + (d0.toNat * 2 ^ 20 + (a0.toNat * 2 ^ 15 + (b0.toNat * 2 ^ 10 + (f0.toNat * 2 ^ 2 + 0)))) < 2 ^ 32
  omega

theorem fma : ∀ d0 : BitVec 5, ∀ a0 : BitVec 5, ∀ b0 : BitVec 5, ∀ f0 : BitVec 2, Statement (.fma d0 a0 b0 f0) := by
  intro d0 a0 b0 f0 w hw
  have hw : some (rowFma.pack [d0.toNat, a0.toNat, b0.toNat, f0.toNat]) = some w := hw
  cases hw
  have := d0.isLt
  have := a0.isLt
  have := b0.isLt
  have := f0.isLt
  show 0x12000030 + (d0.toNat * 2 ^ 20 + (a0.toNat * 2 ^ 15 + (b0.toNat * 2 ^ 10 + (f0.toNat * 2 ^ 2 + 0)))) < 2 ^ 32
  omega

theorem fdiv : ∀ d0 : BitVec 5, ∀ a0 : BitVec 5, ∀ b0 : BitVec 5, ∀ f0 : BitVec 2, Statement (.fdiv d0 a0 b0 f0) := by
  intro d0 a0 b0 f0 w hw
  have hw : some (rowFdiv.pack [d0.toNat, a0.toNat, b0.toNat, f0.toNat]) = some w := hw
  cases hw
  have := d0.isLt
  have := a0.isLt
  have := b0.isLt
  have := f0.isLt
  show 0x12000040 + (d0.toNat * 2 ^ 20 + (a0.toNat * 2 ^ 15 + (b0.toNat * 2 ^ 10 + (f0.toNat * 2 ^ 2 + 0)))) < 2 ^ 32
  omega

theorem fsqrt : ∀ d0 : BitVec 5, ∀ a0 : BitVec 5, ∀ f0 : BitVec 2, Statement (.fsqrt d0 a0 f0) := by
  intro d0 a0 f0 w hw
  have hw : some (rowFsqrt.pack [d0.toNat, a0.toNat, f0.toNat]) = some w := hw
  cases hw
  have := d0.isLt
  have := a0.isLt
  have := f0.isLt
  show 0x12000050 + (d0.toNat * 2 ^ 20 + (a0.toNat * 2 ^ 15 + (f0.toNat * 2 ^ 2 + 0))) < 2 ^ 32
  omega

theorem fmin : ∀ d0 : BitVec 5, ∀ a0 : BitVec 5, ∀ b0 : BitVec 5, ∀ f0 : BitVec 2, Statement (.fmin d0 a0 b0 f0) := by
  intro d0 a0 b0 f0 w hw
  have hw : some (rowFmin.pack [d0.toNat, a0.toNat, b0.toNat, f0.toNat]) = some w := hw
  cases hw
  have := d0.isLt
  have := a0.isLt
  have := b0.isLt
  have := f0.isLt
  show 0x12000060 + (d0.toNat * 2 ^ 20 + (a0.toNat * 2 ^ 15 + (b0.toNat * 2 ^ 10 + (f0.toNat * 2 ^ 2 + 0)))) < 2 ^ 32
  omega

theorem fmax : ∀ d0 : BitVec 5, ∀ a0 : BitVec 5, ∀ b0 : BitVec 5, ∀ f0 : BitVec 2, Statement (.fmax d0 a0 b0 f0) := by
  intro d0 a0 b0 f0 w hw
  have hw : some (rowFmax.pack [d0.toNat, a0.toNat, b0.toNat, f0.toNat]) = some w := hw
  cases hw
  have := d0.isLt
  have := a0.isLt
  have := b0.isLt
  have := f0.isLt
  show 0x12000070 + (d0.toNat * 2 ^ 20 + (a0.toNat * 2 ^ 15 + (b0.toNat * 2 ^ 10 + (f0.toNat * 2 ^ 2 + 0)))) < 2 ^ 32
  omega

theorem fcmp : ∀ c0 : BitVec 3, ∀ a0 : BitVec 5, ∀ b0 : BitVec 5, ∀ f0 : BitVec 2, ∀ r0 : BitVec 2, Statement (.fcmp c0 a0 b0 f0 r0) := by
  intro c0 a0 b0 f0 r0 w hw
  have hw : some (rowFcmp.pack [c0.toNat, a0.toNat, b0.toNat, f0.toNat, r0.toNat]) = some w := hw
  cases hw
  have := c0.isLt
  have := a0.isLt
  have := b0.isLt
  have := f0.isLt
  have := r0.isLt
  show 0x12000080 + (c0.toNat * 2 ^ 22 + (a0.toNat * 2 ^ 15 + (b0.toNat * 2 ^ 10 + (f0.toNat * 2 ^ 2 + (r0.toNat * 2 ^ 0 + 0))))) < 2 ^ 32
  omega

theorem fcvt : ∀ d0 : BitVec 5, ∀ a0 : BitVec 5, ∀ t0 : BitVec 3, ∀ f0 : BitVec 2, ∀ k0 : BitVec 2, Statement (.fcvt d0 a0 t0 f0 k0) := by
  intro d0 a0 t0 f0 k0 w hw
  have hw : some (rowFcvt.pack [d0.toNat, a0.toNat, t0.toNat, f0.toNat, k0.toNat]) = some w := hw
  cases hw
  have := d0.isLt
  have := a0.isLt
  have := t0.isLt
  have := f0.isLt
  have := k0.isLt
  show 0x12000090 + (d0.toNat * 2 ^ 20 + (a0.toNat * 2 ^ 15 + (t0.toNat * 2 ^ 12 + (f0.toNat * 2 ^ 2 + (k0.toNat * 2 ^ 0 + 0))))) < 2 ^ 32
  omega

theorem ld : ∀ d0 : BitVec 5, ∀ a0 : BitVec 5, ∀ g0 : BitVec 3, ∀ s0 : BitVec 2, ∀ z0 : BitVec 1, ∀ i0 : BitVec 9, Statement (.ld d0 a0 g0 s0 z0 i0) := by
  intro d0 a0 g0 s0 z0 i0 w hw
  have hw : some (rowLd.pack [d0.toNat, a0.toNat, g0.toNat, s0.toNat, z0.toNat, i0.toNat]) = some w := hw
  cases hw
  have := d0.isLt
  have := a0.isLt
  have := g0.isLt
  have := s0.isLt
  have := z0.isLt
  have := i0.isLt
  show 0x14000000 + (d0.toNat * 2 ^ 20 + (a0.toNat * 2 ^ 15 + (g0.toNat * 2 ^ 12 + (s0.toNat * 2 ^ 10 + (z0.toNat * 2 ^ 9 + (i0.toNat * 2 ^ 0 + 0)))))) < 2 ^ 32
  omega

theorem st : ∀ d0 : BitVec 5, ∀ a0 : BitVec 5, ∀ g0 : BitVec 3, ∀ s0 : BitVec 2, ∀ i0 : BitVec 9, Statement (.st d0 a0 g0 s0 i0) := by
  intro d0 a0 g0 s0 i0 w hw
  have hw : some (rowSt.pack [d0.toNat, a0.toNat, g0.toNat, s0.toNat, i0.toNat]) = some w := hw
  cases hw
  have := d0.isLt
  have := a0.isLt
  have := g0.isLt
  have := s0.isLt
  have := i0.isLt
  show 0x16000000 + (d0.toNat * 2 ^ 20 + (a0.toNat * 2 ^ 15 + (g0.toNat * 2 ^ 12 + (s0.toNat * 2 ^ 10 + (i0.toNat * 2 ^ 0 + 0))))) < 2 ^ 32
  omega

theorem ldAcq : ∀ d0 : BitVec 5, ∀ a0 : BitVec 5, ∀ p0 : BitVec 3, ∀ s0 : BitVec 2, Statement (.ldAcq d0 a0 p0 s0) := by
  intro d0 a0 p0 s0 w hw
  have hw : some (rowLdAcq.pack [d0.toNat, a0.toNat, p0.toNat, s0.toNat]) = some w := hw
  cases hw
  have := d0.isLt
  have := a0.isLt
  have := p0.isLt
  have := s0.isLt
  show 0x18000000 + (d0.toNat * 2 ^ 20 + (a0.toNat * 2 ^ 15 + (p0.toNat * 2 ^ 7 + (s0.toNat * 2 ^ 5 + 0)))) < 2 ^ 32
  omega

theorem stRel : ∀ a0 : BitVec 5, ∀ b0 : BitVec 5, ∀ p0 : BitVec 3, ∀ s0 : BitVec 2, Statement (.stRel a0 b0 p0 s0) := by
  intro a0 b0 p0 s0 w hw
  have hw : some (rowStRel.pack [a0.toNat, b0.toNat, p0.toNat, s0.toNat]) = some w := hw
  cases hw
  have := a0.isLt
  have := b0.isLt
  have := p0.isLt
  have := s0.isLt
  show 0x18000001 + (a0.toNat * 2 ^ 15 + (b0.toNat * 2 ^ 10 + (p0.toNat * 2 ^ 7 + (s0.toNat * 2 ^ 5 + 0)))) < 2 ^ 32
  omega

theorem amoAdd : ∀ d0 : BitVec 5, ∀ a0 : BitVec 5, ∀ b0 : BitVec 5, ∀ p0 : BitVec 3, ∀ s0 : BitVec 1, Statement (.amoAdd d0 a0 b0 p0 s0) := by
  intro d0 a0 b0 p0 s0 w hw
  have hw : some (rowAmoAdd.pack [d0.toNat, a0.toNat, b0.toNat, p0.toNat, s0.toNat]) = some w := hw
  cases hw
  have := d0.isLt
  have := a0.isLt
  have := b0.isLt
  have := p0.isLt
  have := s0.isLt
  show 0x18000042 + (d0.toNat * 2 ^ 20 + (a0.toNat * 2 ^ 15 + (b0.toNat * 2 ^ 10 + (p0.toNat * 2 ^ 7 + (s0.toNat * 2 ^ 5 + 0))))) < 2 ^ 32
  omega

theorem amoAnd : ∀ d0 : BitVec 5, ∀ a0 : BitVec 5, ∀ b0 : BitVec 5, ∀ p0 : BitVec 3, ∀ s0 : BitVec 1, Statement (.amoAnd d0 a0 b0 p0 s0) := by
  intro d0 a0 b0 p0 s0 w hw
  have hw : some (rowAmoAnd.pack [d0.toNat, a0.toNat, b0.toNat, p0.toNat, s0.toNat]) = some w := hw
  cases hw
  have := d0.isLt
  have := a0.isLt
  have := b0.isLt
  have := p0.isLt
  have := s0.isLt
  show 0x18000043 + (d0.toNat * 2 ^ 20 + (a0.toNat * 2 ^ 15 + (b0.toNat * 2 ^ 10 + (p0.toNat * 2 ^ 7 + (s0.toNat * 2 ^ 5 + 0))))) < 2 ^ 32
  omega

theorem amoOr : ∀ d0 : BitVec 5, ∀ a0 : BitVec 5, ∀ b0 : BitVec 5, ∀ p0 : BitVec 3, ∀ s0 : BitVec 1, Statement (.amoOr d0 a0 b0 p0 s0) := by
  intro d0 a0 b0 p0 s0 w hw
  have hw : some (rowAmoOr.pack [d0.toNat, a0.toNat, b0.toNat, p0.toNat, s0.toNat]) = some w := hw
  cases hw
  have := d0.isLt
  have := a0.isLt
  have := b0.isLt
  have := p0.isLt
  have := s0.isLt
  show 0x18000044 + (d0.toNat * 2 ^ 20 + (a0.toNat * 2 ^ 15 + (b0.toNat * 2 ^ 10 + (p0.toNat * 2 ^ 7 + (s0.toNat * 2 ^ 5 + 0))))) < 2 ^ 32
  omega

theorem amoXor : ∀ d0 : BitVec 5, ∀ a0 : BitVec 5, ∀ b0 : BitVec 5, ∀ p0 : BitVec 3, ∀ s0 : BitVec 1, Statement (.amoXor d0 a0 b0 p0 s0) := by
  intro d0 a0 b0 p0 s0 w hw
  have hw : some (rowAmoXor.pack [d0.toNat, a0.toNat, b0.toNat, p0.toNat, s0.toNat]) = some w := hw
  cases hw
  have := d0.isLt
  have := a0.isLt
  have := b0.isLt
  have := p0.isLt
  have := s0.isLt
  show 0x18000045 + (d0.toNat * 2 ^ 20 + (a0.toNat * 2 ^ 15 + (b0.toNat * 2 ^ 10 + (p0.toNat * 2 ^ 7 + (s0.toNat * 2 ^ 5 + 0))))) < 2 ^ 32
  omega

theorem amoMin : ∀ d0 : BitVec 5, ∀ a0 : BitVec 5, ∀ b0 : BitVec 5, ∀ p0 : BitVec 3, ∀ s0 : BitVec 1, Statement (.amoMin d0 a0 b0 p0 s0) := by
  intro d0 a0 b0 p0 s0 w hw
  have hw : some (rowAmoMin.pack [d0.toNat, a0.toNat, b0.toNat, p0.toNat, s0.toNat]) = some w := hw
  cases hw
  have := d0.isLt
  have := a0.isLt
  have := b0.isLt
  have := p0.isLt
  have := s0.isLt
  show 0x18000046 + (d0.toNat * 2 ^ 20 + (a0.toNat * 2 ^ 15 + (b0.toNat * 2 ^ 10 + (p0.toNat * 2 ^ 7 + (s0.toNat * 2 ^ 5 + 0))))) < 2 ^ 32
  omega

theorem amoMax : ∀ d0 : BitVec 5, ∀ a0 : BitVec 5, ∀ b0 : BitVec 5, ∀ p0 : BitVec 3, ∀ s0 : BitVec 1, Statement (.amoMax d0 a0 b0 p0 s0) := by
  intro d0 a0 b0 p0 s0 w hw
  have hw : some (rowAmoMax.pack [d0.toNat, a0.toNat, b0.toNat, p0.toNat, s0.toNat]) = some w := hw
  cases hw
  have := d0.isLt
  have := a0.isLt
  have := b0.isLt
  have := p0.isLt
  have := s0.isLt
  show 0x18000047 + (d0.toNat * 2 ^ 20 + (a0.toNat * 2 ^ 15 + (b0.toNat * 2 ^ 10 + (p0.toNat * 2 ^ 7 + (s0.toNat * 2 ^ 5 + 0))))) < 2 ^ 32
  omega

theorem amoMinZ : ∀ d0 : BitVec 5, ∀ a0 : BitVec 5, ∀ b0 : BitVec 5, ∀ p0 : BitVec 3, ∀ s0 : BitVec 1, Statement (.amoMinZ d0 a0 b0 p0 s0) := by
  intro d0 a0 b0 p0 s0 w hw
  have hw : some (rowAmoMinZ.pack [d0.toNat, a0.toNat, b0.toNat, p0.toNat, s0.toNat]) = some w := hw
  cases hw
  have := d0.isLt
  have := a0.isLt
  have := b0.isLt
  have := p0.isLt
  have := s0.isLt
  show 0x18000048 + (d0.toNat * 2 ^ 20 + (a0.toNat * 2 ^ 15 + (b0.toNat * 2 ^ 10 + (p0.toNat * 2 ^ 7 + (s0.toNat * 2 ^ 5 + 0))))) < 2 ^ 32
  omega

theorem amoMaxZ : ∀ d0 : BitVec 5, ∀ a0 : BitVec 5, ∀ b0 : BitVec 5, ∀ p0 : BitVec 3, ∀ s0 : BitVec 1, Statement (.amoMaxZ d0 a0 b0 p0 s0) := by
  intro d0 a0 b0 p0 s0 w hw
  have hw : some (rowAmoMaxZ.pack [d0.toNat, a0.toNat, b0.toNat, p0.toNat, s0.toNat]) = some w := hw
  cases hw
  have := d0.isLt
  have := a0.isLt
  have := b0.isLt
  have := p0.isLt
  have := s0.isLt
  show 0x18000049 + (d0.toNat * 2 ^ 20 + (a0.toNat * 2 ^ 15 + (b0.toNat * 2 ^ 10 + (p0.toNat * 2 ^ 7 + (s0.toNat * 2 ^ 5 + 0))))) < 2 ^ 32
  omega

theorem amoSwap : ∀ d0 : BitVec 5, ∀ a0 : BitVec 5, ∀ b0 : BitVec 5, ∀ p0 : BitVec 3, ∀ s0 : BitVec 1, Statement (.amoSwap d0 a0 b0 p0 s0) := by
  intro d0 a0 b0 p0 s0 w hw
  have hw : some (rowAmoSwap.pack [d0.toNat, a0.toNat, b0.toNat, p0.toNat, s0.toNat]) = some w := hw
  cases hw
  have := d0.isLt
  have := a0.isLt
  have := b0.isLt
  have := p0.isLt
  have := s0.isLt
  show 0x1800004A + (d0.toNat * 2 ^ 20 + (a0.toNat * 2 ^ 15 + (b0.toNat * 2 ^ 10 + (p0.toNat * 2 ^ 7 + (s0.toNat * 2 ^ 5 + 0))))) < 2 ^ 32
  omega

theorem amoFadd : ∀ d0 : BitVec 5, ∀ a0 : BitVec 5, ∀ b0 : BitVec 5, ∀ p0 : BitVec 3, ∀ s0 : BitVec 1, Statement (.amoFadd d0 a0 b0 p0 s0) := by
  intro d0 a0 b0 p0 s0 w hw
  have hw : some (rowAmoFadd.pack [d0.toNat, a0.toNat, b0.toNat, p0.toNat, s0.toNat]) = some w := hw
  cases hw
  have := d0.isLt
  have := a0.isLt
  have := b0.isLt
  have := p0.isLt
  have := s0.isLt
  show 0x1800004B + (d0.toNat * 2 ^ 20 + (a0.toNat * 2 ^ 15 + (b0.toNat * 2 ^ 10 + (p0.toNat * 2 ^ 7 + (s0.toNat * 2 ^ 5 + 0))))) < 2 ^ 32
  omega

theorem cas : ∀ d0 : BitVec 5, ∀ a0 : BitVec 5, ∀ b0 : BitVec 5, ∀ p0 : BitVec 3, ∀ s0 : BitVec 1, Statement (.cas d0 a0 b0 p0 s0) := by
  intro d0 a0 b0 p0 s0 w hw
  have hw : some (rowCas.pack [d0.toNat, a0.toNat, b0.toNat, p0.toNat, s0.toNat]) = some w := hw
  cases hw
  have := d0.isLt
  have := a0.isLt
  have := b0.isLt
  have := p0.isLt
  have := s0.isLt
  show 0x18000050 + (d0.toNat * 2 ^ 20 + (a0.toNat * 2 ^ 15 + (b0.toNat * 2 ^ 10 + (p0.toNat * 2 ^ 7 + (s0.toNat * 2 ^ 5 + 0))))) < 2 ^ 32
  omega

theorem b : ∀ c0 : BitVec 3, ∀ t0 : BitVec 1, ∀ h0 : BitVec 1, ∀ d0 : BitVec 20, Statement (.b c0 t0 h0 d0) := by
  intro c0 t0 h0 d0 w hw
  have hw : some (rowB.pack [c0.toNat, t0.toNat, h0.toNat, d0.toNat]) = some w := hw
  cases hw
  have := c0.isLt
  have := t0.isLt
  have := h0.isLt
  have := d0.isLt
  show 0x1A000000 + (c0.toNat * 2 ^ 22 + (t0.toNat * 2 ^ 21 + (h0.toNat * 2 ^ 20 + (d0.toNat * 2 ^ 0 + 0)))) < 2 ^ 32
  omega

theorem j : ∀ d0 : BitVec 25, Statement (.j d0) := by
  intro d0 w hw
  have hw : some (rowJ.pack [d0.toNat]) = some w := hw
  cases hw
  have := d0.isLt
  show 0x1C000000 + (d0.toNat * 2 ^ 0 + 0) < 2 ^ 32
  omega

theorem jal : ∀ d0 : BitVec 25, Statement (.jal d0) := by
  intro d0 w hw
  have hw : some (rowJal.pack [d0.toNat]) = some w := hw
  cases hw
  have := d0.isLt
  show 0x1E000000 + (d0.toNat * 2 ^ 0 + 0) < 2 ^ 32
  omega

theorem jr : ∀ a0 : BitVec 5, Statement (.jr a0) := by
  intro a0 w hw
  have hw : some (rowJr.pack [a0.toNat]) = some w := hw
  cases hw
  have := a0.isLt
  show 0x20000000 + (a0.toNat * 2 ^ 15 + 0) < 2 ^ 32
  omega

theorem jrLink : ∀ a0 : BitVec 5, Statement (.jrLink a0) := by
  intro a0 w hw
  have hw : some (rowJrLink.pack [a0.toNat]) = some w := hw
  cases hw
  have := a0.isLt
  show 0x20000001 + (a0.toNat * 2 ^ 15 + 0) < 2 ^ 32
  omega

theorem ret : Statement (.ret) := by
  intro w hw
  have hw : some (rowRet.pack []) = some w := hw
  cases hw
  show 0x20000010 + 0 < 2 ^ 32
  omega

theorem loop : ∀ a0 : BitVec 5, ∀ n0 : BitVec 10, ∀ l0 : BitVec 10, Statement (.loop a0 n0 l0) := by
  intro a0 n0 l0 w hw
  have hw : some (rowLoop.pack [a0.toNat, n0.toNat, l0.toNat]) = some w := hw
  cases hw
  have := a0.isLt
  have := n0.isLt
  have := l0.isLt
  show 0x22000000 + (a0.toNat * 2 ^ 20 + (n0.toNat * 2 ^ 10 + (l0.toNat * 2 ^ 0 + 0))) < 2 ^ 32
  omega

theorem vshape : ∀ d0 : BitVec 5, ∀ a0 : BitVec 5, ∀ b0 : BitVec 5, ∀ e0 : BitVec 5, ∀ g0 : BitVec 2, ∀ t0 : BitVec 1, ∀ x0 : BitVec 1, Statement (.vshape d0 a0 b0 e0 g0 t0 x0) := by
  intro d0 a0 b0 e0 g0 t0 x0 w hw
  have hw : some (rowVshape.pack [d0.toNat, a0.toNat, b0.toNat, e0.toNat, g0.toNat, t0.toNat, x0.toNat]) = some w := hw
  cases hw
  have := d0.isLt
  have := a0.isLt
  have := b0.isLt
  have := e0.isLt
  have := g0.isLt
  have := t0.isLt
  have := x0.isLt
  show 0x24000000 + (d0.toNat * 2 ^ 20 + (a0.toNat * 2 ^ 15 + (b0.toNat * 2 ^ 10 + (e0.toNat * 2 ^ 5 + (g0.toNat * 2 ^ 3 + (t0.toNat * 2 ^ 2 + (x0.toNat * 2 ^ 1 + 0))))))) < 2 ^ 32
  omega

theorem vrel : Statement (.vrel) := by
  intro w hw
  have hw : some (rowVrel.pack []) = some w := hw
  cases hw
  show 0x26000000 + 0 < 2 ^ 32
  omega

theorem vaddVV : ∀ k0 : BitVec 1, ∀ d0 : BitVec 5, ∀ a0 : BitVec 5, ∀ b0 : BitVec 5, ∀ m0 : BitVec 1, ∀ q0 : BitVec 1, Statement (.vaddVV k0 d0 a0 b0 m0 q0) := by
  intro k0 d0 a0 b0 m0 q0 w hw
  have hw : some (rowVaddVV.pack [k0.toNat, d0.toNat, a0.toNat, b0.toNat, m0.toNat, q0.toNat]) = some w := hw
  cases hw
  have := k0.isLt
  have := d0.isLt
  have := a0.isLt
  have := b0.isLt
  have := m0.isLt
  have := q0.isLt
  show 0x28000000 + (k0.toNat * 2 ^ 31 + (d0.toNat * 2 ^ 20 + (a0.toNat * 2 ^ 15 + (b0.toNat * 2 ^ 10 + (m0.toNat * 2 ^ 9 + (q0.toNat * 2 ^ 8 + 0)))))) < 2 ^ 32
  omega

theorem vaddVS : ∀ k0 : BitVec 1, ∀ d0 : BitVec 5, ∀ a0 : BitVec 5, ∀ b0 : BitVec 5, ∀ m0 : BitVec 1, ∀ q0 : BitVec 1, Statement (.vaddVS k0 d0 a0 b0 m0 q0) := by
  intro k0 d0 a0 b0 m0 q0 w hw
  have hw : some (rowVaddVS.pack [k0.toNat, d0.toNat, a0.toNat, b0.toNat, m0.toNat, q0.toNat]) = some w := hw
  cases hw
  have := k0.isLt
  have := d0.isLt
  have := a0.isLt
  have := b0.isLt
  have := m0.isLt
  have := q0.isLt
  show 0x2A000000 + (k0.toNat * 2 ^ 31 + (d0.toNat * 2 ^ 20 + (a0.toNat * 2 ^ 15 + (b0.toNat * 2 ^ 10 + (m0.toNat * 2 ^ 9 + (q0.toNat * 2 ^ 8 + 0)))))) < 2 ^ 32
  omega

theorem vsubVV : ∀ k0 : BitVec 1, ∀ d0 : BitVec 5, ∀ a0 : BitVec 5, ∀ b0 : BitVec 5, ∀ m0 : BitVec 1, ∀ q0 : BitVec 1, Statement (.vsubVV k0 d0 a0 b0 m0 q0) := by
  intro k0 d0 a0 b0 m0 q0 w hw
  have hw : some (rowVsubVV.pack [k0.toNat, d0.toNat, a0.toNat, b0.toNat, m0.toNat, q0.toNat]) = some w := hw
  cases hw
  have := k0.isLt
  have := d0.isLt
  have := a0.isLt
  have := b0.isLt
  have := m0.isLt
  have := q0.isLt
  show 0x28000001 + (k0.toNat * 2 ^ 31 + (d0.toNat * 2 ^ 20 + (a0.toNat * 2 ^ 15 + (b0.toNat * 2 ^ 10 + (m0.toNat * 2 ^ 9 + (q0.toNat * 2 ^ 8 + 0)))))) < 2 ^ 32
  omega

theorem vsubVS : ∀ k0 : BitVec 1, ∀ d0 : BitVec 5, ∀ a0 : BitVec 5, ∀ b0 : BitVec 5, ∀ m0 : BitVec 1, ∀ q0 : BitVec 1, Statement (.vsubVS k0 d0 a0 b0 m0 q0) := by
  intro k0 d0 a0 b0 m0 q0 w hw
  have hw : some (rowVsubVS.pack [k0.toNat, d0.toNat, a0.toNat, b0.toNat, m0.toNat, q0.toNat]) = some w := hw
  cases hw
  have := k0.isLt
  have := d0.isLt
  have := a0.isLt
  have := b0.isLt
  have := m0.isLt
  have := q0.isLt
  show 0x2A000001 + (k0.toNat * 2 ^ 31 + (d0.toNat * 2 ^ 20 + (a0.toNat * 2 ^ 15 + (b0.toNat * 2 ^ 10 + (m0.toNat * 2 ^ 9 + (q0.toNat * 2 ^ 8 + 0)))))) < 2 ^ 32
  omega

theorem vmulVV : ∀ k0 : BitVec 1, ∀ d0 : BitVec 5, ∀ a0 : BitVec 5, ∀ b0 : BitVec 5, ∀ m0 : BitVec 1, ∀ q0 : BitVec 1, Statement (.vmulVV k0 d0 a0 b0 m0 q0) := by
  intro k0 d0 a0 b0 m0 q0 w hw
  have hw : some (rowVmulVV.pack [k0.toNat, d0.toNat, a0.toNat, b0.toNat, m0.toNat, q0.toNat]) = some w := hw
  cases hw
  have := k0.isLt
  have := d0.isLt
  have := a0.isLt
  have := b0.isLt
  have := m0.isLt
  have := q0.isLt
  show 0x28000002 + (k0.toNat * 2 ^ 31 + (d0.toNat * 2 ^ 20 + (a0.toNat * 2 ^ 15 + (b0.toNat * 2 ^ 10 + (m0.toNat * 2 ^ 9 + (q0.toNat * 2 ^ 8 + 0)))))) < 2 ^ 32
  omega

theorem vmulVS : ∀ k0 : BitVec 1, ∀ d0 : BitVec 5, ∀ a0 : BitVec 5, ∀ b0 : BitVec 5, ∀ m0 : BitVec 1, ∀ q0 : BitVec 1, Statement (.vmulVS k0 d0 a0 b0 m0 q0) := by
  intro k0 d0 a0 b0 m0 q0 w hw
  have hw : some (rowVmulVS.pack [k0.toNat, d0.toNat, a0.toNat, b0.toNat, m0.toNat, q0.toNat]) = some w := hw
  cases hw
  have := k0.isLt
  have := d0.isLt
  have := a0.isLt
  have := b0.isLt
  have := m0.isLt
  have := q0.isLt
  show 0x2A000002 + (k0.toNat * 2 ^ 31 + (d0.toNat * 2 ^ 20 + (a0.toNat * 2 ^ 15 + (b0.toNat * 2 ^ 10 + (m0.toNat * 2 ^ 9 + (q0.toNat * 2 ^ 8 + 0)))))) < 2 ^ 32
  omega

theorem vmaVV : ∀ k0 : BitVec 1, ∀ d0 : BitVec 5, ∀ a0 : BitVec 5, ∀ b0 : BitVec 5, ∀ m0 : BitVec 1, ∀ q0 : BitVec 1, Statement (.vmaVV k0 d0 a0 b0 m0 q0) := by
  intro k0 d0 a0 b0 m0 q0 w hw
  have hw : some (rowVmaVV.pack [k0.toNat, d0.toNat, a0.toNat, b0.toNat, m0.toNat, q0.toNat]) = some w := hw
  cases hw
  have := k0.isLt
  have := d0.isLt
  have := a0.isLt
  have := b0.isLt
  have := m0.isLt
  have := q0.isLt
  show 0x28000003 + (k0.toNat * 2 ^ 31 + (d0.toNat * 2 ^ 20 + (a0.toNat * 2 ^ 15 + (b0.toNat * 2 ^ 10 + (m0.toNat * 2 ^ 9 + (q0.toNat * 2 ^ 8 + 0)))))) < 2 ^ 32
  omega

theorem vmaVS : ∀ k0 : BitVec 1, ∀ d0 : BitVec 5, ∀ a0 : BitVec 5, ∀ b0 : BitVec 5, ∀ m0 : BitVec 1, ∀ q0 : BitVec 1, Statement (.vmaVS k0 d0 a0 b0 m0 q0) := by
  intro k0 d0 a0 b0 m0 q0 w hw
  have hw : some (rowVmaVS.pack [k0.toNat, d0.toNat, a0.toNat, b0.toNat, m0.toNat, q0.toNat]) = some w := hw
  cases hw
  have := k0.isLt
  have := d0.isLt
  have := a0.isLt
  have := b0.isLt
  have := m0.isLt
  have := q0.isLt
  show 0x2A000003 + (k0.toNat * 2 ^ 31 + (d0.toNat * 2 ^ 20 + (a0.toNat * 2 ^ 15 + (b0.toNat * 2 ^ 10 + (m0.toNat * 2 ^ 9 + (q0.toNat * 2 ^ 8 + 0)))))) < 2 ^ 32
  omega

theorem vdivVV : ∀ k0 : BitVec 1, ∀ d0 : BitVec 5, ∀ a0 : BitVec 5, ∀ b0 : BitVec 5, ∀ m0 : BitVec 1, ∀ q0 : BitVec 1, Statement (.vdivVV k0 d0 a0 b0 m0 q0) := by
  intro k0 d0 a0 b0 m0 q0 w hw
  have hw : some (rowVdivVV.pack [k0.toNat, d0.toNat, a0.toNat, b0.toNat, m0.toNat, q0.toNat]) = some w := hw
  cases hw
  have := k0.isLt
  have := d0.isLt
  have := a0.isLt
  have := b0.isLt
  have := m0.isLt
  have := q0.isLt
  show 0x28000004 + (k0.toNat * 2 ^ 31 + (d0.toNat * 2 ^ 20 + (a0.toNat * 2 ^ 15 + (b0.toNat * 2 ^ 10 + (m0.toNat * 2 ^ 9 + (q0.toNat * 2 ^ 8 + 0)))))) < 2 ^ 32
  omega

theorem vdivVS : ∀ k0 : BitVec 1, ∀ d0 : BitVec 5, ∀ a0 : BitVec 5, ∀ b0 : BitVec 5, ∀ m0 : BitVec 1, ∀ q0 : BitVec 1, Statement (.vdivVS k0 d0 a0 b0 m0 q0) := by
  intro k0 d0 a0 b0 m0 q0 w hw
  have hw : some (rowVdivVS.pack [k0.toNat, d0.toNat, a0.toNat, b0.toNat, m0.toNat, q0.toNat]) = some w := hw
  cases hw
  have := k0.isLt
  have := d0.isLt
  have := a0.isLt
  have := b0.isLt
  have := m0.isLt
  have := q0.isLt
  show 0x2A000004 + (k0.toNat * 2 ^ 31 + (d0.toNat * 2 ^ 20 + (a0.toNat * 2 ^ 15 + (b0.toNat * 2 ^ 10 + (m0.toNat * 2 ^ 9 + (q0.toNat * 2 ^ 8 + 0)))))) < 2 ^ 32
  omega

theorem vminVV : ∀ k0 : BitVec 1, ∀ d0 : BitVec 5, ∀ a0 : BitVec 5, ∀ b0 : BitVec 5, ∀ m0 : BitVec 1, ∀ q0 : BitVec 1, Statement (.vminVV k0 d0 a0 b0 m0 q0) := by
  intro k0 d0 a0 b0 m0 q0 w hw
  have hw : some (rowVminVV.pack [k0.toNat, d0.toNat, a0.toNat, b0.toNat, m0.toNat, q0.toNat]) = some w := hw
  cases hw
  have := k0.isLt
  have := d0.isLt
  have := a0.isLt
  have := b0.isLt
  have := m0.isLt
  have := q0.isLt
  show 0x28000005 + (k0.toNat * 2 ^ 31 + (d0.toNat * 2 ^ 20 + (a0.toNat * 2 ^ 15 + (b0.toNat * 2 ^ 10 + (m0.toNat * 2 ^ 9 + (q0.toNat * 2 ^ 8 + 0)))))) < 2 ^ 32
  omega

theorem vminVS : ∀ k0 : BitVec 1, ∀ d0 : BitVec 5, ∀ a0 : BitVec 5, ∀ b0 : BitVec 5, ∀ m0 : BitVec 1, ∀ q0 : BitVec 1, Statement (.vminVS k0 d0 a0 b0 m0 q0) := by
  intro k0 d0 a0 b0 m0 q0 w hw
  have hw : some (rowVminVS.pack [k0.toNat, d0.toNat, a0.toNat, b0.toNat, m0.toNat, q0.toNat]) = some w := hw
  cases hw
  have := k0.isLt
  have := d0.isLt
  have := a0.isLt
  have := b0.isLt
  have := m0.isLt
  have := q0.isLt
  show 0x2A000005 + (k0.toNat * 2 ^ 31 + (d0.toNat * 2 ^ 20 + (a0.toNat * 2 ^ 15 + (b0.toNat * 2 ^ 10 + (m0.toNat * 2 ^ 9 + (q0.toNat * 2 ^ 8 + 0)))))) < 2 ^ 32
  omega

theorem vmaxVV : ∀ k0 : BitVec 1, ∀ d0 : BitVec 5, ∀ a0 : BitVec 5, ∀ b0 : BitVec 5, ∀ m0 : BitVec 1, ∀ q0 : BitVec 1, Statement (.vmaxVV k0 d0 a0 b0 m0 q0) := by
  intro k0 d0 a0 b0 m0 q0 w hw
  have hw : some (rowVmaxVV.pack [k0.toNat, d0.toNat, a0.toNat, b0.toNat, m0.toNat, q0.toNat]) = some w := hw
  cases hw
  have := k0.isLt
  have := d0.isLt
  have := a0.isLt
  have := b0.isLt
  have := m0.isLt
  have := q0.isLt
  show 0x28000006 + (k0.toNat * 2 ^ 31 + (d0.toNat * 2 ^ 20 + (a0.toNat * 2 ^ 15 + (b0.toNat * 2 ^ 10 + (m0.toNat * 2 ^ 9 + (q0.toNat * 2 ^ 8 + 0)))))) < 2 ^ 32
  omega

theorem vmaxVS : ∀ k0 : BitVec 1, ∀ d0 : BitVec 5, ∀ a0 : BitVec 5, ∀ b0 : BitVec 5, ∀ m0 : BitVec 1, ∀ q0 : BitVec 1, Statement (.vmaxVS k0 d0 a0 b0 m0 q0) := by
  intro k0 d0 a0 b0 m0 q0 w hw
  have hw : some (rowVmaxVS.pack [k0.toNat, d0.toNat, a0.toNat, b0.toNat, m0.toNat, q0.toNat]) = some w := hw
  cases hw
  have := k0.isLt
  have := d0.isLt
  have := a0.isLt
  have := b0.isLt
  have := m0.isLt
  have := q0.isLt
  show 0x2A000006 + (k0.toNat * 2 ^ 31 + (d0.toNat * 2 ^ 20 + (a0.toNat * 2 ^ 15 + (b0.toNat * 2 ^ 10 + (m0.toNat * 2 ^ 9 + (q0.toNat * 2 ^ 8 + 0)))))) < 2 ^ 32
  omega

theorem vmulhVV : ∀ k0 : BitVec 1, ∀ d0 : BitVec 5, ∀ a0 : BitVec 5, ∀ b0 : BitVec 5, ∀ m0 : BitVec 1, ∀ q0 : BitVec 1, Statement (.vmulhVV k0 d0 a0 b0 m0 q0) := by
  intro k0 d0 a0 b0 m0 q0 w hw
  have hw : some (rowVmulhVV.pack [k0.toNat, d0.toNat, a0.toNat, b0.toNat, m0.toNat, q0.toNat]) = some w := hw
  cases hw
  have := k0.isLt
  have := d0.isLt
  have := a0.isLt
  have := b0.isLt
  have := m0.isLt
  have := q0.isLt
  show 0x28000007 + (k0.toNat * 2 ^ 31 + (d0.toNat * 2 ^ 20 + (a0.toNat * 2 ^ 15 + (b0.toNat * 2 ^ 10 + (m0.toNat * 2 ^ 9 + (q0.toNat * 2 ^ 8 + 0)))))) < 2 ^ 32
  omega

theorem vmulhVS : ∀ k0 : BitVec 1, ∀ d0 : BitVec 5, ∀ a0 : BitVec 5, ∀ b0 : BitVec 5, ∀ m0 : BitVec 1, ∀ q0 : BitVec 1, Statement (.vmulhVS k0 d0 a0 b0 m0 q0) := by
  intro k0 d0 a0 b0 m0 q0 w hw
  have hw : some (rowVmulhVS.pack [k0.toNat, d0.toNat, a0.toNat, b0.toNat, m0.toNat, q0.toNat]) = some w := hw
  cases hw
  have := k0.isLt
  have := d0.isLt
  have := a0.isLt
  have := b0.isLt
  have := m0.isLt
  have := q0.isLt
  show 0x2A000007 + (k0.toNat * 2 ^ 31 + (d0.toNat * 2 ^ 20 + (a0.toNat * 2 ^ 15 + (b0.toNat * 2 ^ 10 + (m0.toNat * 2 ^ 9 + (q0.toNat * 2 ^ 8 + 0)))))) < 2 ^ 32
  omega

theorem vandVV : ∀ k0 : BitVec 1, ∀ d0 : BitVec 5, ∀ a0 : BitVec 5, ∀ b0 : BitVec 5, ∀ m0 : BitVec 1, ∀ q0 : BitVec 1, Statement (.vandVV k0 d0 a0 b0 m0 q0) := by
  intro k0 d0 a0 b0 m0 q0 w hw
  have hw : some (rowVandVV.pack [k0.toNat, d0.toNat, a0.toNat, b0.toNat, m0.toNat, q0.toNat]) = some w := hw
  cases hw
  have := k0.isLt
  have := d0.isLt
  have := a0.isLt
  have := b0.isLt
  have := m0.isLt
  have := q0.isLt
  show 0x28000008 + (k0.toNat * 2 ^ 31 + (d0.toNat * 2 ^ 20 + (a0.toNat * 2 ^ 15 + (b0.toNat * 2 ^ 10 + (m0.toNat * 2 ^ 9 + (q0.toNat * 2 ^ 8 + 0)))))) < 2 ^ 32
  omega

theorem vandVS : ∀ k0 : BitVec 1, ∀ d0 : BitVec 5, ∀ a0 : BitVec 5, ∀ b0 : BitVec 5, ∀ m0 : BitVec 1, ∀ q0 : BitVec 1, Statement (.vandVS k0 d0 a0 b0 m0 q0) := by
  intro k0 d0 a0 b0 m0 q0 w hw
  have hw : some (rowVandVS.pack [k0.toNat, d0.toNat, a0.toNat, b0.toNat, m0.toNat, q0.toNat]) = some w := hw
  cases hw
  have := k0.isLt
  have := d0.isLt
  have := a0.isLt
  have := b0.isLt
  have := m0.isLt
  have := q0.isLt
  show 0x2A000008 + (k0.toNat * 2 ^ 31 + (d0.toNat * 2 ^ 20 + (a0.toNat * 2 ^ 15 + (b0.toNat * 2 ^ 10 + (m0.toNat * 2 ^ 9 + (q0.toNat * 2 ^ 8 + 0)))))) < 2 ^ 32
  omega

theorem vorVV : ∀ k0 : BitVec 1, ∀ d0 : BitVec 5, ∀ a0 : BitVec 5, ∀ b0 : BitVec 5, ∀ m0 : BitVec 1, ∀ q0 : BitVec 1, Statement (.vorVV k0 d0 a0 b0 m0 q0) := by
  intro k0 d0 a0 b0 m0 q0 w hw
  have hw : some (rowVorVV.pack [k0.toNat, d0.toNat, a0.toNat, b0.toNat, m0.toNat, q0.toNat]) = some w := hw
  cases hw
  have := k0.isLt
  have := d0.isLt
  have := a0.isLt
  have := b0.isLt
  have := m0.isLt
  have := q0.isLt
  show 0x28000009 + (k0.toNat * 2 ^ 31 + (d0.toNat * 2 ^ 20 + (a0.toNat * 2 ^ 15 + (b0.toNat * 2 ^ 10 + (m0.toNat * 2 ^ 9 + (q0.toNat * 2 ^ 8 + 0)))))) < 2 ^ 32
  omega

theorem vorVS : ∀ k0 : BitVec 1, ∀ d0 : BitVec 5, ∀ a0 : BitVec 5, ∀ b0 : BitVec 5, ∀ m0 : BitVec 1, ∀ q0 : BitVec 1, Statement (.vorVS k0 d0 a0 b0 m0 q0) := by
  intro k0 d0 a0 b0 m0 q0 w hw
  have hw : some (rowVorVS.pack [k0.toNat, d0.toNat, a0.toNat, b0.toNat, m0.toNat, q0.toNat]) = some w := hw
  cases hw
  have := k0.isLt
  have := d0.isLt
  have := a0.isLt
  have := b0.isLt
  have := m0.isLt
  have := q0.isLt
  show 0x2A000009 + (k0.toNat * 2 ^ 31 + (d0.toNat * 2 ^ 20 + (a0.toNat * 2 ^ 15 + (b0.toNat * 2 ^ 10 + (m0.toNat * 2 ^ 9 + (q0.toNat * 2 ^ 8 + 0)))))) < 2 ^ 32
  omega

theorem vxorVV : ∀ k0 : BitVec 1, ∀ d0 : BitVec 5, ∀ a0 : BitVec 5, ∀ b0 : BitVec 5, ∀ m0 : BitVec 1, ∀ q0 : BitVec 1, Statement (.vxorVV k0 d0 a0 b0 m0 q0) := by
  intro k0 d0 a0 b0 m0 q0 w hw
  have hw : some (rowVxorVV.pack [k0.toNat, d0.toNat, a0.toNat, b0.toNat, m0.toNat, q0.toNat]) = some w := hw
  cases hw
  have := k0.isLt
  have := d0.isLt
  have := a0.isLt
  have := b0.isLt
  have := m0.isLt
  have := q0.isLt
  show 0x2800000A + (k0.toNat * 2 ^ 31 + (d0.toNat * 2 ^ 20 + (a0.toNat * 2 ^ 15 + (b0.toNat * 2 ^ 10 + (m0.toNat * 2 ^ 9 + (q0.toNat * 2 ^ 8 + 0)))))) < 2 ^ 32
  omega

theorem vxorVS : ∀ k0 : BitVec 1, ∀ d0 : BitVec 5, ∀ a0 : BitVec 5, ∀ b0 : BitVec 5, ∀ m0 : BitVec 1, ∀ q0 : BitVec 1, Statement (.vxorVS k0 d0 a0 b0 m0 q0) := by
  intro k0 d0 a0 b0 m0 q0 w hw
  have hw : some (rowVxorVS.pack [k0.toNat, d0.toNat, a0.toNat, b0.toNat, m0.toNat, q0.toNat]) = some w := hw
  cases hw
  have := k0.isLt
  have := d0.isLt
  have := a0.isLt
  have := b0.isLt
  have := m0.isLt
  have := q0.isLt
  show 0x2A00000A + (k0.toNat * 2 ^ 31 + (d0.toNat * 2 ^ 20 + (a0.toNat * 2 ^ 15 + (b0.toNat * 2 ^ 10 + (m0.toNat * 2 ^ 9 + (q0.toNat * 2 ^ 8 + 0)))))) < 2 ^ 32
  omega

theorem vshlVV : ∀ k0 : BitVec 1, ∀ d0 : BitVec 5, ∀ a0 : BitVec 5, ∀ b0 : BitVec 5, ∀ m0 : BitVec 1, ∀ q0 : BitVec 1, Statement (.vshlVV k0 d0 a0 b0 m0 q0) := by
  intro k0 d0 a0 b0 m0 q0 w hw
  have hw : some (rowVshlVV.pack [k0.toNat, d0.toNat, a0.toNat, b0.toNat, m0.toNat, q0.toNat]) = some w := hw
  cases hw
  have := k0.isLt
  have := d0.isLt
  have := a0.isLt
  have := b0.isLt
  have := m0.isLt
  have := q0.isLt
  show 0x2800000B + (k0.toNat * 2 ^ 31 + (d0.toNat * 2 ^ 20 + (a0.toNat * 2 ^ 15 + (b0.toNat * 2 ^ 10 + (m0.toNat * 2 ^ 9 + (q0.toNat * 2 ^ 8 + 0)))))) < 2 ^ 32
  omega

theorem vshlVS : ∀ k0 : BitVec 1, ∀ d0 : BitVec 5, ∀ a0 : BitVec 5, ∀ b0 : BitVec 5, ∀ m0 : BitVec 1, ∀ q0 : BitVec 1, Statement (.vshlVS k0 d0 a0 b0 m0 q0) := by
  intro k0 d0 a0 b0 m0 q0 w hw
  have hw : some (rowVshlVS.pack [k0.toNat, d0.toNat, a0.toNat, b0.toNat, m0.toNat, q0.toNat]) = some w := hw
  cases hw
  have := k0.isLt
  have := d0.isLt
  have := a0.isLt
  have := b0.isLt
  have := m0.isLt
  have := q0.isLt
  show 0x2A00000B + (k0.toNat * 2 ^ 31 + (d0.toNat * 2 ^ 20 + (a0.toNat * 2 ^ 15 + (b0.toNat * 2 ^ 10 + (m0.toNat * 2 ^ 9 + (q0.toNat * 2 ^ 8 + 0)))))) < 2 ^ 32
  omega

theorem vshrVV : ∀ k0 : BitVec 1, ∀ d0 : BitVec 5, ∀ a0 : BitVec 5, ∀ b0 : BitVec 5, ∀ m0 : BitVec 1, ∀ q0 : BitVec 1, Statement (.vshrVV k0 d0 a0 b0 m0 q0) := by
  intro k0 d0 a0 b0 m0 q0 w hw
  have hw : some (rowVshrVV.pack [k0.toNat, d0.toNat, a0.toNat, b0.toNat, m0.toNat, q0.toNat]) = some w := hw
  cases hw
  have := k0.isLt
  have := d0.isLt
  have := a0.isLt
  have := b0.isLt
  have := m0.isLt
  have := q0.isLt
  show 0x2800000C + (k0.toNat * 2 ^ 31 + (d0.toNat * 2 ^ 20 + (a0.toNat * 2 ^ 15 + (b0.toNat * 2 ^ 10 + (m0.toNat * 2 ^ 9 + (q0.toNat * 2 ^ 8 + 0)))))) < 2 ^ 32
  omega

theorem vshrVS : ∀ k0 : BitVec 1, ∀ d0 : BitVec 5, ∀ a0 : BitVec 5, ∀ b0 : BitVec 5, ∀ m0 : BitVec 1, ∀ q0 : BitVec 1, Statement (.vshrVS k0 d0 a0 b0 m0 q0) := by
  intro k0 d0 a0 b0 m0 q0 w hw
  have hw : some (rowVshrVS.pack [k0.toNat, d0.toNat, a0.toNat, b0.toNat, m0.toNat, q0.toNat]) = some w := hw
  cases hw
  have := k0.isLt
  have := d0.isLt
  have := a0.isLt
  have := b0.isLt
  have := m0.isLt
  have := q0.isLt
  show 0x2A00000C + (k0.toNat * 2 ^ 31 + (d0.toNat * 2 ^ 20 + (a0.toNat * 2 ^ 15 + (b0.toNat * 2 ^ 10 + (m0.toNat * 2 ^ 9 + (q0.toNat * 2 ^ 8 + 0)))))) < 2 ^ 32
  omega

theorem vsraVV : ∀ k0 : BitVec 1, ∀ d0 : BitVec 5, ∀ a0 : BitVec 5, ∀ b0 : BitVec 5, ∀ m0 : BitVec 1, ∀ q0 : BitVec 1, Statement (.vsraVV k0 d0 a0 b0 m0 q0) := by
  intro k0 d0 a0 b0 m0 q0 w hw
  have hw : some (rowVsraVV.pack [k0.toNat, d0.toNat, a0.toNat, b0.toNat, m0.toNat, q0.toNat]) = some w := hw
  cases hw
  have := k0.isLt
  have := d0.isLt
  have := a0.isLt
  have := b0.isLt
  have := m0.isLt
  have := q0.isLt
  show 0x2800000D + (k0.toNat * 2 ^ 31 + (d0.toNat * 2 ^ 20 + (a0.toNat * 2 ^ 15 + (b0.toNat * 2 ^ 10 + (m0.toNat * 2 ^ 9 + (q0.toNat * 2 ^ 8 + 0)))))) < 2 ^ 32
  omega

theorem vsraVS : ∀ k0 : BitVec 1, ∀ d0 : BitVec 5, ∀ a0 : BitVec 5, ∀ b0 : BitVec 5, ∀ m0 : BitVec 1, ∀ q0 : BitVec 1, Statement (.vsraVS k0 d0 a0 b0 m0 q0) := by
  intro k0 d0 a0 b0 m0 q0 w hw
  have hw : some (rowVsraVS.pack [k0.toNat, d0.toNat, a0.toNat, b0.toNat, m0.toNat, q0.toNat]) = some w := hw
  cases hw
  have := k0.isLt
  have := d0.isLt
  have := a0.isLt
  have := b0.isLt
  have := m0.isLt
  have := q0.isLt
  show 0x2A00000D + (k0.toNat * 2 ^ 31 + (d0.toNat * 2 ^ 20 + (a0.toNat * 2 ^ 15 + (b0.toNat * 2 ^ 10 + (m0.toNat * 2 ^ 9 + (q0.toNat * 2 ^ 8 + 0)))))) < 2 ^ 32
  omega

theorem vsaddVV : ∀ k0 : BitVec 1, ∀ d0 : BitVec 5, ∀ a0 : BitVec 5, ∀ b0 : BitVec 5, ∀ m0 : BitVec 1, ∀ q0 : BitVec 1, Statement (.vsaddVV k0 d0 a0 b0 m0 q0) := by
  intro k0 d0 a0 b0 m0 q0 w hw
  have hw : some (rowVsaddVV.pack [k0.toNat, d0.toNat, a0.toNat, b0.toNat, m0.toNat, q0.toNat]) = some w := hw
  cases hw
  have := k0.isLt
  have := d0.isLt
  have := a0.isLt
  have := b0.isLt
  have := m0.isLt
  have := q0.isLt
  show 0x2800000E + (k0.toNat * 2 ^ 31 + (d0.toNat * 2 ^ 20 + (a0.toNat * 2 ^ 15 + (b0.toNat * 2 ^ 10 + (m0.toNat * 2 ^ 9 + (q0.toNat * 2 ^ 8 + 0)))))) < 2 ^ 32
  omega

theorem vsaddVS : ∀ k0 : BitVec 1, ∀ d0 : BitVec 5, ∀ a0 : BitVec 5, ∀ b0 : BitVec 5, ∀ m0 : BitVec 1, ∀ q0 : BitVec 1, Statement (.vsaddVS k0 d0 a0 b0 m0 q0) := by
  intro k0 d0 a0 b0 m0 q0 w hw
  have hw : some (rowVsaddVS.pack [k0.toNat, d0.toNat, a0.toNat, b0.toNat, m0.toNat, q0.toNat]) = some w := hw
  cases hw
  have := k0.isLt
  have := d0.isLt
  have := a0.isLt
  have := b0.isLt
  have := m0.isLt
  have := q0.isLt
  show 0x2A00000E + (k0.toNat * 2 ^ 31 + (d0.toNat * 2 ^ 20 + (a0.toNat * 2 ^ 15 + (b0.toNat * 2 ^ 10 + (m0.toNat * 2 ^ 9 + (q0.toNat * 2 ^ 8 + 0)))))) < 2 ^ 32
  omega

theorem vssubVV : ∀ k0 : BitVec 1, ∀ d0 : BitVec 5, ∀ a0 : BitVec 5, ∀ b0 : BitVec 5, ∀ m0 : BitVec 1, ∀ q0 : BitVec 1, Statement (.vssubVV k0 d0 a0 b0 m0 q0) := by
  intro k0 d0 a0 b0 m0 q0 w hw
  have hw : some (rowVssubVV.pack [k0.toNat, d0.toNat, a0.toNat, b0.toNat, m0.toNat, q0.toNat]) = some w := hw
  cases hw
  have := k0.isLt
  have := d0.isLt
  have := a0.isLt
  have := b0.isLt
  have := m0.isLt
  have := q0.isLt
  show 0x2800000F + (k0.toNat * 2 ^ 31 + (d0.toNat * 2 ^ 20 + (a0.toNat * 2 ^ 15 + (b0.toNat * 2 ^ 10 + (m0.toNat * 2 ^ 9 + (q0.toNat * 2 ^ 8 + 0)))))) < 2 ^ 32
  omega

theorem vssubVS : ∀ k0 : BitVec 1, ∀ d0 : BitVec 5, ∀ a0 : BitVec 5, ∀ b0 : BitVec 5, ∀ m0 : BitVec 1, ∀ q0 : BitVec 1, Statement (.vssubVS k0 d0 a0 b0 m0 q0) := by
  intro k0 d0 a0 b0 m0 q0 w hw
  have hw : some (rowVssubVS.pack [k0.toNat, d0.toNat, a0.toNat, b0.toNat, m0.toNat, q0.toNat]) = some w := hw
  cases hw
  have := k0.isLt
  have := d0.isLt
  have := a0.isLt
  have := b0.isLt
  have := m0.isLt
  have := q0.isLt
  show 0x2A00000F + (k0.toNat * 2 ^ 31 + (d0.toNat * 2 ^ 20 + (a0.toNat * 2 ^ 15 + (b0.toNat * 2 ^ 10 + (m0.toNat * 2 ^ 9 + (q0.toNat * 2 ^ 8 + 0)))))) < 2 ^ 32
  omega

theorem vraddVV : ∀ k0 : BitVec 1, ∀ d0 : BitVec 5, ∀ a0 : BitVec 5, ∀ b0 : BitVec 5, ∀ m0 : BitVec 1, ∀ q0 : BitVec 1, Statement (.vraddVV k0 d0 a0 b0 m0 q0) := by
  intro k0 d0 a0 b0 m0 q0 w hw
  have hw : some (rowVraddVV.pack [k0.toNat, d0.toNat, a0.toNat, b0.toNat, m0.toNat, q0.toNat]) = some w := hw
  cases hw
  have := k0.isLt
  have := d0.isLt
  have := a0.isLt
  have := b0.isLt
  have := m0.isLt
  have := q0.isLt
  show 0x28000010 + (k0.toNat * 2 ^ 31 + (d0.toNat * 2 ^ 20 + (a0.toNat * 2 ^ 15 + (b0.toNat * 2 ^ 10 + (m0.toNat * 2 ^ 9 + (q0.toNat * 2 ^ 8 + 0)))))) < 2 ^ 32
  omega

theorem vraddVS : ∀ k0 : BitVec 1, ∀ d0 : BitVec 5, ∀ a0 : BitVec 5, ∀ b0 : BitVec 5, ∀ m0 : BitVec 1, ∀ q0 : BitVec 1, Statement (.vraddVS k0 d0 a0 b0 m0 q0) := by
  intro k0 d0 a0 b0 m0 q0 w hw
  have hw : some (rowVraddVS.pack [k0.toNat, d0.toNat, a0.toNat, b0.toNat, m0.toNat, q0.toNat]) = some w := hw
  cases hw
  have := k0.isLt
  have := d0.isLt
  have := a0.isLt
  have := b0.isLt
  have := m0.isLt
  have := q0.isLt
  show 0x2A000010 + (k0.toNat * 2 ^ 31 + (d0.toNat * 2 ^ 20 + (a0.toNat * 2 ^ 15 + (b0.toNat * 2 ^ 10 + (m0.toNat * 2 ^ 9 + (q0.toNat * 2 ^ 8 + 0)))))) < 2 ^ 32
  omega

theorem vrsubVV : ∀ k0 : BitVec 1, ∀ d0 : BitVec 5, ∀ a0 : BitVec 5, ∀ b0 : BitVec 5, ∀ m0 : BitVec 1, ∀ q0 : BitVec 1, Statement (.vrsubVV k0 d0 a0 b0 m0 q0) := by
  intro k0 d0 a0 b0 m0 q0 w hw
  have hw : some (rowVrsubVV.pack [k0.toNat, d0.toNat, a0.toNat, b0.toNat, m0.toNat, q0.toNat]) = some w := hw
  cases hw
  have := k0.isLt
  have := d0.isLt
  have := a0.isLt
  have := b0.isLt
  have := m0.isLt
  have := q0.isLt
  show 0x28000011 + (k0.toNat * 2 ^ 31 + (d0.toNat * 2 ^ 20 + (a0.toNat * 2 ^ 15 + (b0.toNat * 2 ^ 10 + (m0.toNat * 2 ^ 9 + (q0.toNat * 2 ^ 8 + 0)))))) < 2 ^ 32
  omega

theorem vrsubVS : ∀ k0 : BitVec 1, ∀ d0 : BitVec 5, ∀ a0 : BitVec 5, ∀ b0 : BitVec 5, ∀ m0 : BitVec 1, ∀ q0 : BitVec 1, Statement (.vrsubVS k0 d0 a0 b0 m0 q0) := by
  intro k0 d0 a0 b0 m0 q0 w hw
  have hw : some (rowVrsubVS.pack [k0.toNat, d0.toNat, a0.toNat, b0.toNat, m0.toNat, q0.toNat]) = some w := hw
  cases hw
  have := k0.isLt
  have := d0.isLt
  have := a0.isLt
  have := b0.isLt
  have := m0.isLt
  have := q0.isLt
  show 0x2A000011 + (k0.toNat * 2 ^ 31 + (d0.toNat * 2 ^ 20 + (a0.toNat * 2 ^ 15 + (b0.toNat * 2 ^ 10 + (m0.toNat * 2 ^ 9 + (q0.toNat * 2 ^ 8 + 0)))))) < 2 ^ 32
  omega

theorem vsqrt : ∀ k0 : BitVec 1, ∀ d0 : BitVec 5, ∀ a0 : BitVec 5, ∀ m0 : BitVec 1, ∀ q0 : BitVec 1, Statement (.vsqrt k0 d0 a0 m0 q0) := by
  intro k0 d0 a0 m0 q0 w hw
  have hw : some (rowVsqrt.pack [k0.toNat, d0.toNat, a0.toNat, m0.toNat, q0.toNat]) = some w := hw
  cases hw
  have := k0.isLt
  have := d0.isLt
  have := a0.isLt
  have := m0.isLt
  have := q0.isLt
  show 0x28000012 + (k0.toNat * 2 ^ 31 + (d0.toNat * 2 ^ 20 + (a0.toNat * 2 ^ 15 + (m0.toNat * 2 ^ 9 + (q0.toNat * 2 ^ 8 + 0))))) < 2 ^ 32
  omega

theorem vexp2 : ∀ k0 : BitVec 1, ∀ d0 : BitVec 5, ∀ a0 : BitVec 5, ∀ m0 : BitVec 1, ∀ q0 : BitVec 1, Statement (.vexp2 k0 d0 a0 m0 q0) := by
  intro k0 d0 a0 m0 q0 w hw
  have hw : some (rowVexp2.pack [k0.toNat, d0.toNat, a0.toNat, m0.toNat, q0.toNat]) = some w := hw
  cases hw
  have := k0.isLt
  have := d0.isLt
  have := a0.isLt
  have := m0.isLt
  have := q0.isLt
  show 0x28000013 + (k0.toNat * 2 ^ 31 + (d0.toNat * 2 ^ 20 + (a0.toNat * 2 ^ 15 + (m0.toNat * 2 ^ 9 + (q0.toNat * 2 ^ 8 + 0))))) < 2 ^ 32
  omega

theorem vsgnCopyVV : ∀ k0 : BitVec 1, ∀ d0 : BitVec 5, ∀ a0 : BitVec 5, ∀ b0 : BitVec 5, ∀ m0 : BitVec 1, ∀ q0 : BitVec 1, Statement (.vsgnCopyVV k0 d0 a0 b0 m0 q0) := by
  intro k0 d0 a0 b0 m0 q0 w hw
  have hw : some (rowVsgnCopyVV.pack [k0.toNat, d0.toNat, a0.toNat, b0.toNat, m0.toNat, q0.toNat]) = some w := hw
  cases hw
  have := k0.isLt
  have := d0.isLt
  have := a0.isLt
  have := b0.isLt
  have := m0.isLt
  have := q0.isLt
  show 0x28000014 + (k0.toNat * 2 ^ 31 + (d0.toNat * 2 ^ 20 + (a0.toNat * 2 ^ 15 + (b0.toNat * 2 ^ 10 + (m0.toNat * 2 ^ 9 + (q0.toNat * 2 ^ 8 + 0)))))) < 2 ^ 32
  omega

theorem vsgnCopyVS : ∀ k0 : BitVec 1, ∀ d0 : BitVec 5, ∀ a0 : BitVec 5, ∀ b0 : BitVec 5, ∀ m0 : BitVec 1, ∀ q0 : BitVec 1, Statement (.vsgnCopyVS k0 d0 a0 b0 m0 q0) := by
  intro k0 d0 a0 b0 m0 q0 w hw
  have hw : some (rowVsgnCopyVS.pack [k0.toNat, d0.toNat, a0.toNat, b0.toNat, m0.toNat, q0.toNat]) = some w := hw
  cases hw
  have := k0.isLt
  have := d0.isLt
  have := a0.isLt
  have := b0.isLt
  have := m0.isLt
  have := q0.isLt
  show 0x2A000014 + (k0.toNat * 2 ^ 31 + (d0.toNat * 2 ^ 20 + (a0.toNat * 2 ^ 15 + (b0.toNat * 2 ^ 10 + (m0.toNat * 2 ^ 9 + (q0.toNat * 2 ^ 8 + 0)))))) < 2 ^ 32
  omega

theorem vsgnNegVV : ∀ k0 : BitVec 1, ∀ d0 : BitVec 5, ∀ a0 : BitVec 5, ∀ b0 : BitVec 5, ∀ m0 : BitVec 1, ∀ q0 : BitVec 1, Statement (.vsgnNegVV k0 d0 a0 b0 m0 q0) := by
  intro k0 d0 a0 b0 m0 q0 w hw
  have hw : some (rowVsgnNegVV.pack [k0.toNat, d0.toNat, a0.toNat, b0.toNat, m0.toNat, q0.toNat]) = some w := hw
  cases hw
  have := k0.isLt
  have := d0.isLt
  have := a0.isLt
  have := b0.isLt
  have := m0.isLt
  have := q0.isLt
  show 0x28000015 + (k0.toNat * 2 ^ 31 + (d0.toNat * 2 ^ 20 + (a0.toNat * 2 ^ 15 + (b0.toNat * 2 ^ 10 + (m0.toNat * 2 ^ 9 + (q0.toNat * 2 ^ 8 + 0)))))) < 2 ^ 32
  omega

theorem vsgnNegVS : ∀ k0 : BitVec 1, ∀ d0 : BitVec 5, ∀ a0 : BitVec 5, ∀ b0 : BitVec 5, ∀ m0 : BitVec 1, ∀ q0 : BitVec 1, Statement (.vsgnNegVS k0 d0 a0 b0 m0 q0) := by
  intro k0 d0 a0 b0 m0 q0 w hw
  have hw : some (rowVsgnNegVS.pack [k0.toNat, d0.toNat, a0.toNat, b0.toNat, m0.toNat, q0.toNat]) = some w := hw
  cases hw
  have := k0.isLt
  have := d0.isLt
  have := a0.isLt
  have := b0.isLt
  have := m0.isLt
  have := q0.isLt
  show 0x2A000015 + (k0.toNat * 2 ^ 31 + (d0.toNat * 2 ^ 20 + (a0.toNat * 2 ^ 15 + (b0.toNat * 2 ^ 10 + (m0.toNat * 2 ^ 9 + (q0.toNat * 2 ^ 8 + 0)))))) < 2 ^ 32
  omega

theorem vsgnXorVV : ∀ k0 : BitVec 1, ∀ d0 : BitVec 5, ∀ a0 : BitVec 5, ∀ b0 : BitVec 5, ∀ m0 : BitVec 1, ∀ q0 : BitVec 1, Statement (.vsgnXorVV k0 d0 a0 b0 m0 q0) := by
  intro k0 d0 a0 b0 m0 q0 w hw
  have hw : some (rowVsgnXorVV.pack [k0.toNat, d0.toNat, a0.toNat, b0.toNat, m0.toNat, q0.toNat]) = some w := hw
  cases hw
  have := k0.isLt
  have := d0.isLt
  have := a0.isLt
  have := b0.isLt
  have := m0.isLt
  have := q0.isLt
  show 0x28000016 + (k0.toNat * 2 ^ 31 + (d0.toNat * 2 ^ 20 + (a0.toNat * 2 ^ 15 + (b0.toNat * 2 ^ 10 + (m0.toNat * 2 ^ 9 + (q0.toNat * 2 ^ 8 + 0)))))) < 2 ^ 32
  omega

theorem vsgnXorVS : ∀ k0 : BitVec 1, ∀ d0 : BitVec 5, ∀ a0 : BitVec 5, ∀ b0 : BitVec 5, ∀ m0 : BitVec 1, ∀ q0 : BitVec 1, Statement (.vsgnXorVS k0 d0 a0 b0 m0 q0) := by
  intro k0 d0 a0 b0 m0 q0 w hw
  have hw : some (rowVsgnXorVS.pack [k0.toNat, d0.toNat, a0.toNat, b0.toNat, m0.toNat, q0.toNat]) = some w := hw
  cases hw
  have := k0.isLt
  have := d0.isLt
  have := a0.isLt
  have := b0.isLt
  have := m0.isLt
  have := q0.isLt
  show 0x2A000016 + (k0.toNat * 2 ^ 31 + (d0.toNat * 2 ^ 20 + (a0.toNat * 2 ^ 15 + (b0.toNat * 2 ^ 10 + (m0.toNat * 2 ^ 9 + (q0.toNat * 2 ^ 8 + 0)))))) < 2 ^ 32
  omega

theorem vsgnAbs : ∀ k0 : BitVec 1, ∀ d0 : BitVec 5, ∀ a0 : BitVec 5, ∀ m0 : BitVec 1, ∀ q0 : BitVec 1, Statement (.vsgnAbs k0 d0 a0 m0 q0) := by
  intro k0 d0 a0 m0 q0 w hw
  have hw : some (rowVsgnAbs.pack [k0.toNat, d0.toNat, a0.toNat, m0.toNat, q0.toNat]) = some w := hw
  cases hw
  have := k0.isLt
  have := d0.isLt
  have := a0.isLt
  have := m0.isLt
  have := q0.isLt
  show 0x28000017 + (k0.toNat * 2 ^ 31 + (d0.toNat * 2 ^ 20 + (a0.toNat * 2 ^ 15 + (m0.toNat * 2 ^ 9 + (q0.toNat * 2 ^ 8 + 0))))) < 2 ^ 32
  omega

theorem vcmpVV : ∀ k0 : BitVec 1, ∀ d0 : BitVec 5, ∀ a0 : BitVec 5, ∀ b0 : BitVec 5, ∀ m0 : BitVec 1, ∀ q0 : BitVec 1, ∀ r0 : BitVec 3, Statement (.vcmpVV k0 d0 a0 b0 m0 q0 r0) := by
  intro k0 d0 a0 b0 m0 q0 r0 w hw
  have hw : some (rowVcmpVV.pack [k0.toNat, d0.toNat, a0.toNat, b0.toNat, m0.toNat, q0.toNat, r0.toNat]) = some w := hw
  cases hw
  have := k0.isLt
  have := d0.isLt
  have := a0.isLt
  have := b0.isLt
  have := m0.isLt
  have := q0.isLt
  have := r0.isLt
  show 0x2C000000 + (k0.toNat * 2 ^ 31 + (d0.toNat * 2 ^ 20 + (a0.toNat * 2 ^ 15 + (b0.toNat * 2 ^ 10 + (m0.toNat * 2 ^ 9 + (q0.toNat * 2 ^ 8 + (r0.toNat * 2 ^ 0 + 0))))))) < 2 ^ 32
  omega

theorem vcmpVS : ∀ k0 : BitVec 1, ∀ d0 : BitVec 5, ∀ a0 : BitVec 5, ∀ b0 : BitVec 5, ∀ m0 : BitVec 1, ∀ q0 : BitVec 1, ∀ r0 : BitVec 3, Statement (.vcmpVS k0 d0 a0 b0 m0 q0 r0) := by
  intro k0 d0 a0 b0 m0 q0 r0 w hw
  have hw : some (rowVcmpVS.pack [k0.toNat, d0.toNat, a0.toNat, b0.toNat, m0.toNat, q0.toNat, r0.toNat]) = some w := hw
  cases hw
  have := k0.isLt
  have := d0.isLt
  have := a0.isLt
  have := b0.isLt
  have := m0.isLt
  have := q0.isLt
  have := r0.isLt
  show 0x2E000000 + (k0.toNat * 2 ^ 31 + (d0.toNat * 2 ^ 20 + (a0.toNat * 2 ^ 15 + (b0.toNat * 2 ^ 10 + (m0.toNat * 2 ^ 9 + (q0.toNat * 2 ^ 8 + (r0.toNat * 2 ^ 0 + 0))))))) < 2 ^ 32
  omega

theorem vmlogAnd : ∀ k0 : BitVec 1, ∀ d0 : BitVec 5, ∀ a0 : BitVec 5, ∀ b0 : BitVec 5, ∀ m0 : BitVec 1, ∀ q0 : BitVec 1, Statement (.vmlogAnd k0 d0 a0 b0 m0 q0) := by
  intro k0 d0 a0 b0 m0 q0 w hw
  have hw : some (rowVmlogAnd.pack [k0.toNat, d0.toNat, a0.toNat, b0.toNat, m0.toNat, q0.toNat]) = some w := hw
  cases hw
  have := k0.isLt
  have := d0.isLt
  have := a0.isLt
  have := b0.isLt
  have := m0.isLt
  have := q0.isLt
  show 0x2C000010 + (k0.toNat * 2 ^ 31 + (d0.toNat * 2 ^ 20 + (a0.toNat * 2 ^ 15 + (b0.toNat * 2 ^ 10 + (m0.toNat * 2 ^ 9 + (q0.toNat * 2 ^ 8 + 0)))))) < 2 ^ 32
  omega

theorem vmlogOr : ∀ k0 : BitVec 1, ∀ d0 : BitVec 5, ∀ a0 : BitVec 5, ∀ b0 : BitVec 5, ∀ m0 : BitVec 1, ∀ q0 : BitVec 1, Statement (.vmlogOr k0 d0 a0 b0 m0 q0) := by
  intro k0 d0 a0 b0 m0 q0 w hw
  have hw : some (rowVmlogOr.pack [k0.toNat, d0.toNat, a0.toNat, b0.toNat, m0.toNat, q0.toNat]) = some w := hw
  cases hw
  have := k0.isLt
  have := d0.isLt
  have := a0.isLt
  have := b0.isLt
  have := m0.isLt
  have := q0.isLt
  show 0x2C000011 + (k0.toNat * 2 ^ 31 + (d0.toNat * 2 ^ 20 + (a0.toNat * 2 ^ 15 + (b0.toNat * 2 ^ 10 + (m0.toNat * 2 ^ 9 + (q0.toNat * 2 ^ 8 + 0)))))) < 2 ^ 32
  omega

theorem vmlogXor : ∀ k0 : BitVec 1, ∀ d0 : BitVec 5, ∀ a0 : BitVec 5, ∀ b0 : BitVec 5, ∀ m0 : BitVec 1, ∀ q0 : BitVec 1, Statement (.vmlogXor k0 d0 a0 b0 m0 q0) := by
  intro k0 d0 a0 b0 m0 q0 w hw
  have hw : some (rowVmlogXor.pack [k0.toNat, d0.toNat, a0.toNat, b0.toNat, m0.toNat, q0.toNat]) = some w := hw
  cases hw
  have := k0.isLt
  have := d0.isLt
  have := a0.isLt
  have := b0.isLt
  have := m0.isLt
  have := q0.isLt
  show 0x2C000012 + (k0.toNat * 2 ^ 31 + (d0.toNat * 2 ^ 20 + (a0.toNat * 2 ^ 15 + (b0.toNat * 2 ^ 10 + (m0.toNat * 2 ^ 9 + (q0.toNat * 2 ^ 8 + 0)))))) < 2 ^ 32
  omega

theorem vmlogAndn : ∀ k0 : BitVec 1, ∀ d0 : BitVec 5, ∀ a0 : BitVec 5, ∀ b0 : BitVec 5, ∀ m0 : BitVec 1, ∀ q0 : BitVec 1, Statement (.vmlogAndn k0 d0 a0 b0 m0 q0) := by
  intro k0 d0 a0 b0 m0 q0 w hw
  have hw : some (rowVmlogAndn.pack [k0.toNat, d0.toNat, a0.toNat, b0.toNat, m0.toNat, q0.toNat]) = some w := hw
  cases hw
  have := k0.isLt
  have := d0.isLt
  have := a0.isLt
  have := b0.isLt
  have := m0.isLt
  have := q0.isLt
  show 0x2C000013 + (k0.toNat * 2 ^ 31 + (d0.toNat * 2 ^ 20 + (a0.toNat * 2 ^ 15 + (b0.toNat * 2 ^ 10 + (m0.toNat * 2 ^ 9 + (q0.toNat * 2 ^ 8 + 0)))))) < 2 ^ 32
  omega

theorem vmlogOrn : ∀ k0 : BitVec 1, ∀ d0 : BitVec 5, ∀ a0 : BitVec 5, ∀ b0 : BitVec 5, ∀ m0 : BitVec 1, ∀ q0 : BitVec 1, Statement (.vmlogOrn k0 d0 a0 b0 m0 q0) := by
  intro k0 d0 a0 b0 m0 q0 w hw
  have hw : some (rowVmlogOrn.pack [k0.toNat, d0.toNat, a0.toNat, b0.toNat, m0.toNat, q0.toNat]) = some w := hw
  cases hw
  have := k0.isLt
  have := d0.isLt
  have := a0.isLt
  have := b0.isLt
  have := m0.isLt
  have := q0.isLt
  show 0x2C000014 + (k0.toNat * 2 ^ 31 + (d0.toNat * 2 ^ 20 + (a0.toNat * 2 ^ 15 + (b0.toNat * 2 ^ 10 + (m0.toNat * 2 ^ 9 + (q0.toNat * 2 ^ 8 + 0)))))) < 2 ^ 32
  omega

theorem vmlogNot : ∀ k0 : BitVec 1, ∀ d0 : BitVec 5, ∀ a0 : BitVec 5, ∀ m0 : BitVec 1, ∀ q0 : BitVec 1, Statement (.vmlogNot k0 d0 a0 m0 q0) := by
  intro k0 d0 a0 m0 q0 w hw
  have hw : some (rowVmlogNot.pack [k0.toNat, d0.toNat, a0.toNat, m0.toNat, q0.toNat]) = some w := hw
  cases hw
  have := k0.isLt
  have := d0.isLt
  have := a0.isLt
  have := m0.isLt
  have := q0.isLt
  show 0x2C000015 + (k0.toNat * 2 ^ 31 + (d0.toNat * 2 ^ 20 + (a0.toNat * 2 ^ 15 + (m0.toNat * 2 ^ 9 + (q0.toNat * 2 ^ 8 + 0))))) < 2 ^ 32
  omega

theorem vmlogSet : ∀ k0 : BitVec 1, ∀ d0 : BitVec 5, ∀ m0 : BitVec 1, ∀ q0 : BitVec 1, Statement (.vmlogSet k0 d0 m0 q0) := by
  intro k0 d0 m0 q0 w hw
  have hw : some (rowVmlogSet.pack [k0.toNat, d0.toNat, m0.toNat, q0.toNat]) = some w := hw
  cases hw
  have := k0.isLt
  have := d0.isLt
  have := m0.isLt
  have := q0.isLt
  show 0x2C000016 + (k0.toNat * 2 ^ 31 + (d0.toNat * 2 ^ 20 + (m0.toNat * 2 ^ 9 + (q0.toNat * 2 ^ 8 + 0)))) < 2 ^ 32
  omega

theorem vmlogClear : ∀ k0 : BitVec 1, ∀ d0 : BitVec 5, ∀ m0 : BitVec 1, ∀ q0 : BitVec 1, Statement (.vmlogClear k0 d0 m0 q0) := by
  intro k0 d0 m0 q0 w hw
  have hw : some (rowVmlogClear.pack [k0.toNat, d0.toNat, m0.toNat, q0.toNat]) = some w := hw
  cases hw
  have := k0.isLt
  have := d0.isLt
  have := m0.isLt
  have := q0.isLt
  show 0x2C000017 + (k0.toNat * 2 ^ 31 + (d0.toNat * 2 ^ 20 + (m0.toNat * 2 ^ 9 + (q0.toNat * 2 ^ 8 + 0)))) < 2 ^ 32
  omega

theorem vmpop : ∀ k0 : BitVec 1, ∀ d0 : BitVec 5, ∀ a0 : BitVec 5, ∀ m0 : BitVec 1, ∀ q0 : BitVec 1, Statement (.vmpop k0 d0 a0 m0 q0) := by
  intro k0 d0 a0 m0 q0 w hw
  have hw : some (rowVmpop.pack [k0.toNat, d0.toNat, a0.toNat, m0.toNat, q0.toNat]) = some w := hw
  cases hw
  have := k0.isLt
  have := d0.isLt
  have := a0.isLt
  have := m0.isLt
  have := q0.isLt
  show 0x2C000020 + (k0.toNat * 2 ^ 31 + (d0.toNat * 2 ^ 20 + (a0.toNat * 2 ^ 15 + (m0.toNat * 2 ^ 9 + (q0.toNat * 2 ^ 8 + 0))))) < 2 ^ 32
  omega

theorem vmfirst : ∀ k0 : BitVec 1, ∀ d0 : BitVec 5, ∀ a0 : BitVec 5, ∀ m0 : BitVec 1, ∀ q0 : BitVec 1, Statement (.vmfirst k0 d0 a0 m0 q0) := by
  intro k0 d0 a0 m0 q0 w hw
  have hw : some (rowVmfirst.pack [k0.toNat, d0.toNat, a0.toNat, m0.toNat, q0.toNat]) = some w := hw
  cases hw
  have := k0.isLt
  have := d0.isLt
  have := a0.isLt
  have := m0.isLt
  have := q0.isLt
  show 0x2C000030 + (k0.toNat * 2 ^ 31 + (d0.toNat * 2 ^ 20 + (a0.toNat * 2 ^ 15 + (m0.toNat * 2 ^ 9 + (q0.toNat * 2 ^ 8 + 0))))) < 2 ^ 32
  omega

theorem vmtocAny : ∀ k0 : BitVec 1, ∀ c0 : BitVec 3, ∀ a0 : BitVec 5, ∀ m0 : BitVec 1, ∀ q0 : BitVec 1, Statement (.vmtocAny k0 c0 a0 m0 q0) := by
  intro k0 c0 a0 m0 q0 w hw
  have hw : some (rowVmtocAny.pack [k0.toNat, c0.toNat, a0.toNat, m0.toNat, q0.toNat]) = some w := hw
  cases hw
  have := k0.isLt
  have := c0.isLt
  have := a0.isLt
  have := m0.isLt
  have := q0.isLt
  show 0x2C000040 + (k0.toNat * 2 ^ 31 + (c0.toNat * 2 ^ 20 + (a0.toNat * 2 ^ 15 + (m0.toNat * 2 ^ 9 + (q0.toNat * 2 ^ 8 + 0))))) < 2 ^ 32
  omega

theorem vmtocAll : ∀ k0 : BitVec 1, ∀ c0 : BitVec 3, ∀ a0 : BitVec 5, ∀ m0 : BitVec 1, ∀ q0 : BitVec 1, Statement (.vmtocAll k0 c0 a0 m0 q0) := by
  intro k0 c0 a0 m0 q0 w hw
  have hw : some (rowVmtocAll.pack [k0.toNat, c0.toNat, a0.toNat, m0.toNat, q0.toNat]) = some w := hw
  cases hw
  have := k0.isLt
  have := c0.isLt
  have := a0.isLt
  have := m0.isLt
  have := q0.isLt
  show 0x2C000041 + (k0.toNat * 2 ^ 31 + (c0.toNat * 2 ^ 20 + (a0.toNat * 2 ^ 15 + (m0.toNat * 2 ^ 9 + (q0.toNat * 2 ^ 8 + 0))))) < 2 ^ 32
  omega

theorem vmtocNone : ∀ k0 : BitVec 1, ∀ c0 : BitVec 3, ∀ a0 : BitVec 5, ∀ m0 : BitVec 1, ∀ q0 : BitVec 1, Statement (.vmtocNone k0 c0 a0 m0 q0) := by
  intro k0 c0 a0 m0 q0 w hw
  have hw : some (rowVmtocNone.pack [k0.toNat, c0.toNat, a0.toNat, m0.toNat, q0.toNat]) = some w := hw
  cases hw
  have := k0.isLt
  have := c0.isLt
  have := a0.isLt
  have := m0.isLt
  have := q0.isLt
  show 0x2C000042 + (k0.toNat * 2 ^ 31 + (c0.toNat * 2 ^ 20 + (a0.toNat * 2 ^ 15 + (m0.toNat * 2 ^ 9 + (q0.toNat * 2 ^ 8 + 0))))) < 2 ^ 32
  omega

theorem vcvt : ∀ k0 : BitVec 1, ∀ d0 : BitVec 5, ∀ a0 : BitVec 5, ∀ m0 : BitVec 1, ∀ q0 : BitVec 1, ∀ t0 : BitVec 5, Statement (.vcvt k0 d0 a0 m0 q0 t0) := by
  intro k0 d0 a0 m0 q0 t0 w hw
  have hw : some (rowVcvt.pack [k0.toNat, d0.toNat, a0.toNat, m0.toNat, q0.toNat, t0.toNat]) = some w := hw
  cases hw
  have := k0.isLt
  have := d0.isLt
  have := a0.isLt
  have := m0.isLt
  have := q0.isLt
  have := t0.isLt
  show 0x30000000 + (k0.toNat * 2 ^ 31 + (d0.toNat * 2 ^ 20 + (a0.toNat * 2 ^ 15 + (m0.toNat * 2 ^ 9 + (q0.toNat * 2 ^ 8 + (t0.toNat * 2 ^ 1 + 0)))))) < 2 ^ 32
  omega

theorem vbq : ∀ k0 : BitVec 1, ∀ d0 : BitVec 5, ∀ a0 : BitVec 5, ∀ m0 : BitVec 1, ∀ q0 : BitVec 1, ∀ t0 : BitVec 5, Statement (.vbq k0 d0 a0 m0 q0 t0) := by
  intro k0 d0 a0 m0 q0 t0 w hw
  have hw : some (rowVbq.pack [k0.toNat, d0.toNat, a0.toNat, m0.toNat, q0.toNat, t0.toNat]) = some w := hw
  cases hw
  have := k0.isLt
  have := d0.isLt
  have := a0.isLt
  have := m0.isLt
  have := q0.isLt
  have := t0.isLt
  show 0x30000040 + (k0.toNat * 2 ^ 31 + (d0.toNat * 2 ^ 20 + (a0.toNat * 2 ^ 15 + (m0.toNat * 2 ^ 9 + (q0.toNat * 2 ^ 8 + (t0.toNat * 2 ^ 1 + 0)))))) < 2 ^ 32
  omega

theorem vbdq : ∀ k0 : BitVec 1, ∀ d0 : BitVec 5, ∀ a0 : BitVec 5, ∀ m0 : BitVec 1, ∀ q0 : BitVec 1, ∀ t0 : BitVec 5, Statement (.vbdq k0 d0 a0 m0 q0 t0) := by
  intro k0 d0 a0 m0 q0 t0 w hw
  have hw : some (rowVbdq.pack [k0.toNat, d0.toNat, a0.toNat, m0.toNat, q0.toNat, t0.toNat]) = some w := hw
  cases hw
  have := k0.isLt
  have := d0.isLt
  have := a0.isLt
  have := m0.isLt
  have := q0.isLt
  have := t0.isLt
  show 0x30000080 + (k0.toNat * 2 ^ 31 + (d0.toNat * 2 ^ 20 + (a0.toNat * 2 ^ 15 + (m0.toNat * 2 ^ 9 + (q0.toNat * 2 ^ 8 + (t0.toNat * 2 ^ 1 + 0)))))) < 2 ^ 32
  omega

theorem vmov : ∀ k0 : BitVec 1, ∀ d0 : BitVec 5, ∀ a0 : BitVec 5, ∀ m0 : BitVec 1, ∀ q0 : BitVec 1, Statement (.vmov k0 d0 a0 m0 q0) := by
  intro k0 d0 a0 m0 q0 w hw
  have hw : some (rowVmov.pack [k0.toNat, d0.toNat, a0.toNat, m0.toNat, q0.toNat]) = some w := hw
  cases hw
  have := k0.isLt
  have := d0.isLt
  have := a0.isLt
  have := m0.isLt
  have := q0.isLt
  show 0x32000000 + (k0.toNat * 2 ^ 31 + (d0.toNat * 2 ^ 20 + (a0.toNat * 2 ^ 15 + (m0.toNat * 2 ^ 9 + (q0.toNat * 2 ^ 8 + 0))))) < 2 ^ 32
  omega

theorem vmovSplat : ∀ k0 : BitVec 1, ∀ d0 : BitVec 5, ∀ b0 : BitVec 5, ∀ m0 : BitVec 1, ∀ q0 : BitVec 1, Statement (.vmovSplat k0 d0 b0 m0 q0) := by
  intro k0 d0 b0 m0 q0 w hw
  have hw : some (rowVmovSplat.pack [k0.toNat, d0.toNat, b0.toNat, m0.toNat, q0.toNat]) = some w := hw
  cases hw
  have := k0.isLt
  have := d0.isLt
  have := b0.isLt
  have := m0.isLt
  have := q0.isLt
  show 0x32000001 + (k0.toNat * 2 ^ 31 + (d0.toNat * 2 ^ 20 + (b0.toNat * 2 ^ 10 + (m0.toNat * 2 ^ 9 + (q0.toNat * 2 ^ 8 + 0))))) < 2 ^ 32
  omega

theorem vpermRow : ∀ k0 : BitVec 1, ∀ d0 : BitVec 5, ∀ a0 : BitVec 5, ∀ b0 : BitVec 5, ∀ m0 : BitVec 1, ∀ q0 : BitVec 1, Statement (.vpermRow k0 d0 a0 b0 m0 q0) := by
  intro k0 d0 a0 b0 m0 q0 w hw
  have hw : some (rowVpermRow.pack [k0.toNat, d0.toNat, a0.toNat, b0.toNat, m0.toNat, q0.toNat]) = some w := hw
  cases hw
  have := k0.isLt
  have := d0.isLt
  have := a0.isLt
  have := b0.isLt
  have := m0.isLt
  have := q0.isLt
  show 0x32000002 + (k0.toNat * 2 ^ 31 + (d0.toNat * 2 ^ 20 + (a0.toNat * 2 ^ 15 + (b0.toNat * 2 ^ 10 + (m0.toNat * 2 ^ 9 + (q0.toNat * 2 ^ 8 + 0)))))) < 2 ^ 32
  omega

theorem vpermCol : ∀ k0 : BitVec 1, ∀ d0 : BitVec 5, ∀ a0 : BitVec 5, ∀ b0 : BitVec 5, ∀ m0 : BitVec 1, ∀ q0 : BitVec 1, Statement (.vpermCol k0 d0 a0 b0 m0 q0) := by
  intro k0 d0 a0 b0 m0 q0 w hw
  have hw : some (rowVpermCol.pack [k0.toNat, d0.toNat, a0.toNat, b0.toNat, m0.toNat, q0.toNat]) = some w := hw
  cases hw
  have := k0.isLt
  have := d0.isLt
  have := a0.isLt
  have := b0.isLt
  have := m0.isLt
  have := q0.isLt
  show 0x32000003 + (k0.toNat * 2 ^ 31 + (d0.toNat * 2 ^ 20 + (a0.toNat * 2 ^ 15 + (b0.toNat * 2 ^ 10 + (m0.toNat * 2 ^ 9 + (q0.toNat * 2 ^ 8 + 0)))))) < 2 ^ 32
  omega

theorem vslideUp : ∀ k0 : BitVec 1, ∀ d0 : BitVec 5, ∀ a0 : BitVec 5, ∀ b0 : BitVec 5, ∀ m0 : BitVec 1, ∀ q0 : BitVec 1, Statement (.vslideUp k0 d0 a0 b0 m0 q0) := by
  intro k0 d0 a0 b0 m0 q0 w hw
  have hw : some (rowVslideUp.pack [k0.toNat, d0.toNat, a0.toNat, b0.toNat, m0.toNat, q0.toNat]) = some w := hw
  cases hw
  have := k0.isLt
  have := d0.isLt
  have := a0.isLt
  have := b0.isLt
  have := m0.isLt
  have := q0.isLt
  show 0x32000004 + (k0.toNat * 2 ^ 31 + (d0.toNat * 2 ^ 20 + (a0.toNat * 2 ^ 15 + (b0.toNat * 2 ^ 10 + (m0.toNat * 2 ^ 9 + (q0.toNat * 2 ^ 8 + 0)))))) < 2 ^ 32
  omega

theorem vslideDown : ∀ k0 : BitVec 1, ∀ d0 : BitVec 5, ∀ a0 : BitVec 5, ∀ b0 : BitVec 5, ∀ m0 : BitVec 1, ∀ q0 : BitVec 1, Statement (.vslideDown k0 d0 a0 b0 m0 q0) := by
  intro k0 d0 a0 b0 m0 q0 w hw
  have hw : some (rowVslideDown.pack [k0.toNat, d0.toNat, a0.toNat, b0.toNat, m0.toNat, q0.toNat]) = some w := hw
  cases hw
  have := k0.isLt
  have := d0.isLt
  have := a0.isLt
  have := b0.isLt
  have := m0.isLt
  have := q0.isLt
  show 0x32000005 + (k0.toNat * 2 ^ 31 + (d0.toNat * 2 ^ 20 + (a0.toNat * 2 ^ 15 + (b0.toNat * 2 ^ 10 + (m0.toNat * 2 ^ 9 + (q0.toNat * 2 ^ 8 + 0)))))) < 2 ^ 32
  omega

theorem vxpose : ∀ k0 : BitVec 1, ∀ d0 : BitVec 5, ∀ a0 : BitVec 5, ∀ m0 : BitVec 1, ∀ q0 : BitVec 1, Statement (.vxpose k0 d0 a0 m0 q0) := by
  intro k0 d0 a0 m0 q0 w hw
  have hw : some (rowVxpose.pack [k0.toNat, d0.toNat, a0.toNat, m0.toNat, q0.toNat]) = some w := hw
  cases hw
  have := k0.isLt
  have := d0.isLt
  have := a0.isLt
  have := m0.isLt
  have := q0.isLt
  show 0x32000006 + (k0.toNat * 2 ^ 31 + (d0.toNat * 2 ^ 20 + (a0.toNat * 2 ^ 15 + (m0.toNat * 2 ^ 9 + (q0.toNat * 2 ^ 8 + 0))))) < 2 ^ 32
  omega

theorem vext : ∀ k0 : BitVec 1, ∀ d0 : BitVec 5, ∀ a0 : BitVec 5, ∀ b0 : BitVec 5, Statement (.vext k0 d0 a0 b0) := by
  intro k0 d0 a0 b0 w hw
  have hw : some (rowVext.pack [k0.toNat, d0.toNat, a0.toNat, b0.toNat]) = some w := hw
  cases hw
  have := k0.isLt
  have := d0.isLt
  have := a0.isLt
  have := b0.isLt
  show 0x32000007 + (k0.toNat * 2 ^ 31 + (d0.toNat * 2 ^ 20 + (a0.toNat * 2 ^ 15 + (b0.toNat * 2 ^ 10 + 0)))) < 2 ^ 32
  omega

theorem vins : ∀ k0 : BitVec 1, ∀ d0 : BitVec 5, ∀ a0 : BitVec 5, ∀ b0 : BitVec 5, Statement (.vins k0 d0 a0 b0) := by
  intro k0 d0 a0 b0 w hw
  have hw : some (rowVins.pack [k0.toNat, d0.toNat, a0.toNat, b0.toNat]) = some w := hw
  cases hw
  have := k0.isLt
  have := d0.isLt
  have := a0.isLt
  have := b0.isLt
  show 0x32000008 + (k0.toNat * 2 ^ 31 + (d0.toNat * 2 ^ 20 + (a0.toNat * 2 ^ 15 + (b0.toNat * 2 ^ 10 + 0)))) < 2 ^ 32
  omega

theorem viota : ∀ k0 : BitVec 1, ∀ d0 : BitVec 5, ∀ m0 : BitVec 1, ∀ q0 : BitVec 1, Statement (.viota k0 d0 m0 q0) := by
  intro k0 d0 m0 q0 w hw
  have hw : some (rowViota.pack [k0.toNat, d0.toNat, m0.toNat, q0.toNat]) = some w := hw
  cases hw
  have := k0.isLt
  have := d0.isLt
  have := m0.isLt
  have := q0.isLt
  show 0x32000009 + (k0.toNat * 2 ^ 31 + (d0.toNat * 2 ^ 20 + (m0.toNat * 2 ^ 9 + (q0.toNat * 2 ^ 8 + 0)))) < 2 ^ 32
  omega

theorem viotaRow : ∀ k0 : BitVec 1, ∀ d0 : BitVec 5, ∀ m0 : BitVec 1, ∀ q0 : BitVec 1, Statement (.viotaRow k0 d0 m0 q0) := by
  intro k0 d0 m0 q0 w hw
  have hw : some (rowViotaRow.pack [k0.toNat, d0.toNat, m0.toNat, q0.toNat]) = some w := hw
  cases hw
  have := k0.isLt
  have := d0.isLt
  have := m0.isLt
  have := q0.isLt
  show 0x3200000A + (k0.toNat * 2 ^ 31 + (d0.toNat * 2 ^ 20 + (m0.toNat * 2 ^ 9 + (q0.toNat * 2 ^ 8 + 0)))) < 2 ^ 32
  omega

theorem viotaCol : ∀ k0 : BitVec 1, ∀ d0 : BitVec 5, ∀ m0 : BitVec 1, ∀ q0 : BitVec 1, Statement (.viotaCol k0 d0 m0 q0) := by
  intro k0 d0 m0 q0 w hw
  have hw : some (rowViotaCol.pack [k0.toNat, d0.toNat, m0.toNat, q0.toNat]) = some w := hw
  cases hw
  have := k0.isLt
  have := d0.isLt
  have := m0.isLt
  have := q0.isLt
  show 0x3200000B + (k0.toNat * 2 ^ 31 + (d0.toNat * 2 ^ 20 + (m0.toNat * 2 ^ 9 + (q0.toNat * 2 ^ 8 + 0)))) < 2 ^ 32
  omega

theorem vred : ∀ k0 : BitVec 1, ∀ d0 : BitVec 5, ∀ a0 : BitVec 5, ∀ m0 : BitVec 1, ∀ q0 : BitVec 1, ∀ o0 : BitVec 3, Statement (.vred k0 d0 a0 m0 q0 o0) := by
  intro k0 d0 a0 m0 q0 o0 w hw
  have hw : some (rowVred.pack [k0.toNat, d0.toNat, a0.toNat, m0.toNat, q0.toNat, o0.toNat]) = some w := hw
  cases hw
  have := k0.isLt
  have := d0.isLt
  have := a0.isLt
  have := m0.isLt
  have := q0.isLt
  have := o0.isLt
  show 0x34000000 + (k0.toNat * 2 ^ 31 + (d0.toNat * 2 ^ 20 + (a0.toNat * 2 ^ 15 + (m0.toNat * 2 ^ 9 + (q0.toNat * 2 ^ 8 + (o0.toNat * 2 ^ 1 + 0)))))) < 2 ^ 32
  omega

theorem vredAll : ∀ k0 : BitVec 1, ∀ d0 : BitVec 5, ∀ a0 : BitVec 5, ∀ m0 : BitVec 1, ∀ q0 : BitVec 1, ∀ o0 : BitVec 3, Statement (.vredAll k0 d0 a0 m0 q0 o0) := by
  intro k0 d0 a0 m0 q0 o0 w hw
  have hw : some (rowVredAll.pack [k0.toNat, d0.toNat, a0.toNat, m0.toNat, q0.toNat, o0.toNat]) = some w := hw
  cases hw
  have := k0.isLt
  have := d0.isLt
  have := a0.isLt
  have := m0.isLt
  have := q0.isLt
  have := o0.isLt
  show 0x34000001 + (k0.toNat * 2 ^ 31 + (d0.toNat * 2 ^ 20 + (a0.toNat * 2 ^ 15 + (m0.toNat * 2 ^ 9 + (q0.toNat * 2 ^ 8 + (o0.toNat * 2 ^ 1 + 0)))))) < 2 ^ 32
  omega

theorem vscan : ∀ k0 : BitVec 1, ∀ d0 : BitVec 5, ∀ a0 : BitVec 5, ∀ m0 : BitVec 1, ∀ q0 : BitVec 1, ∀ o0 : BitVec 3, Statement (.vscan k0 d0 a0 m0 q0 o0) := by
  intro k0 d0 a0 m0 q0 o0 w hw
  have hw : some (rowVscan.pack [k0.toNat, d0.toNat, a0.toNat, m0.toNat, q0.toNat, o0.toNat]) = some w := hw
  cases hw
  have := k0.isLt
  have := d0.isLt
  have := a0.isLt
  have := m0.isLt
  have := q0.isLt
  have := o0.isLt
  show 0x34000010 + (k0.toNat * 2 ^ 31 + (d0.toNat * 2 ^ 20 + (a0.toNat * 2 ^ 15 + (m0.toNat * 2 ^ 9 + (q0.toNat * 2 ^ 8 + (o0.toNat * 2 ^ 1 + 0)))))) < 2 ^ 32
  omega

theorem vld : ∀ k0 : BitVec 1, ∀ d0 : BitVec 5, ∀ a0 : BitVec 5, ∀ b0 : BitVec 5, ∀ m0 : BitVec 1, ∀ q0 : BitVec 1, ∀ g0 : BitVec 3, Statement (.vld k0 d0 a0 b0 m0 q0 g0) := by
  intro k0 d0 a0 b0 m0 q0 g0 w hw
  have hw : some (rowVld.pack [k0.toNat, d0.toNat, a0.toNat, b0.toNat, m0.toNat, q0.toNat, g0.toNat]) = some w := hw
  cases hw
  have := k0.isLt
  have := d0.isLt
  have := a0.isLt
  have := b0.isLt
  have := m0.isLt
  have := q0.isLt
  have := g0.isLt
  show 0x36000000 + (k0.toNat * 2 ^ 31 + (d0.toNat * 2 ^ 20 + (a0.toNat * 2 ^ 15 + (b0.toNat * 2 ^ 10 + (m0.toNat * 2 ^ 9 + (q0.toNat * 2 ^ 8 + (g0.toNat * 2 ^ 5 + 0))))))) < 2 ^ 32
  omega

theorem vldSt : ∀ k0 : BitVec 1, ∀ d0 : BitVec 5, ∀ a0 : BitVec 5, ∀ b0 : BitVec 5, ∀ m0 : BitVec 1, ∀ q0 : BitVec 1, ∀ g0 : BitVec 3, Statement (.vldSt k0 d0 a0 b0 m0 q0 g0) := by
  intro k0 d0 a0 b0 m0 q0 g0 w hw
  have hw : some (rowVldSt.pack [k0.toNat, d0.toNat, a0.toNat, b0.toNat, m0.toNat, q0.toNat, g0.toNat]) = some w := hw
  cases hw
  have := k0.isLt
  have := d0.isLt
  have := a0.isLt
  have := b0.isLt
  have := m0.isLt
  have := q0.isLt
  have := g0.isLt
  show 0x36000001 + (k0.toNat * 2 ^ 31 + (d0.toNat * 2 ^ 20 + (a0.toNat * 2 ^ 15 + (b0.toNat * 2 ^ 10 + (m0.toNat * 2 ^ 9 + (q0.toNat * 2 ^ 8 + (g0.toNat * 2 ^ 5 + 0))))))) < 2 ^ 32
  omega

theorem vldZ : ∀ k0 : BitVec 1, ∀ d0 : BitVec 5, ∀ a0 : BitVec 5, ∀ b0 : BitVec 5, ∀ m0 : BitVec 1, ∀ q0 : BitVec 1, ∀ g0 : BitVec 3, Statement (.vldZ k0 d0 a0 b0 m0 q0 g0) := by
  intro k0 d0 a0 b0 m0 q0 g0 w hw
  have hw : some (rowVldZ.pack [k0.toNat, d0.toNat, a0.toNat, b0.toNat, m0.toNat, q0.toNat, g0.toNat]) = some w := hw
  cases hw
  have := k0.isLt
  have := d0.isLt
  have := a0.isLt
  have := b0.isLt
  have := m0.isLt
  have := q0.isLt
  have := g0.isLt
  show 0x36000002 + (k0.toNat * 2 ^ 31 + (d0.toNat * 2 ^ 20 + (a0.toNat * 2 ^ 15 + (b0.toNat * 2 ^ 10 + (m0.toNat * 2 ^ 9 + (q0.toNat * 2 ^ 8 + (g0.toNat * 2 ^ 5 + 0))))))) < 2 ^ 32
  omega

theorem vldBc : ∀ k0 : BitVec 1, ∀ d0 : BitVec 5, ∀ a0 : BitVec 5, ∀ m0 : BitVec 1, ∀ q0 : BitVec 1, ∀ g0 : BitVec 3, Statement (.vldBc k0 d0 a0 m0 q0 g0) := by
  intro k0 d0 a0 m0 q0 g0 w hw
  have hw : some (rowVldBc.pack [k0.toNat, d0.toNat, a0.toNat, m0.toNat, q0.toNat, g0.toNat]) = some w := hw
  cases hw
  have := k0.isLt
  have := d0.isLt
  have := a0.isLt
  have := m0.isLt
  have := q0.isLt
  have := g0.isLt
  show 0x36000003 + (k0.toNat * 2 ^ 31 + (d0.toNat * 2 ^ 20 + (a0.toNat * 2 ^ 15 + (m0.toNat * 2 ^ 9 + (q0.toNat * 2 ^ 8 + (g0.toNat * 2 ^ 5 + 0)))))) < 2 ^ 32
  omega

theorem vldB : ∀ k0 : BitVec 1, ∀ d0 : BitVec 5, ∀ a0 : BitVec 5, ∀ b0 : BitVec 5, ∀ m0 : BitVec 1, ∀ q0 : BitVec 1, ∀ g0 : BitVec 3, Statement (.vldB k0 d0 a0 b0 m0 q0 g0) := by
  intro k0 d0 a0 b0 m0 q0 g0 w hw
  have hw : some (rowVldB.pack [k0.toNat, d0.toNat, a0.toNat, b0.toNat, m0.toNat, q0.toNat, g0.toNat]) = some w := hw
  cases hw
  have := k0.isLt
  have := d0.isLt
  have := a0.isLt
  have := b0.isLt
  have := m0.isLt
  have := q0.isLt
  have := g0.isLt
  show 0x36000004 + (k0.toNat * 2 ^ 31 + (d0.toNat * 2 ^ 20 + (a0.toNat * 2 ^ 15 + (b0.toNat * 2 ^ 10 + (m0.toNat * 2 ^ 9 + (q0.toNat * 2 ^ 8 + (g0.toNat * 2 ^ 5 + 0))))))) < 2 ^ 32
  omega

theorem vgather : ∀ k0 : BitVec 1, ∀ d0 : BitVec 5, ∀ a0 : BitVec 5, ∀ b0 : BitVec 5, ∀ m0 : BitVec 1, ∀ q0 : BitVec 1, ∀ g0 : BitVec 3, Statement (.vgather k0 d0 a0 b0 m0 q0 g0) := by
  intro k0 d0 a0 b0 m0 q0 g0 w hw
  have hw : some (rowVgather.pack [k0.toNat, d0.toNat, a0.toNat, b0.toNat, m0.toNat, q0.toNat, g0.toNat]) = some w := hw
  cases hw
  have := k0.isLt
  have := d0.isLt
  have := a0.isLt
  have := b0.isLt
  have := m0.isLt
  have := q0.isLt
  have := g0.isLt
  show 0x36000008 + (k0.toNat * 2 ^ 31 + (d0.toNat * 2 ^ 20 + (a0.toNat * 2 ^ 15 + (b0.toNat * 2 ^ 10 + (m0.toNat * 2 ^ 9 + (q0.toNat * 2 ^ 8 + (g0.toNat * 2 ^ 5 + 0))))))) < 2 ^ 32
  omega

theorem vst : ∀ k0 : BitVec 1, ∀ d0 : BitVec 5, ∀ a0 : BitVec 5, ∀ b0 : BitVec 5, ∀ m0 : BitVec 1, ∀ q0 : BitVec 1, ∀ g0 : BitVec 3, Statement (.vst k0 d0 a0 b0 m0 q0 g0) := by
  intro k0 d0 a0 b0 m0 q0 g0 w hw
  have hw : some (rowVst.pack [k0.toNat, d0.toNat, a0.toNat, b0.toNat, m0.toNat, q0.toNat, g0.toNat]) = some w := hw
  cases hw
  have := k0.isLt
  have := d0.isLt
  have := a0.isLt
  have := b0.isLt
  have := m0.isLt
  have := q0.isLt
  have := g0.isLt
  show 0x38000000 + (k0.toNat * 2 ^ 31 + (d0.toNat * 2 ^ 20 + (a0.toNat * 2 ^ 15 + (b0.toNat * 2 ^ 10 + (m0.toNat * 2 ^ 9 + (q0.toNat * 2 ^ 8 + (g0.toNat * 2 ^ 5 + 0))))))) < 2 ^ 32
  omega

theorem vstSt : ∀ k0 : BitVec 1, ∀ d0 : BitVec 5, ∀ a0 : BitVec 5, ∀ b0 : BitVec 5, ∀ m0 : BitVec 1, ∀ q0 : BitVec 1, ∀ g0 : BitVec 3, Statement (.vstSt k0 d0 a0 b0 m0 q0 g0) := by
  intro k0 d0 a0 b0 m0 q0 g0 w hw
  have hw : some (rowVstSt.pack [k0.toNat, d0.toNat, a0.toNat, b0.toNat, m0.toNat, q0.toNat, g0.toNat]) = some w := hw
  cases hw
  have := k0.isLt
  have := d0.isLt
  have := a0.isLt
  have := b0.isLt
  have := m0.isLt
  have := q0.isLt
  have := g0.isLt
  show 0x38000001 + (k0.toNat * 2 ^ 31 + (d0.toNat * 2 ^ 20 + (a0.toNat * 2 ^ 15 + (b0.toNat * 2 ^ 10 + (m0.toNat * 2 ^ 9 + (q0.toNat * 2 ^ 8 + (g0.toNat * 2 ^ 5 + 0))))))) < 2 ^ 32
  omega

theorem vstZ : ∀ k0 : BitVec 1, ∀ d0 : BitVec 5, ∀ a0 : BitVec 5, ∀ b0 : BitVec 5, ∀ m0 : BitVec 1, ∀ q0 : BitVec 1, ∀ g0 : BitVec 3, Statement (.vstZ k0 d0 a0 b0 m0 q0 g0) := by
  intro k0 d0 a0 b0 m0 q0 g0 w hw
  have hw : some (rowVstZ.pack [k0.toNat, d0.toNat, a0.toNat, b0.toNat, m0.toNat, q0.toNat, g0.toNat]) = some w := hw
  cases hw
  have := k0.isLt
  have := d0.isLt
  have := a0.isLt
  have := b0.isLt
  have := m0.isLt
  have := q0.isLt
  have := g0.isLt
  show 0x38000002 + (k0.toNat * 2 ^ 31 + (d0.toNat * 2 ^ 20 + (a0.toNat * 2 ^ 15 + (b0.toNat * 2 ^ 10 + (m0.toNat * 2 ^ 9 + (q0.toNat * 2 ^ 8 + (g0.toNat * 2 ^ 5 + 0))))))) < 2 ^ 32
  omega

theorem vstBc : ∀ k0 : BitVec 1, ∀ d0 : BitVec 5, ∀ a0 : BitVec 5, ∀ m0 : BitVec 1, ∀ q0 : BitVec 1, ∀ g0 : BitVec 3, Statement (.vstBc k0 d0 a0 m0 q0 g0) := by
  intro k0 d0 a0 m0 q0 g0 w hw
  have hw : some (rowVstBc.pack [k0.toNat, d0.toNat, a0.toNat, m0.toNat, q0.toNat, g0.toNat]) = some w := hw
  cases hw
  have := k0.isLt
  have := d0.isLt
  have := a0.isLt
  have := m0.isLt
  have := q0.isLt
  have := g0.isLt
  show 0x38000003 + (k0.toNat * 2 ^ 31 + (d0.toNat * 2 ^ 20 + (a0.toNat * 2 ^ 15 + (m0.toNat * 2 ^ 9 + (q0.toNat * 2 ^ 8 + (g0.toNat * 2 ^ 5 + 0)))))) < 2 ^ 32
  omega

theorem vstB : ∀ k0 : BitVec 1, ∀ d0 : BitVec 5, ∀ a0 : BitVec 5, ∀ b0 : BitVec 5, ∀ m0 : BitVec 1, ∀ q0 : BitVec 1, ∀ g0 : BitVec 3, Statement (.vstB k0 d0 a0 b0 m0 q0 g0) := by
  intro k0 d0 a0 b0 m0 q0 g0 w hw
  have hw : some (rowVstB.pack [k0.toNat, d0.toNat, a0.toNat, b0.toNat, m0.toNat, q0.toNat, g0.toNat]) = some w := hw
  cases hw
  have := k0.isLt
  have := d0.isLt
  have := a0.isLt
  have := b0.isLt
  have := m0.isLt
  have := q0.isLt
  have := g0.isLt
  show 0x38000004 + (k0.toNat * 2 ^ 31 + (d0.toNat * 2 ^ 20 + (a0.toNat * 2 ^ 15 + (b0.toNat * 2 ^ 10 + (m0.toNat * 2 ^ 9 + (q0.toNat * 2 ^ 8 + (g0.toNat * 2 ^ 5 + 0))))))) < 2 ^ 32
  omega

theorem vscatter : ∀ k0 : BitVec 1, ∀ d0 : BitVec 5, ∀ a0 : BitVec 5, ∀ b0 : BitVec 5, ∀ m0 : BitVec 1, ∀ q0 : BitVec 1, ∀ g0 : BitVec 3, Statement (.vscatter k0 d0 a0 b0 m0 q0 g0) := by
  intro k0 d0 a0 b0 m0 q0 g0 w hw
  have hw : some (rowVscatter.pack [k0.toNat, d0.toNat, a0.toNat, b0.toNat, m0.toNat, q0.toNat, g0.toNat]) = some w := hw
  cases hw
  have := k0.isLt
  have := d0.isLt
  have := a0.isLt
  have := b0.isLt
  have := m0.isLt
  have := q0.isLt
  have := g0.isLt
  show 0x38000008 + (k0.toNat * 2 ^ 31 + (d0.toNat * 2 ^ 20 + (a0.toNat * 2 ^ 15 + (b0.toNat * 2 ^ 10 + (m0.toNat * 2 ^ 9 + (q0.toNat * 2 ^ 8 + (g0.toNat * 2 ^ 5 + 0))))))) < 2 ^ 32
  omega

theorem vamoAdd : ∀ k0 : BitVec 1, ∀ d0 : BitVec 5, ∀ a0 : BitVec 5, ∀ b0 : BitVec 5, ∀ m0 : BitVec 1, ∀ q0 : BitVec 1, ∀ g0 : BitVec 3, Statement (.vamoAdd k0 d0 a0 b0 m0 q0 g0) := by
  intro k0 d0 a0 b0 m0 q0 g0 w hw
  have hw : some (rowVamoAdd.pack [k0.toNat, d0.toNat, a0.toNat, b0.toNat, m0.toNat, q0.toNat, g0.toNat]) = some w := hw
  cases hw
  have := k0.isLt
  have := d0.isLt
  have := a0.isLt
  have := b0.isLt
  have := m0.isLt
  have := q0.isLt
  have := g0.isLt
  show 0x3A000000 + (k0.toNat * 2 ^ 31 + (d0.toNat * 2 ^ 20 + (a0.toNat * 2 ^ 15 + (b0.toNat * 2 ^ 10 + (m0.toNat * 2 ^ 9 + (q0.toNat * 2 ^ 8 + (g0.toNat * 2 ^ 5 + 0))))))) < 2 ^ 32
  omega

theorem vamoMin : ∀ k0 : BitVec 1, ∀ d0 : BitVec 5, ∀ a0 : BitVec 5, ∀ b0 : BitVec 5, ∀ m0 : BitVec 1, ∀ q0 : BitVec 1, ∀ g0 : BitVec 3, Statement (.vamoMin k0 d0 a0 b0 m0 q0 g0) := by
  intro k0 d0 a0 b0 m0 q0 g0 w hw
  have hw : some (rowVamoMin.pack [k0.toNat, d0.toNat, a0.toNat, b0.toNat, m0.toNat, q0.toNat, g0.toNat]) = some w := hw
  cases hw
  have := k0.isLt
  have := d0.isLt
  have := a0.isLt
  have := b0.isLt
  have := m0.isLt
  have := q0.isLt
  have := g0.isLt
  show 0x3A000001 + (k0.toNat * 2 ^ 31 + (d0.toNat * 2 ^ 20 + (a0.toNat * 2 ^ 15 + (b0.toNat * 2 ^ 10 + (m0.toNat * 2 ^ 9 + (q0.toNat * 2 ^ 8 + (g0.toNat * 2 ^ 5 + 0))))))) < 2 ^ 32
  omega

theorem vamoMax : ∀ k0 : BitVec 1, ∀ d0 : BitVec 5, ∀ a0 : BitVec 5, ∀ b0 : BitVec 5, ∀ m0 : BitVec 1, ∀ q0 : BitVec 1, ∀ g0 : BitVec 3, Statement (.vamoMax k0 d0 a0 b0 m0 q0 g0) := by
  intro k0 d0 a0 b0 m0 q0 g0 w hw
  have hw : some (rowVamoMax.pack [k0.toNat, d0.toNat, a0.toNat, b0.toNat, m0.toNat, q0.toNat, g0.toNat]) = some w := hw
  cases hw
  have := k0.isLt
  have := d0.isLt
  have := a0.isLt
  have := b0.isLt
  have := m0.isLt
  have := q0.isLt
  have := g0.isLt
  show 0x3A000002 + (k0.toNat * 2 ^ 31 + (d0.toNat * 2 ^ 20 + (a0.toNat * 2 ^ 15 + (b0.toNat * 2 ^ 10 + (m0.toNat * 2 ^ 9 + (q0.toNat * 2 ^ 8 + (g0.toNat * 2 ^ 5 + 0))))))) < 2 ^ 32
  omega

theorem vamoAnd : ∀ k0 : BitVec 1, ∀ d0 : BitVec 5, ∀ a0 : BitVec 5, ∀ b0 : BitVec 5, ∀ m0 : BitVec 1, ∀ q0 : BitVec 1, ∀ g0 : BitVec 3, Statement (.vamoAnd k0 d0 a0 b0 m0 q0 g0) := by
  intro k0 d0 a0 b0 m0 q0 g0 w hw
  have hw : some (rowVamoAnd.pack [k0.toNat, d0.toNat, a0.toNat, b0.toNat, m0.toNat, q0.toNat, g0.toNat]) = some w := hw
  cases hw
  have := k0.isLt
  have := d0.isLt
  have := a0.isLt
  have := b0.isLt
  have := m0.isLt
  have := q0.isLt
  have := g0.isLt
  show 0x3A000003 + (k0.toNat * 2 ^ 31 + (d0.toNat * 2 ^ 20 + (a0.toNat * 2 ^ 15 + (b0.toNat * 2 ^ 10 + (m0.toNat * 2 ^ 9 + (q0.toNat * 2 ^ 8 + (g0.toNat * 2 ^ 5 + 0))))))) < 2 ^ 32
  omega

theorem vamoOr : ∀ k0 : BitVec 1, ∀ d0 : BitVec 5, ∀ a0 : BitVec 5, ∀ b0 : BitVec 5, ∀ m0 : BitVec 1, ∀ q0 : BitVec 1, ∀ g0 : BitVec 3, Statement (.vamoOr k0 d0 a0 b0 m0 q0 g0) := by
  intro k0 d0 a0 b0 m0 q0 g0 w hw
  have hw : some (rowVamoOr.pack [k0.toNat, d0.toNat, a0.toNat, b0.toNat, m0.toNat, q0.toNat, g0.toNat]) = some w := hw
  cases hw
  have := k0.isLt
  have := d0.isLt
  have := a0.isLt
  have := b0.isLt
  have := m0.isLt
  have := q0.isLt
  have := g0.isLt
  show 0x3A000004 + (k0.toNat * 2 ^ 31 + (d0.toNat * 2 ^ 20 + (a0.toNat * 2 ^ 15 + (b0.toNat * 2 ^ 10 + (m0.toNat * 2 ^ 9 + (q0.toNat * 2 ^ 8 + (g0.toNat * 2 ^ 5 + 0))))))) < 2 ^ 32
  omega

theorem vamoXor : ∀ k0 : BitVec 1, ∀ d0 : BitVec 5, ∀ a0 : BitVec 5, ∀ b0 : BitVec 5, ∀ m0 : BitVec 1, ∀ q0 : BitVec 1, ∀ g0 : BitVec 3, Statement (.vamoXor k0 d0 a0 b0 m0 q0 g0) := by
  intro k0 d0 a0 b0 m0 q0 g0 w hw
  have hw : some (rowVamoXor.pack [k0.toNat, d0.toNat, a0.toNat, b0.toNat, m0.toNat, q0.toNat, g0.toNat]) = some w := hw
  cases hw
  have := k0.isLt
  have := d0.isLt
  have := a0.isLt
  have := b0.isLt
  have := m0.isLt
  have := q0.isLt
  have := g0.isLt
  show 0x3A000005 + (k0.toNat * 2 ^ 31 + (d0.toNat * 2 ^ 20 + (a0.toNat * 2 ^ 15 + (b0.toNat * 2 ^ 10 + (m0.toNat * 2 ^ 9 + (q0.toNat * 2 ^ 8 + (g0.toNat * 2 ^ 5 + 0))))))) < 2 ^ 32
  omega

theorem vamoSwap : ∀ k0 : BitVec 1, ∀ d0 : BitVec 5, ∀ a0 : BitVec 5, ∀ b0 : BitVec 5, ∀ m0 : BitVec 1, ∀ q0 : BitVec 1, ∀ g0 : BitVec 3, Statement (.vamoSwap k0 d0 a0 b0 m0 q0 g0) := by
  intro k0 d0 a0 b0 m0 q0 g0 w hw
  have hw : some (rowVamoSwap.pack [k0.toNat, d0.toNat, a0.toNat, b0.toNat, m0.toNat, q0.toNat, g0.toNat]) = some w := hw
  cases hw
  have := k0.isLt
  have := d0.isLt
  have := a0.isLt
  have := b0.isLt
  have := m0.isLt
  have := q0.isLt
  have := g0.isLt
  show 0x3A000006 + (k0.toNat * 2 ^ 31 + (d0.toNat * 2 ^ 20 + (a0.toNat * 2 ^ 15 + (b0.toNat * 2 ^ 10 + (m0.toNat * 2 ^ 9 + (q0.toNat * 2 ^ 8 + (g0.toNat * 2 ^ 5 + 0))))))) < 2 ^ 32
  omega

theorem vamoFadd : ∀ k0 : BitVec 1, ∀ d0 : BitVec 5, ∀ a0 : BitVec 5, ∀ b0 : BitVec 5, ∀ m0 : BitVec 1, ∀ q0 : BitVec 1, ∀ g0 : BitVec 3, Statement (.vamoFadd k0 d0 a0 b0 m0 q0 g0) := by
  intro k0 d0 a0 b0 m0 q0 g0 w hw
  have hw : some (rowVamoFadd.pack [k0.toNat, d0.toNat, a0.toNat, b0.toNat, m0.toNat, q0.toNat, g0.toNat]) = some w := hw
  cases hw
  have := k0.isLt
  have := d0.isLt
  have := a0.isLt
  have := b0.isLt
  have := m0.isLt
  have := q0.isLt
  have := g0.isLt
  show 0x3A000007 + (k0.toNat * 2 ^ 31 + (d0.toNat * 2 ^ 20 + (a0.toNat * 2 ^ 15 + (b0.toNat * 2 ^ 10 + (m0.toNat * 2 ^ 9 + (q0.toNat * 2 ^ 8 + (g0.toNat * 2 ^ 5 + 0))))))) < 2 ^ 32
  omega

theorem vcappIdx : ∀ k0 : BitVec 1, ∀ a0 : BitVec 5, ∀ m0 : BitVec 1, ∀ q0 : BitVec 1, ∀ g0 : BitVec 3, Statement (.vcappIdx k0 a0 m0 q0 g0) := by
  intro k0 a0 m0 q0 g0 w hw
  have hw : some (rowVcappIdx.pack [k0.toNat, a0.toNat, m0.toNat, q0.toNat, g0.toNat]) = some w := hw
  cases hw
  have := k0.isLt
  have := a0.isLt
  have := m0.isLt
  have := q0.isLt
  have := g0.isLt
  show 0x3A000008 + (k0.toNat * 2 ^ 31 + (a0.toNat * 2 ^ 15 + (m0.toNat * 2 ^ 9 + (q0.toNat * 2 ^ 8 + (g0.toNat * 2 ^ 5 + 0))))) < 2 ^ 32
  omega

theorem vcappVal : ∀ k0 : BitVec 1, ∀ d0 : BitVec 5, ∀ a0 : BitVec 5, ∀ m0 : BitVec 1, ∀ q0 : BitVec 1, ∀ g0 : BitVec 3, Statement (.vcappVal k0 d0 a0 m0 q0 g0) := by
  intro k0 d0 a0 m0 q0 g0 w hw
  have hw : some (rowVcappVal.pack [k0.toNat, d0.toNat, a0.toNat, m0.toNat, q0.toNat, g0.toNat]) = some w := hw
  cases hw
  have := k0.isLt
  have := d0.isLt
  have := a0.isLt
  have := m0.isLt
  have := q0.isLt
  have := g0.isLt
  show 0x3A000009 + (k0.toNat * 2 ^ 31 + (d0.toNat * 2 ^ 20 + (a0.toNat * 2 ^ 15 + (m0.toNat * 2 ^ 9 + (q0.toNat * 2 ^ 8 + (g0.toNat * 2 ^ 5 + 0)))))) < 2 ^ 32
  omega

theorem matt : ∀ d0 : BitVec 5, ∀ c0 : BitVec 3, Statement (.matt d0 c0) := by
  intro d0 c0 w hw
  have hw : some (rowMatt.pack [d0.toNat, c0.toNat]) = some w := hw
  cases hw
  have := d0.isLt
  have := c0.isLt
  show 0x40000000 + (d0.toNat * 2 ^ 20 + (c0.toNat * 2 ^ 0 + 0)) < 2 ^ 32
  omega

theorem mdet : Statement (.mdet) := by
  intro w hw
  have hw : some (rowMdet.pack []) = some w := hw
  cases hw
  show 0x40000040 + 0 < 2 ^ 32
  omega

theorem mclaim : ∀ d0 : BitVec 5, Statement (.mclaim d0) := by
  intro d0 w hw
  have hw : some (rowMclaim.pack [d0.toNat]) = some w := hw
  cases hw
  have := d0.isLt
  show 0x40000080 + (d0.toNat * 2 ^ 20 + 0) < 2 ^ 32
  omega

theorem mrel : ∀ a0 : BitVec 5, Statement (.mrel a0) := by
  intro a0 w hw
  have hw : some (rowMrel.pack [a0.toNat]) = some w := hw
  cases hw
  have := a0.isLt
  show 0x400000C0 + (a0.toNat * 2 ^ 15 + 0) < 2 ^ 32
  omega

theorem mldb : ∀ k0 : BitVec 1, ∀ a0 : BitVec 5, ∀ b0 : BitVec 5, Statement (.mldb k0 a0 b0) := by
  intro k0 a0 b0 w hw
  have hw : some (rowMldb.pack [k0.toNat, a0.toNat, b0.toNat]) = some w := hw
  cases hw
  have := k0.isLt
  have := a0.isLt
  have := b0.isLt
  show 0x40000100 + (k0.toNat * 2 ^ 31 + (a0.toNat * 2 ^ 15 + (b0.toNat * 2 ^ 10 + 0))) < 2 ^ 32
  omega

theorem mma : ∀ k0 : BitVec 1, ∀ d0 : BitVec 5, ∀ a0 : BitVec 5, ∀ n0 : BitVec 2, Statement (.mma k0 d0 a0 n0) := by
  intro k0 d0 a0 n0 w hw
  have hw : some (rowMma.pack [k0.toNat, d0.toNat, a0.toNat, n0.toNat]) = some w := hw
  cases hw
  have := k0.isLt
  have := d0.isLt
  have := a0.isLt
  have := n0.isLt
  show 0x40000140 + (k0.toNat * 2 ^ 31 + (d0.toNat * 2 ^ 20 + (a0.toNat * 2 ^ 15 + (n0.toNat * 2 ^ 4 + 0)))) < 2 ^ 32
  omega

theorem mzero : ∀ k0 : BitVec 1, ∀ n0 : BitVec 2, Statement (.mzero k0 n0) := by
  intro k0 n0 w hw
  have hw : some (rowMzero.pack [k0.toNat, n0.toNat]) = some w := hw
  cases hw
  have := k0.isLt
  have := n0.isLt
  show 0x40000180 + (k0.toNat * 2 ^ 31 + (n0.toNat * 2 ^ 4 + 0)) < 2 ^ 32
  omega

theorem mdrain : ∀ k0 : BitVec 1, ∀ d0 : BitVec 5, ∀ b0 : BitVec 5, ∀ n0 : BitVec 2, Statement (.mdrain k0 d0 b0 n0) := by
  intro k0 d0 b0 n0 w hw
  have hw : some (rowMdrain.pack [k0.toNat, d0.toNat, b0.toNat, n0.toNat]) = some w := hw
  cases hw
  have := k0.isLt
  have := d0.isLt
  have := b0.isLt
  have := n0.isLt
  show 0x400001C0 + (k0.toNat * 2 ^ 31 + (d0.toNat * 2 ^ 20 + (b0.toNat * 2 ^ 10 + (n0.toNat * 2 ^ 4 + 0)))) < 2 ^ 32
  omega

theorem xcopy : ∀ d0 : BitVec 5, ∀ a0 : BitVec 5, ∀ b0 : BitVec 5, ∀ c0 : BitVec 2, ∀ n0 : BitVec 1, ∀ l0 : BitVec 5, Statement (.xcopy d0 a0 b0 c0 n0 l0) := by
  intro d0 a0 b0 c0 n0 l0 w hw
  have hw : some (rowXcopy.pack [d0.toNat, a0.toNat, b0.toNat, c0.toNat, n0.toNat, l0.toNat]) = some w := hw
  cases hw
  have := d0.isLt
  have := a0.isLt
  have := b0.isLt
  have := c0.isLt
  have := n0.isLt
  have := l0.isLt
  show 0x42000000 + (d0.toNat * 2 ^ 20 + (a0.toNat * 2 ^ 15 + (b0.toNat * 2 ^ 10 + (c0.toNat * 2 ^ 7 + (n0.toNat * 2 ^ 6 + (l0.toNat * 2 ^ 1 + 0)))))) < 2 ^ 32
  omega

theorem xwait : ∀ a0 : BitVec 5, ∀ c0 : BitVec 2, Statement (.xwait a0 c0) := by
  intro a0 c0 w hw
  have hw : some (rowXwait.pack [a0.toNat, c0.toNat]) = some w := hw
  cases hw
  have := a0.isLt
  have := c0.isLt
  show 0x42000200 + (a0.toNat * 2 ^ 15 + (c0.toNat * 2 ^ 7 + 0)) < 2 ^ 32
  omega

theorem fence : ∀ m0 : BitVec 13, ∀ s0 : BitVec 3, Statement (.fence m0 s0) := by
  intro m0 s0 w hw
  have hw : some (rowFence.pack [m0.toNat, s0.toNat]) = some w := hw
  cases hw
  have := m0.isLt
  have := s0.isLt
  show 0x44000000 + (m0.toNat * 2 ^ 9 + (s0.toNat * 2 ^ 6 + 0)) < 2 ^ 32
  omega

theorem send : ∀ v0 : BitVec 5, ∀ a0 : BitVec 5, ∀ t0 : BitVec 2, Statement (.send v0 a0 t0) := by
  intro v0 a0 t0 w hw
  have hw : some (rowSend.pack [v0.toNat, a0.toNat, t0.toNat]) = some w := hw
  cases hw
  have := v0.isLt
  have := a0.isLt
  have := t0.isLt
  show 0x46000000 + (v0.toNat * 2 ^ 20 + (a0.toNat * 2 ^ 15 + (t0.toNat * 2 ^ 7 + 0))) < 2 ^ 32
  omega

theorem recv : ∀ v0 : BitVec 5, ∀ t0 : BitVec 2, Statement (.recv v0 t0) := by
  intro v0 t0 w hw
  have hw : some (rowRecv.pack [v0.toNat, t0.toNat]) = some w := hw
  cases hw
  have := v0.isLt
  have := t0.isLt
  show 0x46000200 + (v0.toNat * 2 ^ 20 + (t0.toNat * 2 ^ 7 + 0)) < 2 ^ 32
  omega

theorem tend : Statement (.tend) := by
  intro w hw
  have hw : some (rowTend.pack []) = some w := hw
  cases hw
  show 0x48000000 + 0 < 2 ^ 32
  omega

theorem gspawn : ∀ s0 : BitVec 5, Statement (.gspawn s0) := by
  intro s0 w hw
  have hw : some (rowGspawn.pack [s0.toNat]) = some w := hw
  cases hw
  have := s0.isLt
  show 0x48000010 + (s0.toNat * 2 ^ 20 + 0) < 2 ^ 32
  omega

theorem gsig : ∀ s0 : BitVec 5, Statement (.gsig s0) := by
  intro s0 w hw
  have hw : some (rowGsig.pack [s0.toNat]) = some w := hw
  cases hw
  have := s0.isLt
  show 0x48000020 + (s0.toNat * 2 ^ 20 + 0) < 2 ^ 32
  omega

theorem adj : ∀ p0 : BitVec 2, Statement (.adj p0) := by
  intro p0 w hw
  have hw : some (rowAdj.pack [p0.toNat]) = some w := hw
  cases hw
  have := p0.isLt
  show 0x48000030 + (p0.toNat * 2 ^ 0 + 0) < 2 ^ 32
  omega

theorem uiret : Statement (.uiret) := by
  intro w hw
  have hw : some (rowUiret.pack []) = some w := hw
  cases hw
  show 0x48000040 + 0 < 2 ^ 32
  omega

theorem dcwb : ∀ s0 : BitVec 5, ∀ n0 : BitVec 12, Statement (.dcwb s0 n0) := by
  intro s0 n0 w hw
  have hw : some (rowDcwb.pack [s0.toNat, n0.toNat]) = some w := hw
  cases hw
  have := s0.isLt
  have := n0.isLt
  show 0x4A000000 + (s0.toNat * 2 ^ 20 + (n0.toNat * 2 ^ 8 + 0)) < 2 ^ 32
  omega

theorem iinv : ∀ s0 : BitVec 5, ∀ n0 : BitVec 12, Statement (.iinv s0 n0) := by
  intro s0 n0 w hw
  have hw : some (rowIinv.pack [s0.toNat, n0.toNat]) = some w := hw
  cases hw
  have := s0.isLt
  have := n0.isLt
  show 0x4A000010 + (s0.toNat * 2 ^ 20 + (n0.toNat * 2 ^ 8 + 0)) < 2 ^ 32
  omega

theorem fetchb : Statement (.fetchb) := by
  intro w hw
  have hw : some (rowFetchb.pack []) = some w := hw
  cases hw
  show 0x4A000020 + 0 < 2 ^ 32
  omega

theorem pref : ∀ s0 : BitVec 5, ∀ n0 : BitVec 12, Statement (.pref s0 n0) := by
  intro s0 n0 w hw
  have hw : some (rowPref.pack [s0.toNat, n0.toNat]) = some w := hw
  cases hw
  have := s0.isLt
  have := n0.isLt
  show 0x4A000030 + (s0.toNat * 2 ^ 20 + (n0.toNat * 2 ^ 8 + 0)) < 2 ^ 32
  omega

theorem trap : ∀ i0 : BitVec 12, Statement (.trap i0) := by
  intro i0 w hw
  have hw : some (rowTrap.pack [i0.toNat]) = some w := hw
  cases hw
  have := i0.isLt
  show 0x4C000000 + (i0.toNat * 2 ^ 8 + 0) < 2 ^ 32
  omega

theorem eret : Statement (.eret) := by
  intro w hw
  have hw : some (rowEret.pack []) = some w := hw
  cases hw
  show 0x4C000010 + 0 < 2 ^ 32
  omega

theorem mfs : ∀ s0 : BitVec 5, ∀ n0 : BitVec 12, Statement (.mfs s0 n0) := by
  intro s0 n0 w hw
  have hw : some (rowMfs.pack [s0.toNat, n0.toNat]) = some w := hw
  cases hw
  have := s0.isLt
  have := n0.isLt
  show 0x4C000020 + (s0.toNat * 2 ^ 20 + (n0.toNat * 2 ^ 8 + 0)) < 2 ^ 32
  omega

theorem mts : ∀ s0 : BitVec 5, ∀ n0 : BitVec 12, Statement (.mts s0 n0) := by
  intro s0 n0 w hw
  have hw : some (rowMts.pack [s0.toNat, n0.toNat]) = some w := hw
  cases hw
  have := s0.isLt
  have := n0.isLt
  show 0x4C000030 + (s0.toNat * 2 ^ 20 + (n0.toNat * 2 ^ 8 + 0)) < 2 ^ 32
  omega

theorem wait : Statement (.wait) := by
  intro w hw
  have hw : some (rowWait.pack []) = some w := hw
  cases hw
  show 0x4C000040 + 0 < 2 ^ 32
  omega

theorem nop : Statement (.nop) := by
  intro w hw
  have hw : some (rowNop.pack []) = some w := hw
  cases hw
  show 0x4C000050 + 0 < 2 ^ 32
  omega

theorem csave : ∀ s0 : BitVec 5, Statement (.csave s0) := by
  intro s0 w hw
  have hw : some (rowCsave.pack [s0.toNat]) = some w := hw
  cases hw
  have := s0.isLt
  show 0x4C000060 + (s0.toNat * 2 ^ 20 + 0) < 2 ^ 32
  omega

theorem cload : ∀ s0 : BitVec 5, Statement (.cload s0) := by
  intro s0 w hw
  have hw : some (rowCload.pack [s0.toNat]) = some w := hw
  cases hw
  have := s0.isLt
  show 0x4C000070 + (s0.toNat * 2 ^ 20 + 0) < 2 ^ 32
  omega

theorem tlbinv : ∀ s0 : BitVec 5, ∀ k0 : BitVec 2, Statement (.tlbinv s0 k0) := by
  intro s0 k0 w hw
  have hw : some (rowTlbinv.pack [s0.toNat, k0.toNat]) = some w := hw
  cases hw
  have := s0.isLt
  have := k0.isLt
  show 0x4C000080 + (s0.toNat * 2 ^ 20 + (k0.toNat * 2 ^ 8 + 0)) < 2 ^ 32
  omega

theorem bufferedWritePerform : ∀ ctx0 : Nat, ∀ idx0 : Nat, Statement (.bufferedWritePerform ctx0 idx0) := by
  intro ctx0 idx0 w hw
  cases (show none = some w from hw)

theorem vshapeLaneGrant : ∀ ctx0 : Nat, Statement (.vshapeLaneGrant ctx0) := by
  intro ctx0 w hw
  cases (show none = some w from hw)

theorem fenceWaitEnd : ∀ ctx0 : Nat, Statement (.fenceWaitEnd ctx0) := by
  intro ctx0 w hw
  cases (show none = some w from hw)

theorem tendWaitEnd : ∀ ctx0 : Nat, Statement (.tendWaitEnd ctx0) := by
  intro ctx0 w hw
  cases (show none = some w from hw)

theorem tlbinvComplete : ∀ ctx0 : Nat, Statement (.tlbinvComplete ctx0) := by
  intro ctx0 w hw
  cases (show none = some w from hw)

theorem iinvComplete : ∀ ctx0 : Nat, Statement (.iinvComplete ctx0) := by
  intro ctx0 w hw
  cases (show none = some w from hw)

theorem dcwbComplete : ∀ ctx0 : Nat, Statement (.dcwbComplete ctx0) := by
  intro ctx0 w hw
  cases (show none = some w from hw)

theorem xwaitRetire : ∀ ctx0 : Nat, Statement (.xwaitRetire ctx0) := by
  intro ctx0 w hw
  cases (show none = some w from hw)

theorem xcopyEnqueue : ∀ ctx0 : Nat, Statement (.xcopyEnqueue ctx0) := by
  intro ctx0 w hw
  cases (show none = some w from hw)

theorem copyCommandStart : ∀ ctx0 : Nat, ∀ chan0 : Nat, ∀ id0 : BitVec 32, Statement (.copyCommandStart ctx0 chan0 id0) := by
  intro ctx0 chan0 id0 w hw
  cases (show none = some w from hw)

theorem copyCommandComplete : ∀ ctx0 : Nat, ∀ chan0 : Nat, ∀ id0 : BitVec 32, Statement (.copyCommandComplete ctx0 chan0 id0) := by
  intro ctx0 chan0 id0 w hw
  cases (show none = some w from hw)

theorem vcappThresholdNotify : ∀ ctx0 : Nat, ∀ idx0 : Nat, Statement (.vcappThresholdNotify ctx0 idx0) := by
  intro ctx0 idx0 w hw
  cases (show none = some w from hw)

theorem grantRequest : ∀ idx0 : Nat, Statement (.grantRequest idx0) := by
  intro idx0 w hw
  cases (show none = some w from hw)

theorem grantReply : ∀ ctx0 : Nat, ∀ granted0 : Bool, Statement (.grantReply ctx0 granted0) := by
  intro ctx0 granted0 w hw
  cases (show none = some w from hw)

theorem messageArrival : ∀ ctx0 : Nat, ∀ tag0 : Nat, Statement (.messageArrival ctx0 tag0) := by
  intro ctx0 tag0 w hw
  cases (show none = some w from hw)

theorem recvSlotFull : ∀ ctx0 : Nat, Statement (.recvSlotFull ctx0) := by
  intro ctx0 w hw
  cases (show none = some w from hw)

theorem waitWake : ∀ ctx0 : Nat, Statement (.waitWake ctx0) := by
  intro ctx0 w hw
  cases (show none = some w from hw)

theorem userInterruptTake : ∀ ctx0 : Nat, Statement (.userInterruptTake ctx0) := by
  intro ctx0 w hw
  cases (show none = some w from hw)

theorem queuedTrap : ∀ ctx0 : Nat, Statement (.queuedTrap ctx0) := by
  intro ctx0 w hw
  cases (show none = some w from hw)

theorem replayRerun : ∀ launch0 : Nat, Statement (.replayRerun launch0) := by
  intro launch0 w hw
  cases (show none = some w from hw)

theorem preemptwinExpiry : ∀ ctx0 : Nat, Statement (.preemptwinExpiry ctx0) := by
  intro ctx0 w hw
  cases (show none = some w from hw)

theorem wholeSaveDone : ∀ ctx0 : Nat, Statement (.wholeSaveDone ctx0) := by
  intro ctx0 w hw
  cases (show none = some w from hw)

theorem cloadLaneGrant : ∀ ctx0 : Nat, Statement (.cloadLaneGrant ctx0) := by
  intro ctx0 w hw
  cases (show none = some w from hw)

theorem launchAccept : Statement (.launchAccept) := by
  intro w hw
  cases (show none = some w from hw)

theorem taskEndByMill : ∀ ctx0 : Nat, Statement (.taskEndByMill ctx0) := by
  intro ctx0 w hw
  cases (show none = some w from hw)

theorem dispatchPick : Statement (.dispatchPick) := by
  intro w hw
  cases (show none = some w from hw)

theorem taskStart : ∀ ctx0 : Nat, Statement (.taskStart ctx0) := by
  intro ctx0 w hw
  cases (show none = some w from hw)

theorem tendRetirement : Statement (.tendRetirement) := by
  intro w hw
  cases (show none = some w from hw)

theorem completionWordWrite : ∀ launch0 : Nat, Statement (.completionWordWrite launch0) := by
  intro launch0 w hw
  cases (show none = some w from hw)

theorem spawnRequest : ∀ ctx0 : Nat, Statement (.spawnRequest ctx0) := by
  intro ctx0 w hw
  cases (show none = some w from hw)

theorem signalRequest : ∀ ctx0 : Nat, Statement (.signalRequest ctx0) := by
  intro ctx0 w hw
  cases (show none = some w from hw)

theorem moultRemap : Statement (.moultRemap) := by
  intro w hw
  cases (show none = some w from hw)

theorem migrationDone : Statement (.migrationDone) := by
  intro w hw
  cases (show none = some w from hw)

theorem bootRom : Statement (.bootRom) := by
  intro w hw
  cases (show none = some w from hw)

theorem atflushDone : Statement (.atflushDone) := by
  intro w hw
  cases (show none = some w from hw)

theorem quoteReady : Statement (.quoteReady) := by
  intro w hw
  cases (show none = some w from hw)

theorem stringPowered : ∀ str0 : Nat, Statement (.stringPowered str0) := by
  intro str0 w hw
  cases (show none = some w from hw)

theorem stringUnpowered : ∀ str0 : Nat, Statement (.stringUnpowered str0) := by
  intro str0 w hw
  cases (show none = some w from hw)

theorem taskEndedByRuntime : ∀ ctx0 : Nat, Statement (.taskEndedByRuntime ctx0) := by
  intro ctx0 w hw
  cases (show none = some w from hw)

theorem convoyFetch : ∀ ctx0 : Nat, Statement (.convoyFetch ctx0) := by
  intro ctx0 w hw
  cases (show none = some w from hw)

theorem checkerMismatch : ∀ ctx0 : Nat, Statement (.checkerMismatch ctx0) := by
  intro ctx0 w hw
  cases (show none = some w from hw)

theorem uncorrectableError : ∀ ctx0 : Nat, ∀ pinned0 : Bool, ∀ scalarLoad0 : Bool, ∀ named0 : Bool, Statement (.uncorrectableError ctx0 pinned0 scalarLoad0 named0) := by
  intro ctx0 pinned0 scalarLoad0 named0 w hw
  cases (show none = some w from hw)

theorem launchWrite : ∀ master0 : Nat, ∀ bytes0 : Nat, ∀ value0 : BitVec 64, Statement (.launchWrite master0 bytes0 value0) := by
  intro master0 bytes0 value0 w hw
  cases (show none = some w from hw)

theorem adjunctRequest : ∀ str0 : Nat, ∀ node0 : Nat, ∀ under0 : Bool, Statement (.adjunctRequest str0 node0 under0) := by
  intro str0 node0 under0 w hw
  cases (show none = some w from hw)

theorem throttleDown : ∀ str0 : Nat, Statement (.throttleDown str0) := by
  intro str0 w hw
  cases (show none = some w from hw)

theorem throttleUp : ∀ str0 : Nat, Statement (.throttleUp str0) := by
  intro str0 w hw
  cases (show none = some w from hw)

theorem stringFloor : ∀ str0 : Nat, Statement (.stringFloor str0) := by
  intro str0 w hw
  cases (show none = some w from hw)

theorem flitRetransmit : ∀ port0 : Nat, Statement (.flitRetransmit port0) := by
  intro port0 w hw
  cases (show none = some w from hw)

theorem portDown : ∀ port0 : Nat, Statement (.portDown port0) := by
  intro port0 w hw
  cases (show none = some w from hw)

theorem pageMigration : ∀ ctx0 : Nat, ∀ va0 : BitVec 64, ∀ dest0 : Nat, ∀ frame0 : Nat, Statement (.pageMigration ctx0 va0 dest0 frame0) := by
  intro ctx0 va0 dest0 frame0 w hw
  cases (show none = some w from hw)

theorem patrolVisit : ∀ line0 : Nat, ∀ corrected0 : Bool, ∀ uncorrectable0 : Bool, Statement (.patrolVisit line0 corrected0 uncorrectable0) := by
  intro line0 corrected0 uncorrectable0 w hw
  cases (show none = some w from hw)

theorem semaRead : ∀ master0 : Nat, Statement (.semaRead master0) := by
  intro master0 w hw
  cases (show none = some w from hw)

theorem semaWrite : ∀ master0 : Nat, ∀ value0 : BitVec 64, Statement (.semaWrite master0 value0) := by
  intro master0 value0 w hw
  cases (show none = some w from hw)

theorem registerWrite : ∀ master0 : Nat, ∀ offset0 : Nat, ∀ bytes0 : Nat, ∀ value0 : BitVec 64, Statement (.registerWrite master0 offset0 bytes0 value0) := by
  intro master0 offset0 bytes0 value0 w hw
  cases (show none = some w from hw)

theorem resetGo : ∀ master0 : Nat, Statement (.resetGo master0) := by
  intro master0 w hw
  cases (show none = some w from hw)

theorem atflushGo : ∀ master0 : Nat, Statement (.atflushGo master0) := by
  intro master0 w hw
  cases (show none = some w from hw)

theorem keycmdLoad : ∀ master0 : Nat, ∀ slot0 : Nat, Statement (.keycmdLoad master0 slot0) := by
  intro master0 slot0 w hw
  cases (show none = some w from hw)

theorem keycmdEmpty : ∀ master0 : Nat, ∀ slot0 : Nat, Statement (.keycmdEmpty master0 slot0) := by
  intro master0 slot0 w hw
  cases (show none = some w from hw)

theorem meascmdExtend : ∀ master0 : Nat, ∀ n0 : Nat, Statement (.meascmdExtend master0 n0) := by
  intro master0 n0 w hw
  cases (show none = some w from hw)

theorem qcmdGo : ∀ master0 : Nat, Statement (.qcmdGo master0) := by
  intro master0 w hw
  cases (show none = some w from hw)

theorem partszWrite : ∀ master0 : Nat, ∀ die0 : Nat, ∀ value0 : BitVec 64, Statement (.partszWrite master0 die0 value0) := by
  intro master0 die0 value0 w hw
  cases (show none = some w from hw)

theorem strcapWrite : ∀ master0 : Nat, ∀ die0 : Nat, ∀ value0 : BitVec 64, Statement (.strcapWrite master0 die0 value0) := by
  intro master0 die0 value0 w hw
  cases (show none = some w from hw)

theorem strpwrWrite : ∀ master0 : Nat, ∀ die0 : Nat, ∀ value0 : BitVec 64, Statement (.strpwrWrite master0 die0 value0) := by
  intro master0 die0 value0 w hw
  cases (show none = some w from hw)

theorem bar2Read : ∀ offset0 : Nat, ∀ bytes0 : Nat, Statement (.bar2Read offset0 bytes0) := by
  intro offset0 bytes0 w hw
  cases (show none = some w from hw)

theorem bar2Write : ∀ offset0 : Nat, ∀ bytes0 : Nat, ∀ value0 : BitVec 64, Statement (.bar2Write offset0 bytes0 value0) := by
  intro offset0 bytes0 value0 w hw
  cases (show none = some w from hw)

theorem pcieLinkDown : ∀ port0 : Nat, Statement (.pcieLinkDown port0) := by
  intro port0 w hw
  cases (show none = some w from hw)

theorem meshUncorrectableError : ∀ die0 : Nat, ∀ plane0 : Nat, Statement (.meshUncorrectableError die0 plane0) := by
  intro die0 plane0 w hw
  cases (show none = some w from hw)

theorem planeDeathLearned : ∀ plane0 : Nat, Statement (.planeDeathLearned plane0) := by
  intro plane0 w hw
  cases (show none = some w from hw)

theorem unheldWritePerform : ∀ ctx0 : Nat, ∀ idx0 : Nat, Statement (.unheldWritePerform ctx0 idx0) := by
  intro ctx0 idx0 w hw
  cases (show none = some w from hw)

end Sys2Proof.Laws.EncodeBound
end

