-- ==== Sys2Proof/Machine/Object.lean ====
section
/-! DEFINITION. Izpisil objects as the runtime loads them (R260 to R265): the tables of an object, the checks before
it may be loaded, and relocation. No step of the machine loads an object: what is loaded reaches memory by host
writes. -/

namespace Sys2Proof.Machine

/-! ### Fields of an object -/

/-- The little-endian number of n bytes at an offset (R3, R260). -/
def objField (b : List Nat) (off n : Nat) : Nat := bytesNat ((b.drop off).take n)

/-- Every byte from one offset up to another is 0. -/
def objZero (b : List Nat) (lo hi : Nat) : Bool := ((b.drop lo).take (hi - lo)).all (· == 0)

/-- A number read as signed in a width. -/
def asSigned (bits v : Nat) : Int := if 2 ^ (bits - 1) ≤ v then (v : Int) - 2 ^ bits else v

/-- The header (R260). -/
structure ObjHeader where
  feature : Nat
  accorder : Nat
  nsect : Nat
  isSigned : Bool
  sectoff : Nat
  symoff : Nat
  nsym : Nat
  nrel : Nat
  reloff : Nat
  tploff : Nat
  ntpl : Nat
  strsize : Nat
  stroff : Nat
  entry : Option Nat
  sigoff : Nat
  siglen : Nat
  length : Nat
  deriving DecidableEq, Repr

/-- The header of an object. -/
def objHeader (b : List Nat) : ObjHeader :=
  let entry := objField b 0x48 4
  { feature := objField b 6 1, accorder := objField b 7 1, nsect := objField b 8 2
    isSigned := objField b 0x0A 2 % 2 == 1, sectoff := objField b 0x10 8, symoff := objField b 0x18 8
    nsym := objField b 0x20 4, nrel := objField b 0x24 4, reloff := objField b 0x28 8, tploff := objField b 0x30 8
    ntpl := objField b 0x38 4, strsize := objField b 0x3C 4, stroff := objField b 0x40 8
    entry := if entry = 0xFFFFFFFF then none else some entry, sigoff := objField b 0x50 8, siglen := objField b 0x58 4
    length := objField b 0x60 8 }

/-- A section (R261). -/
structure ObjSection where
  name : Nat
  kind : Nat
  align : Nat
  off : Nat
  size : Nat
  deriving DecidableEq, Repr

/-- Section entry i. -/
def objSection (b : List Nat) (h : ObjHeader) (i : Nat) : ObjSection :=
  let o := h.sectoff + 32 * i
  { name := objField b o 4, kind := objField b (o + 4) 1, align := objField b (o + 5) 1, off := objField b (o + 8) 8
    size := objField b (o + 16) 8 }

/-- A symbol (R261). -/
structure ObjSymbol where
  sect : Nat
  binding : Nat
  kind : Nat
  value : Nat
  deriving DecidableEq, Repr

/-- Symbol entry i, or none where the table has no such entry. -/
def objSymbol (b : List Nat) (h : ObjHeader) (i : Nat) : Option ObjSymbol :=
  let o := h.symoff + 24 * i
  if i < h.nsym then
    some { sect := objField b (o + 4) 2, binding := objField b (o + 6) 1, kind := objField b (o + 7) 1
           value := objField b (o + 8) 8 }
  else none

/-- A relocation (R261). -/
structure ObjReloc where
  sect : Nat
  type : Nat
  sym : Nat
  off : Nat
  addend : Int
  deriving DecidableEq, Repr

/-- Relocation entry i. -/
def objReloc (b : List Nat) (h : ObjHeader) (i : Nat) : ObjReloc :=
  let o := h.reloff + 24 * i
  { sect := objField b o 2, type := objField b (o + 2) 2, sym := objField b (o + 4) 4, off := objField b (o + 8) 8
    addend := asSigned 64 (objField b (o + 16) 8) }

/-- The bytes of a section before relocation: those of the file, or zeros for .bss. -/
def sectionBytes (b : List Nat) (c : ObjSection) : List Nat :=
  if c.kind = 3 then List.replicate c.size 0 else (b.drop c.off).take c.size

/-! ### Relocation (R262) -/

/-- Where the runtime placed the sections, each at an address aligned as its entry states. -/
def placesRightly (b : List Nat) (h : ObjHeader) (place : Nat → Nat) : Bool :=
  (List.range h.nsect).all fun i => place i % 2 ^ (objSection b h i).align == 0

/-- The final address of a symbol, or its value where it is absolute; none where its section is missing. -/
def symbolAddr (h : ObjHeader) (place : Nat → Nat) (y : ObjSymbol) : Option Nat :=
  if y.sect = 0xFFFF then some y.value else if y.sect < h.nsect then some (place y.sect + y.value) else none

/-- A word with a signed count of words put into its low `bits` bits, or none where the distance is refused. -/
def putDistance (old bits : Nat) (d : Int) : Option Nat :=
  if d % 4 ≠ 0 || d / 4 < -(2 ^ (bits - 1)) || 2 ^ (bits - 1) ≤ d / 4 then none
  else some (old / 2 ^ bits * 2 ^ bits + (d / 4 % 2 ^ bits).toNat)

/-- How many bytes the field of a relocation type has. -/
def relocBytes (type : Nat) : Nat := if type = 1 then 8 else 4

/-- The value that a relocation writes over an old field, or none where it is refused. -/
def relocValue (type old : Nat) (target : Int) (p : Nat) : Option Nat :=
  match type with
  | 1 => some (target % 2 ^ 64).toNat
  | 2 => if target % 2 ^ 64 < 2 ^ 32 then some (target % 2 ^ 64).toNat else none
  | 3 =>
    let d := target - p
    if d < -(2 ^ 31) || 2 ^ 31 ≤ d then none else some (d % 2 ^ 32).toNat
  | 4 => putDistance old 20 (target - p)
  | 5 => putDistance old 25 (target - p)
  | _ => none

/-- Bytes with a field replaced. -/
def putField (bs : List Nat) (off n v : Nat) : List Nat := bs.take off ++ natBytes n v ++ bs.drop (off + n)

/-- One relocation applied to the sections' bytes, or none where it is refused. -/
def applyReloc (b : List Nat) (h : ObjHeader) (place : Nat → Nat) (parts : List (List Nat)) (r : ObjReloc) :
    Option (List (List Nat)) := do
  let y ← objSymbol b h r.sym
  let target ← symbolAddr h place y
  let bs ← parts[r.sect]?
  let n := relocBytes r.type
  if bs.length < r.off + n then none
  else
    let v ← relocValue r.type (objField bs r.off n) (target + r.addend) (place r.sect + r.off)
    some (parts.set r.sect (putField bs r.off n v))

/-- The sections' bytes after all relocations, in table order. -/
def relocated (b : List Nat) (place : Nat → Nat) : Option (List (List Nat)) :=
  let h := objHeader b
  let parts := (List.range h.nsect).map fun i => sectionBytes b (objSection b h i)
  (List.range h.nrel).foldlM (fun ps i => applyReloc b h place ps (objReloc b h i)) parts

/-! ### The checks (R263 to R265) -/

/-- A feature byte is at most another: the majors first, then the minors (R265). -/
def featureAtMost (v w : Nat) : Bool := v / 16 < w / 16 || (v / 16 == w / 16 && v % 16 ≤ w % 16)

/-- Check 1: the object is one, and whole. -/
def objIsWhole (b : List Nat) : Bool :=
  b.take 4 == [0x49, 0x5A, 0x50, 0x01] && objField b 4 2 == 128 && 128 ≤ b.length && objField b 0x60 8 ≤ b.length

/-- A table of n entries lies inside the object. -/
def objInside (h : ObjHeader) (off n size : Nat) : Bool := n == 0 || off + n * size ≤ h.length

/-- Reserved fields of the header are zero. -/
def headerReserved (b : List Nat) : Bool :=
  objField b 0x0A 2 / 2 == 0 && objZero b 0x0C 0x10 && objZero b 0x4C 0x50
    && objZero b 0x5C 0x60 && objZero b 0x68 0x80

/-- A section entry has no reserved kind or field, and its bytes lie inside the object. -/
def sectionSound (b : List Nat) (h : ObjHeader) (i : Nat) : Bool :=
  let c := objSection b h i
  let o := h.sectoff + 32 * i
  c.kind ≤ 4 && c.align ≤ 16 && objZero b (o + 6) (o + 8) && objZero b (o + 24) (o + 32)
    && (c.kind == 3 || c.off + c.size ≤ h.length)

/-- A symbol entry has no reserved binding or kind. -/
def symbolSound (b : List Nat) (h : ObjHeader) (i : Nat) : Bool :=
  match objSymbol b h i with
  | some y => y.binding ≤ 1 && y.kind ≤ 2
  | none => false

/-- Check 2: every table and section lies inside the object, and nothing reserved is used. -/
def objIsSound (b : List Nat) : Bool :=
  let h := objHeader b
  headerReserved b && objInside h h.sectoff h.nsect 32 && objInside h h.symoff h.nsym 24
    && objInside h h.reloff h.nrel 24 && objInside h h.tploff h.ntpl 8 && objInside h h.stroff h.strsize 1
    && (List.range h.nsect).all (sectionSound b h) && (List.range h.nsym).all (symbolSound b h)
    && (List.range h.ntpl).all fun i => objZero b (h.tploff + 8 * i + 4) (h.tploff + 8 * i + 8)

/-- Check 3: the signature over the digest of the signed bytes, the object's last 2,420 bytes (R264). `verifies` is the
runtime's choice of keys, and `required` whether it asks for a signature. -/
def signatureFine (verifies : Nat → List Nat → Bool) (required : Bool) (b : List Nat) : Bool :=
  let h := objHeader b
  if h.isSigned then
    h.siglen == 2420 && verifies (sha3 (b.take h.sigoff)) ((b.take h.length).drop (h.length - 2420))
  else !required

/-- The 128 bytes of the record that template i names (R261). -/
def templateRecord (b : List Nat) (i : Nat) : Option (List Nat) := do
  let h := objHeader b
  let y ← objSymbol b h (objField b (h.tploff + 8 * i) 4)
  if y.kind = 2 && y.sect < h.nsect then
    let r := ((sectionBytes b (objSection b h y.sect)).drop y.value).take 128
    if r.length = 128 then some r else none
  else none

/-- Check 6: no record asks for more than the object does. -/
def recordsFine (b : List Nat) : Bool :=
  let h := objHeader b
  (List.range h.ntpl).all fun i =>
    match templateRecord b i with
    | some r => featureAtMost (objField r 0x2B 1) h.feature && objField r 0x2A 1 == h.accorder
    | none => false

/-- The order number of the first check that refuses an object, or none where it may be loaded (R263). -/
def objectRefused (verifies : Nat → List Nat → Bool) (required : Bool) (place : Nat → Nat) (b : List Nat) :
    Option Nat :=
  let h := objHeader b
  if !objIsWhole b then some 1
  else if !objIsSound b then some 2
  else if !signatureFine verifies required b then some 3
  else if h.feature / 16 == 0 || !featureAtMost h.feature Config.features then some 4
  else if h.accorder ≠ 1 then some 5
  else if !recordsFine b then some 6
  else if (relocated b place).isNone then some 7
  else none

/-- What the runtime writes into the address space: each section's bytes at its place, or nothing where the object is
refused (R263). -/
def loadObject (verifies : Nat → List Nat → Bool) (required : Bool) (place : Nat → Nat) (b : List Nat) :
    List (Nat × List Nat) :=
  match objectRefused verifies required place b, relocated b place with
  | none, some parts => parts.zipIdx.map fun e => (place e.2, e.1)
  | _, _ => []

end Sys2Proof.Machine
end

