-- ==== Sys2Proof/Machine/Assembly.lean ====
section
/-! DEFINITION. What yuran-as makes of a source (R271 to R275): expressions, convoys of several lines, suffixes, data
directives and record templates, over statements that are already read from their text. No step of the machine
assembles. -/

namespace Sys2Proof.Machine

/-! ### Expressions (R272) -/

inductive AsmUnary where
  | neg | not
  deriving DecidableEq, Repr

inductive AsmBinary where
  | mul | div | rem | add | sub | shl | shr | and | xor | or
  deriving DecidableEq, Repr

/-- How tightly an operator binds, as in C: the lower number binds first. -/
def AsmBinary.level : AsmBinary → Nat
  | .mul | .div | .rem => 0
  | .add | .sub => 1
  | .shl | .shr => 2
  | .and => 3
  | .xor => 4
  | .or => 5

/-- An expression: integers, names, and '.', the current address. -/
inductive AsmExpr where
  | int (v : Word)
  | name (n : String)
  | here
  | unary (o : AsmUnary) (e : AsmExpr)
  | binary (o : AsmBinary) (a b : AsmExpr)
  deriving DecidableEq, Repr

/-- An operation on two values, or none where it is an error. -/
def AsmBinary.eval (o : AsmBinary) (a b : Word) : Option Word :=
  match o with
  | .mul => some (a * b)
  | .div => if b = 0 then none else some (a.sdiv b)
  | .rem => if b = 0 then none else some (a.srem b)
  | .add => some (a + b)
  | .sub => some (a - b)
  | .shl => if b.toNat < 64 then some (a <<< b.toNat) else none
  | .shr => if b.toNat < 64 then some (a.sshiftRight b.toNat) else none
  | .and => some (a &&& b)
  | .xor => some (a ^^^ b)
  | .or => some (a ||| b)

/-- An expression's value in 64-bit two's complement, or none where it is an error. -/
def AsmExpr.eval (names : String → Option Word) (here : Word) : AsmExpr → Option Word
  | .int v => some v
  | .name n => names n
  | .here => some here
  | .unary .neg e => (e.eval names here).map (- ·)
  | .unary .not e => (e.eval names here).map (~~~ ·)
  | .binary o a b => do o.eval (← a.eval names here) (← b.eval names here)

/-! ### Convoys (R271) -/

/-- A line of instructions: its word with K = 0, and whether it begins with '+', bears a label, or is none at all but a
directive. -/
inductive AsmLine where
  | word (plus labelled : Bool) (w : BitVec 32)
  | directive
  deriving DecidableEq, Repr

/-- The words that the lines up to here emit, the last of them first, with how many members the open convoy has; none
where the assembler rejects a line. -/
def asmLine (acc : Option (List (BitVec 32) × Nat)) (l : AsmLine) : Option (List (BitVec 32) × Nat) :=
  match acc, l with
  | none, _ => none
  | some (ws, _), .directive => some (ws, 0)
  | some (ws, _), .word false _ w => some (w :: ws, 1)
  | some (_, _), .word true true _ => none
  | some (ws, n), .word true false w =>
    match ws with
    | [] => none
    | v :: rest =>
      if n = 0 || 4 ≤ n || !chainable v || !chainable w then none else some (w :: (v ||| 0x80000000) :: rest, n + 1)

/-- The words that some lines emit: '+' sets K = 1 in the word before it. -/
def asmWords (ls : List AsmLine) : Option (List (BitVec 32)) :=
  (ls.foldl asmLine (some ([], 0))).map fun r => r.1.reverse

/-! ### Suffixes (R273) -/

inductive AsmSuffix where
  | st | z | bc | b | h | w | d | acq | rel | ctx | core | tile | die | mod | sys
  | g (n : Fin 8) | x (n : Fin 4) | t (n : Fin 4) | notify | m | ma
  deriving DecidableEq, Repr

/-- The fields that suffixes set. -/
inductive AsmField where
  | mode | size | isUnsigned | order | scope | stream | channel | notify | mask | maskAgnostic
  deriving DecidableEq, Repr

/-- The field of a suffix and its value. On VLD and VST, .z and .b name modes; on an ordered access .acq is LD_ACQ's op5
and .rel is ST_REL's. -/
def AsmSuffix.sets (vector : Bool) : AsmSuffix → AsmField × Nat
  | .st => (.mode, 1)
  | .z => if vector then (.mode, 2) else (.isUnsigned, 1)
  | .bc => (.mode, 3)
  | .b => if vector then (.mode, 4) else (.size, 0)
  | .h => (.size, 1)
  | .w => (.size, 2)
  | .d => (.size, 3)
  | .acq => (.order, 0)
  | .rel => (.order, 1)
  | .ctx => (.scope, 0)
  | .core => (.scope, 1)
  | .tile => (.scope, 2)
  | .die => (.scope, 3)
  | .mod => (.scope, 4)
  | .sys => (.scope, 5)
  | .g n => (.stream, n.val)
  | .x n => (.channel, n.val)
  | .t n => (.channel, n.val)
  | .notify => (.notify, 1)
  | .m => (.mask, 1)
  | .ma => (.maskAgnostic, 1)

/-- The place of a field's group in R273's order. -/
def AsmField.group : AsmField → Nat
  | .mode => 0
  | .size => 1
  | .isUnsigned => 2
  | .order => 3
  | .scope => 4
  | .stream => 5
  | .channel => 6
  | .notify => 7
  | .mask => 8
  | .maskAgnostic => 9

/-- Suffixes stand in the order of their groups, each group at most once. -/
def suffixesFine (vector : Bool) (l : List AsmSuffix) : Bool :=
  (l.zip (l.drop 1)).all fun e => (e.1.sets vector).1.group < (e.2.sets vector).1.group

/-- What a field holds after the suffixes: the width is .d and the stream .g0 where none is named. -/
def suffixValue (vector : Bool) (l : List AsmSuffix) (f : AsmField) : Nat :=
  match l.find? fun u => (u.sets vector).1 == f with
  | some u => (u.sets vector).2
  | none => if f == .size then 3 else 0

/-! ### Data directives (R274) -/

/-- The kinds of section: .text, .data, .rodata, .bss and .param (R261). -/
inductive AsmSection where
  | text | data | rodata | bss | param
  deriving DecidableEq, Repr

/-- A directive that emits bytes. -/
inductive AsmData where
  | align (n : Nat)
  | ints (bytes : Nat) (vs : List Word)
  | space (n : Nat)
  deriving DecidableEq, Repr

/-- A value fits so many bytes, signed or unsigned. -/
def asmFits (bytes : Nat) (v : Word) : Bool :=
  v.toNat < 2 ^ (8 * bytes) || (-(2 ^ (8 * bytes - 1) : Int) ≤ v.toInt && v.toInt < 2 ^ (8 * bytes - 1))

/-- The padding of n bytes in a section: NOP words in .text, zeros elsewhere. -/
def asmPadding (c : AsmSection) (n : Nat) : List Nat :=
  if c = .text then (List.replicate (n / 4) (natBytes 4 0x4C000050)).flatten else List.replicate n 0

/-- The bytes that a directive emits at an offset of a section, or none where it is an error. -/
def AsmData.bytes (c : AsmSection) (off : Nat) : AsmData → Option (List Nat)
  | .align n =>
    if n = 0 || 65536 < n || 2 ^ n.log2 ≠ n || (c = .text && n < 4) then none
    else some (asmPadding c ((n - off % n) % n))
  | .ints k vs =>
    if c = .bss || !vs.all (asmFits k) then none else some (vs.flatMap fun v => natBytes k v.toNat)
  | .space n => some (List.replicate n 0)

/-! ### Records (R275) -/

/-- The field directives of a record, each with its default. -/
structure AsmRecord where
  extents : List Nat := []
  order : List Nat := [0, 1, 2, 3]
  blocks : List Nat := []
  priority : Nat := 0
  cls : Nat := 0
  lanes : Nat := 0
  bands : Nat := 0
  flags : Nat := 0
  succ : List String := []
  deriving DecidableEq, Repr

/-- A record's fields fit: at most four extents and blocks, and the order is a permutation. -/
def AsmRecord.fine (r : AsmRecord) : Bool :=
  r.extents.length ≤ 4 && r.extents.all (· < 2 ^ 32) && r.blocks.length ≤ 4 && r.blocks.all (· ≤ 31)
    && r.order.length == 4 && (List.range 4).all (fun d => r.order.contains d)
    && [r.priority, r.cls, r.lanes, r.bands, r.flags].all (· < 256)

/-- The byte that holds the walk order, innermost dimension lowest. -/
def AsmRecord.orderByte (r : AsmRecord) : Nat := r.order.foldr (fun d n => d + 4 * n) 0

/-- References to a record among the successors of all records of the object, duplicates counted. -/
def asmReferences (rs : List (String × AsmRecord)) (name : String) : Nat :=
  (rs.map fun e => e.2.succ.count name).sum

/-- The 128 bytes of a record before relocation: the entry PC, the parameter block, the successor list and the save area
are addresses that the loader writes. -/
def AsmRecord.image (r : AsmRecord) (accorder feature references : Nat) : List Nat :=
  List.replicate 16 0 ++ (List.range 4).flatMap (fun d => natBytes 4 (r.extents.getD d 1))
    ++ [r.orderByte] ++ (List.range 4).map (fun d => r.blocks.getD d 0)
    ++ [r.priority, r.cls, r.lanes, r.bands, r.flags, accorder, feature] ++ List.replicate 4 0
    ++ natBytes 4 references ++ natBytes 4 r.succ.length ++ List.replicate 72 0

/-- The offsets of a record that ABS64 relocations fill: the entry, the parameter block if the object has one, and the
successor list if there is any. -/
def AsmRecord.addresses (r : AsmRecord) (hasParam : Bool) : List Nat :=
  [0x00] ++ (if hasParam then [0x08] else []) ++ if r.succ.isEmpty then [] else [0x38]

/-- The dwords of a record's successor list, from where the records stand; a name of no record is an error. -/
def AsmRecord.successors (r : AsmRecord) (addrOf : String → Option Word) : Option (List Word) := r.succ.mapM addrOf

end Sys2Proof.Machine
end

