-- ==== Sys2Proof/Tests/Slice0.lean ====
section
/-! SUPPORT. Tests: words of the spec's encodings, the checks of well-formedness, single steps on small states with
the spec's own worked results, and for every statement with hypotheses states that meet them. -/

namespace Sys2Proof.Tests

set_option Elab.async false

open Sys2Proof.Machine Sys2Proof.Spec

/-- A next state that satisfies a test. -/
def gives (o : Host.Outcome State Fault Refusal) (f : State → Bool) : Bool :=
  match o with
  | .next t => f t
  | _ => false

theorem okOf {ε α : Type} {o : Except ε α} (h : o.toOption.isSome = true) : ∃ p, o = .ok p := by
  cases o with
  | ok p => exact ⟨p, rfl⟩
  | error e => cases h

theorem allOk {ε α β : Type} {l : List (β × Except ε α)} (h : (l.all fun e => e.2.toOption.isSome) = true) :
    ∀ e ∈ l, ∃ p, e.2 = .ok p := fun e he => okOf (List.all_eq_true.mp h e he)

/-! ### Encodings -/

/-- Every word decodes to its instruction, whose word it is. -/
def decodesAll (ws : List (Nat × Instr)) : Bool :=
  ws.all fun e => decodeTableWord 32 e.1 = some e.2 && encodeNat e.2 = some e.1

/-- Words that the spec's entries print as examples. -/
theorem test_decode_printed_scalar_words : decodesAll
    [(0x04117FFD, .addImm 1 2 (-3)), (0x02110C00, .addReg 1 2 3), (0x18449A62, .amoAdd 4 9 6 4 1),
     (0x1A7FFFFE, .b 1 1 1 (-2)), (0x18449A70, .cas 4 9 6 4 1), (0x02308923, .cbitAndn 3 1 2), (0x021100E0, .clz 1 2),
     (0x02118110, .cmpReg 1 3 0 0 0), (0x0E91400A, .cmpImm 2 2 5 0 10), (0x0E91600A, .cmpImm 2 2 5 1 10),
     (0x02110C40, .div 1 2 3 0), (0x02110C48, .div 1 2 3 1), (0x1C000000, .j 0), (0x18360260, .ldAcq 3 12 4 3),
     (0x08110100, .orImm 1 2 0x100), (0x0C110004, .shlImm 1 2 4), (0x0C112004, .shrImm 1 2 4),
     (0x18063661, .stRel 12 13 4 3), (0x0A117FFF, .xorImm 1 2 (-1)), (0x02110C80, .xorReg 1 2 3),
     (0x14360C00, .ld 3 12 0 3 0 0), (0x144281FF, .ld 4 5 0 0 0 (-1)), (0x14111A02, .ld 1 2 1 2 1 2),
     (0x16360C02, .st 3 12 0 3 2), (0x1642A1FF, .st 4 5 2 0 (-1)), (0x16B50800, .st 11 10 0 2 0)] = true := by decide

theorem test_decode_printed_vector_words : decodesAll
    [(0x2C110C02, .vcmpVV 0 1 2 3 0 0 2), (0x3A432000, .vamoAdd 0 4 6 8 0 0 0), (0x30940094, .vbdq 0 9 8 0 0 10),
     (0x30820060, .vbq 0 8 4 0 0 16), (0x3A038048, .vcappIdx 0 7 0 0 2), (0x30428014, .vcvt 0 4 5 0 0 10),
     (0x36C1A008, .vgather 0 12 3 8 0 0 0), (0x3280000A, .viotaRow 0 8 0 0), (0x36821420, .vld 0 8 4 5 0 0 1),
     (0x2C008810, .vmlogAnd 0 0 1 2 0 0), (0x32401801, .vmovSplat 0 4 6 0 0), (0x32428000, .vmov 0 4 5 0 0),
     (0x2A848F02, .vmulVS 0 8 9 3 1 1), (0x2A110C10, .vraddVS 0 1 2 3 0 0), (0x28110C10, .vraddVV 0 1 2 3 0 0),
     (0x34520004, .vred 0 5 4 0 0 2), (0x34520000, .vred 0 5 4 0 0 0), (0x34520001, .vredAll 0 5 4 0 0 0),
     (0x28110C11, .vrsubVV 0 1 2 3 0 0), (0x34520010, .vscan 0 5 4 0 0 0), (0x34520200, .vred 0 5 4 1 0 0),
     (0x34520210, .vscan 0 5 4 1 0 0), (0x38C1A008, .vscatter 0 12 3 8 0 0 0), (0x38820040, .vst 0 8 4 0 0 0 2),
     (0x24110D4E, .vshape 1 2 3 10 1 1 1)] = true := by decide

theorem test_decode_printed_system_words : decodesAll
    [(0x410015D0, .mdrain 0 16 5 1), (0x40448150, .mma 0 4 9 1), (0x46C00300, .recv 12 2), (0x46828100, .send 8 5 2),
     (0x4C000500, .trap 5), (0x429214CC, .xcopy 9 4 5 1 1 6), (0x42048280, .xwait 9 1), (0x4C000010, .eret),
     (0x440402C0, .fence 0x201 3), (0x443FFF00, .fence 0x1FFF 4), (0x44000280, .fence 1 2), (0x4A000020, .fetchb),
     (0x48000000, .tend), (0x48000040, .uiret), (0x48000030, .adj 0)] = true := by decide

/-- `vshape s1, s2, s3, 0x0F` names a reserved type, which VSHAPE itself answers (R302). -/
theorem test_decode_vshape_of_a_reserved_type : decodesAll [(0x24110DE0, .vshape 1 2 3 15 0 0 0)] = true := by decide

theorem test_decode_scalarIntegers : decodesAll
    [(0x03365400, .addReg 19 12 21), (0x053643F1, .addImm 19 12 17393), (0x03365460, .andReg 19 12 21),
     (0x073643F1, .andImm 19 12 17393), (0x03365470, .orReg 19 12 21), (0x093643F1, .orImm 19 12 17393),
     (0x03365480, .xorReg 19 12 21), (0x0B3643F1, .xorImm 19 12 17393), (0x03365410, .sub 19 12 21),
     (0x03365420, .mul 19 12 21), (0x03365438, .mulh 19 12 21 1), (0x03365448, .div 19 12 21 1),
     (0x03365458, .rem 19 12 21 1), (0x03365490, .shlReg 19 12 21), (0x033654A0, .shrReg 19 12 21),
     (0x033654B0, .sraReg 19 12 21), (0x0D360031, .shlImm 19 12 49), (0x0D362031, .shrImm 19 12 49),
     (0x0D364031, .sraImm 19 12 49), (0x033654C8, .min 19 12 21 1), (0x033654D8, .max 19 12 21 1),
     (0x033600E0, .clz 19 12), (0x033600F0, .popc 19 12), (0x03365502, .sel 19 12 21 2),
     (0x0236551D, .cmpReg 3 12 21 1 5), (0x0EED63F1, .cmpImm 3 5 21 1 1009), (0x02321520, .cbitAnd 3 4 5),
     (0x02321521, .cbitOr 3 4 5), (0x02321522, .cbitXor 3 4 5), (0x02321523, .cbitAndn 3 4 5),
     (0x02300124, .cbitSet 3), (0x02300125, .cbitClear 3), (0x02320126, .cbitNot 3 4), (0x02320127, .cbitMove 3 4),
     (0x1135C3F1, .lui 19 377841)] = true := by decide

theorem test_decode_scalarFloating : decodesAll
    [(0x13365408, .fadd 19 12 21 2), (0x13365418, .fsub 19 12 21 2), (0x13365428, .fmul 19 12 21 2),
     (0x13365438, .fma 19 12 21 2), (0x13365448, .fdiv 19 12 21 2), (0x13360054, .fsqrt 19 12 1),
     (0x13365468, .fmin 19 12 21 2), (0x13365478, .fmax 19 12 21 2), (0x12C65489, .fcmp 3 12 21 2 1),
     (0x13365098, .fcvt 19 12 5 2 0)] = true := by decide

theorem test_decode_scalarMemory : decodesAll
    [(0x15365BF1, .ld 19 12 5 2 1 497), (0x173659F1, .st 19 12 5 2 497), (0x19360240, .ldAcq 19 12 4 2),
     (0x1809B241, .stRel 19 12 4 2), (0x19365662, .amoAdd 19 12 21 4 1), (0x19365663, .amoAnd 19 12 21 4 1),
     (0x19365664, .amoOr 19 12 21 4 1), (0x19365665, .amoXor 19 12 21 4 1), (0x19365666, .amoMin 19 12 21 4 1),
     (0x19365667, .amoMax 19 12 21 4 1), (0x19365668, .amoMinZ 19 12 21 4 1), (0x19365669, .amoMaxZ 19 12 21 4 1),
     (0x1936566A, .amoSwap 19 12 21 4 1), (0x1936566B, .amoFadd 19 12 21 4 1), (0x19365670, .cas 19 12 21 4 1)] = true := by decide

theorem test_decode_transfers : decodesAll
    [(0x1AF5C3F1, .b 3 1 1 377841), (0x1DA5C3F1, .j 27640817), (0x1FA5C3F1, .jal 27640817), (0x20098000, .jr 19),
     (0x20098001, .jrLink 19), (0x20000010, .ret), (0x220FC7F1, .loop 0 1009 1009),
     (0x2536574E, .vshape 19 12 21 26 1 1 1), (0x26000000, .vrel)] = true := by decide

theorem test_decode_vectorArithmetic : decodesAll
    [(0xA8CAEB00, .vaddVV 1 12 21 26 1 1), (0xAACAEB00, .vaddVS 1 12 21 26 1 1),
     (0xA8CAEB01, .vsubVV 1 12 21 26 1 1), (0xAACAEB01, .vsubVS 1 12 21 26 1 1),
     (0xA8CAEB02, .vmulVV 1 12 21 26 1 1), (0xAACAEB02, .vmulVS 1 12 21 26 1 1),
     (0xA8CAEB03, .vmaVV 1 12 21 26 1 1), (0xAACAEB03, .vmaVS 1 12 21 26 1 1),
     (0xA8CAEB04, .vdivVV 1 12 21 26 1 1), (0xAACAEB04, .vdivVS 1 12 21 26 1 1),
     (0xA8CAEB05, .vminVV 1 12 21 26 1 1), (0xAACAEB05, .vminVS 1 12 21 26 1 1),
     (0xA8CAEB06, .vmaxVV 1 12 21 26 1 1), (0xAACAEB06, .vmaxVS 1 12 21 26 1 1),
     (0xA8CAEB07, .vmulhVV 1 12 21 26 1 1), (0xAACAEB07, .vmulhVS 1 12 21 26 1 1),
     (0xA8CAEB08, .vandVV 1 12 21 26 1 1), (0xAACAEB08, .vandVS 1 12 21 26 1 1),
     (0xA8CAEB09, .vorVV 1 12 21 26 1 1), (0xAACAEB09, .vorVS 1 12 21 26 1 1),
     (0xA8CAEB0A, .vxorVV 1 12 21 26 1 1), (0xAACAEB0A, .vxorVS 1 12 21 26 1 1),
     (0xA8CAEB0B, .vshlVV 1 12 21 26 1 1), (0xAACAEB0B, .vshlVS 1 12 21 26 1 1),
     (0xA8CAEB0C, .vshrVV 1 12 21 26 1 1), (0xAACAEB0C, .vshrVS 1 12 21 26 1 1),
     (0xA8CAEB0D, .vsraVV 1 12 21 26 1 1), (0xAACAEB0D, .vsraVS 1 12 21 26 1 1),
     (0xA8CAEB0E, .vsaddVV 1 12 21 26 1 1), (0xAACAEB0E, .vsaddVS 1 12 21 26 1 1),
     (0xA8CAEB0F, .vssubVV 1 12 21 26 1 1), (0xAACAEB0F, .vssubVS 1 12 21 26 1 1),
     (0xA8CAEB10, .vraddVV 1 12 21 26 1 1), (0xAACAEB10, .vraddVS 1 12 21 26 1 1),
     (0xA8CAEB11, .vrsubVV 1 12 21 26 1 1), (0xAACAEB11, .vrsubVS 1 12 21 26 1 1)] = true := by decide

theorem test_decode_vectorSigns : decodesAll
    [(0xA8CA8312, .vsqrt 1 12 21 1 1), (0xA8CA8313, .vexp2 1 12 21 1 1), (0xA8CAEB14, .vsgnCopyVV 1 12 21 26 1 1),
     (0xAACAEB14, .vsgnCopyVS 1 12 21 26 1 1), (0xA8CAEB15, .vsgnNegVV 1 12 21 26 1 1),
     (0xAACAEB15, .vsgnNegVS 1 12 21 26 1 1), (0xA8CAEB16, .vsgnXorVV 1 12 21 26 1 1),
     (0xAACAEB16, .vsgnXorVS 1 12 21 26 1 1), (0xA8CA8317, .vsgnAbs 1 12 21 1 1)] = true := by decide

theorem test_decode_masks : decodesAll
    [(0xACCAEB05, .vcmpVV 1 12 21 26 1 1 5), (0xAECAEB05, .vcmpVS 1 12 21 26 1 1 5),
     (0xACCAEB10, .vmlogAnd 1 12 21 26 1 1), (0xACCAEB11, .vmlogOr 1 12 21 26 1 1),
     (0xACCAEB12, .vmlogXor 1 12 21 26 1 1), (0xACCAEB13, .vmlogAndn 1 12 21 26 1 1),
     (0xACCAEB14, .vmlogOrn 1 12 21 26 1 1), (0xACCA8315, .vmlogNot 1 12 21 1 1), (0xACC00316, .vmlogSet 1 12 1 1),
     (0xACC00317, .vmlogClear 1 12 1 1), (0xACCA8320, .vmpop 1 12 21 1 1), (0xACCA8330, .vmfirst 1 12 21 1 1),
     (0xAC4A8340, .vmtocAny 1 4 21 1 1), (0xAC4A8341, .vmtocAll 1 4 21 1 1), (0xAC4A8342, .vmtocNone 1 4 21 1 1)] = true := by decide

theorem test_decode_vectorMoves : decodesAll
    [(0xB0CA8316, .vcvt 1 12 21 1 1 11), (0xB0CA8360, .vbq 1 12 21 1 1 16), (0xB0CA8384, .vbdq 1 12 21 1 1 2),
     (0xB2CA8300, .vmov 1 12 21 1 1), (0xB2C05701, .vmovSplat 1 12 21 1 1), (0xB2CAEB02, .vpermRow 1 12 21 26 1 1),
     (0xB2CAEB03, .vpermCol 1 12 21 26 1 1), (0xB2CAEB04, .vslideUp 1 12 21 26 1 1),
     (0xB2CAEB05, .vslideDown 1 12 21 26 1 1), (0xB2CA8306, .vxpose 1 12 21 1 1), (0xB2CAE807, .vext 1 12 21 26),
     (0xB2CAE808, .vins 1 12 21 26), (0xB2C00309, .viota 1 12 1 1), (0xB2C0030A, .viotaRow 1 12 1 1),
     (0xB2C0030B, .viotaCol 1 12 1 1), (0xB4CA8308, .vred 1 12 21 1 1 4), (0xB4CA830B, .vredAll 1 12 21 1 1 5),
     (0xB4CA8312, .vscan 1 12 21 1 1 1)] = true := by decide

theorem test_decode_vectorMemory : decodesAll
    [(0xB6CAEBA0, .vld 1 12 21 26 1 1 5), (0xB6CAEBA1, .vldSt 1 12 21 26 1 1 5),
     (0xB6CAEBA2, .vldZ 1 12 21 26 1 1 5), (0xB6CA83C3, .vldBc 1 12 21 1 1 6),
     (0xB6CAEBA4, .vldB 1 12 21 26 1 1 5), (0xB6CAEBA8, .vgather 1 12 21 26 1 1 5),
     (0xB8CAEBA0, .vst 1 12 21 26 1 1 5), (0xB8CAEBA1, .vstSt 1 12 21 26 1 1 5),
     (0xB8CAEBA2, .vstZ 1 12 21 26 1 1 5), (0xB8CA83C3, .vstBc 1 12 21 1 1 6),
     (0xB8CAEBA4, .vstB 1 12 21 26 1 1 5), (0xB8CAEBA8, .vscatter 1 12 21 26 1 1 5),
     (0xBACAEBA0, .vamoAdd 1 12 21 26 1 1 5), (0xBACAEBA1, .vamoMin 1 12 21 26 1 1 5),
     (0xBACAEBA2, .vamoMax 1 12 21 26 1 1 5), (0xBACAEBA3, .vamoAnd 1 12 21 26 1 1 5),
     (0xBACAEBA4, .vamoOr 1 12 21 26 1 1 5), (0xBACAEBA5, .vamoXor 1 12 21 26 1 1 5),
     (0xBACAEBA6, .vamoSwap 1 12 21 26 1 1 5), (0xBACAEBA7, .vamoFadd 1 12 21 26 1 1 5),
     (0xBA060328, .vcappIdx 1 12 1 1 1), (0xBACA83C9, .vcappVal 1 12 21 1 1 6)] = true := by decide

theorem test_decode_matrix : decodesAll
    [(0x41300003, .matt 19 3), (0x40000040, .mdet), (0x41300080, .mclaim 19), (0x400980C0, .mrel 19),
     (0xC0065500, .mldb 1 12 21), (0xC0CA8160, .mma 1 12 21 2), (0xC0000180, .mzero 1 0),
     (0xC0C055E0, .mdrain 1 12 21 2)] = true := by decide

theorem test_decode_engines : decodesAll
    [(0x4336554C, .xcopy 19 12 21 2 1 6), (0x42098200, .xwait 19 0), (0x4407E300, .fence 1009 4),
     (0x47360080, .send 19 12 1), (0x47300200, .recv 19 0)] = true := by decide

theorem test_decode_tasksAndSystem : decodesAll
    [(0x48000000, .tend), (0x49300010, .gspawn 19), (0x49300020, .gsig 19), (0x48000033, .adj 3),
     (0x48000040, .uiret), (0x4B33F100, .dcwb 19 1009), (0x4B33F110, .iinv 19 1009), (0x4A000020, .fetchb),
     (0x4B33F130, .pref 19 1009), (0x4C03F100, .trap 1009), (0x4C000010, .eret), (0x4D33F120, .mfs 19 1009),
     (0x4D33F130, .mts 19 1009), (0x4C000040, .wait), (0x4C000050, .nop), (0x4D300060, .csave 19),
     (0x4D300070, .cload 19), (0x4D300080, .tlbinv 19 0)] = true := by decide
/-- Words of no row, with a reserved field, or with a field that must be zero: trap 0x01 (R294). -/
theorem test_decode_refuses : ([0x00000000, 0xFFFFFFFF, 0x7E000000, 0x4C000051, 0x82110C00, 0x021104E0, 0x02118116,
    0x20000003, 0x40400800, 0x44000380] : List Nat).all (fun w => decodeTableWord 32 w = none) = true := by decide

/-! ### Well-formedness: each check refuses an ill-formed term, and takes its neighbour -/

theorem test_wf_words_refuses :
    ([.cmpReg 1 2 3 0 6, .cmpImm 1 7 2 0 0, .fcvt 1 2 0 0 3, .fcvt 1 2 4 0 1, .fcvt 1 2 0 1 2, .ld 1 2 0 3 1 0,
      .ldAcq 1 2 6 0, .stRel 1 2 7 0, .amoAdd 1 2 3 6 0, .amoAnd 1 2 3 6 0, .amoOr 1 2 3 6 0, .amoXor 1 2 3 6 0,
      .amoMin 1 2 3 6 0, .amoMax 1 2 3 6 0, .amoMinZ 1 2 3 6 0, .amoMaxZ 1 2 3 7 0, .amoSwap 1 2 3 7 0,
      .amoFadd 1 2 3 7 0, .cas 1 2 3 7 0, .loop 1 1 1, .loop 0 1 0, .vcvt 0 1 2 0 0 15, .vbq 0 1 2 0 0 19,
      .vbdq 0 1 2 0 0 31, .vred 0 1 2 0 0 6, .vredAll 0 1 2 0 0 7, .vscan 0 1 2 0 0 6, .matt 1 0, .matt 1 5,
      .fence 1 6] : List Instr).all (fun i => !i.wf) = true := by decide

theorem test_wf_words_takes :
    ([.cmpReg 1 2 3 0 5, .cmpImm 1 0 2 0 0, .fcvt 1 2 7 3 0, .fcvt 1 2 3 0 1, .ld 1 2 0 3 0 0, .ld 1 2 0 2 1 0,
      .ldAcq 1 2 5 0, .stRel 1 2 5 0, .amoAdd 1 2 3 5 0, .cas 1 2 3 0 1, .loop 1 0 1, .loop 0 1 1023,
      .vcvt 0 1 2 0 0 14, .vbq 0 1 2 0 0 18, .vred 0 1 2 0 0 5, .matt 1 1, .matt 1 4, .fence 0 5, .nop] :
      List Instr).all (fun i => i.wf) = true := by decide

theorem test_wf_events_refuses :
    ([.convoyFetch 768, .bufferedWritePerform 768 0, .vshapeLaneGrant 768, .fenceWaitEnd 768, .tendWaitEnd 768,
      .tlbinvComplete 768, .iinvComplete 768, .dcwbComplete 768, .xwaitRetire 768, .xcopyEnqueue 768,
      .copyCommandStart 768 0 1, .copyCommandStart 0 4 1, .copyCommandComplete 0 4 1, .vcappThresholdNotify 768 0,
      .grantReply 768 true, .messageArrival 768 0, .messageArrival 0 4, .recvSlotFull 768, .waitWake 768,
      .userInterruptTake 768, .queuedTrap 768, .checkerMismatch 768, .uncorrectableError 768 true true true,
      .preemptwinExpiry 768, .wholeSaveDone 768, .cloadLaneGrant 768, .launchWrite 0 8 0, .launchWrite 4 8 0,
      .taskEndByMill 768, .taskStart 768, .spawnRequest 768, .signalRequest 768] : List Instr).all
      (fun i => !i.wf) = true := by decide

theorem test_wf_module_events_refuses :
    ([.adjunctRequest 24 1 true, .adjunctRequest 0 0 true, .adjunctRequest 0 4 true, .throttleDown 24, .throttleUp 24,
      .stringFloor 24, .flitRetransmit 48, .portDown 48, .pageMigration 768 0 0 0, .semaRead 0, .semaWrite 4 0,
      .registerWrite 0 0 8 0, .resetGo 4, .atflushGo 0, .keycmdLoad 1 4096, .keycmdEmpty 0 1, .meascmdExtend 1 16,
      .qcmdGo 4, .partszWrite 1 2 0, .strcapWrite 1 2 0, .strpwrWrite 0 0 0, .stringPowered 24, .stringUnpowered 24,
      .pcieLinkDown 0, .pcieLinkDown 3, .meshUncorrectableError 2 0, .meshUncorrectableError 0 4,
      .planeDeathLearned 4, .unheldWritePerform 768 0, .taskEndedByRuntime 768] : List Instr).all
      (fun i => !i.wf) = true := by decide

theorem test_wf_events_takes :
    ([.convoyFetch 767, .copyCommandStart 767 3 1, .messageArrival 767 3, .launchWrite 1 8 0, .launchWrite 3 8 0,
      .adjunctRequest 23 1 true, .adjunctRequest 0 3 false, .portDown 47, .keycmdLoad 3 4095, .meascmdExtend 1 15,
      .partszWrite 1 1 0, .pcieLinkDown 1, .pcieLinkDown 2, .meshUncorrectableError 1 3, .planeDeathLearned 3,
      .moultRemap] : List Instr).all (fun i => i.wf) = true := by decide

/-! ### States for the tests -/

/-- A context that holds a task and executes in its core's TCM. -/
def tcmContext : Context :=
  { Context.reset with
    pc := 0x007F000000000000, task := some { launch := 0, rcd := 0, prio := 0, weight := 0 }
    trap := { TrapRegs.reset with vec := 0x007F000000010000, task := true } }

/-- A module in which context 0 is as given, and nothing else has happened. -/
def one (x : Context) : State := { State.reset with ctxs := [(0, x)] }

/-- The context with scalar registers set. -/
def withRegs (x : Context) (rs : List (BitVec 5 × Word)) : Context := rs.foldl (fun y e => y.setReg e.1 e.2) x

/-- The first word of the core's TCM. -/
def tcm : Word := 0x007F000000000000

/-- The host block with MSI-X on at both ports. -/
def heard : HostBlk := { HostBlk.reset with ports := Vector.replicate 2 { on := true, allMasked := false, mask := 0, pend := 0 } }

/-- Where the byte n of the TCM of core 0 lies. -/
def tcmAt (n : Nat) : Place := { loc := tcmPlace 0 n, key := 0, enc := false, cls := .uncounted, page := none }

/-! ### Steps: the word at the pc is fetched and run -/

theorem test_step_from_reset : gives (step (State.reset.withFetchWord 32 0x04307FFF))
    (fun t => t.cx.reg 3 == -1 && t.cx.pc == tcm + 4 && t.cx.cvy.isNone) = true := by decide

/-- s0 reads as zero, and a write to it is discarded (R63). -/
theorem test_step_discards_s0 : gives (step (State.reset.withFetchWord 32 0x04007FFF))
    (fun t => t.cx.reg 0 == 0 && t.cx.pc == tcm + 4) = true := by decide

/-- A word of no row raises trap 0x01 with the word (R294). -/
theorem test_step_illegal_word : gives (step (State.reset.withFetchWord 32 0x4C000051))
    (fun t => t.cx.trap.cause == 1 && t.cx.trap.val == 0x4C000051 && t.cx.trap.epc == tcm && t.cx.sup) = true := by decide

/-- ERET at user level raises trap 0x11 (R214). -/
theorem test_step_privileged_word : gives (step (State.reset.withFetchWord 32 0x4C000010))
    (fun t => t.cx.trap.cause == 0x11 && t.cx.sup && !t.cx.trap.pp) = true := by decide

/-- A context's turn, with an instruction word in the TCM, on the environment's move and on the machine's own. -/
def fetching : State :=
  { one tcmContext with mem := memWriteN [] (tcmPlace 0 0) (bytesOfNat 4 0x04307FFF), inputs := [.run 0] }

/-- The state in which the word is fetched. -/
def turned : State := { fetching with inputs := [], tick := 1 }

theorem test_witness_turn_of_the_environment : Turn fetching 0 turned := ⟨fun _ => rfl, .inl ⟨[], rfl, rfl⟩⟩

theorem test_witness_turn_of_the_machine : Turn { fetching with inputs := [], host := { HostBlk.reset with booted := true } }
    0 { turned with fromContext := true, host := { HostBlk.reset with booted := true } } :=
  ⟨fun _ => rfl, .inr ⟨rfl, by decide, .inl rfl, rfl⟩⟩

theorem test_witness_fetch : mayIssue turned = true ∧ turned.cx.qfault = none ∧ interruptReady turned 0 = false ∧
    turned.cx.cvy = none ∧ turned.cx.queue = [] ∧ turned.cx.held = [] ∧ turned.cx.pend = [] ∧
    wordsUnder 0 turned.stale (tcmPlace 0 0) = [] ∧ checksMayRead [0x04307FFF] turned = true ∧
    wordsUnder 0 turned.cx.fetched (tcmPlace 0 0) = [] ∧ wordsUnder 0 (turned.coreAt (coreOf 0)).icache (tcmPlace 0 0) = [] ∧
    littleEndian (touch turned (turned.cx.acc 0) .fetch (tcmAt 0)).mem (tcmPlace 0 0) 4 = 0x04307FFF ∧ decode 0x04307FFF = .ok (.addImm 3 0 0x7FFF) ∧
    kBit 0x04307FFF = false := by decide

theorem test_witness_fetch_place :
    resolve turned (turned.cx.acc 0) .fetch turned.cx.pc.toNat = .ok (tcmAt 0) := by decide +kernel

theorem test_witness_fetch_checks : ∃ f,
    passChecks (keepCode (touch turned (turned.cx.acc 0) .fetch (tcmAt 0)) 0 (tcmAt 0) 0x04307FFF) turned.cx.pc
      [0x04307FFF] = .ok f := okOf (by decide +kernel)

/-- No plane is left, and the context's next word lies outside the tile: nothing issues. -/
theorem test_witness_no_issue : mayIssue { turned with fab := { Fabric.reset with undealt := 1 }, ctxs := [(0, { tcmContext with
    saving := true })] } = false := by decide

/-- A convoy at its first and at its last member. -/
def chained (i : Nat) : State :=
  one { tcmContext with
    cvy := some { start := tcm, words := [0xB2800009, 0x32900009], next := tcm + 8, idx := i, loops0 := [], regs := none, ctl := none
                  index := [], passed := false }
    lanes := 1, vrows := 2, vcols := 2, vtype := { ill := false, glog := 0, ta := false, ix := false, etype := 2 } }

theorem test_witness_members : ((chained 0).cx.nextWord = some 0xB2800009 ∧ decode 0xB2800009 = .ok (.viota 1 8 0 0)) ∧
    ((chained 1).cx.nextWord = some 0x32900009 ∧ decode 0x32900009 = .ok (.viota 0 9 0 0)) ∧
    membersCheck [0xB2800009, 0x32900009] (chained 0) = none ∧ mayIssue (chained 0) = true ∧
    (membersCheck [0xB2800009] (one { (chained 0).cx with vtype := { (chained 0).cx.vtype with ill := true } })).isSome = true := by
  decide +kernel

/-- The convoy stands in the queue of a dump that ERET reloaded. -/
theorem test_witness_queued_convoy : ∃ v, (one { tcmContext with queue := [v] }).cx.queue = v :: [] ∧
    (one { tcmContext with queue := [v] }).cx.cvy = none ∧ v.idx < v.words.length ∧ v.regs = none :=
  ⟨{ start := tcm, words := [0xB2800009, 0x32900009], next := tcm + 8, idx := 0, loops0 := [], regs := none, ctl := none, index := [], passed := false },
    rfl, rfl, by decide, rfl⟩

/-- Both members of a convoy run in one step, and the convoy retires. -/
theorem test_convoy_runs : gives (step { chained 0 with inputs := [.run 0] }) (fun t =>
    t.cx.elem 8 32 1 1 == 3 && t.cx.elem 9 32 1 0 == 2 && t.cx.pc == tcm + 8 && t.cx.cvy.isNone) = true := by decide +kernel

theorem test_witness_restart_beyond : ∃ v, (chained 2).cx.cvy = some v ∧ v.words.length ≤ v.idx :=
  ⟨_, rfl, by decide⟩

/-- A context whose cause 1 is pending and enabled. -/
def interrupted : State := one { tcmContext with ui := { UserInt.reset with vec := tcm + 64, en := 1, pend := 1 } }

theorem test_witness_interrupt : mayIssue interrupted = true ∧ interrupted.cx.qfault = none ∧
    interruptReady interrupted 0 = true := by decide

theorem test_witness_event_inputs : (∃ rest, { State.reset with inputs := [.event .bootRom] }.inputs = .event .bootRom :: rest) ∧
    State.reset.host.entry = [] ∧ encodeNat .bootRom = none ∧ nextEvent State.reset = some .bootRom ∧
    nextContext State.reset = none := ⟨⟨[], rfl⟩, rfl, by decide, by decide, by decide⟩

/-- A register write, a BAR2 read and a BAR2 write that waited at their entry. -/
theorem test_witness_entries : (∀ mv ∈ [Move.registerWrite 1 0x10 8 0x300, .bar2Read 0x40 8, .bar2Write 0x40 8 5],
      { State.reset with host := { HostBlk.reset with entry := [mv] } }.flows = true ∧
      { State.reset with host := { HostBlk.reset with entry := [mv] } }.host.entry = mv :: []) ∧
    gives (step { State.reset with host := { HostBlk.reset with entry := [.bar2Write 0x40 1 5] } }) (fun t =>
      t.mem == [(0x40, 5)] && t.host.entry.isEmpty) = true := by decide +kernel

/-! ### The forms that every step keeps -/

theorem test_witness_memory_form : State.Inv fetching ∧ ∃ t, step fetching = .next t := by
  refine ⟨by unfold State.Inv; decide, ?_⟩
  exact (by decide : gives (step fetching) (fun _ => true) = true) |> fun h => by
    unfold gives at h; split at h
    · exact ⟨_, ‹_›⟩
    · cases h

theorem test_witness_rows : Rows32 State.reset := fun c => by
  show (tabGet .reset [] c : Context).vrows ≤ 32 ∧ _
  exact ⟨Nat.zero_le _, Nat.zero_le _⟩

theorem test_witness_user_word : (encodeNat (.trap 5)).isSome = true ∧ (one tcmContext).cx.sup = false ∧
    gives (exec (.trap 5) (one tcmContext)) (fun t => t.cx.sup && t.cx.pc == tcmContext.trap.vec && t.cx.trap.inh) = true := by
  decide

theorem test_witness_privileged_fetch : (one tcmContext).cx.loops = [] ∧ decode 0x4C000010 = .ok .eret ∧
    ∃ e, decode 0x4C000051 = .error e := ⟨rfl, by decide, .noRow, by decide⟩

/-- An ill-formed and a well-formed instruction with words: the round trip asks for the second. -/
theorem test_witness_round_trip : (Instr.vred 1 31 30 1 1 5).wf = true ∧
    encodeNat (.vred 1 31 30 1 1 5) = some (0x34000000 + 2 ^ 31 + 31 * 2 ^ 20 + 30 * 2 ^ 15 + 2 ^ 9 + 2 ^ 8 + 5 * 2) := by
  decide

/-! ### Scalar integers: the spec's worked results -/

/-- The value of register 3 after an instruction with s1 and s2 as given. -/
def result (i : Instr) (a b : Int) : Option Word :=
  match exec i (one (withRegs tcmContext [(1, .ofInt 64 a), (2, .ofInt 64 b)])) with
  | .next t => some (t.cx.reg 3)
  | _ => none

/-- The table of R328. -/
theorem test_div_table : [(7, -2), (-7, 2), (5, 0), (-2 ^ 63, -1)].map (fun e => result (.div 3 1 2 0) e.1 e.2) =
    [some (.ofInt 64 (-3)), some (.ofInt 64 (-3)), some (.ofInt 64 (-1)), some (.ofInt 64 (-2 ^ 63))] := by decide

theorem test_div_table_unsigned :
    [(7, -2), (-7, 2), (5, 0), (-2 ^ 63, -1)].map (fun e => result (.div 3 1 2 1) e.1 e.2) =
    [some 0, some 0x7FFFFFFFFFFFFFFC, some 0xFFFFFFFFFFFFFFFF, some 0] := by decide

/-- The examples of R326. -/
theorem test_clz_examples : [1, -2 ^ 63, 0].map (fun a => result (.clz 3 1) a 0) = [some 63, some 0, some 64] := by decide

/-- A register that is both source and destination is read before it is written. -/
theorem test_add_to_itself : gives (exec (.addReg 1 1 1) (one (withRegs tcmContext [(1, 5)]))) (fun t => t.cx.reg 1 == 10) = true := by
  decide

theorem test_mulh_signs : [(-1, -1), (-2 ^ 63, 2)].map (fun e => result (.mulh 3 1 2 0) e.1 e.2) = [some 0, some (.ofInt 64 (-1))] ∧
    [(-1, -1), (-2 ^ 63, 2)].map (fun e => result (.mulh 3 1 2 1) e.1 e.2) = [some (.ofInt 64 (-2)), some 1] := by decide

/-- R99: the remainder has the dividend's sign; by zero it is the dividend. -/
theorem test_rem_signs : [(-7, 2), (7, -2), (7, 0), (-2 ^ 63, -1)].map (fun e => result (.rem 3 1 2 0) e.1 e.2) =
    [some (.ofInt 64 (-1)), some 1, some 7, some 0] := by decide

theorem test_shift_amounts : result (.shlReg 3 1 2) 1 65 = some 2 ∧ result (.sraReg 3 1 2) (-8) 1 = some (.ofInt 64 (-4)) ∧
    result (.shrImm 3 1 63) (-1) 0 = some 1 := by decide

/-- c7 reads as 1, also after a comparison that fails is written to it (R63). -/
theorem test_cmp_to_c7 : gives (exec (.cmpReg 7 1 2 0 0) (one (withRegs tcmContext [(1, 5)])))
    (fun t => t.cx.cond 7 && t.cx.conds == 0) = true := by decide

theorem test_cmp_signedness : gives (exec (.cmpImm 2 2 1 0 10) (one (withRegs tcmContext [(1, -1)]))) (·.cx.cond 2) = true ∧
    gives (exec (.cmpImm 2 2 1 1 10) (one (withRegs tcmContext [(1, -1)]))) (!·.cx.cond 2) = true := by decide

/-! ### Scalar floating point -/

def f64s (a b : Nat) : State := one (withRegs tcmContext [(1, .ofNat 64 a), (2, .ofNat 64 b)])

/-- 1 + 2 is 3, and 1 / 3 is inexact. -/
theorem test_fadd_fdiv : gives (exec (.fadd 3 1 2 0) (f64s 0x3FF0000000000000 0x4000000000000000))
      (fun t => t.cx.reg 3 == 0x4008000000000000 && t.cx.fp.flags == 0) = true ∧
    gives (exec (.fdiv 3 1 2 0) (f64s 0x3FF0000000000000 0x4008000000000000))
      (fun t => t.cx.reg 3 == 0x3FD5555555555555 && t.cx.fp.flags == flagNX) = true := by decide +kernel

/-- The operands that the clauses on invalid operations and zeros speak of: two NaNs of which one signals, two
infinities, a zero and an infinity, two zeros, a value and a zero, a negative value, and −0. -/
theorem test_witness_invalid_operations :
    ((source (f64s 0x7FF0000000000001 0x7FF8000000000000) 0 1).val = .nan ∧
      (source (f64s 0x7FF0000000000001 0x7FF8000000000000) 0 1).snan = true ∧
      (source (f64s 0x7FF0000000000001 0x7FF8000000000000) 0 2).snan = false) ∧
    ((source (f64s 0xFFF0000000000000 0xFFF0000000000000) 0 1).val = .inf true ∧
      (source (f64s 0xFFF0000000000000 0xFFF0000000000000) 0 2).val = .inf true) ∧
    ((∃ k e, (source (f64s 0x8000000000000000 0x7FF0000000000000) 0 1).val = .fin true 0 k e) ∧
      (source (f64s 0x8000000000000000 0x7FF0000000000000) 0 2).val = .inf false) ∧
    (∃ n k e, n ≠ 0 ∧ (source (f64s 0xBFF0000000000000 0) 0 1).val = .fin true n k e) ∧
    ∃ k e, (source (f64s 0xBFF0000000000000 0) 0 2).val = .fin false 0 k e :=
  ⟨by decide, by decide, ⟨⟨_, _, rfl⟩, by decide⟩, ⟨_, _, _, by decide, rfl⟩, ⟨_, _, rfl⟩⟩

theorem test_witness_minimum_operands :
    (∃ n k e, n ≠ 0 ∧ (source (f64s 0x7FF8000000000000 0x3FF0000000000000) 0 2).val = .fin false n k e) ∧
    gives (exec (.fmin 3 1 2 0) (f64s 0x8000000000000000 0)) (fun t => t.cx.reg 3 == 0x8000000000000000) = true ∧
    gives (exec (.fmax 3 1 2 0) (f64s 0x7FF8000000000000 0x3FF0000000000000)) (fun t => t.cx.reg 3 == 0x3FF0000000000000) = true :=
  ⟨⟨_, _, _, by decide, rfl⟩, by decide, by decide⟩

/-- To an integer, a NaN and both infinities (R335). -/
theorem test_fcvt_invalid : fcvtDefined 4 0 0 = true ∧ fcvtDefined 7 0 0 = true ∧
    gives (exec (.fcvt 3 1 4 0 0) (f64s 0x7FF8000000000000 0)) (fun t => t.cx.reg 3 == 0 && t.cx.fp.flags == flagNV) = true ∧
    gives (exec (.fcvt 3 1 6 0 0) (f64s 0xFFF0000000000000 0))
      (fun t => t.cx.reg 3 == 0xFFFFFFFF80000000 && t.cx.fp.flags == flagNV) = true := by decide

/-! ### Scalar memory -/

/-- A context with data in its TCM: the bytes 1 to 8 at 0x40, and registers that name them. -/
def memState : State :=
  { one (withRegs tcmContext [(1, tcm + 0x40), (2, 0x8877665544332281), (3, tcm + 0x41)]) with
    mem := memWriteN [] (tcmPlace 0 0x40) (valBytes 8 0x8807060504030281) }

theorem test_witness_load : Lands memState .load (offsetAddress memState 1 0 3) 3 (tcmAt 0x40) ∧
    Lands memState .load (memState.cx.reg 1) 3 (tcmAt 0x40) ∧ readsPoison memState memState.cx (tcmAt 0x40) 8 = false ∧
    (∀ w ∈ memState.cx.pend ++ memState.cx.held, w.loc / 64 ≠ (tcmAt 0x40).loc / 64) :=
  ⟨⟨by decide, by decide +kernel⟩, ⟨by decide, by decide +kernel⟩, by decide, by decide⟩

theorem test_ld_extends : gives (exec (.ld 4 1 0 0 0 0) memState) (fun t => t.cx.reg 4 == 0xFFFFFFFFFFFFFF81) = true ∧
    gives (exec (.ld 4 1 0 0 1 0) memState) (fun t => t.cx.reg 4 == 0x81) = true ∧
    gives (exec (.ld 4 1 0 1 0 3) memState) (fun t => t.cx.reg 4 == 0xFFFFFFFFFFFF8807) = true := by decide +kernel

theorem test_witness_store : Lands memState .store (offsetAddress memState 1 (-1) 3) 3 (tcmAt 0x38) ∧
    memState.cx.heldBytes + 8 < 131072 := ⟨⟨by decide, by decide +kernel⟩, by decide⟩

/-- A context whose held writes fill the strip store buffer up to a number of bytes. -/
def fullBuffer (n : Nat) : State :=
  one { withRegs tcmContext [(1, tcm + 0x40)] with
    held := [{ strm := 0, loose := false, loc := tcmPlace 0 0, key := 0, enc := false, bytes := List.replicate n 0, nib := none
               cls := .uncounted, acc := none, pin := false }] }

theorem test_witness_full_buffers : Lands (fullBuffer 7) .store (offsetAddress (fullBuffer 7) 1 0 3) 3 (tcmAt 0x40) ∧
    (fullBuffer 131063).cx.heldBytes + 8 < 131072 ∧ (fullBuffer 131064).cx.heldBytes + 8 = 131072 ∧
    131072 < (fullBuffer 131065).cx.heldBytes + 8 := by
  have h (n : Nat) : (fullBuffer n).cx.heldBytes = n := by
    show 0 + (List.replicate n (0 : Byte)).length = n
    simp
  simp only [h]
  exact ⟨⟨by decide, by decide +kernel⟩, by decide, by decide, by decide⟩

theorem test_own_store_is_seen : gives (exec (.st 2 1 0 3 0) memState) (fun t => t.cx.held.length == 1 &&
    memRead t.mem (tcmPlace 0 0x40) == 0x81 && gives (exec (.ld 4 1 3 3 1 0) t) (fun r => r.cx.reg 4 == 0x8877665544332281)) = true := by
  decide +kernel

theorem test_witness_own_store : Memory.wf memState.mem = true ∧ (tcmAt 0x40).page = none ∧
    gives (exec (.st 2 1 0 3 0) memState) (fun t =>
      t.poison.isEmpty && (reach t (t.cx.acc t.cur) .load (offsetAddress t 1 0 3).toNat).toOption == some (tcmAt 0x40)) = true := by
  decide +kernel

/-- A misaligned address, and one that no window and no page holds. -/
theorem test_witness_refused_accesses : (memState.cx.reg 3).toNat % 8 ≠ 0 ∧ (memState.cx.reg 0).toNat % 8 = 0 ∧
    reach memState (memState.cx.acc 0) .load 0 = .error 0x06 ∧
    gives (exec (.ld 4 3 0 3 0 0) memState) (fun t => t.cx.trap.cause == 4 && t.cx.trap.val == tcm + 0x41) = true := by
  decide +kernel

theorem test_witness_quiet : Quiet memState ∧ Lands memState .store (memState.cx.reg 1) 3 (tcmAt 0x40) ∧
    Lands memState .atomic (memState.cx.reg 1) 3 (tcmAt 0x40) ∧ memState.launch memState.cx.launchNo = none ∧
    (tcmAt 0x40).cls = .uncounted := by
  refine ⟨?_, ⟨by decide, by decide +kernel⟩, ⟨by decide, by decide +kernel⟩, by decide, rfl⟩
  unfold Quiet; decide

theorem test_release_posts : gives (exec (.stRel 1 2 4 3) memState) (fun t =>
    t.cx.pend.map (·.bytes) == [valBytes 8 0x8877665544332281] && t.cx.strip.forced && t.cx.pc == tcm + 4) = true := by decide +kernel

/-- AMO at d, and CAS that fails and that succeeds: the old value comes back. -/
theorem test_amo_and_cas : gives (exec (.amoAdd 5 1 2 4 1) memState) (fun t => t.cx.reg 5 == 0x8807060504030281 &&
      bytesVal (memReadN t.mem (tcmPlace 0 0x40) 8) == 0x107E6C5A48362502 % 2 ^ 64) = true ∧
    gives (exec (.cas 5 1 2 4 1) memState) (fun t => t.cx.reg 5 == 0x8807060504030281 && t.mem == memState.mem) = true ∧
    gives (exec (.amoMaxZ 0 1 2 4 1) memState) (fun t => t.cx.reg 0 == 0 &&
      bytesVal (memReadN t.mem (tcmPlace 0 0x40) 8) == 0x8877665544332281) = true := by decide +kernel

/-- A write of the context that is not performed, and a module without a live plane. -/
theorem test_witness_waiting_release : 3 ≤ (4 : BitVec 3).toNat ∧ (fullBuffer 8).planesDead = false ∧
    (∃ w ∈ (fullBuffer 8).cx.pend ++ (fullBuffer 8).cx.held, w.strm < 8) ∧
    (∀ k < 4, ((fullBuffer 8).cx.chan k).cmds = [] ∧ ((fullBuffer 8).cx.chan k).cause = 0) ∧
    { memState with fab := { Fabric.reset with dead := 15 } }.planesDead = true := by decide

/-! ### Transfers, the return store and loops -/

/-- Two loops of one word at 4 and of three words at 4, and a return store. -/
def looping (n : Nat) : State :=
  one { withRegs tcmContext [(1, tcm + 0x40), (2, tcm + 0x41), (3, 2)] with
    loops := [{ start := tcm + 4, stop := tcm + 4, remaining := 2 }, { start := tcm + 4, stop := tcm + 12, remaining := 5 },
              { start := tcm, stop := tcm + 64, remaining := 5 }].drop (3 - n) }

theorem test_branch_taken_and_not : gives (exec (.b 7 1 0 2) (looping 0)) (fun t => t.cx.pc == tcm + 8) = true ∧
    gives (exec (.b 0 1 1 2) (looping 0)) (fun t => t.cx.pc == tcm + 4) = true := by decide

/-- A taken jump leaves the loops whose bodies do not hold its target (R70). -/
theorem test_jump_pops_loops : gives (exec (.j 2) (looping 3)) (fun t => t.cx.pc == tcm + 8 && t.cx.loops.length == 2) = true ∧
    gives (exec (.jr 1) (looping 3)) (fun t => t.cx.pc == tcm + 0x40 && t.cx.loops.length == 1) = true := by decide

theorem test_witness_register_targets : ((looping 3).cx.reg 1).toNat % 4 = 0 ∧ ((looping 3).cx.reg 2).toNat % 4 ≠ 0 ∧
    gives (exec (.jr 2) (looping 3)) (fun t => t.cx.trap.cause == 4 && t.cx.trap.val == tcm + 0x41) = true := by decide

/-- Counts of zero, of one, and of a register; three live loops and four. -/
theorem test_witness_loops : loopDefined 0 0 3 = true ∧ loopDefined 0 1 3 = true ∧ loopDefined 3 0 3 = true ∧
    (looping 2).cx.loops.length < 3 ∧ 3 ≤ (looping 3).cx.loops.length ∧
    gives (exec (.loop 0 0 3) (looping 3)) (fun t => t.cx.pc == tcm + 16 && t.cx.loops.length == 3) = true ∧
    gives (exec (.loop 3 0 3) (looping 2)) (fun t => t.cx.pc == tcm + 4 && t.cx.loops.length == 3) = true ∧
    gives (exec (.loop 0 1 3) (looping 3)) (fun t => t.cx.trap.cause == 0x0C && t.cx.trap.val == 1) = true := by decide

/-- A context with n return addresses in its store, and a spill count. -/
def calling (n : Nat) (spilled : BitVec 32) (spill : Word) : State :=
  { one { withRegs tcmContext [(1, tcm + 0x40)] with
      ret := { entries := (List.range n).map fun i => tcm + .ofNat 64 (4 * i), spilled := spilled, spill := spill } } with
    mem := memWriteN [] (tcmPlace 0 0xF8) (valBytes 8 (tcm + 0x80).toNat) }

theorem test_witness_calls : (calling 15 0 0).cx.ret.entries.length < 16 ∧ 16 ≤ (calling 16 0 0).cx.ret.entries.length ∧
    reach (calling 16 0 0) ((calling 16 0 0).cx.acc 0) .store 0 = .error 0x07 ∧
    (∃ old front, (calling 16 0 (tcm + 0x100)).cx.ret.entries = front ++ [old] ∧ front.length = 15) ∧
    reach (calling 16 0 (tcm + 0x100)) ((calling 16 0 (tcm + 0x100)).cx.acc 0) .store (tcm + 0x100).toNat =
      .ok (tcmAt 0x100) ∧ ((calling 16 0 0).cx.reg 1).toNat % 4 = 0 :=
  ⟨by decide, by decide, by decide +kernel, ⟨tcm + 60, (List.range 15).map fun i => tcm + .ofNat 64 (4 * i), by decide, by decide⟩,
    by decide +kernel, by decide⟩

theorem test_jal_spills : gives (exec (.jal 4) (calling 16 0 (tcm + 0x100))) (fun t => t.cx.pc == tcm + 16 &&
    t.cx.ret.entries.length == 16 && t.cx.ret.entries.head? == some (tcm + 4) && t.cx.ret.spilled == 1 &&
    t.cx.ret.spill == tcm + 0x108 && t.cx.held.map (·.bytes) == [valBytes 8 (tcm + 60).toNat]) = true := by decide +kernel

theorem test_witness_returns : (∃ r rest, (calling 1 0 0).cx.ret.entries = r :: rest ∧ r.toNat % 4 = 0) ∧
    ((calling 0 0 0).cx.ret.entries = [] ∧ (calling 0 0 0).cx.ret.spilled = 0) ∧
    ((calling 0 1 (tcm + 0x100)).cx.ret.spilled ≠ 0 ∧ 8 ≤ (tcm + 0x100).toNat ∧ (tcm + 0x100).toNat < 2 ^ 55 ∧
      (tcm + 0x100).toNat % 8 = 0) ∧
    reach (calling 0 1 8) ((calling 0 1 8).cx.acc 0) .load 0 = .error 0x06 ∧
    reach (calling 0 1 (tcm + 0x100)) ((calling 0 1 (tcm + 0x100)).cx.acc 0) .load ((tcm + 0x100).toNat - 8) =
      .ok (tcmAt 0xF8) ∧
    readsPoison (calling 0 1 (tcm + 0x100)) (calling 0 1 (tcm + 0x100)).cx (tcmAt 0xF8) 8 = false :=
  ⟨⟨tcm, [], rfl, by decide⟩, by decide, by decide, by decide +kernel, by decide +kernel, by decide⟩

theorem test_ret_refills : gives (exec .ret (calling 0 1 (tcm + 0x100))) (fun t => t.cx.pc == tcm + 0x80 &&
      t.cx.ret.spilled == 0 && t.cx.ret.spill == tcm + 0xF8) = true ∧
    gives (exec .ret (calling 0 0 0)) (fun t => t.cx.trap.cause == 0x0D) = true ∧
    gives (exec .ret (one { tcmContext with ret := { RetStore.reset with entries := [tcm + 2] } }))
      (fun t => t.cx.trap.cause == 4 && t.cx.trap.val == tcm + 2) = true := by decide +kernel

/-! ### Shapes and lanes -/

/-- Two contexts of a core: the first asks for a shape of s1 rows and s2 columns, the second holds lanes. -/
def shaping (rows cols lanes other : Nat) : State :=
  { State.reset with ctxs :=
      [(0, { withRegs tcmContext [(1, .ofNat 64 rows), (2, .ofNat 64 cols)] with lanes := lanes }),
       (1, { tcmContext with lanes := other })] }

theorem test_vshape_grants : gives (exec (.vshape 3 1 2 2 0 0 0) (shaping 40 100 0 6)) (fun t =>
      t.cx.lanes == 10 && t.cx.vrows == 20 && t.cx.vcols == 64 && t.cx.reg 3 == 64 * 2 ^ 32 + 20 && !t.cx.vtype.ill) = true ∧
    gives (exec (.vshape 3 1 2 15 0 0 0) (shaping 40 100 2 6)) (fun t =>
      t.cx.lanes == 2 && t.cx.vrows == 0 && t.cx.vtype.ill && t.cx.reg 3 == 0) = true := by decide

/-- Not evicted; a bad type, no rows, and no columns; lanes to hold, and none. -/
theorem test_witness_shapes : (shaping 1 1 0 0).cx.leaves = false ∧ etypeDefined 15 = false ∧
    (ewidth 14 = 4 ∧ (3 : BitVec 2) = 3) ∧ ((shaping 0 1 0 0).cx.reg 1).toNat = 0 ∧ ((shaping 1 0 0 0).cx.reg 2).toNat = 0 ∧
    (shaping 1 1 0 16).ctxAt (siblingOf 0) = { tcmContext with lanes := 16 } ∧
    gives (exec (.vshape 3 1 2 2 0 0 0) (shaping 1 1 0 16)) (fun t => (t.cx.wait.map (·.kind)) == some .lanes &&
      (t.ctxAt 1).cap == 15 && (t.ctxAt 1).capWaited) = true := by decide

theorem test_vrel_releases : gives (exec .vrel (shaping 1 1 3 0)) (fun t => t.cx.lanes == 0 && t.cx.vtype.ill) = true := by decide

/-- A context that a notice evicts, with no band attached. -/
def evicted : State := one { tcmContext with evict := true, notice := some { recs := [], evict := true, convoys := 0 } }

theorem test_witness_leaves : evicted.cx.leaves = true ∧ evicted.cx.mgCount = 0 ∧
    gives (exec .vrel evicted) (fun t => t.cx.saving && t.cx.pc == tcm) = true := by decide

/-! ### Vector words -/

/-- A row whose fields of w bits are as listed. -/
def rowOf (w : Nat) (vs : List Nat) : Row2048 := BitVec.ofNat 2048 ((vs.zipIdx.map fun e => e.1 % 2 ^ w * 2 ^ (w * e.2)).sum)

/-- A context with two lanes and a shape of 3 rows and 4 columns of a type; registers 4 and 8 hold small elements,
register 0 the mask 1011 of its first row, and s1 the number 3. -/
def vecContext (et : BitVec 5) (glog : BitVec 2) : Context :=
  let w := ewidth et.toNat
  { withRegs tcmContext [(1, 3), (2, tcm + 0x100), (3, 8)] with
    lanes := 2, vrows := 3, vcols := 4, vtype := { ill := false, glog := glog, ta := false, ix := false, etype := et }
    vregs := [(0, rowOf 1 [1, 1, 0, 1]), (1, 0), (2, 0)] ++
      (List.range 3).map (fun r => (4 * 32 + r, rowOf w [4 * r, 4 * r + 1, 4 * r + 2, 4 * r + 3])) ++
      (List.range 3).map (fun r => (8 * 32 + r, rowOf w [2 ^ w - 1, 2, 1, 3])) }

def vec (et : BitVec 5) (glog : BitVec 2 := 0) : State := one (vecContext et glog)

/-- Row r of register d after an instruction, as fields of the type's width. -/
def rowAfter (i : Instr) (s : State) (d r n : Nat) : Option (List Nat) :=
  match exec i s with
  | .next t => some ((List.range n).map fun c => t.cx.elem d s.cx.width r c)
  | _ => none

theorem test_witness_vector_issue : Issues (vec 2) [12, 4, 8] 12 1 ∧ Issues (vec 2) [0, 4, 8] 0 0 ∧
    isInt (vec 2).cx.et = true ∧ (vec 2).cx.vrows ≤ 32 ∧ VFn.legal .add (vec 2).cx.et = true ∧ VFn.rounds .add (vec 2).cx.et = false ∧
    (vec 10).cx.fp.rm ≠ 5 ∧ VFn.legal .sqrt (vec 10).cx.et = true ∧ Issues (vec 10) [12, 4] 12 0 ∧
    (1 < (vec 2).cx.grows ∧ 2 < (vec 2).cx.vcols ∧ 1 % (vec 2).cx.vrows < 2 * (vec 2).cx.lanes ∧ (2 + 1) * 32 ≤ 2048) := by
  unfold Issues; decide

/-- The first and the last element of a shape, an element below VSTART, and one that is masked off. -/
theorem test_witness_elements : (let x := { vecContext 2 0 with vsElem := 5 }
    x.startElem = 5 ∧ 0 * x.vcols + 3 < x.startElem ∧ x.startElem ≤ 2 * x.vcols + 3 ∧ x.active false 2 3 = true ∧
    x.active true 0 2 = false ∧ x.active true 0 3 = true) := by decide +kernel

theorem test_vadd_masked : rowAfter (.vaddVV 0 12 4 8 1 1) (vec 2) 12 0 4 = some [2 ^ 32 - 1, 3, 0, 6] ∧
    rowAfter (.vaddVV 0 4 4 8 1 0) (vec 2) 4 0 4 = some [2 ^ 32 - 1, 3, 2, 6] := by decide +kernel

theorem test_vector_integers : rowAfter (.vmulVS 0 12 4 1 0 0) (vec 0) 12 2 4 = some [24, 27, 30, 33] ∧
    rowAfter (.vsaddVV 0 12 8 8 0 0) (vec 4) 12 0 4 = some [255, 4, 2, 6] ∧
    rowAfter (.vsubVV 0 12 4 8 0 0) (vec 1) 12 0 4 = some [1, 65535, 1, 0] ∧
    rowAfter (.vmulhVV 0 12 8 8 0 0) (vec 4) 12 0 4 = some [254, 0, 0, 0] := by decide +kernel

/-- A word at VSTART leaves the elements before it. -/
theorem test_vector_restarts : rowAfter (.viota 0 12 0 0) (one { vecContext 2 0 with vsElem := 2, vregs := (12 * 32, 0) :: [] })
    12 0 4 = some [0, 0, 2, 3] := by decide +kernel

/-- An illegal type, a register that is no multiple of G, and a masked destination v0. -/
theorem test_witness_vector_traps : (one tcmContext).cx.vtype.ill = true ∧ (5 : BitVec 5).toNat % (vec 2 1).cx.group ≠ 0 ∧
    gives (exec (.vaddVV 0 5 4 8 0 0) (vec 2 1)) (fun t => t.cx.trap.cause == 3 && t.cx.trap.val == 0x28520000 + 2 * 2 ^ 12) = true ∧
    gives (exec (.vaddVV 0 0 4 8 1 0) (vec 2)) (fun t => t.cx.trap.cause == 3) = true ∧
    gives (exec (.vaddVV 0 12 4 8 0 0) (one tcmContext)) (fun t => t.cx.trap.cause == 3) = true := by decide +kernel

theorem test_witness_masks : Issues (vec 2) [9, 4, 8] 9 1 ∧ Issues (vec 10) [9, 4] 9 0 ∧ isFloat (vec 10).cx.et = true ∧
    (5 : BitVec 3).toNat < 6 ∧ (vec 2).cx.vcols ≤ maxCols (vec 2).cx.et ∧ (2 * maxCols 2 + 3) / 2048 < 2 * (vec 2).cx.lanes ∧
    isStorage (vec 2).cx.et = false ∧ (vec 2).cx.vtype.ill = false ∧ (0 : BitVec 5).toNat % (vec 2).cx.group = 0 := by
  unfold Issues; decide

theorem test_masks : gives (exec (.vcmpVV 0 9 4 8 0 0 2) (vec 2)) (fun t =>
      (List.range 4).map (t.cx.maskBit 9) == [false, true, false, false]) = true ∧
    gives (exec (.vmpop 0 5 0 0 0) (vec 2)) (fun t => t.cx.reg 5 == 3) = true ∧
    gives (exec (.vmfirst 0 5 4 0 0) (vec 2)) (fun t => t.cx.reg 5 == -1) = false ∧
    gives (exec (.vmtocAll 0 2 0 1 0) (vec 2)) (·.cx.cond 2) = true := by decide +kernel

theorem test_witness_conversions : Issues (vec 10) [12, 4] 12 0 ∧ (ewidth 2 ≤ ewidth 10 ∨ (vec 10).cx.vcols ≤ 64) ∧
    ewidth 11 ≠ 4 ∧ (vec 1).cx.vcols ≤ 2048 / ewidth 11 ∧ isBlocked (vec 10).cx.et = false ∧ isBlocked 2 = false ∧
    (isFloat (vec 10).cx.et = true ∧ isBlocked 16 = true) ∧ (isBlocked (vec 16).cx.et = true ∧ isFloat 10 = true) ∧
    Issues (vec 16) [12, 4] 12 0 := by
  unfold Issues; decide

theorem test_vcvt_sign_extends : rowAfter (.vcvt 0 12 8 0 0 3) (vec 0) 12 0 1 = some [255] ∧
    gives (exec (.vcvt 0 12 8 0 0 1) (vec 0)) (fun t => t.cx.elem 12 16 0 0 == 65535 && t.cx.elem 12 16 0 1 == 2) = true := by
  decide +kernel

theorem test_witness_moves : Issues (vec 2) [12, 4, 8] 12 0 ∧ (vec 2).cx.vcols ≤ 128 ∧ isBlocked (vec 2).cx.et = false ∧
    ((vec 2).cx.src 1).toNat < (vec 2).cx.inShape ∧ (12 : BitVec 5).toNat % (vec 2).cx.group = 0 := by
  unfold Issues; decide

theorem test_slides : rowAfter (.vslideUp 0 12 4 1 0 0) (vec 2) 12 1 4 = some [1, 2, 3, 4] ∧
    rowAfter (.vslideDown 0 12 4 1 0 0) (vec 2) 12 2 4 = some [11, 0, 0, 0] := by decide +kernel

theorem test_vext_vins : gives (exec (.vext 0 5 8 0) (vec 0)) (fun t => t.cx.reg 5 == -1) = true ∧
    rowAfter (.vins 0 4 3 1) (vec 2) 4 0 4 = some [0, 1, 2, 8] := by decide +kernel

theorem test_witness_transposes : Issues (vec 2) [12, 4] 12 0 ∧ (vec 2).cx.group = 1 ∧ (vec 2 1).cx.group ≠ 1 ∧
    isBlocked (vec 16).cx.et = true ∧ isFloat (vec 8).cx.et = true ∧ isStorage (vec 12).cx.et = true := by
  unfold Issues; decide

theorem test_vxpose : rowAfter (.vxpose 0 12 4 0 0) (vec 2) 12 1 4 = some [1, 5, 9, 0] ∧
    gives (exec (.vxpose 0 12 4 0 0) (vec 2 1)) (fun t => t.cx.trap.cause == 3) = true ∧
    gives (exec (.viota 0 12 0 0) (vec 8)) (fun t => t.cx.trap.cause == 3) = true := by decide +kernel

theorem test_witness_reductions : (redFn 0).legal (vec 2).cx.et = true ∧ Issues (vec 2) [12, 4] 12 0 ∧
    (vec 2).cx.vcols ≤ maxCols (vec 2).cx.et ∧ 0 < (vec 2).cx.vcols ∧ (vec 2).cx.zeroShape = false := by
  unfold Issues; decide

theorem test_reductions : gives (exec (.vredAll 0 12 4 0 0 0) (vec 2)) (fun t => t.cx.elem 12 32 0 0 == 66) = true ∧
    gives (exec (.vred 0 12 4 0 0 2) (vec 2)) (fun t => t.cx.elem 12 32 1 0 == 7) = true ∧
    rowAfter (.vscan 0 12 4 0 0 0) (vec 2) 12 0 4 = some [0, 1, 3, 6] := by decide +kernel

/-! ### Vector memory -/

/-- The TCM from 0x100 on holds the words 100, 101, ... -/
def vmemState (x : Context) : State :=
  { one x with mem := memWriteN [] (tcmPlace 0 0x100) ((List.range 12).flatMap fun i => valBytes 4 (100 + i)) }

def vmem : State := vmemState (vecContext 2 0)

/-- Every element and scale byte of an access that starts at the base in s2 translates. -/
theorem vectorAccessOf {s : State} {k : AccKind} {mode : VMode} {a b : BitVec 5} {m : BitVec 1}
    (h : (decide (s.cx.startElem < s.cx.inShape) &&
      ((s.cx.vmem mode a b).misaligned s.cx ((s.cx.vmem mode a b).elements s.cx m s.cx.startElem)).isNone &&
      ((memoryAccess s k mode a b m).elems.all fun e => e.2.toOption.isSome) &&
      (memoryAccess s k mode a b m).scales.all fun e => e.2.toOption.isSome) = true) : VectorAccess s k mode a b m := by
  simp only [Bool.and_eq_true, decide_eq_true_eq, Option.isNone_iff_eq_none] at h
  exact ⟨h.1.1.1, h.1.1.2, allOk h.1.2, allOk h.2⟩

theorem test_witness_vector_load :
    loadCheck .unit (.vld 0 12 2 0 1 0 0) 12 2 0 1 vmem = none ∧ VectorAccess vmem .load .unit 2 0 1 ∧
    ((memoryAccess vmem .load .unit 2 0 1).elems.all fun e =>
      match e.2 with
      | .ok p => !readsPoison vmem vmem.cx p vmem.cx.esz
      | .error _ => false) = true :=
  ⟨by decide +kernel, vectorAccessOf (by decide +kernel), by decide +kernel⟩

theorem test_witness_vector_modes : loadCheck .strided (.vldSt 0 12 2 3 0 0 0) 12 2 3 0 vmem = none ∧
    VectorAccess vmem .load .strided 2 3 0 ∧ loadCheck .bcast (.vldBc 0 12 2 0 0 0) 12 2 0 0 vmem = none ∧
    VectorAccess vmem .load .bcast 2 0 0 ∧ loadCheck .index (.vgather 0 12 2 4 0 0 0) 12 2 4 0 vmem = none ∧
    VectorAccess vmem .load .index 2 4 0 ∧
    VectorAccess (vmemState (vecContext 16 0)) .load .blocked 2 3 0 :=
  ⟨by decide +kernel, vectorAccessOf (by decide +kernel), by decide +kernel, vectorAccessOf (by decide +kernel),
    by decide +kernel, vectorAccessOf (by decide +kernel), vectorAccessOf (by decide +kernel)⟩

theorem test_vld_masked : rowAfter (.vld 0 4 2 0 1 1 0) vmem 4 0 4 = some [100, 101, 0, 103] ∧
    rowAfter (.vldSt 0 12 2 3 0 0 0) vmem 12 1 4 = some [108, 110, 0, 0] := by decide +kernel

theorem test_witness_vector_store : storeCheck .unit (.vst 0 4 2 0 0 0 2) 4 2 0 0 vmem = none ∧
    VectorAccess vmem .store .unit 2 0 0 ∧ storeCheck .index (.vscatter 0 8 2 4 0 0 0) 8 2 4 0 vmem = none ∧
    VectorAccess vmem .store .index 2 4 0 := ⟨by decide +kernel, vectorAccessOf (by decide +kernel), by decide +kernel,
    vectorAccessOf (by decide +kernel)⟩

theorem test_vst_is_held : gives (exec (.vst 0 4 2 0 0 0 2) vmem) (fun t => t.mem == vmem.mem && t.cx.held.length == 12 &&
    t.cx.held.all (·.strm == 2) && t.cx.held.map (fun w => bytesVal w.bytes) == List.range 12) = true := by decide +kernel

/-- A base that is misaligned, and one that no window holds. -/
def astray (va : Word) : State := vmemState { vecContext 2 0 with regs := (vecContext 2 0).regs.set 2 va }

theorem test_witness_vector_faults : loadCheck .unit (.vld 0 12 2 0 0 0 0) 12 2 0 0 (astray (tcm + 0x102)) = none ∧
    (astray (tcm + 0x102)).cx.startElem < (astray (tcm + 0x102)).cx.inShape ∧
    (((astray (tcm + 0x102)).cx.vmem .unit 2 0).elements (astray (tcm + 0x102)).cx 0 0).head?.map (·.va.toNat % 4) = some 2 ∧
    (∀ e ∈ ((astray 0).cx.vmem .unit 2 0).elements (astray 0).cx 0 0, e.va.toNat % (astray 0).cx.esz = 0) ∧
    (memoryAccess (astray 0) .load .unit 2 0 0).elems.map (fun e => e.2.toOption.isSome) = List.replicate 12 false ∧
    gives (exec (.vld 0 12 2 0 0 0 0) (astray (tcm + 0x102))) (fun t =>
      t.cx.qfault.map (fun f => (f.cause, f.tval)) == some (4, tcm + 0x102)) = true ∧
    gives (exec (.vld 0 12 2 0 0 0 0) (astray 0)) (fun t => t.cx.qfault.map (fun f => (f.cause, f.elem)) == some (6, 0)) = true := by
  decide +kernel

theorem test_witness_vector_atomic : amoCheck .add (.vamoAdd 0 12 2 4 0 0 0) 12 2 4 0 vmem = none ∧
    VectorAccess vmem .atomic .index 2 4 0 ∧ vmem.poison = [] ∧ vmem.cx.pend = [] ∧ vmem.cx.held = [] ∧
    vmem.launch vmem.cx.launchNo = none ∧ Memory.wf vmem.mem = true :=
  ⟨by decide +kernel, vectorAccessOf (by decide +kernel), rfl, rfl, rfl, rfl, by decide⟩

theorem test_vamo_add : gives (exec (.vamoAdd 0 8 2 4 0 0 0) vmem) (fun t => t.cx.elem 8 32 2 3 == 111 &&
    bytesVal (memReadN t.mem (tcmPlace 0 0x104) 4) == 103) = true := by decide +kernel

/-- A queue at 0x200 of the TCM with room for a number of 4-byte items at 0x300, of which two are taken. -/
def queueState (capacity : Nat) : State :=
  { one { vecContext 2 0 with regs := (vecContext 2 0).regs.set 2 (tcm + 0x200) } with
    mem := memWriteN [] (tcmPlace 0 0x200)
      (valBytes 8 (tcm + 0x300).toNat ++ valBytes 4 capacity ++ valBytes 4 4 ++ valBytes 4 2) }

theorem test_witness_append : cappCheck (.vcappIdx 0 2 1 0 0) none 2 (queueState 16) = none ∧
    (queueState 16).cx.zeroShape = false ∧ ((queueState 16).cx.src 2).toNat % 32 = 0 ∧
    ((readQueue (queueState 16) ((queueState 16).cx.src 2)).toOption.map fun e =>
      (e.1, queueOf e.2 |>.base, queueOf e.2 |>.capacity, queueOf e.2 |>.size)) = some (tcmAt 0x200, (tcm + 0x300).toNat, 16, 4) ∧
    ((queueState 16).cx.activeFrom true 0).length = 3 ∧ (tcm + 0x300).toNat % 4 = 0 ∧ 2 + 3 ≤ 16 ∧
    cappCheck (.vcappVal 0 4 2 0 0 0) (some 4) 2 (queueState 16) = none ∧ (one tcmContext).cx.zeroShape = true := by
  decide +kernel

/-- The third bit of the mask's second and third rows is clear too, so three elements are active. -/
theorem test_vcapp_appends : gives (exec (.vcappIdx 0 2 1 0 0) (queueState 5)) (fun t =>
      bytesVal (memReadN t.mem (tcmPlace 0 0x210) 4) == 5 && t.cx.pend.map (fun w => bytesVal w.bytes) == [0, 1, 3] &&
      t.cx.pend.map (·.loc) == [tcmPlace 0 0x308, tcmPlace 0 0x30C, tcmPlace 0 0x310] && t.cx.fp.flags == 0) = true ∧
    gives (exec (.vcappIdx 0 2 1 0 0) (queueState 4)) (fun t =>
      bytesVal (memReadN t.mem (tcmPlace 0 0x210) 4) == 2 && t.cx.pend.isEmpty && t.cx.fp.flags == flagSAT) = true := by
  decide +kernel

/-! ### The matrix unit -/

/-- A context with bands n and up to count attached in its tile, slot 0 held, and a shape of 2 rows and 4 columns of s8
whose register 4 holds 1 to 8; slot 0 holds the same, tagged. -/
def matrixState (count : Nat) : State :=
  let x := { vecContext 0 0 with
    vrows := 2, mgCount := count, mgFirst := 0
    mat := { MatRegs.reset with rows := 2, cols := 2, depth := 4, afmt := 2 }
    vregs := [(4 * 32, rowOf 8 [1, 2, 3, 4]), (4 * 32 + 1, rowOf 8 [5, 6, 7, 8])] }
  { one { x with regs := x.regs.set 1 0 } with
    tiles := [(0, { Tile.reset with
      bands := Vector.ofFn fun b => if b.val < count then some (.ctx 0) else none
      working := [(accKey 0 0 0 0, 100), (accKey 0 1 0 0, 7)]
      slots := [(0, { holder := some (.ctx 0), released := false, scales := [], tag := some 0
                      rows := [(0, rowOf 8 [1, 2, 3, 4]), (1, rowOf 8 [5, 6, 7, 8])] })] })] }

theorem test_witness_bands : (matrixState 1).cx.mgCount ≠ 0 ∧ (matrixState 0).cx.mgCount = 0 ∧
    (matrixState 0).cx.leaves = false ∧ (matrixState 1).cx.leaves = false := by decide

theorem test_matt_attaches : gives (exec (.matt 3 3) (matrixState 0)) (fun t => t.cx.reg 3 == 3 && t.cx.mgCount == 3 &&
      (t.tileAt 0).bands.toList == [some (.ctx 0), some (.ctx 0), some (.ctx 0), none] && accumulator t 0 0 0 0 == 0) = true ∧
    gives (exec (.matt 3 3) (matrixState 1)) (fun t => t.cx.trap.cause == 0x0B && t.cx.trap.val == 2) = true ∧
    gives (exec .mdet (matrixState 1)) (fun t => t.cx.mgCount == 0 && (t.tileAt 0).bands.toList == List.replicate 4 none) = true := by
  decide +kernel

/-- Slot 0 held and slot 1 not; every slot held. -/
def slotsHeld : State :=
  { one tcmContext with
    tiles := [(0, { Tile.reset with
      slots := (List.range 64).map fun n => (n, { Slot.reset with holder := some (.ctx 5) }) })] }

theorem test_witness_slots : (∀ n < 64, (tileSlot slotsHeld n).holder ≠ none) ∧
    (tileSlot (matrixState 1) 1).holder = none ∧ (∀ k < 1, (tileSlot (matrixState 1) k).holder ≠ none) ∧
    HoldsSlot (matrixState 1) 0 ∧ ¬ HoldsSlot (matrixState 1) 1 := by
  unfold HoldsSlot; decide +kernel

theorem test_mclaim_mrel : gives (exec (.mclaim 3) (matrixState 1)) (fun t => t.cx.reg 3 == 1) = true ∧
    gives (exec (.mclaim 3) slotsHeld) (fun t => t.cx.reg 3 == -1) = true ∧
    gives (exec (.mrel 1) (matrixState 1)) (fun t => (tileSlot t 0).released) = true ∧
    gives (exec (.mrel 2) (matrixState 1)) (fun t => t.cx.trap.cause == 0x0B && t.cx.trap.val == 9) = true := by decide +kernel

theorem test_witness_mldb : Issues (matrixState 1) [4] 4 0 ∧ isMatrixType (matrixState 1).cx.et = true ∧
    HoldsSlot (matrixState 1) ((matrixState 1).cx.src 1).toNat ∧ isBlocked (matrixState 1).cx.et = false ∧
    ¬ HoldsSlot (matrixState 1) ((matrixState 1).cx.src 3).toNat := by
  unfold HoldsSlot Issues; decide +kernel

theorem test_mldb : gives (exec (.mldb 0 1 4) (matrixState 1)) (fun t => rowField 8 3 ((tileSlot t 0).row 1) == 8 &&
    rowField 8 4 ((tileSlot t 0).row 1) == 0 && (tileSlot t 0).tag == some 0) = true := by decide +kernel

/-- The checks of MMA in its square form, with a bound on the bands. -/
theorem productFitsOf {s : State} {d : BitVec 5} {f : Nat} (hi : Issues s [d] d 0)
    (h : (let x := s.cx
      isMatrixType x.et = true ∧ x.zeroShape = false ∧ x.mgCount ≠ 0 ∧ x.qmat.rev = 1 ∧ x.qmat.afmt.toNat = accFormat x.et ∧
      x.qmat.rows.toNat ≤ 64 ∧ x.qmat.rows.toNat ≤ x.grows ∧ x.qmat.wide = false ∧ x.qmat.cols.toNat ≤ 32 ∧
      x.qmat.depth.toNat ≤ bandDepth x.et * x.mgCount ∧ isBlocked x.et = false ∧
      ∀ q < x.mgCount, d.toNat + (q + 1) * x.group ≤ 32 ∧ (f + q < 64 ∧ (tileSlot s (f + q)).holder = some (.ctx s.cur) ∧
        (tileSlot s (f + q)).released = false) ∧ (tileSlot s (f + q)).tag = some x.vtype.etype)) : ProductFits s d f := by
  obtain ⟨h1, h2, h3, h4, h5, h6, h7, h8, h9, h10, h11, h12⟩ := h
  refine ⟨hi, h1, h2, h3, h4, h5, h6, h7, ?_, ?_, ?_⟩
  · rw [if_neg (by simp [h8])]
    exact ⟨h9, h10⟩
  · intro q hq
    rw [if_neg (by simp [h8])] at hq
    obtain ⟨a, b, c⟩ := h12 q hq.1
    exact ⟨fun _ => a, b, c⟩
  · simp [h11]

theorem test_witness_mma : ProductFits (matrixState 1) 4 0 :=
  productFitsOf (by unfold Issues; decide) (by decide +kernel)

/-- 100 + (1 + 4 + 9 + 16), and 5 + 12 + 21 + 32 in row 0, column 1. -/
theorem test_mma : gives (exec (.mma 0 4 1 0) (matrixState 1)) (fun t => accumulator t 0 0 0 0 == 130 &&
    accumulator t 0 0 0 1 == 70 && accumulator t 0 1 0 0 == 7 && t.cx.pc == tcm + 4) = true := by decide +kernel

theorem test_mzero : gives (exec (.mzero 0 0) (matrixState 1)) (fun t => accumulator t 0 0 0 0 == 0 && accumulator t 0 1 0 0 == 7) = true := by
  decide +kernel

theorem test_witness_mdrain : Issues (matrixState 1) [12] 12 0 ∧ isBlocked (matrixState 1).cx.et = false ∧
    (matrixState 1).cx.zeroShape = false ∧ (matrixState 1).cx.mgCount ≠ 0 ∧ (matrixState 1).cx.mat.rev = 1 ∧
    (matrixState 1).cx.mat.afmt = 2 ∧ isInt (matrixState 1).cx.et = true ∧ (matrixState 0).cx.mgCount = 0 ∧
    isBlocked (vec 16).cx.et = true ∧ Issues (vec 16) [12] 12 0 ∧ (one tcmContext).cx.zeroShape = true := by
  unfold Issues; decide +kernel

theorem test_mdrain : rowAfter (.mdrain 0 12 0 0) (matrixState 1) 12 0 4 = some [100, 0, 0, 0] ∧
    gives (exec (.mdrain 0 12 0 0) (matrixState 0)) (fun t => t.cx.trap.cause == 0x0B && t.cx.trap.val == 1) = true := by
  decide +kernel

/-! ### Copies, fences and messages -/

/-- A layout in register 6: an extent of 4 and a stride of 8 on each side; channel 1 holds n commands. -/
def copying (n : Nat) : State :=
  let x := { vecContext 3 0 with vrows := 4, vcols := 1 }
  let cmd (k : Nat) : CopyCmd := { id := .ofNat 32 (k + 1), src := 0, dst := 0, esz := 8, dims := [], notify := false
                                   space := .reset, sup := false, st := .queued }
  one { withRegs x [(4, tcm + 0x100), (5, tcm + 0x200), (7, tcm + 0x201)] with
    vregs := [(6 * 32, 8 * 2 ^ 24 + 4), (6 * 32 + 1, 8 * 2 ^ 24)]
    chans := x.chans.set 1 { CopyChan.reset with next := .ofNat 32 (n + 1), cmds := (List.range n).map cmd } }

theorem test_witness_copies : Issues (copying 0) [6] 6 0 ∧ (copying 0).cx.width ≠ 4 ∧ (copying 0).cx.vcols ≤ 8 ∧
    layoutDims (copying 0).cx 6 = [{ ss := 8, ext := 4, ds := 8 }] ∧ 4 * 8 < 2 ^ 40 ∧
    (copying 0).cx.reg 4 = 0x007F000000000100 ∧ (copying 0).cx.reg 5 = 0x007F000000000200 ∧
    (copying 0).planesDead = false ∧ ((copying 0).cx.chan 1).cause = 0 ∧ ((copying 15).cx.chan 1).cmds.length < 16 ∧
    16 ≤ ((copying 16).cx.chan 1).cmds.length ∧ (vec 14).cx.width = 4 ∧ ((copying 0).cx.reg 7).toNat % 8 ≠ 0 := by
  unfold Issues; decide +kernel

theorem test_xcopy : gives (exec (.xcopy 3 4 5 1 1 6) (copying 15)) (fun t => t.cx.reg 3 == 16 &&
      (t.cx.chan 1).next == 17 && (t.cx.chan 1).cmds.length == 16 && t.cx.pc == tcm + 4) = true ∧
    gives (exec (.xcopy 3 4 5 1 1 6) (copying 16)) (fun t => (t.cx.wait.map (·.kind)) == some .room && t.cx.pc == tcm) = true ∧
    gives (exec (.xcopy 3 4 7 1 1 6) (copying 0)) (fun t => t.cx.trap.cause == 4 && t.cx.trap.val == tcm + 0x201) = true := by
  decide +kernel

/-- Identifier 3 of a channel that has 5 commands is pending, and identifier 8 not; a channel that stopped. -/
def stoppedChannel : State :=
  one { withRegs tcmContext [(1, 3)] with
    chans := tcmContext.chans.set 1 { CopyChan.reset with next := 6, cause := 9, fid := 3, faddr := 0x1234 } }

theorem test_witness_xwait : (let ch := (copying 5).cx.chan 1
      ch.cause = 0 ∧ ((3 : BitVec 32) - ch.done - 1).toNat < (ch.next - ch.done - 1).toNat ∧
      ¬ ((8 : BitVec 32) - ch.done - 1).toNat < (ch.next - ch.done - 1).toNat) ∧
    { copying 5 with fab := { Fabric.reset with dead := 15 } }.planesDead = true ∧
    (stoppedChannel.cx.chan 1).cause ≠ 0 ∧ (stoppedChannel.cx.chan 1).dlv = false ∧
    gives (exec (.xwait 1 1) stoppedChannel) (fun t => t.cx.trap.cause == 0x13 && t.cx.trap.val == 0x0100000000001234 &&
      (t.cx.chan 1).dlv) = true ∧
    gives (exec (.xwait 3 1) (copying 5)) (fun t => t.cx.pc == tcm + 4) = true ∧
    gives (exec (.xwait 1 1) (copying 5)) (fun t => (t.cx.wait.map (·.kind)) == some .xwait) = true := by decide +kernel

/-- A held write outside the tile on stream 2, and one in the TCM. -/
def writing (loc : Nat) : State :=
  one { tcmContext with
    held := [{ strm := 2, loose := false, loc := loc, key := 0, enc := false, bytes := [1], nib := none, cls := .uncounted, acc := none, pin := false }] }

theorem test_witness_fences : (4 : BitVec 13).toNat / 2 ^ 2 % 2 = 1 ∧ (2 : BitVec 3).toNat < 3 ∧ 3 ≤ (3 : BitVec 3).toNat ∧
    (∀ w ∈ (writing 0x1000).cx.pend ++ (writing 0x1000).cx.held, w.carried 0 = false) ∧
    (∀ w ∈ (writing (tcmPlace 0 0)).cx.pend ++ (writing (tcmPlace 0 0)).cx.held, w.carried 0 = true) ∧
    (writing 0).planesDead = false ∧ (∀ k < 4, ((writing 0).cx.chan k).cmds = [] ∧ ((writing 0).cx.chan k).cause = 0) ∧
    (writing 0).fab.flights = [] := by decide

theorem test_fence : gives (exec (.fence 4 2) (writing 0x1000)) (fun t => t.cx.pc == tcm + 4 && t.cx.pend.all (·.acc.isSome)) = true ∧
    gives (exec (.fence 4 3) (writing 0x1000)) (fun t => (t.cx.wait.map (·.kind)) == some .order && t.cx.pc == tcm) = true ∧
    gives (exec (.fence 2 3) (writing 0x1000)) (fun t => t.cx.pc == tcm + 4) = true ∧
    gives (exec (.fence 0 3) (writing 0x1000)) (fun t => t.cx.pc == tcm + 4 && t.cx.held.length == 1) = true := by decide

/-- A destination: node 0, die 1, tile 47, core 3, second context, tag 2; one whose tile does not exist; and the slot of
this context. -/
def sending (w : Nat) (slot : RecvSlot) : State :=
  one { withRegs (vecContext 2 0) [(1, .ofNat 64 w)] with recv := (Vector.replicate 4 .empty).set 2 slot }

def sendWord : Nat := 2 ^ 10 + 47 * 2 ^ 11 + 3 * 2 ^ 17 + 2 ^ 19 + 2 * 2 ^ 20

theorem test_witness_send : Issues (sending sendWord .empty) [4] 4 0 ∧ sendWord < 2 ^ 22 ∧ sendWord / 2 ^ 20 = 2 ∧
    sendWord / 2 ^ 11 % 64 ≤ 47 ∧ (sending 0 .empty).nodeExists (sendWord % 1024) = true ∧
    (sending 0 .empty).nodeExists 1 = false ∧ (sendWord + 2 ^ 11) / 2 ^ 11 % 64 = 48 ∧ (sending 0 .empty).planesDead = false := by
  unfold Issues; decide

theorem test_send : gives (exec (.send 4 1 2) (sending sendWord .empty)) (fun t =>
      t.fab.requests.map (fun r => (r.dst, r.tag, r.dstNode)) == [(767, 2, 0)] && (t.cx.wait.map (·.kind)) == some .grant) = true ∧
    gives (exec (.send 4 1 2) (sending (sendWord + 2 ^ 11) .empty)) (fun t => t.cx.trap.cause == 9 && t.fab.requests.isEmpty) = true ∧
    gives (exec (.send 4 1 1) (sending sendWord .empty)) (fun t => t.cx.trap.cause == 9) = true := by decide +kernel

def mail : Message := { rows := 1, cols := 2, width := 32, data := [rowOf 32 [7, 8, 9]], scales := [], node := 0, sender := 5 }

theorem test_witness_recv : Issues (sending 0 (.full mail)) [12] 12 0 ∧ (sending 0 (.full mail)).planesDead = false ∧
    (sending 0 (.full mail)).cx.slot 2 = .full mail ∧ (sending 0 (.full mail)).fab.waiting = [] ∧
    (sending 0 (.full mail)).cx.vrows ≤ 32 ∧ (sending 0 .empty).cx.slot 2 = .empty ∧ 0 < mail.rows ∧ mail.rows ≤ 1 := by
  unfold Issues; decide +kernel

/-- Elements that the message does not have are zero. -/
theorem test_recv : rowAfter (.recv 12 2) (sending 0 (.full mail)) 12 0 4 = some [7, 8, 0, 0] ∧
    rowAfter (.recv 12 2) (sending 0 (.full mail)) 12 1 2 = some [0, 0] ∧
    gives (exec (.recv 12 2) (sending 0 .empty)) (fun t => (t.cx.wait.map (·.kind)) == some .recv) = true := by decide +kernel

/-! ### Tasks, traps and system instructions -/

/-- A context at supervisor level in a task's handler. -/
def handler (x : Context) : Context := { x with sup := true, trap := { x.trap with inh := true, epc := tcm + 0x80 } }

theorem test_witness_mill_requests : ((one (withRegs tcmContext [(1, tcm + 0x80), (2, tcm + 0x81)])).cx.reg 1).toNat % 128 = 0 ∧
    ((one (withRegs tcmContext [(1, tcm + 0x80), (2, tcm + 0x81)])).cx.reg 2).toNat % 128 ≠ 0 ∧ (writing 0).planesDead = false ∧
    (∃ w ∈ (writing 0).cx.pend ++ (writing 0).cx.held, w.strm < 8) := by decide

theorem test_gspawn : gives (exec (.gspawn 1) (one (withRegs tcmContext [(1, tcm + 0x80)]))) (fun t =>
      (t.cx.wait.map (·.kind)) == some .mill && t.cx.strip.forced) = true ∧
    gives (exec (.gsig 1) (one (withRegs tcmContext [(1, tcm + 0x81)]))) (fun t =>
      t.cx.trap.cause == 4 && t.cx.trap.val == tcm + 0x81) = true := by decide

theorem test_witness_tend : (one tcmContext).cx.sup = false ∧ Quiet (one tcmContext) ∧ (one tcmContext).cx.task.isSome = true ∧
    (writing 0).cx.pend ++ (writing 0).cx.held ≠ [] ∧ (∀ k < 4, ((writing 0).cx.chan k).cause = 0) ∧
    (one { handler tcmContext with trap := TrapRegs.reset }).cx.trap.task = false := by
  unfold Quiet; decide

theorem test_tend : gives (exec .tend (one tcmContext)) (fun t => t.cx.task.isNone && t.mill.ends.map (·.ctx) == [0] &&
      !t.cx.trap.task) = true ∧
    gives (exec .tend (writing 0)) (fun t => (t.cx.wait.map (·.kind)) == some .tend && t.mill.ends.isEmpty) = true := by decide

theorem test_witness_take_interrupt : interrupted.cx.sup = false ∧ interrupted.cx.ui.act = false ∧
    (interrupted.cx.ui.pend &&& interrupted.cx.ui.en).getLsbD 0 = true ∧ interrupted.cx.task ≠ none ∧
    gives (exec (.userInterruptTake 0) interrupted) (fun t => t.cx.pc == tcm + 64 && t.cx.ui.cause == 1 && t.cx.ui.act &&
      t.cx.ui.epc == tcm && t.cx.ui.pend == 0) = true := by decide

theorem test_witness_uiret : (one { tcmContext with ui := { UserInt.reset with act := true, epc := tcm + 8 } }).cx.ui.act = true ∧
    gives (exec .uiret (one { tcmContext with ui := { UserInt.reset with act := true, epc := tcm + 8 } })) (fun t =>
      t.cx.pc == tcm + 8 && !t.cx.ui.act) = true ∧
    gives (exec .uiret (one tcmContext)) (fun t => t.cx.trap.cause == 1) = true := by decide

theorem test_wait : gives (exec .wait (one tcmContext)) (fun t => (t.cx.wait.map (·.kind)) == some .wake) = true ∧
    gives (exec .wait interrupted) (fun t => t.cx.wait.isNone && t.cx.pc == tcm + 4) = true ∧
    interrupted.cx.ui.pend &&& interrupted.cx.ui.en ≠ 0 ∧ (one tcmContext).cx.ui.pend &&& (one tcmContext).cx.ui.en = 0 := by
  decide

/-- A block that a held write is in, one that is in no window, and code outside the windows. -/
def maintaining (va : Word) : State :=
  one { withRegs tcmContext [(1, va)] with
    held := [{ strm := 2, loose := false, loc := tcmPlace 0 8, key := 0, enc := false, bytes := [1], nib := none, cls := .uncounted, acc := none, pin := false }] }

theorem test_witness_code_maintenance : codeBlocks ((maintaining tcm).cx.reg 1) 0 = [tcm.toNat] ∧
    resolve (maintaining tcm) ((maintaining tcm).cx.acc 0) .load tcm.toNat = .ok (tcmAt 0) ∧
    (∃ w ∈ (maintaining tcm).cx.pend ++ (maintaining tcm).cx.held, w.loc / 64 = (tcmAt 0).loc / 64) ∧
    (∀ w ∈ (maintaining tcm).cx.pend ++ (maintaining tcm).cx.held, ¬ w.loc / 64 = (tcmAt 0x40).loc / 64) ∧
    codeBlocks ((maintaining 0).cx.reg 1) 0 = [0] ∧
    resolve (maintaining 0) ((maintaining 0).cx.acc 0) .load 0 = .error 0x06 := by decide +kernel

theorem test_dcwb : gives (exec (.dcwb 1 0) (maintaining tcm)) (fun t => (t.cx.wait.map (·.kind)) == some .dcwb) = true ∧
    gives (exec (.dcwb 1 0) (maintaining (tcm + 0x40))) (fun t => t.cx.pc == tcm + 4 && t.cx.strip.forced) = true ∧
    gives (exec (.dcwb 1 0) (maintaining 0)) (fun t => t.cx.trap.cause == 6) = true ∧
    gives (exec (.iinv 1 0) (maintaining 0)) (fun t => (t.cx.wait.map (·.kind)) == some .iinv) = true := by decide +kernel

theorem test_witness_traps : (one tcmContext).cx.trap.inh = false ∧ (one (handler tcmContext)).cx.trap.inh = true ∧
    gives (exec (.trap 0xABC) (one tcmContext)) (fun t => t.cx.trap.cause == 0x12 && t.cx.trap.val == 0xABC &&
      t.cx.trap.epc == tcm + 4 && t.cx.pc == tcm + 0x10000 && t.cx.sup) = true ∧
    gives (exec (.trap 5) (one (handler tcmContext))) (fun t => t.cx.stopped && t.cx.trap.cause == 0) = true := by decide

/-- A convoy of one vector load. -/
def faulted (x : Context) : Convoy :=
  { start := tcm, words := [0x36821420], next := tcm + 4, idx := 0, loops0 := [], regs := some x.regs, ctl := none, index := [], passed := true }

/-- A context with a fault in its vector queue, at user level with its fault area in the TCM, and in a handler. -/
def queued (x : Context) : State :=
  one { x with
    trap := { x.trap with frec := 0x007F000000020000 }
    qfault := some { cause := 6, tval := 0x40, elem := 3, rcd := [], cvy := faulted x } }

theorem test_witness_queued_traps : (queued tcmContext).cx.qfault.isSome = true ∧ (queued tcmContext).cx.stopped = false ∧
    (queued tcmContext).cur < 768 ∧ (queued (handler tcmContext)).cx.trap.inh = true ∧
    (let tr : Trap := { cause := 6, tval := 0, queued := true }
     tr.queued = true ∧ (queued { tcmContext with trap := { tcmContext.trap with cocoon := true } }).cx.trap.cocoon = true) ∧
    gives (exec (.queuedTrap 0) (queued (handler tcmContext))) (fun t => t.cx.stopped && t.cx.qfault.isNone) = true := by decide

theorem test_witness_eret : (one (handler tcmContext)).cx.sup = true ∧ (one (handler tcmContext)).cx.trap.task = true ∧
    (one (handler tcmContext)).cx.trap.cocoon = false ∧ (one { handler tcmContext with trap := .reset }).cx.trap.task = false ∧
    gives (exec .eret (one (handler tcmContext))) (fun t => t.cx.pc == tcm + 0x80 && !t.cx.sup && !t.cx.trap.inh) = true ∧
    gives (exec .eret (one tcmContext)) (fun t => t.cx.trap.cause == 0x11 && t.cx.trap.val == 0x4C000010) = true := by decide

theorem test_mfs : gives (exec (.mfs 3 0x60) (one tcmContext)) (fun t => t.cx.reg 3 == 0x10) = true ∧
    gives (exec (.mfs 3 0x68) (one tcmContext)) (fun t => t.cx.reg 3 == 0xE4E4E4E4E4E4E4E4) = true ∧
    gives (exec (.mfs 3 0x100) (one tcmContext)) (fun t => t.cx.trap.cause == 0x11) = true ∧
    gives (exec (.mfs 3 0x06) (one (handler tcmContext))) (fun t => t.cx.stopped) = true := by decide

/-- Rounding mode 6 leaves the field; a cap of 17 too; a generator of 0 becomes 1 (R84, R224, R242). -/
theorem test_mts : gives (exec (.mts 1 0x0A) (one (withRegs tcmContext [(1, 0x1E)]))) (fun t =>
      t.cx.fp.rm == 0 && t.cx.fp.ftz && t.cx.fp.sat8) = true ∧
    gives (exec (.mts 1 0x120) (one (handler (withRegs tcmContext [(1, 17)])))) (fun t => t.cx.cap == 16) = true ∧
    gives (exec (.mts 1 0x130) (one (handler tcmContext))) (fun t => (t.coreAt 0).chkseed == 1) = true ∧
    gives (exec (.mts 1 0x60) (one tcmContext)) (fun t => t.cx.trap.cause == 1) = true := by decide

theorem test_witness_special_registers : (one (handler tcmContext)).cx.sup = true ∧ (one tcmContext).cx.sup = false ∧
    coreCounts (((one tcmContext).coreAt 0).evsel.toList.getD 7 0) = false := by decide

/-- A handler of a task that had an interrupted user level, with an aligned and a misaligned base; and one without. -/
def saving : State := one (withRegs (handler tcmContext) [(1, 0x100000), (2, 0x100080)])

theorem test_witness_saves : saving.cx.sup = true ∧ Quiet saving ∧ saving.cx.trap.task = true ∧ saving.cx.trap.pp = false ∧
    (saving.cx.reg 1).toNat % 2 ^ 20 = 0 ∧ (saving.cx.reg 2).toNat % 2 ^ 20 ≠ 0 ∧ saving.cx.trap.cocoon = false ∧
    saving.planesDead = false ∧ saving.cx.pend ++ saving.cx.held = [] ∧ saving.cx.channelsRest = true ∧
    (one { saving.cx with trap := .reset }).cx.trap.task = false := by
  unfold Quiet; decide

theorem test_csave_traps : gives (exec (.csave 2) { saving with ctxs := [(0, { saving.cx with trap := { saving.cx.trap with inh := false } })] })
      (fun t => t.cx.trap.cause == 4 && t.cx.trap.val == 0x100080) = true ∧
    gives (exec (.cload 1) { saving with ctxs := [(0, { saving.cx with trap := { saving.cx.trap with inh := false } })] })
      (fun t => t.cx.trap.cause == 0x0E) = true ∧
    gives (exec (.tlbinv 1 3) saving) (fun t => (t.cx.wait.map (·.kind)) == some .tlbinv) = true := by decide

/-- The same with a base in the TCM, where the cocoon can be written. -/
def savingTcm : State := one (withRegs (handler tcmContext) [(1, tcm)])

theorem test_witness_csave : (savingTcm.cx.reg 1).toNat % 2 ^ 20 = 0 ∧
    extentFault savingTcm (savingTcm.cx.saverAcc 0) savingTcm.cx.space.ckey.toNat tcm.toNat
      (cocoonLength (bodyAreas savingTcm.cx none)) = none ∧
    (saveTask (forceCommit savingTcm) 2 tcm.toNat savingTcm.cx.trap.epc none).toOption.isSome = true := by decide +kernel

/-- A handler without a task, and a task's cocoon at the base of the TCM: its bytes that are not zero. -/
def loadingTcm : State :=
  { one { withRegs (handler tcmContext) [(1, tcm)] with task := none, trap := { TrapRegs.reset with inh := true } } with
    mem := [(0, 67), (1, 79), (2, 67), (3, 78), (4, 1), (5, 2), (8, 1), (17, 4), (24, 1), (40, 128), (46, 127), (52, 1),
      (121, 240), (122, 3), (126, 127), (257, 3), (270, 127), (528, 1), (593, 1), (792, 16), (832, 1), (840, 1), (848, 1),
      (856, 1)].map fun (e : Nat × Nat) => (tcmPlace 0 e.1, BitVec.ofNat 8 e.2) }

/-- Every condition of the clause on CLOAD holds there. -/
theorem test_witness_cload : (let s := loadingTcm
    let x := s.cx
    (match readBlock s (x.saverAcc s.cur) (some x.space.ckey.toNat) (x.reg 1).toNat 256,
        readCocoon s (x.saverAcc s.cur) x.space.ckey.toNat (x.reg 1).toNat with
      | .ok header, .ok c => (headerFault header).isNone && !parkedElsewhere header s.cur &&
          decide (min (leAt c.header 0x31 1) 16 ≤ x.lanes + s.freeLanes s.cur) &&
          (adoptTask c x.nextPc (touchCocoon (touchBlock s (x.saverAcc s.cur) .load (some x.space.ckey.toNat) (x.reg 1).toNat 256)
            (x.saverAcc s.cur) x.space.ckey.toNat (x.reg 1).toNat header)).toOption.isSome
      | _, _ => false) && gives (exec (.cload 1) s) (fun t => t.cx.task.isSome && t.cx.trap.epc == tcm + 0x80)) = true := by
  decide +kernel

/-- A CLOAD that waited for lanes, and whose lanes are free. -/
def loadWaits : State :=
  { loadingTcm with ctxs := [(0, { loadingTcm.cx with wait := some { kind := .cload, instr := .cload 1, marks := [], place := none } })] }

theorem test_witness_cload_wait : WaitsIn loadWaits 0 .cload (.cload 1) [] ∧ saveDue loadWaits 0 = false ∧
    gives (exec (.cloadLaneGrant 0) loadWaits) (fun t => t.cx.task.isSome && t.cx.wait.isNone && t.cx.saveLen == 0x400 && t.cx.saveKind == 2) = true := by
  unfold WaitsIn WaitsAt; decide +kernel

/-- A queued trap writes its fault cocoon, and ERET reads it back. -/
theorem test_witness_fault_cocoon : gives (exec (.queuedTrap 0) (queued tcmContext)) (fun t => !t.cx.stopped && t.cx.trap.cause == 6 &&
    t.cx.trap.cocoon && t.cx.vsElem == 3 && (reloadDump t).isSome &&
    gives (exec .eret t) (fun u => u.cx.cvy.isSome && !u.cx.trap.cocoon && u.cx.pc == t.cx.trap.epc)) = true := by decide +kernel

/-! ### Events: waits, writes, copies and messages -/

/-- Context 0 waits in an instruction. -/
def waiting (x : Context) (k : WaitKind) (i : Instr) (ms : List (Nat × BitVec 32)) : State :=
  one { x with wait := some { kind := k, instr := i, marks := ms, place := none } }

/-- An event ends the wait of context 0 and retires its instruction. -/
def retires (e : Instr) (s : State) : Bool := gives (exec e s) fun t => t.cx.wait.isNone && t.cx.pc == tcm + 4

theorem test_witness_runs : Runs (waiting tcmContext .wake .wait []) := by unfold Runs; decide

theorem test_witness_waits : WaitsIn (waiting { tcmContext with wake := true } .wake .wait []) 0 .wake .wait [] ∧
    ({ tcmContext with wake := true } : Context).wake = true ∧
    WaitsIn (waiting tcmContext .xwait (.xwait 1 0) [(0, 0)]) 0 .xwait (.xwait 1 0) [(0, 0)] ∧
    ¬ ((0 : BitVec 32) - (tcmContext.chan 0).done - 1).toNat < ((tcmContext.chan 0).next - (tcmContext.chan 0).done - 1).toNat ∧
    AtRest (waiting tcmContext .order (.fence 4 3) []) 0 ∧
    targetsDone (waiting tcmContext .tlbinv (.tlbinv 1 3) []) (tcmContext.dropsOf 1 3) = true := by
  unfold WaitsIn WaitsAt AtRest; decide +kernel

theorem test_waits_end : retires (.waitWake 0) (waiting { tcmContext with wake := true } .wake .wait []) = true ∧
    retires (.xwaitRetire 0) (waiting tcmContext .xwait (.xwait 1 0) [(0, 0)]) = true ∧
    retires (.dcwbComplete 0) (waiting tcmContext .dcwb (.dcwb 1 0) [(5, 0)]) = true ∧
    retires (.iinvComplete 0) (waiting tcmContext .iinv (.iinv 1 0) [(5, 0)]) = true ∧
    retires (.tlbinvComplete 0) (waiting tcmContext .tlbinv (.tlbinv 1 3) []) = true ∧
    retires (.fenceWaitEnd 0) (waiting tcmContext .order (.fence 4 3) []) = true ∧
    gives (exec (.fenceWaitEnd 0) (waiting tcmContext .order (.gspawn 1) [])) (fun t => (t.cx.wait.map (·.kind)) == some .mill) = true ∧
    gives (exec (.fenceWaitEnd 0) (waiting tcmContext .order (.tlbinv 1 3) [])) (fun t => (t.cx.wait.map (·.kind)) == some .tlbinv) = true := by
  decide +kernel

/-- A context waits for lanes: its sibling holds 15 of the 16. -/
def laneWaiter : State :=
  { waiting (withRegs tcmContext [(1, 5), (2, 7)]) .lanes (.vshape 3 1 2 2 0 0 0) [(5, 0)] with
    ctxs := (waiting (withRegs tcmContext [(1, 5), (2, 7)]) .lanes (.vshape 3 1 2 2 0 0 0) [(5, 0)]).ctxs ++
      [(1, { tcmContext with lanes := 15 })] }

theorem test_witness_lane_wait : WaitsIn laneWaiter 0 .lanes (.vshape 3 1 2 2 0 0 0) [(5, 0)] ∧ etypeDefined 2 = true ∧
    laneWaiter.cx.reg 1 ≠ 0 ∧ laneWaiter.cx.reg 2 ≠ 0 ∧ laneWaiter.cx.cap ≠ 0 ∧ laneWaiter.cx.lanes ≤ laneWaiter.cx.cap.toNat ∧
    laneWaiter.cx.lanes + (laneWaiter.ctxAt (siblingOf 0)).lanes < 16 ∧
    gives (exec (.vshapeLaneGrant 0) laneWaiter) (fun t => t.cx.lanes == 1 && t.cx.vrows == 2 && t.cx.vcols == 7 &&
      t.cx.pc == tcm + 4) = true := by
  unfold WaitsIn WaitsAt; decide +kernel

theorem test_tend_and_room_go_on :
    gives (exec (.tendWaitEnd 0) (waiting tcmContext .tend .tend [])) (fun t => t.cx.task.isNone && t.mill.ends.length == 1) = true ∧
    retires (.xcopyEnqueue 0) (one { (copying 15).cx with wait := some { kind := .room, instr := .xcopy 3 4 5 1 1 6, marks := [], place := none } }) = true ∧
    AtRest (waiting tcmContext .tend .tend []) 0 ∧ ((copying 15).cx.chan 1).cause = 0 := by
  unfold AtRest; decide +kernel

/-- A SEND that waits, with its reply; and a RECV whose message has come. -/
def replied (ok : Bool) : State :=
  { one { (sending sendWord .empty).cx with wait := some { kind := .grant, instr := .send 4 1 2, marks := [], place := none }
                                            strip := { Strip.reset with captured := [4] } } with
    fab := { Fabric.reset with
      replies := [({ node := 0, sender := 0, asid := 0, sup := false, dstNode := 0, dst := 767, tag := 2 }, ok)] } }

theorem test_witness_replies (ok : Bool) : let x := (replied ok).cx
    (({ node := 0, sender := 0, asid := x.space.asid, sup := x.sup, dstNode := (x.reg 1).toNat % 1024
        dst := destContext (x.reg 1).toNat, tag := 2 }, ok) : GrantReq × Bool) ∈ (replied ok).fab.replies := by
  cases ok <;> decide +kernel

theorem test_replies : gives (exec (.grantReply 0 true) (replied true)) (fun t =>
      t.fab.flights.map (fun f => (f.dst, f.tag, f.msg.rows, f.msg.cols)) == [(767, 2, 3, 4)] && t.cx.pc == tcm + 4) = true ∧
    gives (exec (.grantReply 0 false) (replied false)) (fun t => t.cx.trap.cause == 9 && t.fab.flights.isEmpty) = true ∧
    retires (.recvSlotFull 0) (one { (sending 0 (.full mail)).cx with
      wait := some { kind := .recv, instr := .recv 12 2, marks := [], place := none } }) = true := by decide +kernel

/-- A committed write in the TCM that nothing must precede. -/
def committed : State :=
  one { tcmContext with
    pend := [{ strm := 2, loose := false, loc := tcmPlace 0 8, key := 0, enc := false, bytes := [7, 0, 9], nib := none, cls := .uncounted
               acc := none, pin := false }] }

theorem test_witness_writes : mayPerform committed 0 0 = true ∧ Memory.wf committed.mem = true ∧
    gives (exec (.bufferedWritePerform 0 0) committed) (fun t => t.cx.pend.isEmpty &&
      t.mem == [(tcmPlace 0 8, 7), (tcmPlace 0 10, 9)]) = true ∧
    gives (exec (.unheldWritePerform 0 0) committed) (fun t => t.cx.pend.isEmpty && t.mem.length == 2) = true := by decide +kernel

/-- A copy of one dword in the TCM, queued and started, and one from an address that no window holds. -/
def copyState (src : Word) (st : CmdState) : State :=
  { one { tcmContext with
      chans := tcmContext.chans.set 1 { CopyChan.reset with
        next := 2
        cmds := [{ id := 1, src := src, dst := tcm + 0x20, esz := 8, dims := [{ ss := 8, ext := 1, ds := 8 }], notify := true
                   space := .reset, sup := false, st := st }] } } with
    mem := [(tcmPlace 0 8, 0x55)] }

theorem test_witness_copy_start : ((copyState (tcm + 8) .queued).cx.chan 1).cmds.length = 1 ∧
    ((copyState (tcm + 8) .queued).cx.chan 1).cmds.all (fun m => mayStart ((copyState (tcm + 8) .queued).cx.chan 1) m &&
      m.addrs == [(tcm + 8, tcm + 0x20)]) = true ∧
    gives (exec (.copyCommandStart 0 1 1) (copyState (tcm + 8) .queued)) (fun t =>
      (t.cx.chan 1).cmds.all fun m => match m.st with
        | .started .. => true
        | _ => false) = true ∧
    gives (exec (.copyCommandStart 0 1 1) (copyState 8 .queued)) (fun t => (t.cx.chan 1).cause == 6 && (t.cx.chan 1).faddr == 8 &&
      t.cx.wake) = true ∧
    gives (exec (.copyCommandComplete 0 1 1) (copyState (tcm + 8) (.started [] [] []))) (fun t => (t.cx.chan 1).cmds.isEmpty &&
      (t.cx.chan 1).done == 1 && memRead t.mem (tcmPlace 0 0x20) == 0x55 && t.cx.ui.pend == 1) = true := by decide +kernel

theorem test_witness_append_notice :
    (one { tcmContext with appends := [{ target := 9, tail := 6, items := [] }] }).cx.appends.all (fun a => !a.waits tcmContext) = true ∧
    gives (exec (.vcappThresholdNotify 0 0) (one { tcmContext with appends := [{ target := 9, tail := 6, items := [] }] })) (fun t =>
      t.cx.appends.isEmpty && (t.ctxAt 9).ui.pend == 2 && (t.ctxAt 9).ui.held.toList.getD 1 0 == 6) = true := by decide +kernel

/-- A request for slot 1 of context 0, whose ASID is 3: of the same ASID, of another, from supervisor level, and to a
context without a task. -/
def requested (asid : BitVec 16) (sup : Bool) (dst : Nat) (slot : RecvSlot) : State :=
  { one { tcmContext with space := { Space.reset with asid := 3 }, recv := (Vector.replicate 4 .empty).set 1 slot } with
    fab := { Fabric.reset with
      requests := [{ node := 0, sender := 4, asid := asid, sup := sup, dstNode := 0, dst := dst, tag := 1 }]
      flights := match slot with
        | .reserved _ _ => [{ plane := 0, dstNode := 0, dst := 0, tag := 1, msg := { mail with sender := 4 } }]
        | _ => [] } }

theorem test_witness_requests : gives (exec (.grantRequest 0) (requested 3 false 0 .empty)) (fun t =>
      t.fab.replies.map (·.2) == [true] && t.cx.slot 1 == .reserved 0 4) = true ∧
    gives (exec (.grantRequest 0) (requested 7 false 0 .empty)) (fun t => t.fab.replies.map (·.2) == [false]) = true ∧
    gives (exec (.grantRequest 0) (requested 7 true 0 .empty)) (fun t => t.fab.replies.map (·.2) == [true]) = true ∧
    gives (exec (.grantRequest 0) (requested 3 false 5 .empty)) (fun t => t.fab.waiting.length == 1) = true ∧
    gives (exec (.grantRequest 0) (requested 3 false 0 (.full mail))) (fun t => t.fab.waiting.length == 1) = true := by decide +kernel

theorem test_witness_arrival : (requested 3 false 0 (.reserved 0 4)).cx.slot 1 = .reserved 0 4 ∧
    (requested 3 false 0 (.reserved 0 4)).fab.flights.length = 1 ∧
    gives (exec (.messageArrival 0 1) (requested 3 false 0 (.reserved 0 4))) (fun t => t.cx.slot 1 == .full { mail with sender := 4 } &&
      t.fab.flights.isEmpty && t.cx.ui.pend == 4 && t.cx.ui.held.toList.getD 2 0 == 1 + 4 * 2 ^ 12) = true := by decide +kernel

/-! ### Events: planes and the mill -/

/-- Port 0 belongs to plane 0, port 47 to plane 3; the last live plane dies without a moult. -/
theorem test_planes : gives (exec (.portDown 47) { State.reset with host := heard }) (fun t => t.fab.dead == 8 && t.fab.undealt == 8 &&
      t.host.msix == [(1, 3), (2, 3)]) = true ∧
    gives (exec (.planeDeathLearned 3) { State.reset with fab := { Fabric.reset with dead := 7 } }) (fun t =>
      t.fab.dead == 15 && t.fab.undealt == 0) = true ∧
    gives (exec (.meshUncorrectableError 1 2) { State.reset with fab := { Fabric.reset with dead := 4 } }) (fun t => t.fab.dead == 4) = true := by
  decide

/-- Plane 0's 16 buckets are dealt to planes 1, 2, 3, 1, ... (R202). -/
theorem test_moult : (let s := { State.reset with fab := { Fabric.reset with dead := 1, undealt := 1 } }
    s.fab.undealt ≠ 0 ∧ s.migration = none ∧ (∀ e ∈ s.ctxs, ∀ w ∈ e.2.pend, w.acc = none) ∧
    gives (exec .moultRemap s) (fun t => t.fab.undealt == 0 && t.host.moults == 1 &&
      (List.range 13).map (fun b => t.fab.map.toNat / 4 ^ b % 4) == [1, 1, 2, 3, 2, 1, 2, 3, 3, 1, 2, 3, 1]) = true) := by decide +kernel

theorem test_witness_launch_queue : (State.reset.host.queue 1).length < 8 ∧
    8 ≤ ({ State.reset.host with queues := State.reset.host.queues.set 0 (List.replicate 8 0) }.queue 1).length ∧
    gives (exec (.launchWrite 1 8 5) State.reset) (fun t => t.host.queue 1 == [5]) = true ∧
    gives (exec (.launchWrite 1 4 5) State.reset) (fun t => t.host.queue 1 == []) = true ∧
    gives (exec (.launchWrite 1 8 5) { State.reset with host := { HostBlk.reset with
      queues := HostBlk.reset.queues.set 0 (List.replicate 8 0) } }) (fun t => t.host.ovf.toList == [true, false, false]) = true := by decide


/-! ### Events: launches and tasks -/

/-- Bytes of a module: a page table at 0x100000 under which the first 2^29 addresses are the own HBM, and some values. -/
def mappedMem (vs : List (Nat × Nat × Nat)) : List Host.Cell :=
  ([(0x100000, 8, 0x80000001), (0x200000, 8, 0x1F)] ++ vs).foldl (fun m (e : Nat × Nat × Nat) => memWriteN m e.1 (valBytes e.2.1 e.2.2)) []

/-- A module whose SPACE entry 2 uses that page table, as ASID 3 that may reach every frame, with a ready string 0. -/
def mapped (vs : List (Nat × Nat × Nat)) : State :=
  let s : State := { State.reset with
    mem := mappedMem vs, keys := [(0, 0), (5, 7)]
    tables := [(tableKey 0 0 0 0, 3 <<< 12), (tableKey 0 0 0 1, 0xC0FFFFFFF0000000)]
    host := { heard with
      booted := true, bootst := 1, spaces := [(2, { ptroot := 0x100000, asid := 3, keydef := 0x50005, valid := true })] } }
  s.setStr 0 { s.strAt 0 with rdy := true }

/-- A launch block at 0x50000 with no roots and no parameters, whose word is at 0x53000. -/
def launching (v : Word) : State :=
  let s := mapped [(0x50004, 4, 2), (0x50018, 8, 0), (0x50030, 8, 0x1FFFFFFF), (0x50038, 8, 0x53000)]
  { s with host := { s.host with queues := s.host.queues.setIfInBounds 0 [v] } }

theorem test_witness_launch_rejected : (launching 0x0300000000050000).host.queue 1 = [0x0300000000050000] ∧
    (∀ k, 1 ≤ k → k ≤ 3 → k ≠ 1 → (launching 0x0300000000050000).host.queue k = []) ∧
    (tabGet ⟨0, 0, 0, false⟩ (launching 0x0300000000050000).host.spaces 3).valid = false ∧
    gives (exec .launchAccept (launching 0x0300000000050000)) (fun t => t.host.lbad.toList.getD 0 0 == 0x0300000000050000 &&
      t.host.bad.toList == [true, false, false] && t.host.msix == [(1, 2)]) = true := by
  refine ⟨by decide +kernel, ?_, by decide +kernel, by decide +kernel⟩
  intro k a b c
  have : k = 2 ∨ k = 3 := by omega
  rcases this with rfl | rfl <;> decide +kernel

theorem test_witness_launch_accepted : (let s := launching 0x0200000000050000
    let v : Word := 0x0200000000050000
    let u := { s with host := { s.host with queues := s.host.queues.setIfInBounds 0 [] } }
    let l b := launchOf (s.mill.nextNum + 1) 1 v (.ofWords 0x100000 3 0x50005) b
    (match readBlock u (l []).acc none (v.toNat % 2 ^ 55) 64 with
      | .ok b => wordWritable u (l b) && (lowestCause (blockCauses u (l b) (v.toNat % 2 ^ 55) b)).isNone
      | .error _ => false) = true) ∧
    gives (exec .launchAccept (launching 0x0200000000050000)) (fun t => t.host.accepted && t.mill.launches.map (·.word) == [0x53000] &&
      t.mill.launches.map (·.ceiling) == [31] && t.mill.launches.map (·.msix) == [true]) = true := by decide +kernel

/-- A launch of that space, a ready record at 0x20000 of 3 tasks, and a module that holds both. -/
def lnch : Launch :=
  { num := 1, master := 1, value := 0, space := .ofWords 0x100000 3 0x50005, roots := [], msix := true, params := [0x77]
    paramAddr := 0x52000, pool := 0, poolLen := 0, mask := 0xFFFFFF, ceiling := 31, word := 0x53000, replayable := false
    pooled := false, replays := 0, tearing := false, failed := none }

def ready : Rec :=
  { Rec.fresh 1 0x20000 with
    wasReady := true, readyNo := some 0, entry := 0x10000, param := 0x40, ext := [3, 1, 1, 1], order := 0xE4
    blocking := [0, 0, 0, 0], prio := 5, dispatched := 1, saveBase := 0x10000000 }

def millState (l : Launch) (rs : List Rec) (xs : List (Nat × Context)) : State :=
  let s := mapped []
  { s with mill := { s.mill with launches := [l], recs := rs, nextNum := 1, nextReady := 1 }, ctxs := xs }

theorem test_witness_dispatch : (let s := millState lnch [ready] []
    restorable s = none ∧ chooseNotice s = none ∧ (choose s).map (fun e => (e.1.num, e.2.1.addr, e.2.2)) = some (1, 0x20000, 0) ∧
    (writeBlock s lnch.acc none (ready.addr.toNat + 0x50) (valBytes 8 2)).isSome = true) ∧
    gives (exec .dispatchPick (millState lnch [ready] [])) (fun t => (t.ctxAt 0).start.map (fun i => (i.idx, i.seq)) == some ([1, 0, 0, 0], 1) &&
      memRead t.mem 0x20050 == 2) = true := by decide +kernel

/-- The task of that record, dispatched onto context 0. -/
def heldTask : HeldTask := { launch := 1, rcd := 0x20000, prio := 5, weight := 0 }

def dispatched : Context :=
  { Context.reset with
    task := some heldTask, start := some { idx := [4, 3, 2, 1], seq := 9, entry := 0x10000, param := 0x40, space := lnch.space } }

theorem test_witness_task_start : (millState lnch [ready] [(0, dispatched)]).launch 1 = some lnch ∧
    gives (exec (.taskStart 0) (millState lnch [ready] [(0, dispatched)])) (fun t => t.cx.pc == 0x10000 &&
      (List.range 9).map (fun r => (t.cx.reg (.ofNat 5 r)).toNat) == [0, 4, 3, 2, 1, 0x40, 9, 0x20000, 0] && t.cx.cpol == 3 &&
      t.cx.cap == 16 && t.cx.fp.seed == 0xACE1234C) = true := by decide +kernel

theorem test_witness_retirement : (let s := millState lnch [ready] []
    let t := { s with mill := { s.mill with ends := [{ ctx := 5, task := heldTask }, { ctx := 2, task := heldTask }] } }
    (∀ f ∈ t.mill.ends, f ≠ ⟨2, heldTask⟩ → 2 < f.ctx) ∧ t.liveLaunch 1 = some lnch ∧ t.rcd 1 0x20000 = some ready ∧
    ready.retired + 1 ≠ ready.total ∧
    gives (exec .tendRetirement t) (fun t => t.mill.ends.map (·.ctx) == [5] && memRead t.mem 0x20040 == 1) = true) := by
  decide +kernel

/-- Context 0 waits for the mill to take its request about the record at 0x20080, whose count is 2. -/
def asking (i : Instr) : State :=
  let s := millState lnch [] [(0, { withRegs tcmContext [(1, 0x20080)] with
    task := some heldTask, wait := some { kind := .mill, instr := i, marks := [], place := none } })]
  { s with mem := memWriteN s.mem 0x200B0 (valBytes 4 2) }

theorem test_witness_requests_of_tasks : WaitsIn (asking (.gspawn 1)) 0 .mill (.gspawn 1) [] ∧
    WaitsIn (asking (.gsig 1)) 0 .mill (.gsig 1) [] ∧
    recPlace (asking (.gspawn 1)) lnch 0x20080 = some 0x20080 ∧ trackedAt (asking (.gspawn 1)) 0x20080 = none ∧
    (match readBlock (asking (.gspawn 1)) lnch.acc none 0x200B0 4 with
      | .ok b => bytesVal b
      | .error _ => 0) = 2 ∧
    gives (exec (.spawnRequest 0) (asking (.gspawn 1))) (fun t => t.mill.recs.map (·.addr) == [0x20080] && t.cx.wait.isNone &&
      t.cx.pc == tcm + 4) = true ∧
    gives (exec (.signalRequest 0) (asking (.gsig 1))) (fun t => memRead t.mem 0x200B0 == 1 && t.cx.wait.isNone) = true := by
  unfold WaitsIn WaitsAt; decide +kernel

theorem test_witness_completion : launchOver (millState lnch [] []) lnch = true ∧
    (writeBlock (millState lnch [] []) lnch.acc none lnch.word.toNat (valBytes 4 1)).isSome = true ∧
    gives (exec (.completionWordWrite 1) (millState lnch [] [])) (fun t => memRead t.mem 0x53000 == 1 && t.host.msix == [(1, 0)] &&
      t.mill.launches.isEmpty) = true ∧
    gives (exec (.completionWordWrite 1) (millState { lnch with failed := some 0x0C } [] [])) (fun t =>
      memRead t.mem 0x53000 == 0x0C && memRead t.mem 0x53003 == 0x80) = true := by decide +kernel

theorem test_witness_replay : contextsGone (millState { lnch with tearing := true } [] []) 1 = true ∧
    (millState { lnch with tearing := true } [] []).flows = true ∧
    gives (exec (.replayRerun 1) (millState { lnch with tearing := true } [] [])) (fun t => memRead t.mem 0x52000 == 0x77 &&
      t.mill.launches.map (fun l => (l.replays, l.tearing)) == [(1, false)]) = true := by decide +kernel

/-! ### Events: saves and ends -/

/-- A victim of a notice that stands between convoys with its window used up. -/
def victim : Context :=
  { tcmContext with notice := some { recs := [], evict := true, convoys := 0xFFFF }, held := (maintaining tcm).cx.held }

theorem test_witness_window : (one victim).flows = true ∧ ((one victim).coreAt 0).preemptwin.toNat ≤ 0xFFFF ∧
    gives (exec (.preemptwinExpiry 0) (one victim)) (fun t => t.cx.saving && t.cx.held.isEmpty && t.cx.pend.length == 1) = true := by
  decide +kernel

/-- A task whose save is due to be written. -/
def saveState : State := millState lnch [ready] [(0, { tcmContext with task := some heldTask, saving := true, space := lnch.space })]

theorem test_witness_whole_save : saveState.cx.channelsRest = true ∧ (saveState.liveLaunch 1).isSome = true ∧ saveState.flows = true ∧
    saveState.rcd 1 0x20000 = some ready ∧
    (saveTask saveState 1 (ready.saveBase.toNat + 0 * 2 ^ 20) saveState.cx.pc none).toOption.isSome = true := by decide +kernel

theorem test_witness_ends : (millState { lnch with failed := some 4 } [ready] [(0, { tcmContext with task := some heldTask })]).launch 1
      = some { lnch with failed := some 4 } ∧
    gives (exec (.taskEndByMill 0) (millState { lnch with failed := some 4 } [ready] [(0, { tcmContext with task := some heldTask })]))
      (fun t => t.cx.task.isNone && t.cx.trap.task == false) = true ∧
    gives (exec (.taskEndedByRuntime 0) (millState lnch [ready] [(0, { tcmContext with task := some heldTask, stopped := true })]))
      (fun t => t.mill.launches.map (·.failed) == [some 0x0E] && t.cx.task.isNone) = true := by decide +kernel

/-! ### Events: strings, the host block and errors -/

/-- A powered string as given, and SEMA held by master 1. -/
def strung (t : Str) : State := { State.reset.setStr 0 t with host := { heard with owner := 1, booted := true, bootst := 1 } }

/-- String 0 as after reset, but ready. -/
def rdyStr : Str := { State.reset.strAt 0 with rdy := true }

theorem test_witness_strings : ((strung rdyStr).strAt 0).step < 2 ∧ 0 < ((strung { rdyStr with step := 2 }).strAt 0).step ∧
    gives (exec (.adjunctRequest 0 3 true) (strung rdyStr)) (fun t => (t.strAt 0).adjreq == 4) = true ∧
    gives (exec (.throttleDown 0) (strung { rdyStr with adjreq := 3 })) (fun t => (t.strAt 0).step == 1 && (t.strAt 0).adjreq == 0) = true ∧
    gives (exec (.throttleUp 0) (strung { rdyStr with step := 1, cap := 1, adjreq := 3 })) (fun t => (t.strAt 0).step == 0 &&
      (t.strAt 0).adjreq == 3) = true ∧
    gives (exec (.stringFloor 0) (strung { rdyStr with step := 2, adjreq := 1 })) (fun t => (t.strAt 0).floor && t.host.msix == [(1, 4), (2, 4)]) = true := by
  decide +kernel

theorem test_witness_power : (let t := strung { rdyStr with rdy := false, pwr := true, step := 1 }
    (t.strAt 0).pwr = true ∧ (t.strAt 0).rdy = false ∧
    gives (exec (.stringPowered 0) t) (fun u => (u.strAt 0).rdy && (u.strAt 0).step == 0) = true) ∧
    (let t := strung { rdyStr with pwr := false }
    strBusy t 0 = false ∧ gives (exec (.stringUnpowered 0) t) (fun u => !(u.strAt 0).rdy) = true) := by decide +kernel

theorem test_witness_die_registers : (strung rdyStr).host.owner = 1 ∧ (strung rdyStr).host.bootst = 1 ∧
    (∀ e ∈ (strung rdyStr).ctxs, e.2.task = none) ∧ (one tcmContext).cx.task ≠ none ∧ State.reset.host.owner ≠ 1 ∧
    gives (exec (.partszWrite 1 1 4) (strung rdyStr)) (fun t => (t.dieAt 1).partsz == 4 && !t.host.rej) = true ∧
    gives (exec (.partszWrite 1 1 9) (strung rdyStr)) (fun t => (t.dieAt 1).partsz == 0 && t.host.rej) = true ∧
    gives (exec (.partszWrite 1 1 4) State.reset) (fun t => t.host.rej) = true ∧
    gives (exec (.strcapWrite 1 0 0b1001) (strung rdyStr)) (fun t => (t.strAt 0).cap == 1 && (t.strAt 1).cap == 2) = true := by
  decide +kernel

/-- Gating (R289): the string is held and idle before its power request goes. -/
theorem test_witness_gating : (∀ k < 12, ((strung { rdyStr with hold := true }).strAt (12 * 0 + k)).pwr = true →
      (0xFFE : Word).getLsbD k = false → ((strung { rdyStr with hold := true }).strAt (12 * 0 + k)).hold = true ∧
        strBusy (strung { rdyStr with hold := true }) (12 * 0 + k) = false) ∧
    gives (exec (.strpwrWrite 1 0 0xFFE) (strung { rdyStr with hold := true })) (fun t => !(t.strAt 0).pwr && (t.strAt 1).pwr &&
      !t.host.rej) = true ∧
    gives (exec (.strpwrWrite 1 0 0xFFE) (strung rdyStr)) (fun t => (t.strAt 0).pwr && t.host.rej) = true := by decide +kernel

/-- SEMA held by master 1, with one host register as given. -/
def owned : State := { State.reset with host := { HostBlk.reset with owner := 1, keydata := HostBlk.reset.keydata.set 0 5 } }

theorem test_witness_host_commands : owned.host.owner = 1 ∧ owned.host.accepted = false ∧ owned.host.qgo = false ∧
    ({ owned.host with accepted := true }.owner = 1 ∧ owned.host.booted = false ∧ owned.flows = true) ∧
    Runs { owned with host := { owned.host with atflush := true } } ∧
    targetsDone { owned with host := { owned.host with atflush := true } } (fun _ => true) = true ∧
    gives (exec (.semaRead 2) owned) (fun t => t.host.lastRead == 1) = true ∧
    gives (exec (.semaRead 2) State.reset) (fun t => t.host.lastRead == 2 && t.host.owner == 2) = true ∧
    gives (exec (.pcieLinkDown 1) owned) (fun t => t.host.owner == 0) = true ∧
    gives (exec (.keycmdLoad 1 9) owned) (fun t => tabFind t.keys 9 == some 5) = true ∧
    gives (exec .atflushDone { owned with host := { owned.host with atflush := true } }) (fun t => !t.host.atflush) = true ∧
    gives (exec .quoteReady { owned with host := { owned.host with qgo := true } }) (fun t => !t.host.qgo) = true := by
  unfold Runs; decide +kernel

theorem test_witness_bar2 : bar2Place owned 0x40 8 false = some 0x40 ∧ bar2Place owned 0x40 8 true = some 0x40 ∧
    bar2Place owned (2 ^ 60) 8 false = none ∧ bar2Place owned (2 ^ 60) 8 true = none ∧ Memory.wf owned.mem = true ∧
    gives (exec (.bar2Write 0x40 4 0x11223344) owned) (fun t => t.mem == [(0x40, 0x44), (0x41, 0x33), (0x42, 0x22), (0x43, 0x11)]) = true ∧
    gives (exec (.bar2Read 0x41 2) { owned with mem := [(0x41, 0x33), (0x42, 0x22)] }) (fun t => t.host.lastRead == 0x2233) = true ∧
    gives (exec (.bar2Read (2 ^ 60) 2) owned) (fun t => t.host.lastRead == 0xFFFF) = true := by decide +kernel

theorem test_register_writes : gives (exec (.registerWrite 1 0x28 8 0x123FFFFFFFF) owned) (fun t => t.host.bar2base == 0x123C0000000) = true ∧
    gives (exec (.registerWrite 1 0x50 4 0) owned) (fun t => t.host.scrubp == 1) = true ∧
    gives (exec (.registerWrite 2 0x50 4 7) owned) (fun t => t.host.scrubp == HostBlk.reset.scrubp && t.host.rej) = true ∧
    gives (exec (.registerWrite 1 0x20000 8 5) { owned with host := { owned.host with accepted := true } }) (fun t =>
      t.host.nodeid == 0 && t.host.rej) = true ∧
    gives (exec (.registerWrite 1 0x22 4 7) owned) (fun t => t.host == owned.host) = true := by decide +kernel

/-- Context 0 executes a convoy with one member to go, whose word is as given; its last checkpoint is at the TCM's start. -/
def checkedConvoy (w : BitVec 32) : State :=
  one { withRegs tcmContext [(3, 9)] with
    pc := tcm + 0x40, cvy := some { start := tcm + 0x40, next := tcm + 0x44, words := [w], idx := 0, loops0 := [], regs := none, ctl := none, index := [], passed := false }
    lanes := 1, vrows := 2, vcols := 2, vtype := { ill := false, glog := 0, ta := false, ix := false, etype := 2 }
    ckpt := { Checkpoint.reset with mask := 8, resume := tcm } }

theorem test_witness_mismatch : (checkedConvoy 0x2A211800).cx.strip.forced = false ∧ (checkedConvoy 0x2A211800).cx.strip.pinned < 4 ∧
    isChecked 0x2A211800 = true ∧ isChecked 0x04117FFD = false ∧ (checkedConvoy 0x2A211800).cx.ui.act = (checkedConvoy 0x2A211800).cx.ckpt.act ∧
    gives (exec (.checkerMismatch 0) (checkedConvoy 0x2A211800)) (fun t => t.cx.pc == tcm && t.cx.cvy.isNone && t.cx.reg 3 == 0 &&
      t.cx.strip.pinned == 1) = true ∧
    gives (exec (.checkerMismatch 0) (checkedConvoy 0x04117FFD)) (fun t => t.cx.cvy.isSome) = true ∧
    gives (exec (.uncorrectableError 0 true false true) (checkedConvoy 0x04117FFD)) (fun t => t.cx.pc == tcm) = true := by
  decide +kernel

/-- The same with a launch that its task belongs to. -/
def launched (replays : Nat) (rep : Bool) : State :=
  { checkedConvoy 0x04117FFD with
    mill := { Mill.reset with launches := [{ lnch with num := 0, replays := replays, replayable := rep }] } }

theorem test_witness_unpinnable : (launched 0 true).launch (launched 0 true).cx.launchNo = some { lnch with num := 0, replayable := true } ∧
    gives (exec (.uncorrectableError 0 false true true) (launched 2 true)) (fun t => t.mill.launches.map (·.tearing) == [true] &&
      t.cx.trap.cause == 0x10 && t.cx.trap.val == tcm + 0x40 && t.cx.sup) = true ∧
    gives (exec (.uncorrectableError 0 false true true) (launched 3 true)) (fun t =>
      t.mill.launches.map (fun l => (l.tearing, l.failed)) == [(false, some 0x0F)]) = true := by decide +kernel

theorem test_witness_patrol : State.reset.patrols 77 = true ∧ State.reset.patrols (2 ^ 37) = false ∧
    gives (exec (.patrolVisit 77 true true) State.reset) (fun t => tabFind t.poison 77 == some (BitVec.allOnes 128) &&
      t.patrol == [(77, 0)]) = true := by decide +kernel

/-- A task in a space whose page 0 is 64 KiB of node 1 under key slot 5; the own pool has frames 4 to 11. -/
def movable : State :=
  let s := mapped []
  { s with
    mem := [(0x100000, 8, 0x80000001), (0x200000, 8, 0xC0000001), (0x300000, 8, 0x1401F + 2 ^ 54)].foldl
      (fun m (e : Nat × Nat × Nat) => memWriteN m e.1 (valBytes e.2.1 e.2.2)) []
    keys := [(0, 0), (5, 7), (4096 + 5, 9)]
    tables := [(tableKey 0 0 0 0, 3 <<< 12), (tableKey 0 0 0 1, 0xC0FFFFFFF0000000), (tableKey 1 0 0 0, 3 <<< 12),
      (tableKey 1 0 0 1, 0xC0FFFFFFF0000000)]
    host := { s.host with torus := 1, migbase := 0x40000, miglen := 8 }
    ctxs := [(0, { tcmContext with space := .ofWords 0x100000 3 0x50005 })] }

theorem test_witness_move : ((moveOf movable 0 0 0 7).map fun m => (m.moves, m.entry.key, m.entry.leaf, m.newPage)) =
      some (0, 5, 0x300000, 7 * 2 ^ 16) ∧
    gives (exec (.pageMigration 0 0 0 7) movable) (fun t => t.migration.isSome) = true ∧ Memory.wf movable.mem = true := by
  decide +kernel

theorem test_witness_migration : ∃ mig s, s = { movable with migration := some mig } ∧ s.migration = some mig ∧ mig.moves < 4 ∧
    mig.destNode < 1024 ∧ mig.destFrame < 2 ^ 28 ∧ Memory.wf s.mem = true :=
  ⟨{ entry := ⟨0, 16, 3, false, 0x300000, 1, 0, 5, true, true, true, true, false, false, false, []⟩, moves := 0, destNode := 0
     destFrame := 7 }, _, rfl, rfl, by decide, by decide, by decide, by decide +kernel⟩

/-! ### BAR0 as a bus, and objects -/

/-- Registers read as R280, R281 and R285 say. -/
theorem test_bus_reads : gives (busRead 1 0x20 8 State.reset) (fun t => t.host.lastRead == 0x1010101008040201) = true ∧
    gives (busRead 1 0x24 4 State.reset) (fun t => t.host.lastRead == 0x10101010) = true ∧
    gives (busRead 2 0x100010 8 State.reset) (fun t => t.host.lastRead == 0xFFF) = true ∧
    gives (busRead 3 0x20010 4 State.reset) (fun t => t.host.lastRead == 0xF) = true ∧
    gives (busRead 1 0x400000 4 State.reset) (fun t => t.host.lastRead == 0xFFFFFFFF) = true ∧
    gives (busRead 1 0x21 4 State.reset) (fun t => t.host.lastRead == 0xFFFFFFFF) = true ∧
    gives (busRead 2 0 8 State.reset) (fun t => t.host.lastRead == 2 && t.host.owner == 2) = true := by decide +kernel

/-- A write on the bus acts as the register's own row does (R281, R282). -/
theorem test_bus_writes : gives (busWrite 1 0x08 8 0x40 owned) (fun t => t.host.queue 1 == [0x40]) = true ∧
    gives (busWrite 1 0x08 4 0x40 owned) (fun t => t.host.queue 1 == []) = true ∧
    gives (busWrite 1 0x38 4 1 owned) (fun t => t.host.atflush) = true ∧
    gives (busWrite 2 0x38 4 1 owned) (fun t => !t.host.atflush && t.host.rej) = true ∧
    gives (busWrite 1 0x100000 8 3 owned) (fun t => (t.dieAt 0).partsz == 3) = true ∧
    gives (busWrite 1 0x2000 8 0x20000 owned) (fun t => t.host == owned.host) = true ∧
    gives (busWrite 1 0 4 0 owned) (fun t => t.host.owner == 0) = true := by decide +kernel

/-- The two records of R275's example. -/
def firstRecord : AsmRecord := { extents := [8], priority := 16, succ := ["second"] }
def secondRecord : AsmRecord := { extents := [2, 3], order := [1, 0, 2, 3], priority := 16, cls := 4 }

theorem test_record_images :
    let rs := [("first", firstRecord), ("second", secondRecord)]
    let a := firstRecord.image 1 0x10 (asmReferences rs "first")
    let b := secondRecord.image 1 0x10 (asmReferences rs "second")
    a.length = 128 ∧ b.length = 128 ∧ (a.drop 0x10).take 16 = [8, 0, 0, 0, 1, 0, 0, 0, 1, 0, 0, 0, 1, 0, 0, 0] ∧
    (a.getD 0x20 0, b.getD 0x20 0) = (0xE4, 0xE1) ∧ (a.drop 0x25).take 7 = [0x10, 0, 0, 0, 0, 1, 0x10] ∧
    (b.drop 0x25).take 2 = [0x10, 4] ∧ (objField a 0x30 4, objField b 0x30 4) = (0, 1) ∧
    (objField a 0x34 4, objField b 0x34 4) = (1, 0) ∧
    (firstRecord.addresses true).length + (secondRecord.addresses true).length + 1 = 6 := by decide +kernel

/-- Relocations (R262), lines with '+' (R271), expressions (R272), suffixes (R273) and padding (R274). -/
theorem test_relocations : relocValue 4 0x1A100000 (0x1000 : Int) 0x1008 = some 0x1A1FFFFE ∧
    relocValue 5 0x1C000000 (0x1002 : Int) 0x1000 = none ∧ relocValue 2 0 (2 ^ 32 : Int) 0 = none ∧
    relocValue 1 0 (-1 : Int) 0 = some 0xFFFFFFFFFFFFFFFF ∧ relocValue 3 0 (0 : Int) 4 = some 0xFFFFFFFC ∧
    relocValue 0 0 (0 : Int) 0 = none ∧ featureAtMost 0x10 0x10 = true ∧ featureAtMost 0x11 0x10 = false := by decide +kernel

theorem test_assembly : asmWords [.word false false 0x28000000, .word true false 0x28000000] = some [0xA8000000, 0x28000000] ∧
    asmWords [.word false false 0x4C000050, .word true false 0x28000000] = none ∧
    asmWords [.word false false 0x28000000, .directive, .word true false 0x28000000] = none ∧
    AsmExpr.eval (fun _ => none) 0 (.binary .shr (.unary .neg (.int 8)) (.int 1)) = some (-4) ∧
    AsmExpr.eval (fun _ => none) 0 (.binary .div (.int 8) (.int 0)) = none ∧
    suffixValue true [.b, .g 3, .m] .mode = 4 ∧ suffixValue false [.b, .z] .isUnsigned = 1 ∧
    suffixesFine false [.z, .b] = false ∧ suffixesFine false [.b, .z] = true ∧
    AsmData.bytes .text 4 (.align 8) = some [0x50, 0, 0, 0x4C] ∧ AsmData.bytes .bss 0 (.ints 1 [1]) = none := by decide +kernel

/-! ### Boundary cases of the statements -/

/-- The operands 1 and 3, and 3 as the third operand in s3. -/
def f64t (a b c : Nat) : State := one (withRegs tcmContext [(1, .ofNat 64 a), (2, .ofNat 64 b), (3, .ofNat 64 c)])

def oneThird : State := f64t 0x3FF0000000000000 0x4008000000000000 0x4008000000000000

theorem test_witness_finite_operands : isFinite (sfmt 0) (sourceBits oneThird 0 1) ∧ isFinite (sfmt 0) (sourceBits oneThird 0 2) ∧
    isFinite (sfmt 0) (sourceBits oneThird 0 3) := by decide

theorem number_of_one : number .f64 false 0x3FF0000000000000 = 1 := by
  norm_num [number, minus, magnitude, FFmt.signBit, FFmt.ebits, FFmt.mbits, FFmt.bias]

theorem number_of_three : number .f64 false 0x4008000000000000 = 3 := by
  norm_num [number, minus, magnitude, FFmt.signBit, FFmt.ebits, FFmt.mbits, FFmt.bias]

theorem test_witness_positive_operands : 0 < number (sfmt 0) oneThird.cx.fp.ctl.ftz (sourceBits oneThird 0 1) ∧
    number (sfmt 0) oneThird.cx.fp.ctl.ftz (sourceBits oneThird 0 2) ≠ 0 := by
  have h1 : number (sfmt 0) oneThird.cx.fp.ctl.ftz (sourceBits oneThird 0 1) = 1 := number_of_one
  have h2 : number (sfmt 0) oneThird.cx.fp.ctl.ftz (sourceBits oneThird 0 2) = 3 := number_of_three
  rw [h1, h2]; norm_num

theorem test_witness_order_of_numbers : below (sfmt 0) false 0x3FF0000000000000 0x4008000000000000 ∧
    ¬ below (sfmt 0) false 0x3FF0000000000000 0x3FF0000000000000 ∧ isNumber (sfmt 0) 0x3FF0000000000000 ∧
    ¬ isNumber (sfmt 0) 0x7FF8000000000000 := by
  refine ⟨⟨.inl (by decide), .inl (by decide), .inl ⟨by decide, by decide, ?_⟩⟩, ?_, .inl (by decide), ?_⟩
  · show number .f64 false 0x3FF0000000000000 < number .f64 false 0x4008000000000000
    rw [number_of_one, number_of_three]; norm_num
  · rintro ⟨-, -, ⟨-, -, h⟩ | ⟨h, -⟩ | ⟨h, -⟩⟩
    · exact lt_irrefl _ h
    · exact h (by decide)
    · exact h (by decide)
  · unfold isNumber; decide

/-- 0 × inf in both orders, inf × inf and inf × 1, and finite factors with an infinite addend. -/
theorem test_witness_infinite_products : ZeroTimesInf (source (f64t 0 0x7FF0000000000000 0) 0 1) (source (f64t 0 0x7FF0000000000000 0) 0 2) ∧
    ZeroTimesInf (source (f64t 0 0x7FF0000000000000 0) 0 2) (source (f64t 0 0x7FF0000000000000 0) 0 1) ∧
    InfProduct (source (f64t 0x7FF0000000000000 0xFFF0000000000000 0) 0 1) (source (f64t 0x7FF0000000000000 0xFFF0000000000000 0) 0 2) true ∧
    InfProduct (source (f64t 0x7FF0000000000000 0x3FF0000000000000 0) 0 1) (source (f64t 0x7FF0000000000000 0x3FF0000000000000 0) 0 2) false ∧
    InfProduct (source (f64t 0x3FF0000000000000 0x7FF0000000000000 0) 0 1) (source (f64t 0x3FF0000000000000 0x7FF0000000000000 0) 0 2) false ∧
    (source (f64t 0x7FF0000000000000 0x3FF0000000000000 0xFFF0000000000000) 0 3).val = .inf (!false) ∧
    (source (f64t 0x7FF0000000000000 0x3FF0000000000000 0) 0 3).val ≠ .nan ∧
    ((∃ n k e, (source (f64t 0x3FF0000000000000 0x3FF0000000000000 0x7FF0000000000000) 0 1).val = .fin false n k e) ∧
      (∃ n k e, (source (f64t 0x3FF0000000000000 0x3FF0000000000000 0x7FF0000000000000) 0 2).val = .fin false n k e) ∧
      (source (f64t 0x3FF0000000000000 0x3FF0000000000000 0x7FF0000000000000) 0 3).val = .inf false) :=
  ⟨⟨false, false, _, _, .inl ⟨rfl, by decide⟩⟩, ⟨false, false, _, _, .inr ⟨by decide, rfl⟩⟩,
    ⟨false, true, rfl, .inl ⟨by decide, .inl (by decide)⟩⟩,
    ⟨false, false, rfl, .inl ⟨by decide, .inr ⟨_, _, _, by decide, rfl⟩⟩⟩,
    ⟨false, false, rfl, .inr ⟨by decide, _, _, _, by decide, rfl⟩⟩, by decide, by decide,
    ⟨_, _, _, rfl⟩, ⟨_, _, _, rfl⟩, by decide⟩

theorem test_fma_infinities : gives (exec (.fma 3 1 2 0) (f64t 0 0x7FF0000000000000 0x7FF8000000000000))
      (fun t => t.cx.reg 3 == 0x7FF8000000000000 && t.cx.fp.flags == flagNV) = true ∧
    gives (exec (.fma 3 1 2 0) (f64t 0x3FF0000000000000 0x7FF0000000000000 0xFFF0000000000000))
      (fun t => t.cx.reg 3 == 0x7FF8000000000000 && t.cx.fp.flags == flagNV) = true ∧
    gives (exec (.fma 3 1 2 0) (f64t 0x3FF0000000000000 0x4008000000000000 0xFFF0000000000000))
      (fun t => t.cx.reg 3 == 0xFFF0000000000000 && t.cx.fp.flags == 0) = true := by decide +kernel

theorem test_witness_conversion_targets : fcvtDefined 1 0 0 = true ∧ fcvtDefined 4 0 0 = true ∧ (1 : BitVec 3).toNat < 4 ∧
    4 ≤ (4 : BitVec 3).toNat ∧ fcvtDefined 0 0 1 = true ∧ fcvtDefined 0 0 2 = true := by decide

/-- After the store, its context may read the bytes. -/
theorem test_witness_own_store_read : gives (exec (.st 2 1 0 3 0) memState) (fun t => mayRead t t.cur 0 (tcmAt 0x40) 8) = true := by
  decide +kernel

theorem test_witness_atomic_at_home : arrivesLast memState memState.cur ((tcmAt 0x40).write 0 (zeros 8)) = true ∧
    readsPoison memState memState.cx (tcmAt 0x40) 8 = false ∧ Memory.wf memState.mem = true ∧
    Uncounted memState memState.cur (tcmAt 0x40).cls ∧ mayRead memState memState.cur 0 (tcmAt 0x40) 8 = true :=
  ⟨by decide, by decide, by decide, .inl rfl, by decide⟩

/-- A committed write of stream 3 in the tile: a load on stream 3 waits, and one on stream 2 does not. -/
def crowded (x : Context) : State :=
  { vmemState x with ctxs := [(0, { x with pend := [{ strm := 3, loose := false, loc := tcmPlace 0 0x700, key := 0, enc := false, bytes := [1]
                                                      nib := none, cls := .uncounted, acc := none, pin := false }] })] }

theorem test_witness_waiting_load : mayRead (crowded (vecContext 2 0)) 0 3 (tcmAt 0x40) 8 = false ∧
    mayRead (crowded (vecContext 2 0)) 0 2 (tcmAt 0x40) 8 = true := by decide

/-- Every place of an access. -/
def readyFor (s : State) (g : Nat) (acc : Translated) : Bool :=
  acc.elems.all (fun e => match e.2 with | .ok p => mayRead s s.cur g p s.cx.esz | .error _ => false) &&
    acc.scales.all fun e => match e.2 with | .ok p => mayRead s s.cur g p 1 | .error _ => false

theorem test_witness_load_ready : readyFor vmem 0 (memoryAccess vmem .load .unit 2 0 1) = true ∧
    readyFor (crowded (vecContext 2 0)) 3 (memoryAccess (crowded (vecContext 2 0)) .load .unit 2 0 1) = false ∧
    loadCheck .unit (.vld 0 12 2 0 1 0 3) 12 2 0 1 (crowded (vecContext 2 0)) = none ∧
    VectorAccess (crowded (vecContext 2 0)) .load .unit 2 0 1 ∧ vmem.cx.early = [] ∧
    gives (exec (.vld 0 12 2 0 1 0 3) (crowded (vecContext 2 0))) (fun t => t.cx.pc == tcm && t.cx.vregs == (vecContext 2 0).vregs) = true :=
  ⟨by decide +kernel, by decide +kernel, by decide +kernel, vectorAccessOf (by decide +kernel), rfl, by decide +kernel⟩

/-- A Z-order layout of 16 by 16 elements of 32 bits in s3, and a base. -/
def zordered (va : Word) : State :=
  vmemState { vecContext 2 0 with regs := ((vecContext 2 0).regs.set 2 va).set 3 0x544 }

theorem test_witness_zorder : loadCheck .zorder (.vldZ 0 12 2 3 0 0 0) 12 2 3 0 (zordered (tcm + 0x100)) = none ∧
    VectorAccess (zordered (tcm + 0x100)) .load .zorder 2 3 0 ∧
    readyFor (zordered (tcm + 0x100)) 0 (memoryAccess (zordered (tcm + 0x100)) .load .zorder 2 3 0) = true ∧
    ((zordered (tcm + 0x104)).cx.src 2).toNat % (2 * (zordered (tcm + 0x104)).cx.width) ≠ 0 ∧
    gives (exec (.vldZ 0 12 2 3 0 0 0) (zordered (tcm + 0x104))) (fun t =>
      t.cx.qfault.map (fun f => (f.cause, f.tval)) == some (4, tcm + 0x104)) = true :=
  ⟨by decide +kernel, vectorAccessOf (by decide +kernel), by decide +kernel, by decide +kernel, by decide +kernel⟩

/-- A blocked load whose elements stand in the TCM and whose scale bytes stand nowhere. -/
def scaleAstray : State :=
  let x := vecContext 16 0
  vmemState { x with fp := { x.fp with scoff := 0x0080000000000000 } }

theorem test_witness_scale_fault :
    (memoryAccess scaleAstray .load .blocked 2 3 0).elems.all (fun e => e.2.toOption.isSome) = true ∧
    ((memoryAccess scaleAstray .load .blocked 2 3 0).scales.head?.map fun e => e.2.toOption.isNone) = some true ∧
    loadCheck .blocked (.vldB 0 12 2 3 0 0 0) 12 2 3 0 scaleAstray = none ∧
    (gives (exec (.vldB 0 12 2 3 0 0 0) scaleAstray) fun t => t.cx.qfault.map (·.elem) == some 0) = true := by decide +kernel

/-- A gather whose index register 8 sends its first element out of the TCM, and one whose second element fails. -/
def indexed (first second : Nat) : State :=
  let x := vecContext 2 0
  vmemState { x with vregs := x.vregs.map fun e => if e.1 = 8 * 32 then (e.1, rowOf 32 [first, second, 1, 3]) else e }

theorem test_witness_indexed_faults :
    loadCheck .index (.vgather 0 12 2 8 0 0 0) 12 2 8 0 (indexed 4 0xFFFFFFFF) = none ∧
    storeCheck .index (.vscatter 0 4 2 8 0 0 0) 4 2 8 0 (indexed 4 0xFFFFFFFF) = none ∧
    amoCheck .add (.vamoAdd 0 12 2 8 0 0 0) 12 2 8 0 (indexed 4 0xFFFFFFFF) = none ∧
    (indexed 4 0xFFFFFFFF).cx.member < 4 ∧ (indexed 4 0xFFFFFFFF).cx.inShape ≤ 65536 ∧
    (indexed 4 0xFFFFFFFF).cx.pause = none ∧ (indexed 4 0xFFFFFFFF).poison = [] ∧
    (∀ k ∈ [AccKind.load, .store, .atomic],
      ((memoryAccess (indexed 4 0xFFFFFFFF) k .index 2 8 0).elems.map fun e => e.2.toOption.isSome).take 2 = [true, false]) ∧
    mayRead (indexed 4 0xFFFFFFFF) 0 0 (tcmAt 0x110) 4 = true ∧
    mayAtomic (forceCommit (indexed 4 0xFFFFFFFF)) 0 4 (tcmAt 0x110) = true := by decide +kernel

/-- The element below the fault is gathered, and is replaced by the atomic; the record names element 1. -/
theorem test_indexed_faults : gives (exec (.vgather 0 8 2 8 0 0 0) (indexed 4 0xFFFFFFFF)) (fun t =>
      t.cx.qfault.map (fun f => (f.cause, f.elem, bytesVal (f.rcd.take 4))) == some (8, 1, 6) && t.cx.elem 8 32 0 0 == 104 &&
      t.cx.elem 8 32 0 1 == 0xFFFFFFFF) = true ∧
    gives (exec (.vamoSwap 0 4 2 8 0 0 0) (indexed 4 0xFFFFFFFF)) (fun t => t.cx.qfault.map (·.elem) == some 1 &&
      t.cx.elem 4 32 0 0 == 104 && t.cx.elem 4 32 0 1 == 1 && bytesVal (memReadN t.mem (tcmPlace 0 0x110) 4) == 0) = true ∧
    gives (exec (.vgather 0 8 2 8 0 0 0) { indexed 4 0 with ctxs := [(0, (indexed 4 0).cx.setReg 2 (tcm + 0x101))] }) (fun t =>
      t.cx.qfault.map (fun f => (f.cause, f.tval)) == some (4, tcm + 0x111)) = true := by decide +kernel

/-- A VAMO that may run, one that a write of its stream holds up, and one that is interrupted before its sixth element. -/
theorem test_witness_vector_atomic_forms :
    (passing (memoryAccess vmem .atomic .index 2 4 0).elems).all (fun e =>
      mayAtomic (forceCommit (memoryAccess vmem .atomic .index 2 4 0).after) 0 4 e.2 && e.2.cls == .uncounted) = true ∧
    (passing (memoryAccess (crowded (vecContext 2 0)) .atomic .index 2 4 0).elems).all (fun e =>
      mayAtomic (forceCommit (memoryAccess (crowded (vecContext 2 0)) .atomic .index 2 4 0).after) 3 4 e.2) = false ∧
    vmem.cx.pause = none ∧ 5 < vmem.cx.inShape ∧
    gives (exec (.vamoAdd 0 8 2 4 0 0 0) (vmemState { vecContext 2 0 with pause := some 5 })) (fun t => t.cx.vsElem == 5 &&
      t.cx.pc == tcm && t.cx.pause.isNone) = true := by decide +kernel

theorem test_witness_append_places :
    (let s := queueState 16
     match readQueue s (s.cx.src 2) with
     | .ok (p, bs) =>
       let d1 := translateAll .atomic [s.cx.src 2] s
       let d2 := translateAll .store (queueOf bs).pages d1.2
       let s1 := forceCommit d2.2
       let s2 := performWrite s1 0 ({ p with loc := p.loc + 16 }.write 0 (valBytes 4 5))
       p == tcmAt 0x200 && p.cls == .uncounted && (d1.1 ++ d2.1).all (fun e => e.toOption.isSome) &&
         mayAtomic s1 0 4 { p with loc := p.loc + 16 } &&
         !mayAtomic { s1 with ctxs := (crowded s1.cx).ctxs } 3 4 { p with loc := p.loc + 16 } &&
         (List.range 3).all fun j =>
           (resolve s2 (s.cx.acc 0) .store ((tcm + 0x300).toNat + (2 + j) * 4)).toOption == some (tcmAt (0x308 + 4 * j))
     | .error _ => false) = true ∧
    4 < 2 + ((queueState 4).cx.activeFrom true 0).length ∧ ((one tcmContext).cx.activeFrom true 0) = [] := by decide +kernel

/-- A queued trap whose fault has a record, one whose record cannot be written, and one whose cocoon cannot. -/
theorem test_queued_trap_areas :
    gives (exec (.queuedTrap 0) (one { (queued tcmContext).cx with
      qfault := some { cause := 8, tval := 0x40, elem := 3, rcd := [1, 2], cvy := faulted tcmContext } })) (fun t =>
        !t.cx.stopped && t.cx.trap.wroteRec && t.cx.trap.cocoon && memRead t.mem (tcmPlace 0 0x20001) == 2 &&
        memRead t.mem (tcmPlace 0 0x22400) == 0x43) = true ∧
    (∀ rcd ∈ [[(1 : Byte)], []], gives (exec (.queuedTrap 0) (one { tcmContext with
      qfault := some { cause := 8, tval := 0x40, elem := 3, rcd := rcd, cvy := faulted tcmContext } })) (fun t =>
        t.cx.stopped && t.cx.qfault.isNone && t.cx.trap.cause == 0) = true) := by decide +kernel

/-- An ERET whose fault area holds no cocoon: the launch fails. -/
theorem test_eret_without_a_dump :
    gives (exec .eret (one { handler tcmContext with trap := { (handler tcmContext).trap with cocoon := true } })) (·.cx.stopped) = true ∧
    reloadDump (one { handler tcmContext with trap := { (handler tcmContext).trap with cocoon := true } }) = none ∧
    (let s := millState lnch [] [(0, { handler tcmContext with task := some heldTask
                                                               trap := { (handler tcmContext).trap with cocoon := true } })]
    s.launch s.cx.launchNo = some lnch ∧ gives (exec .eret s) (fun t => t.mill.launches.map (·.failed) == [some 0x0E]) = true) := by
  decide +kernel

theorem test_witness_steps : ((one tcmContext).strAt (strOf (one tcmContext).cur)).step ≤ 2 ∧ (one tcmContext).cur < 768 := by
  decide

/-- A FENCE of tile scope that no plane can carry out, and a victim that is to be saved while it waits. -/
theorem test_witness_dead_planes_and_saves :
    (let s := { writing 0x1000 with fab := { Fabric.reset with dead := 15 } }
    s.planesDead = true ∧ (∃ w ∈ s.cx.pend ++ s.cx.held, (4 : BitVec 13).toNat / 2 ^ w.strm % 2 = 1 ∧ w.carried s.cur = false ∧
      w.acc = none) ∧ gives (exec (.fence 4 2) s) (fun t => t.cx.trap.cause == 0x14 && t.cx.held.isEmpty && t.cx.pend.length == 1) = true) ∧
    saveDue (one { victim with wait := some { kind := .wake, instr := .wait, marks := [], place := none }, wake := true }) 0 = true ∧
    saveDue (waiting tcmContext .wake .wait []) 0 = false ∧
    gives (exec (.waitWake 0) (one { victim with wait := some { kind := .wake, instr := .wait, marks := [], place := none }, wake := true }))
      (fun t => t.cx.wait.isSome) = true := by decide +kernel

/-- An ST release that waited goes on at the place that it found. -/
def releasing : State :=
  one { withRegs tcmContext [(2, 0x99)] with
    wait := some { kind := .order, instr := .stRel 1 2 4 3, marks := [], place := some (tcmAt 0x40) } }

theorem test_witness_release_goes_on : WaitsAt releasing 0 .order (.stRel 1 2 4 3) [] (some (tcmAt 0x40)) ∧
    gives (exec (.fenceWaitEnd 0) releasing) (fun t =>
      t.cx.pend.map (fun w => (w.loc, bytesVal w.bytes)) == [(tcmPlace 0 0x40, 0x99)] && t.cx.wait.isNone) = true := by
  unfold WaitsAt; decide +kernel

/-- A launch that may be replayed, with a shadow pool of two slots whose directory holds two entries as given. -/
def pooled (a b : Nat) : State :=
  let s := mapped [(0x1000000, 8, a), (0x1000008, 8, b)]
  { s with mill := { s.mill with launches := [{ lnch with replayable := true, pooled := true, pool := 0x1000000, poolLen := 0x30000 }] } }

/-- The first write to an SHD page at 0x2000000. -/
def shared : Write :=
  { strm := 0, loose := false, loc := 0x2000008, key := 0, enc := false, bytes := [1], nib := none, cls := .versioned, acc := none, pin := false }

theorem test_witness_counted_writes :
    ((pooled 0 0).launch 1).map (·.replayable) = some true ∧
    (∀ l, (pooled 0 0).launch 1 = some l → dirEntry (pooled 0 0) l 0 % 2 = 0 ∧
      dirEntry (pooled (1 + 0x200 * 2 ^ 26) 0) l 0 / 2 ^ 26 % 2 ^ 28 = shared.loc / 2 ^ 16 * 2 ^ 16 / 2 ^ 16 % 2 ^ 28 ∧
      dirEntry (pooled (1 + 0x200 * 2 ^ 26) 0) l 0 % 2 = 1 ∧
      (∀ i < 2, dirEntry (pooled (1 + 0x201 * 2 ^ 26) (1 + 0x202 * 2 ^ 26)) l i % 2 = 1) ∧
      (resolve (pooled 0 0) l.acc .store (l.pool.toNat + (0 + 1) * 2 ^ 16)).toOption.isSome = true) ∧
    ((countWrite (pooled 0 0) 1 { shared with cls := .unversioned }).launch 1).map (·.replayable) = some false ∧
    ((countWrite (pooled (1 + 0x201 * 2 ^ 26) (1 + 0x202 * 2 ^ 26)) 1 shared).launch 1).map (·.replayable) = some false := by
  refine ⟨by decide +kernel, ?_, by decide +kernel, by decide +kernel⟩
  intro l hl
  obtain rfl : l = { lnch with replayable := true, pooled := true, pool := 0x1000000, poolLen := 0x30000 } := Option.some.inj hl.symm
  decide +kernel

/-- What a copy that has started and one that fails find. -/
theorem test_witness_copy_places :
    (((copyState (tcm + 8) (.started [] [] [])).cx.chan 1).cmds.all fun m =>
      mayComplete (copyState (tcm + 8) (.started [] [] [])) 0 1 m [] &&
      keptPlace (copyState (tcm + 8) (.started [] [] [])) (m.acc 0) [] (tcm + 8).toNat == some (tcmAt 8) &&
      keptPlace (copyState (tcm + 8) (.started [] [] [])) (m.acc 0) [] (tcm + 0x20).toNat == some (tcmAt 0x20)) = true ∧
    (((copyState 8 .queued).cx.chan 1).cmds.all fun m =>
      (lowestFault (copyFailures (copyState 8 .queued) (m.acc 0) m)).isSome) = true := by decide +kernel

/-! ### Hosts, records and requests at their boundaries -/

/-- A moult in progress, and an MMIO table that gives port A no right. -/
def moulting : State := { State.reset with fab := { Fabric.reset with dead := 1, undealt := 1 } }

def barred : State := { State.reset with tables := [(tableKey 0 10 0 0, 1)] }

theorem test_witness_reaches : Reaches State.reset 1 8 true ∧ Reaches moulting 3 8 true ∧ moulting.flows = false ∧
    mmioAllows barred 1 8 true = false ∧ mmioAllows barred 1 0 false = false ∧ barred.flows = true ∧ mmioAllows barred 2 8 true = true ∧
    gives (exec (.launchWrite 1 8 5) moulting) (fun t => t.host.entry == [.busWrite 1 8 8 5] && t.host.queue 1 == []) = true ∧
    gives (exec (.launchWrite 1 8 5) barred) (fun t => t == barred) = true ∧
    gives (exec (.semaRead 1) barred) (fun t => t.host.lastRead == BitVec.allOnes 64 && t.host.owner == 0) = true ∧
    gives (exec (.bar2Write 0x40 1 5) moulting) (fun t => t.host.entry.length == 1 && t.mem.isEmpty) = true := by
  unfold Reaches; decide +kernel

/-- The halves of a register (R276). -/
theorem test_register_halves : gives (exec (.registerWrite 1 0x40 4 0x12345678) { owned with host := { owned.host with migbase := 0xABC00000000 } })
      (fun t => t.host.migbase == 0xABC12340000) = true ∧
    gives (exec (.registerWrite 1 0x44 4 0xFFF) { owned with host := { owned.host with migbase := 0x12340000 } })
      (fun t => t.host.migbase == 0xFFF12340000) = true := by decide +kernel

/-- The record at 0x20080 with one iteration, a count, and no successor. -/
def recorded (count : Nat) (i : Instr) : State :=
  let s := asking i
  let bytes : List (Nat × Nat × Nat) := [(0x20080, 8, 0x10000), (0x20090, 8, 0x100000001), (0x20098, 8, 0x100000001),
    (0x200A0, 8, 0xE4), (0x200A8, 8, 0x10010000), (0x200B0, 4, count), (0x200C8, 8, 0x10000000)]
  { s with mem := bytes.foldl (fun m e => memWriteN m e.1 (valBytes e.2.1 e.2.2)) s.mem }

theorem test_witness_records : (recorded 0 (.gspawn 1)).liveLaunch 1 = some lnch ∧
    (match readBlock (recorded 0 (.gspawn 1)) lnch.acc none 0x20080 128 with
      | .ok b => recordCauses (recorded 0 (.gspawn 1)) lnch 0x20080 b == [] && recordCauses (recorded 0 (.gspawn 1)) lnch 0x20081 b != []
      | .error _ => false) = true ∧
    (readBlock (recorded 0 (.gspawn 1)) lnch.acc none 0x20000080 128).toOption.isNone = true := by decide +kernel

/-- A spawned record whose count is 0 is ready at once; a signal at count 0 fails the launch, and at count 1 readies the
record. -/
theorem test_requests_ready_records :
    gives (exec (.spawnRequest 0) (recorded 0 (.gspawn 1))) (fun t =>
      t.mill.recs.map (fun r => (r.addr, r.wasReady, r.readyNo, r.total)) == [(0x20080, true, some 1, 1)]) = true ∧
    gives (exec (.signalRequest 0) (recorded 0 (.gsig 1))) (fun t => t.mill.launches.map (·.failed) == [some 0x0C] && t.cx.wait.isNone) = true ∧
    gives (exec (.signalRequest 0) (recorded 1 (.gsig 1))) (fun t => t.mill.recs.map (·.wasReady) == [true] && memRead t.mem 0x200B0 == 0) = true := by
  decide +kernel

/-- A string whose step goes down, a matrix product that an error may strike, and a fetch that comes about. -/
theorem test_witness_errors_and_fetch : ((strung { rdyStr with adjreq := 3 }).strAt 0).adjreq ≠ 0 ∧
    (one { tcmContext with strip := { Strip.reset with mmaPcs := [tcm] } }).cx.strip.mmaPcs ≠ [] ∧
    gives (exec (.checkerMismatch 0) (one { tcmContext with strip := { Strip.reset with mmaPcs := [tcm] } })) (fun t =>
      t.cx.strip.pinned == 1) = true ∧
    ((fetching.ctxAt 0).runs = true ∧ fetching.cx.cvy = none ∧ saveDue fetching 0 = false ∧ fetching.flows = true) ∧
    (match frameFrom tcm 4 0 fetching [] with
      | (u, .ok ws) => ws == [0x04307FFF] && checksMayRead ws u && (passChecks u tcm ws).toOption.isSome
      | _ => false) = true ∧
    gives (exec (.convoyFetch 0) fetching) (fun t => t.cx.cvy.map (·.words) == some [0x04307FFF] && t.cx.pc == tcm) = true := by
  decide +kernel


/-! ### Group registers, flags, powers of two, and the steps of a product -/

/-- A source group that begins between two groups stops the word as the destination's does; a store has no mask there. -/
theorem test_witness_group_words :
    (vec 2 1).cx.passed = false ∧ (vec 2 1).cx.group = 2 ∧
    (.vaddVV 0 0 12 5 0 0, [0, 12, 5], true) ∈ groupWords 0 0 12 5 8 0 0 0 0 0 0 ∧
    (.mldb 0 2 5, [5], false) ∈ groupWords 0 4 2 5 8 0 0 0 0 0 0 ∧
    gives (exec (.vaddVV 0 0 12 5 0 0) (vec 2 1)) (fun t => t.cx.trap.cause == 3) = true ∧
    gives (exec (.mldb 0 2 5) (vec 2 1)) (fun t => t.cx.trap.cause == 3) = true ∧
    gives (exec (.vmovSplat 0 0 1 1 0) (vec 2)) (fun t => t.cx.trap.cause == 3) = true ∧
    gives (exec (.vst 0 0 2 0 1 0 0) vmem) (fun t => t.cx.trap.cause == 0) = true := by
  refine ⟨by decide, by decide, ?_, ?_, by decide +kernel, by decide +kernel, by decide +kernel,
    by decide +kernel⟩ <;> decide +kernel

/-- Register 8 set to elements of the type. -/
def holding (et : BitVec 5) (w : Nat) (vs : List Nat) : State :=
  one { vecContext et 0 with vrows := 1, vregs := [(4 * 32, rowOf w vs), (8 * 32, rowOf w vs)] }

/-- Saturation sets SAT (R99); 2^24 and 2^-24 are exact (R106); a signalling NaN sets NV in a comparison, a quiet one does
not (R98). -/
theorem test_element_flags :
    gives (exec (.vsaddVV 0 12 4 8 0 0) (holding 0 8 [100, 1, 2, 3])) (fun t =>
      t.cx.fp.flags == flagSAT && t.cx.elem 12 8 0 0 == 127) = true ∧
    rowAfter (.vexp2 0 12 4 0 0) (holding 10 32 [0x41C00000, 0xC1C00000, 0xFF800000, 0x7F800000]) 12 0 4 =
      some [0x4B800000, 0x33800000, 0, 0x7F800000] ∧
    gives (exec (.vexp2 0 12 4 0 0) (holding 10 32 [0x41C00000, 0xC1C00000, 0, 0])) (fun t => t.cx.fp.flags == 0) = true ∧
    gives (exec (.vcmpVV 0 12 4 8 0 0 2) (holding 10 32 [0x7FA00000, 0, 0, 0])) (fun t => t.cx.fp.flags == flagNV) = true ∧
    gives (exec (.vcmpVV 0 12 4 8 0 0 2) (holding 10 32 [0x7FC00000, 0, 0, 0])) (fun t => t.cx.fp.flags == 0) = true := by
  decide +kernel

/-- Depth 3 of f16: three products of 2^-24 and the accumulator 1.0 in set 0 of band 0; and the same drained to a type. -/
def halves (acc : Nat) : State :=
  let s := matrixState 1
  let row := rowOf 16 [0x0C00, 0x0C00, 0x0C00, 0x0C00]
  let t := s.tileAt 0
  { s with
    ctxs := [(0, { s.cx with vtype := { s.cx.vtype with etype := 8 }, mat := { s.cx.mat with afmt := 0, depth := 3 }
                             vregs := [(4 * 32, row)] })]
    tiles := [(0, { t with
      working := [(accKey 0 0 0 0, .ofNat 64 acc)]
      slots := [(0, { Slot.reset with holder := some (.ctx 0), tag := some 8, rows := [(0, row)] })] })] }

/-- R105's example: one rounding after the four depth indices of a processing element gives 1 + 2^-22, where a rounding after
each product would leave 1. An infinity times zero is invalid (R104). -/
theorem test_one_rounding_per_element :
    ProductFits (halves 0x3F800000) 4 0 ∧
    (∀ v ∈ mmaScales (halves 0).cx ((halves 0).tileAt (tileOf (halves 0).cur)) 4 0, v < 256) ∧
    gives (exec (.mma 0 4 1 0) (halves 0x3F800000)) (fun t => accumulator t 0 0 0 0 == 0x3F800002 &&
      t.cx.mat.flags.getLsbD 4) = true := by
  refine ⟨productFitsOf (by unfold Issues; decide) (by decide +kernel), by decide +kernel, by decide +kernel⟩

/-- 3.5 as f32 drained to f16 and to s8, and a NaN to s8. -/
theorem test_floating_drain :
    let drained (et : BitVec 5) (v : Nat) : State :=
      let s := halves v
      { s with ctxs := [(0, { s.cx with vtype := { s.cx.vtype with etype := et } })] }
    rowAfter (.mdrain 0 12 0 0) (drained 8 0x40600000) 12 0 2 = some [0x4300, 0] ∧
    gives (exec (.mdrain 0 12 0 0) (drained 0 0x40600000)) (fun t => t.cx.elem 12 8 0 0 == 4 && t.cx.fp.flags == flagNX) = true ∧
    gives (exec (.mdrain 0 12 0 0) (drained 0 0x7FC00000)) (fun t => t.cx.elem 12 8 0 0 == 0 && t.cx.fp.flags == flagNV) = true := by
  decide +kernel

/-! ### Poison in vector words, and words with no element left -/

/-- The line at n of the TCM holds stored poison. -/
def poisonedAt (n : Nat) (s : State) : State := { s with poison := [(tcmPlace 0 n / 64, 0)] }

def atSupervisor (s : State) : State := { s with ctxs := [(0, { s.cx with sup := true })] }

/-- A blocked load with its scale bytes at 0x180 of the TCM. -/
def scaled : State :=
  let x := vecContext 16 0
  vmemState { x with fp := { x.fp with scoff := 0x80 } }

theorem test_witness_poisoned_loads :
    vmem.cx.takesError = true ∧ (atSupervisor vmem).cx.takesError = false ∧
    (memoryAccess (poisonedAt 0x100 vmem) .load .unit 2 0 0).elems.any (fun e =>
      match e.2 with | .ok p => readsPoison (poisonedAt 0x100 vmem) vmem.cx p 4 | .error _ => false) = true ∧
    readyFor (atSupervisor (poisonedAt 0x100 vmem)) 0 (memoryAccess (atSupervisor (poisonedAt 0x100 vmem)) .load .unit 2 0 0) = true ∧
    (memoryAccess (poisonedAt 0x180 scaled) .load .blocked 2 3 0).scales.any (fun e =>
      match e.2 with | .ok p => readsPoison (poisonedAt 0x180 scaled) scaled.cx p 1 | .error _ => false) = true ∧
    ((memoryAccess (poisonedAt 0x140 (indexed 4 0x10)) .load .index 2 8 0).elems.map (fun e =>
      match e.2 with | .ok p => readsPoison (poisonedAt 0x140 (indexed 4 0x10)) (indexed 4 0x10).cx p 4 | .error _ => false)
      ).take 2 = [false, true] := by decide +kernel

/-- At user level an error of the convoy waits in the queue, for a gather at the element that met it; at supervisor level
the load goes on, and a scale byte read from poison is flagged. -/
theorem test_poisoned_loads :
    gives (exec (.vld 0 12 2 0 0 0 0) (poisonedAt 0x100 vmem)) (fun t =>
      t.cx.qfault.map (fun f => (f.cause, f.tval, f.elem)) == some (0x10, vmem.cx.convoyStart, 0) && t.cx.vregs == vmem.cx.vregs) = true ∧
    gives (exec (.vgather 0 12 2 8 0 0 0) (poisonedAt 0x140 (indexed 4 0x10))) (fun t =>
      t.cx.qfault.map (fun f => (f.cause, f.elem)) == some (0x10, 1) && t.cx.elem 12 32 0 0 == 104) = true ∧
    gives (exec (.vld 0 12 2 0 0 0 0) (atSupervisor (poisonedAt 0x100 vmem))) (fun t => t.cx.qfault.isNone && t.cx.pc == tcm + 4) = true ∧
    gives (exec (.vldB 0 12 2 3 0 0 0) (atSupervisor (poisonedAt 0x180 scaled))) (fun t =>
      t.cx.qfault.isNone && t.cx.scale 12 0 == 0x1FF) = true :=
  ⟨by decide +kernel, by decide +kernel, by decide +kernel, by decide +kernel⟩

/-- VSTART at the element count: nothing but a blocked form's scale bytes is accessed. -/
theorem test_none_left :
    let past (s : State) : State := { s with ctxs := [(0, { s.cx with vsElem := 12 })] }
    loadCheck .unit (.vld 0 12 2 0 0 0 0) 12 2 0 0 (past vmem) = none ∧ NoneLeft (past vmem) .unit 2 0 0 ∧
    NoneLeft (past scaled) .blocked 2 3 0 ∧ (past scaled).cx.inShape ≠ 0 ∧
    (memoryAccess (past scaled) .load .blocked 2 3 0).scales.all (fun e =>
      match e.2 with | .ok p => mayRead (past scaled) 0 0 p 1 | .error _ => false) = true ∧
    storeCheck .unit (.vst 0 4 2 0 0 0 0) 4 2 0 0 (past vmem) = none ∧
    storeCheck .blocked (.vstB 0 4 2 3 0 0 0) 4 2 3 0 (past scaled) = none ∧
    gives (exec (.vld 0 12 2 0 0 0 0) (past vmem)) (fun t => t.cx.vregs == vmem.cx.vregs && t.cx.pc == tcm + 4) = true ∧
    gives (exec (.vldB 0 12 2 3 0 0 0) { past scaled with mem := [(tcmPlace 0 0x180, 0x85)] }) (fun t =>
      t.cx.scale 12 0 == 0x85 && t.cx.vregs == scaled.cx.vregs) = true ∧
    gives (exec (.vstB 0 4 2 3 0 0 0) (past scaled)) (fun t =>
      t.cx.held.map (fun w => (w.loc, bytesVal w.bytes)) == [(tcmPlace 0 0x180, 255)]) = true := by
  unfold NoneLeft; decide +kernel

/-- A scale that carries the poison flag: its store is an error at user level, and goes on at supervisor level. -/
theorem test_poisoned_scale_store :
    let flagged : State := { scaled with ctxs := [(0, { scaled.cx with scales := [(4 * 64, 0x1FF)] })] }
    storeCheck .blocked (.vstB 0 4 2 3 0 0 0) 4 2 3 0 flagged = none ∧ VectorAccess flagged .store .blocked 2 3 0 ∧
    flagged.cx.scale 4 0 = 0x1FF ∧ (memoryAccess flagged .store .blocked 2 3 0).scales.length = 1 ∧
    gives (exec (.vstB 0 4 2 3 0 0 0) flagged) (fun t => t.cx.held.isEmpty && t.cx.qfault.map (·.cause) == some 0x10) = true ∧
    gives (exec (.vstB 0 4 2 3 0 0 0) (atSupervisor flagged)) (fun t => t.cx.held.length == 13 && t.cx.qfault.isNone) = true :=
  ⟨by decide +kernel, vectorAccessOf (by decide +kernel), by decide +kernel, by decide +kernel, by decide +kernel, by decide +kernel⟩

/-! ### Waits, returns and registers -/

/-- With no live plane a SEND that waits for its reply traps, whatever the reply; a copy inside its tile starts. -/
theorem test_dead_planes_and_waits :
    (let s := { replied true with fab := { (replied true).fab with dead := 15 } }
    s.planesDead = true ∧ saveDue s 0 = false ∧ s.cx.trap.inh = false ∧
    (s.cx.wait.map fun w => (w.kind, w.instr)) = some (.grant, .send 4 1 2) ∧
    gives (exec (.grantReply 0 true) s) (fun t => t.cx.trap.cause == 0x14 && t.cx.trap.epc == s.cx.convoyStart && t.fab.flights.isEmpty) = true) ∧
    (let s := { copyState (tcm + 8) .queued with fab := { Fabric.reset with dead := 15 } }
    s.planesDead = true ∧ ((s.cx.chan 1).cmds.all fun m => m.carried s 0) = true ∧
    gives (exec (.copyCommandStart 0 1 1) s) (fun t => (t.cx.chan 1).cmds.all fun m => decide (m.st ≠ .queued)) = true ∧
    gives (exec (.xwait 1 1) s) (fun t => t.cx.trap.cause == 0) = true) := by decide +kernel

/-- An atomic, a failing CAS and a GSIG whose writes before them are performed. -/
def releasedAt (i : Instr) (p : Option Place) : State :=
  { one { withRegs tcmContext [(1, 9), (2, 5)] with wait := some { kind := .order, instr := i, marks := [], place := p } } with
    mem := memWriteN [] (tcmPlace 0 0x40) (valBytes 8 7) }

theorem test_witness_atomic_goes_on :
    WaitsAt (releasedAt (.amoAdd 1 3 2 4 1) (some (tcmAt 0x40))) 0 .order (.amoAdd 1 3 2 4 1) [] (some (tcmAt 0x40)) ∧
    (.amoAdd 1 3 2 4 1, some 12) ∈ atomicResults 1 3 2 4 1 7 5 9 ∧ (.cas 1 3 2 4 1, none) ∈ atomicResults 1 3 2 4 1 7 5 9 ∧
    arrivesLast (releasedAt (.cas 1 3 2 4 1) none) 0 ((tcmAt 0x40).write 0 (zeros 8)) = true ∧
    gives (exec (.fenceWaitEnd 0) (releasedAt (.amoAdd 1 3 2 4 1) (some (tcmAt 0x40)))) (fun t =>
      t.cx.reg 1 == 7 && bytesVal (memReadN t.mem (tcmPlace 0 0x40) 8) == 12 && t.cx.pc == tcm + 4) = true ∧
    gives (exec (.fenceWaitEnd 0) (releasedAt (.cas 1 3 2 4 1) (some (tcmAt 0x40)))) (fun t =>
      t.cx.reg 1 == 7 && bytesVal (memReadN t.mem (tcmPlace 0 0x40) 8) == 7 && t.cx.wait.isNone) = true ∧
    gives (exec (.fenceWaitEnd 0) (releasedAt (.gsig 1) none)) (fun t => t.cx.wait.map (·.kind) == some .mill) = true := by
  unfold WaitsAt; decide +kernel

/-- An edit of the access tables grants frame 0 of its own node, and a TLB entry keeps the verdict from before it. -/
def editing (va : Word) (k : BitVec 2) : State :=
  let e : TlbEntry := ⟨0x10000, 16, 0, false, 0, 0, 0, 0, true, true, false, true, false, false, false, [(0, false, false)]⟩
  { waiting (withRegs (handler tcmContext) [(1, va)]) .tlbinv (.tlbinv 1 k) [] with
    tlb := [e], tables := [(1, 0xC000000000000000)], tablesOld := some [] }

/-- The invalidation that removes the last TLB entry which an edit of the access tables affects ends the edit; one that leaves the
entry does not. -/
theorem test_tlbinv_ends_an_edit :
    (editing 0x10000 0).tlb.all (·.affected (editing 0x10000 0) []) = true ∧
    (∀ k : BitVec 2, k ≠ 1 → gives (exec (.tlbinvComplete 0) (editing 0x10000 k)) (fun t => t.tablesOld.isNone && t.cx.wait.isNone) = true) ∧
    (∀ k : BitVec 2, k = 0 ∨ k = 2 →
      gives (exec (.tlbinvComplete 0) (editing 0x20000 k)) (fun t => t.tablesOld.isSome && t.cx.wait.isNone) = true) := by
  decide +kernel

/-- What is on the core's crossing when a VSHAPE waits and when a VREL gives lanes back (R46). -/
theorem test_lanes_cross_to_the_mill :
    let late (s : State) : State := { s with mill := { s.mill with links := [.core 0 0 0 false false] } }
    (late (shaping 3 4 0 16)).coreLags 0 = true ∧
    gives (exec (.vshape 3 1 2 2 0 0 0) (late (shaping 3 4 0 16))) (fun t => t.cx.wait.map (·.kind) == some .lanes &&
      t.mill.links == [.core 0 0 0 false false, .wait 0 1] && (t.ctxAt 1).cap == 16) = true := by
  decide +kernel

/-- ERET with a dump outside the tile and no live plane; ERET without a task commits what its handler stored. -/
theorem test_eret_forms :
    (let s := { one { handler tcmContext with trap := { (handler tcmContext).trap with cocoon := true, frec := 0x007F001000200000 } } with
      fab := { Fabric.reset with dead := 15 } }
    s.planesDead = true ∧ dumpLeavesTile s = true ∧ gives (exec .eret s) (·.cx.stopped) = true ∧
    gives (exec .eret { s with ctxs := [(0, { s.cx with trap := { s.cx.trap with inh := false } })] }) (fun t => t.cx.trap.cause == 0x14) = true) ∧
    gives (exec .eret (one { (writing 0x1000).cx with sup := true, trap := { TrapRegs.reset with inh := true } })) (fun t =>
      !t.cx.sup && t.cx.held.isEmpty && t.cx.pend.length == 1) = true := by decide +kernel

/-- TRAP in a handler keeps the task's policy; a record stays where its cocoon cannot be written. -/
theorem test_trap_keeps :
    gives (exec (.trap 5) (one { tcmContext with sup := true, cpol := 1, trap := { tcmContext.trap with pol := 2 } })) (fun t => t.cx.trap.pol == 2) = true ∧
    gives (exec (.trap 5) (one { tcmContext with cpol := 1, trap := { tcmContext.trap with pol := 2 } })) (fun t => t.cx.trap.pol == 1) = true ∧
    gives (exec (.queuedTrap 0) (one { (queued tcmContext).cx with
      trap := { tcmContext.trap with frec := 0x007F00000003E000 }
      qfault := some { cause := 8, tval := 0x40, elem := 3, rcd := [1, 2], cvy := faulted tcmContext } })) (fun t =>
        t.cx.stopped && t.cx.trap.cause == 0 && memRead t.mem (tcmPlace 0 0x3E001) == 2) = true := by decide +kernel

/-- Numbers of R83 that have no register, and privileged ones at user level. -/
theorem test_register_numbers :
    Unassigned 0x06 ∧ Unassigned 0xFFF ∧ ¬ Unassigned 0x20F ∧
    gives (exec (.mfs 3 0x101) (one tcmContext)) (fun t => t.cx.trap.cause == 0x11) = true ∧
    gives (exec (.mfs 3 0x121) (one tcmContext)) (fun t => t.cx.trap.cause == 0x11) = true ∧
    gives (exec (.mfs 3 0x210) (one tcmContext)) (fun t => t.cx.trap.cause == 1) = true ∧
    gives (exec (.mts 3 0xFFF) (one tcmContext)) (fun t => t.cx.trap.cause == 1) = true := by
  refine ⟨?_, ?_, ?_, by decide, by decide, by decide, by decide⟩ <;> unfold Unassigned <;> decide

/-- CSAVE keeps what no byte of a cocoon holds: a scale's poison flag, and that the task waits. -/
theorem test_csave_keeps :
    ({ handler (vecContext 16 0) with scales := [(4 * 64, 0x1FF)] }.flaggedScales none).length = 1 ∧
    gives (exec (.csave 1) (one { savingTcm.cx with rewaits := some 0x40 })) (fun t => t.mill.saved.map (·.inWait) == [true]) = true := by
  decide +kernel

/-! ### The fabric, the mill and the hosts -/

/-- A peer's request is refused without a reply of this node. -/
theorem test_peer_refusal :
    let s := requested 7 false 0 .empty
    gives (exec (.grantRequest 0) { s with fab := { s.fab with requests := s.fab.requests.map fun r => { r with node := 3 } } })
      (fun t => t.fab.replies.isEmpty && t.fab.requests.isEmpty) = true := by decide +kernel

/-- A message for a saved task's slot stays, and the one behind it fills the slot that a later task reserved. -/
theorem test_arrival_past_a_saved_task :
    let s := requested 3 false 0 (.reserved 0 4)
    let first : Flight := { plane := 0, dstNode := 0, dst := 0, tag := 1, msg := { mail with sender := 9 } }
    let k : SavedTask := { ctx := 0, task := heldTask, seq := 0, lanes := 0, space := .reset, whole := true, flagged := [], inWait := false }
    gives (exec (.messageArrival 0 1) { s with fab := { s.fab with flights := first :: s.fab.flights }, mill := { s.mill with saved := [k] } })
      (fun t => t.cx.slot 1 == .full { mail with sender := 4 } && t.fab.flights == [first]) = true := by decide +kernel

/-- A record that cannot be read fails its launch with 0x04, and leaves a cause that is lower. -/
theorem test_unreadable_record :
    (readBlock (millState lnch [ready] []) lnch.acc none 0x20000080 128).toOption.isNone = true ∧
    (makeReady (millState lnch [ready] []) 1 0x20000080).mill.launches.map (·.failed) = [some 0x04] ∧
    (makeReady (millState { lnch with failed := some 0x03 } [ready] []) 1 0x20000080).mill.launches.map (·.failed) = [some 0x03] := by
  decide +kernel

/-- The last retirement completes its record, which asks for vector 1, also where its launch has failed. -/
theorem test_last_retirement :
    let s (l : Launch) : State :=
      let t := millState l [{ ready with ext := [1, 1, 1, 1], flags := 2 }] []
      { t with mill := { t.mill with ends := [{ ctx := 2, task := heldTask }] } }
    (s lnch).rcd 1 0x20000 = some { ready with ext := [1, 1, 1, 1], flags := 2 } ∧ ready.retired + 1 = 1 ∧ ready.succCount = 0 ∧
    (∀ l ∈ [lnch, { lnch with failed := some 0x0C }], gives (exec .tendRetirement (s l)) (fun t => t.mill.recs.isEmpty && t.host.msix == [(1, 1)] &&
      t.mill.ends.isEmpty) = true) := by decide +kernel

/-- A request of a launch that has failed is taken all the same. -/
theorem test_requests_of_a_failed_launch :
    let failed (s : State) : State := { s with mill := { s.mill with launches := [{ lnch with failed := some 4 }] } }
    gives (exec (.spawnRequest 0) (failed (recorded 0 (.gspawn 1)))) (fun t => t.mill.recs.map (·.wasReady) == [true] && t.cx.wait.isNone) = true ∧
    gives (exec (.signalRequest 0) (failed (recorded 1 (.gsig 1)))) (fun t => memRead t.mem 0x200B0 == 0 && t.cx.wait.isNone) = true := by
  decide +kernel

/-- A read of BAR2 evicts a line that is cached under another key index, and leaves one that is not. -/
theorem test_bar2_read_evicts :
    gives (exec (.bar2Read 0x41 2) { owned with mem := [(0x41, 0x33)], plain := [⟨1, 5, none⟩, ⟨1, 0, none⟩, ⟨2, 5, none⟩] }) (fun t =>
      t.host.lastRead == 0x33 && t.plain.map (fun l => (l.line, l.slot)) == [(1, 0), (2, 5)]) = true := by decide +kernel

/-- A convoy whose checks are over goes on with its next member. -/
theorem test_passed_convoy_goes_on :
    let s := one { (chained 1).cx with cvy := (chained 1).cx.cvy.map fun v => { v with passed := true, regs := some (chained 1).cx.regs } }
    (s.cx.cvy.map (·.passed)) = some true ∧
    gives (step { s with inputs := [.run 0] }) (fun t => t.cx.elem 9 32 1 0 == 2 && t.cx.pc == tcm + 8 && t.cx.cvy.isNone) = true := by
  decide +kernel

/-- In a moult a user interrupt is taken before the next convoy all the same; a victim that is due is saved first. -/
theorem test_interrupt_in_a_moult :
    let s := { interrupted with fab := { Fabric.reset with dead := 1, undealt := 1 } }
    s.flows = false ∧ interruptReady s 0 = true ∧
    gives (step { s with inputs := [.run 0] }) (fun t => t.cx.pc == tcm + 64 && t.cx.ui.act && t.cx.ui.pend == 0) = true ∧
    interruptReady (one { interrupted.cx with rewaits := some interrupted.cx.convoyStart }) 0 = false ∧
    gives (exec (.userInterruptTake 0) (one { victim with ui := interrupted.cx.ui })) (fun t => !t.cx.ui.act) = true := by
  decide +kernel

/-- A member that goes on in another tile, with no live plane: its convoy traps at that member, its checks being over. -/
def cutOff : State :=
  let x := vecContext 2 0
  let rs := x.regs.set 2 0x007F001000200000
  { one { x with
      regs := rs
      cvy := some { start := tcm, words := [0x36C10001, BitVec.ofNat 32 ((encodeNat (.vld 0 12 2 0 0 0 0)).getD 0)], next := tcm + 8
                    idx := 1, loops0 := [], regs := some rs, ctl := none, index := [], passed := true } } with
    fab := { Fabric.reset with dead := 15 } }

theorem test_cut_off_member :
    cutOff.planesDead = true ∧ (cutOff.cx.cvy.map fun v =>
      (v.passed, decide (v.idx < v.words.length), (membersCheck ((v.words.drop v.idx).take 1) cutOff).map (·.cause))) = some (true, true, some 0x14) ∧
    gives (step { cutOff with inputs := [.run 0] }) (fun t =>
      t.cx.trap.cause == 0x14 && t.cx.trap.epc == tcm && t.cx.vsMember == 1 && t.cx.pc == t.cx.trap.vec) = true := by decide +kernel

/-! ### Types, scales, draws and captured settings -/

/-- A word of typedWords whose type its column does not list, and what such words do. -/
theorem test_witness_typed_words :
    (∃ e ∈ typedWords (vec 16).cx 0 12 4 8 10 0 0 0 0 1, e.1 = .vcappVal 0 12 4 0 0 0 ∧ ¬ e.2) ∧
    (∃ e ∈ typedWords (vec 16).cx 0 12 4 8 10 0 0 0 0 1, e.1 = .vmpop 0 12 4 0 0 ∧ ¬ e.2) ∧
    (∃ e ∈ typedWords (vec 2).cx 0 12 4 8 10 0 0 0 0 1, e.1 = .vcappVal 0 12 4 0 0 0 ∧ e.2) := by
  simp only [typedWords, List.mem_append, List.mem_cons]
  exact ⟨⟨_, .inr (.inl rfl), rfl, by decide⟩, ⟨_, .inl (.inl (.inl (.inl (.inr (.inr (.inr (.inl rfl))))))), rfl, by decide⟩,
    ⟨_, .inr (.inl rfl), rfl, by decide⟩⟩

/-- Words under a type that their column does not list: at issue, and in a convoy whose checks are over (R303 to R309). -/
theorem test_type_refusals :
    ([(.vsqrt 0 12 4 0 0, 2), (.vandVV 0 12 4 8 0 0, 10), (.vraddVV 0 12 4 8 0 0, 0), (.vcmpVV 0 9 4 8 0 0 6, 2), (.vmpop 0 5 4 0 0, 12),
      (.vcvt 0 12 4 0 0 16, 2), (.vbq 0 12 4 0 0 16, 2), (.vbdq 0 12 4 0 0 10, 10), (.vred 0 12 4 0 0 3, 10), (.vldSt 0 12 2 3 0 0 0, 14),
      (.vldB 0 12 2 3 0 0 0, 2), (.vamoAdd 0 12 2 4 0 0 0, 10), (.vcappVal 0 12 2 0 0 0, 16)] : List (Instr × BitVec 5)).all
      (fun e => gives (exec e.1 (vec e.2)) (fun t => t == takeTrap (vec e.2) (illegalWord (vec e.2) e.1))) = true ∧
    gives (exec (.vcvt 0 12 4 0 0 2) (one { vecContext 0 0 with vcols := 100 })) (fun t => t.cx.trap.cause == 3) = true ∧
    gives (exec (.vcvt 0 8 16 0 0 14) (vec 0 3)) (fun t => t.cx.trap.cause == 3) = true ∧
    gives (exec (.vgather 0 12 2 8 0 0 0) (one { vecContext 0 0 with vcols := 200 })) (fun t => t.cx.trap.cause == 3) = true := by
  decide +kernel

/-- VPERM.col of more columns than an index can name, an element beyond the count, and moves under a blocked type. -/
theorem test_move_refusals :
    gives (exec (.vpermCol 0 12 4 8 0 0) (one { vecContext 0 0 with vcols := 129 })) (fun t => t.cx.trap.cause == 3) = true ∧
    gives (exec (.vpermCol 0 12 4 8 0 0) (one { vecContext 0 0 with vcols := 128 })) (fun t => t.cx.trap.cause == 0) = true ∧
    (∀ n ∈ [(11, 0), (12, 3)], ∀ i ∈ [Instr.vext 0 5 4 1, .vins 0 12 4 1],
      gives (exec i (one { vecContext 2 0 with regs := (vecContext 2 0).regs.set 1 (.ofNat 64 n.1) })) (fun t =>
        t.cx.trap.cause == .ofNat 8 n.2) = true) ∧
    (∀ i ∈ [Instr.vmovSplat 0 12 1 0 0, .vslideUp 0 12 4 1 0 0, .vext 0 5 4 1], gives (exec i (vec 16)) (fun t => t.cx.trap.cause == 3) = true) := by
  decide +kernel

/-- VMOV under a blocked type carries the scale bytes of its blocks (R370). -/
theorem test_moves_carry_scales :
    let s := one ((vecContext 16 0).putScales 4 [0x85, 0x11])
    s.cx.nblk = 1 ∧ gives (exec (.vmov 0 12 4 0 0) s) (fun t => t.cx.scale 12 0 == 0x85) = true ∧
    gives (exec (.vpermRow 0 12 4 8 0 0) s) (fun t => t.cx.scale 12 0 == 0x85) = true := by decide +kernel

/-- Under mode 5 the combines of a floating sum draw one value each: 3 in each of 3 rows of 4, then 3 over the 3 rows and an
identity; a minimum draws none, and NaNs of the sum set NV (R96, R102, R123). -/
theorem test_witness_draws :
    let s (rm : BitVec 3) : State := one { vecContext 10 0 with fp := { (vecContext 10 0).fp with rm := rm, seed := 77 } }
    (redFn 0).legal (s 5).cx.et = true ∧ Issues (s 5) [12, 4] 12 0 ∧ Pads (s 5).cx.vcols 2 ∧ Pads (s 5).cx.grows 2 ∧
    (s 5).cx.vcols ≤ maxCols (s 5).cx.et ∧
    gives (exec (.vred 0 12 4 0 0 0) (s 5)) (fun t => t.cx.fp.seed == seedAfter (s 5) 9) = true ∧
    gives (exec (.vredAll 0 12 4 0 0 0) (s 5)) (fun t => t.cx.fp.seed == seedAfter (s 5) 12) = true ∧
    gives (exec (.vscan 0 12 4 0 0 0) (s 5)) (fun t => t.cx.fp.seed == seedAfter (s 5) 9) = true ∧
    gives (exec (.vred 0 12 4 0 0 1) (s 5)) (fun t => t.cx.fp.seed == 77) = true ∧
    gives (exec (.vred 0 12 4 0 0 0) (s 0)) (fun t => t.cx.fp.seed == 77) = true := by
  unfold Issues; decide +kernel

/-- A convoy keeps the settings it captured, whatever MTS writes behind it (R65, R354); FSUB of two negative zeros is −0, as they
are of one sign, and that of +0 and −0 is +0 (R333). -/
theorem test_captured_settings_and_zero_differences :
    let s := holding 10 32 [0x3F800001, 0x33800000, 0, 0]
    let v : Convoy := { start := tcm, words := [0xA2C40000], next := tcm + 4, idx := 0, loops0 := [], regs := some s.cx.regs
                        ctl := some { s.cx.settings with rm := 3 }, index := [], passed := true }
    gives (exec (.vaddVS 0 12 4 5 0 0) (one { s.cx with regs := s.cx.regs.set 5 0x33800000 })) (fun t => t.cx.elem 12 32 0 0 == 0x3F800002) = true ∧
    gives (exec (.vaddVS 0 12 4 5 0 0) (one { s.cx with regs := s.cx.regs.set 5 0x33000000, cvy := some { v with regs := some (s.cx.regs.set 5 0x33000000) } }))
      (fun t => t.cx.elem 12 32 0 0 == 0x3F800002) = true ∧
    gives (exec (.vaddVS 0 12 4 5 0 0) (one { s.cx with regs := s.cx.regs.set 5 0x33000000 })) (fun t => t.cx.elem 12 32 0 0 == 0x3F800001) = true ∧
    gives (exec (.fsub 3 1 2 0) (f64s 0x8000000000000000 0x8000000000000000)) (fun t => t.cx.reg 3 == 0x8000000000000000) = true ∧
    gives (exec (.fsub 3 1 2 0) (f64s 0 0x8000000000000000)) (fun t => t.cx.reg 3 == 0) = true := by decide +kernel

/-! ### Bands, returns, appends and lines -/

/-- MZERO with no band, in a convoy whose checks are not over. -/
theorem test_witness_mzero_without_bands : (matrixState 0).cx.mgCount = 0 ∧ (matrixState 0).cx.passed = false ∧
    gives (exec (.mzero 0 0) (matrixState 0)) (fun t => t.cx.trap.cause == 0x0B && t.cx.trap.val == 1) = true := by decide +kernel

/-- A return store that is empty, with an address in the spill area whose low bits are set; RSPILL at 0; and a refill that a
write of its stream holds up. -/
theorem test_witness_refills :
    let odd : State := { calling 0 1 (tcm + 0x100) with mem := memWriteN [] (tcmPlace 0 0xF8) (valBytes 8 (tcm + 0x82).toNat) }
    let held : State := one { (calling 0 1 (tcm + 0x100)).cx with pend := [(tcmAt 0xF8).write 0 (zeros 8), (tcmAt 0xF8).write 3 (zeros 1)] }
    odd.cx.ret.entries = [] ∧ odd.cx.ret.spilled ≠ 0 ∧
    ((tcm + 0x100).toNat + 2 ^ 64 - 8) % 2 ^ 55 / 8 * 8 = (tcm + 0xF8).toNat ∧
    reach odd (odd.cx.acc 0) .load (tcm + 0xF8).toNat = .ok (tcmAt 0xF8) ∧ mayRead odd 0 0 (tcmAt 0xF8) 8 = true ∧
    gives (exec .ret odd) (fun t => t.cx.trap.cause == 4 && t.cx.trap.val == tcm + 0x82 && t.cx.ret == odd.cx.ret) = true ∧
    gives (exec .ret (calling 0 1 0)) (fun t => t.cx.trap.cause == 0x15 && t.cx.trap.val == 0x007FFFFFFFFFFFF8) = true ∧
    mayRead held 0 0 (tcmAt 0xF8) 8 = false ∧ gives (exec .ret held) (fun t => t == held) = true := by decide +kernel

/-- A VCAPP whose descriptor may not be read yet stays at issue, by itself and in a convoy that is fetched. -/
theorem test_witness_append_waits :
    let s : State := { queueState 16 with ctxs := [(0, { (queueState 16).cx with pend := [(tcmAt 0x208).write 0 [1, 0, 0, 0], (tcmAt 0x208).write 3 [1]] })] }
    mayRead s 0 0 (tcmAt 0x200) 32 = false ∧ mayRead (queueState 16) 0 0 (tcmAt 0x200) 32 = true ∧
    gives (exec (.vcappIdx 0 2 1 0 0) s) (fun t => t == s) = true ∧
    checksMayRead [BitVec.ofNat 32 ((encodeNat (.vcappIdx 0 2 1 0 0)).getD 0)] s = false := by decide +kernel

/-- DCWB of a line whose writes are performed drops the older words of that line, and of no other. -/
theorem test_dcwb_cleans :
    let old : CodeWord := { key := 0, word := 7 }
    let s : State := { one (withRegs tcmContext [(1, tcm)]) with stale := [(tcmPlace 0 0x20, [old]), (tcmPlace 0 0x40, [old])] }
    gives (exec (.dcwb 1 0) s) (fun t => t.stale == [(tcmPlace 0 0x40, [old])] && t.cx.pc == tcm + 4) = true := by decide +kernel

/-- A store outside the tile leaves the word it replaces for fetches, one of a local window leaves none; a write of one nibble of
each byte leaves a line its poison until the other is written. -/
theorem test_performed_writes_leave :
    let w (loc : Nat) (nib : Option Bool) : Write :=
      { strm := 0, loose := false, loc := loc, key := 0, enc := false, bytes := zeros 64, nib := nib, pin := false, cls := .uncounted, acc := none }
    (w 0x40 none).dirties 0 = true ∧ (w (tcmPlace 0 0) none).dirties 0 = false ∧
    (tabGet [] (keepStale { State.reset with mem := [(0x44, 9)] } (w 0x40 none)).stale 0x44).map (·.word) = [9] ∧
    (let p (s : State) (nib : Option Bool) : State := performAt s (w 0x40 nib)
     let s : State := { State.reset with poison := [(1, .allOnes 128)] }
     (p s (some false)).poison.length = 1 ∧ (p (p s (some false)) (some false)).poison.length = 1 ∧
       (p (p s (some false)) (some true)).poison = [] ∧ (p s none).poison = []) := by decide +kernel

/-- A release store that is on its way holds up no later read of its stream; its context reads its bytes all the same. -/
theorem test_release_store_is_loose :
    let s (l : Bool) : State := one { tcmContext with pend := [{ (tcmAt 0x40).write 0 (valBytes 8 0x123456789) with loose := l }] }
    mayRead (s true) 0 0 (tcmAt 0x80) 8 = true ∧ mayRead (s false) 0 0 (tcmAt 0x80) 8 = false ∧
    bytesVal (loadBytes (s true) (s true).cx 0 (tcmAt 0x44) 4) = 1 := by decide +kernel

/-- An edit of the access tables affects an entry of the TLB that holds the verdict from before it, and no other entry; one that
affects none is in effect at once. -/
theorem test_witness_table_edits :
    let s (tlb : List TlbEntry) : State := { owned with tlb := tlb }
    let write := Instr.registerWrite 1 0x80008 8 0xC000000000000000
    gives (exec write (s (editing 0 0).tlb)) (fun t => t.tablesOld == some [] && t.tlb.all (·.affected t [])) = true ∧
    gives (exec write (s [])) (fun t => t.tablesOld.isNone && t.tables.length == 1) = true ∧
    gives (exec write (s ((editing 0 0).tlb.map fun e => { e with frame := 0x10000 }))) (fun t => t.tablesOld.isNone) = true := by
  decide +kernel

/-- An error that no convoy can be named for; a load's own convoy is named where an older one is bound. -/
theorem test_witness_unnamed_error :
    let s := launched 2 true
    let t : State := { s with ctxs := [(0, { s.cx with cvy := none, pc := tcm + 0x80, strip := { s.cx.strip with lastBound := some tcm } })] }
    gives (exec (.uncorrectableError 0 false true false) s) (fun t => t.cx.trap.val == .allOnes 64 && t.cx.trap.cause == 0x10) = true ∧
    gives (exec (.uncorrectableError 0 false true true) t) (fun u => u.cx.trap.val == tcm + 0x80) = true := by decide +kernel

/-- A convoy whose first member writes v0 may have results in its second, whatever v0 holds yet. -/
theorem test_mask_of_a_later_member :
    let s := { vecContext 2 0 with vregs := (vecContext 2 0).regs.toList.map fun _ => (0, 0) }
    let w : BitVec 32 := BitVec.ofNat 32 ((encodeNat (.vaddVV 0 12 4 8 1 0)).getD 0)
    let c : BitVec 32 := BitVec.ofNat 32 ((encodeNat (.vcmpVV 0 0 4 8 0 0 0)).getD 0)
    s.recomputes false 0 w = false ∧ s.recomputesOne false 0 [c, w] = true ∧ s.writesMask c = true := by decide +kernel

/-! ### The mill, waits and saves -/

/-- The root entries behind one that failed the launch are not made ready; a record whose successor list cannot be read notifies
all the same. -/
theorem test_failed_roots_and_lists :
    (millAct (.root 1 0x30000) (millState { lnch with failed := some 0x0A } [] [])).1.length = 0 ∧
    (millAct (.root 1 0x30000) (millState { lnch with failed := some 0x0A } [] [])).2.mill.recs = [] ∧
    (let r : Rec := { ready with flags := 2, succCount := 1, succList := 0x20000000 }
     (actComplete (millState lnch [r] []) lnch 0x20000).1.map (fun a => match a with | .notify n => n | _ => 0) = [1] ∧
       (actComplete (millState lnch [r] []) lnch 0x20000).2.mill.launches.map (·.failed) = [some 0x04]) := by decide +kernel

/-- A moult suspends an XWAIT; the count of an adjunct stands while the context has no task. -/
theorem test_suspended_waits_and_counts :
    let x := { (copying 0).cx with wait := some { kind := .xwait, instr := .xwait 1 1, marks := [(1, 8)], place := none } }
    let s (moult : Bool) : State := { one x with fab := if moult then { Fabric.reset with dead := 1, undealt := 1 } else .reset }
    (copying 0).cx.task.isSome = true ∧ gives (exec (.xwaitRetire 0) (s false)) (fun t => t.cx.wait.isNone) = true ∧
    gives (exec (.xwaitRetire 0) (s true)) (fun t => t == s true) = true ∧
    (let g : State := { strung { rdyStr with adjreq := 15 } with ctxs := [(0, { handler tcmContext with task := none, adjV := 5, adjM := 6 })] }
     gives (exec (.mfs 3 0x51) g) (fun t => t.cx.adjV == 5 && t.cx.adjM == 6 && t.cx.reg 3 == 0x600000005) = true) := by
  decide +kernel

/-- Two elements of a copy that reach one byte by two addresses of one place are kept in order: the own scratchpad by its tile
and by its die (R143, R187). -/
theorem test_aliases_share_a_byte :
    let s := one tcmContext
    let same (a b : Word) : Bool := ((copyState (tcm + 8) .queued).cx.chan 1).cmds.all fun c => sameByte s (s.cx.acc 0) [] c (0, a) (0, b)
    same 0x007F000100000040 0x007F001000000044 = true ∧ same 0x007F000100000040 0x007F001000000048 = false := by decide +kernel
end Sys2Proof.Tests
end

section
/-! SUPPORT. The memory's canonical form (R3, R143): what a change of the state, an outcome and a run over a list keep of it,
and what the shared operations keep. An operation that writes no byte has a lemma `_mem`; one that may write has a lemma
`_wf`. -/

namespace Sys2Proof.Machine

/-! ### Changes and outcomes that keep the form -/

/-- A change of the state that keeps the memory's canonical form. -/
def KeepsForm (f : State → State) : Prop := ∀ t : State, Memory.wf t.mem = true → Memory.wf (f t).mem = true

/-- Where the machine goes on, its memory is in the canonical form. -/
structure InForm (o : Host.Outcome State Fault Refusal) : Prop where
  wf : ∀ t, o = .next t → Memory.wf t.mem = true

theorem KeepsForm.of_mem {f : State → State} (e : ∀ t, (f t).mem = t.mem) : KeepsForm f := fun t h => by rw [e]; exact h

theorem KeepsForm.id : KeepsForm id := fun _ h => h

@[simp] theorem inForm_next (t : State) : InForm (.next t) ↔ Memory.wf t.mem = true :=
  ⟨fun h => h.wf t rfl, fun h => ⟨fun _ e => by cases e; exact h⟩⟩

@[simp] theorem inForm_fault (r : Fault) : InForm (.fault r) := ⟨fun _ e => by cases e⟩

@[simp] theorem inForm_refused (r : Refusal) : InForm (.refused r) := ⟨fun _ e => by cases e⟩

theorem inForm_ite {c : Prop} [Decidable c] {a b : Host.Outcome State Fault Refusal} (ha : InForm a) (hb : InForm b) :
    InForm (if c then a else b) := by split <;> assumption

theorem wf_ite {c : Prop} [Decidable c] {a b : State} (ha : Memory.wf a.mem = true) (hb : Memory.wf b.mem = true) :
    Memory.wf (if c then a else b).mem = true := by split <;> assumption

theorem snd_mem_ite {α : Type} {c : Prop} [Decidable c] {a b : α × State} {m : List Host.Cell} (ha : a.2.mem = m)
    (hb : b.2.mem = m) : (if c then a else b).2.mem = m := by split <;> assumption

/-- What an event does to its context keeps the form where the change does. -/
theorem KeepsForm.within {f : State → State} (hf : KeepsForm f) {s : State} (h : Memory.wf s.mem = true) (c : Nat) :
    Memory.wf (s.within c f).mem = true := hf { s with cur := c } h

theorem foldl_mem {α : Type} (f : State → α → State) (hf : ∀ t a, (f t a).mem = t.mem) (l : List α) (s : State) :
    (l.foldl f s).mem = s.mem :=
  foldl_keeps (fun t : State => t.mem = s.mem) f (fun t a e => (hf t a).trans e) l s rfl

theorem foldl_wf {α : Type} (f : State → α → State) (hf : ∀ a, KeepsForm (f · a)) (l : List α) : KeepsForm (l.foldl f ·) :=
  foldl_keeps (fun t : State => Memory.wf t.mem = true) f (fun t a => hf a t) l

/-! ### Operations that write no byte -/

@[simp] theorem settleTables_mem (s : State) : (settleTables s).mem = s.mem := by rw [settleTables_rest]

@[simp] theorem checkerDraw_mem (s : State) (n : Nat) : (checkerDraw s n).mem = s.mem := by
  unfold checkerDraw; split <;> rfl

@[simp] theorem allocate_mem (s : State) (regs : List Nat) : (allocate s regs).mem = s.mem := (commitIf_keeps _ s).1

@[simp] theorem State.failInCycle_mem (s : State) (n cause : Nat) : (s.failInCycle n cause).mem = s.mem := rfl

@[simp] theorem unpinnableAt_mem (s : State) (cause : Nat) (tval : Word) (word : BitVec 32) (elem : Nat)
    (index : Option (List Row2048)) : (unpinnableAt s cause tval word elem index).mem = s.mem := by
  unfold unpinnableAt; dsimp only; split <;> rfl

@[simp] theorem State.waitIn_mem (s : State) (k : WaitKind) (i : Instr) (ms : List (Nat × BitVec 32)) :
    (s.waitIn k i ms).mem = s.mem := rfl

@[simp] theorem goOnPoisoned_mem (met : Bool) (s : State) : (goOnPoisoned met s).mem = s.mem := by
  cases met <;> rfl

@[simp] theorem boundary_mem (b : Bool) (s : State) : (boundary b s).mem = s.mem := by
  cases b
  · rfl
  · show (commitAccumulators s s.cur).mem = s.mem
    rw [commitAccumulators_rest]

@[simp] theorem retireBoundary_mem (f : Context → Context) (s : State) : (retireBoundary f s).mem = s.mem := rfl

@[simp] theorem tellWait_mem (s : State) (c short : Nat) : (tellWait s c short).mem = s.mem := by
  unfold tellWait lowerCap; dsimp only; split
  · rfl
  · split <;> rfl

@[simp] theorem restoreCap_mem (s : State) (c : Nat) : (restoreCap s c).mem = s.mem := by
  unfold restoreCap; dsimp only; split <;> rfl

@[simp] theorem tellRel_mem (s : State) (c : Nat) : (tellRel s c).mem = s.mem := by
  unfold tellRel; split
  · rfl
  · exact restoreCap_mem s c

/-! ### Grants -/

@[simp] theorem serve_mem (s : State) (r : GrantReq) : (serve s r).2.mem = s.mem := by
  unfold serve State.reply; dsimp only
  split
  · rfl
  · split <;> rfl
  · split <;> rfl

@[simp] theorem serveAll_mem (rs : List GrantReq) (s : State) : (serveAll rs s).2.mem = s.mem := by
  induction rs generalizing s with
  | nil => rfl
  | cons r rs ih => exact (ih (serve s r).2).trans (serve_mem s r)

@[simp] theorem serveWaiting_mem (s : State) : (serveWaiting s).mem = s.mem := serveAll_mem s.fab.waiting s

@[simp] theorem withdrawAll_mem (mine : GrantReq → Bool) (s : State) : (withdrawAll mine s).mem = s.mem :=
  (serveWaiting_mem _).trans
    (foldl_mem (fun t (e : GrantReq × Bool) => returnGrant t e.1) (fun t e => returnGrant_mem t e.1) _ _)

@[simp] theorem withdraw_mem (c : Nat) (s : State) : (withdraw c s).mem = s.mem := withdrawAll_mem _ s

@[simp] theorem consumeSlot_mem (v : BitVec 5) (t : Nat) (m : Message) (s : State) : (consumeSlot v t m s).mem = s.mem := by
  unfold consumeSlot; simp

/-! ### Operations that may write -/

theorem deliver_wf {s : State} (h : Memory.wf s.mem = true) (k : Nat) : Memory.wf (deliver s k).mem = true :=
  takeTrap_wf (s := s.mapCx _) h _

theorem performWrite_wf {s : State} (h : Memory.wf s.mem = true) (c : Nat) (w : Write) :
    Memory.wf (performWrite s c w).mem = true := (performWrite_keeps s c w).2 h

theorem performIdx_wf {s : State} (h : Memory.wf s.mem = true) (c i : Nat) : Memory.wf (performIdx s c i).mem = true := by
  unfold performIdx
  split
  · exact h
  · exact performWrite_wf (s := s.setCtx c _) h _ _

/-- Whatever its change keeps of the form, a read of scale bytes with that change keeps (R257). -/
theorem consumeScales_wf {s : State} (h : Memory.wf s.mem = true) (word : BitVec 32) (scales : List Nat)
    {go : Nat → State → State} (hgo : ∀ n, KeepsForm (go n)) : Memory.wf (consumeScales word scales go s).mem = true := by
  unfold consumeScales
  split
  · exact hgo _ _ h
  · dsimp only
    split
    · rw [unpinnableAt_mem]; exact h
    · exact hgo _ _ (by rw [unpinnableAt_mem]; exact h)

/-- At a strip boundary the memory is as the instruction leaves it (R78). -/
theorem atBoundary_wf {s : State} (h : Memory.wf s.mem = true) (b : Bool) {k : State → State} (hk : KeepsForm k) :
    Memory.wf (atBoundary b k s).mem = true := by
  have hb : Memory.wf (boundary b s).mem = true := by rw [boundary_mem]; exact h
  unfold atBoundary; dsimp only
  split
  · exact (congrArg (Memory.wf · = true) (forceCommit_mem (boundary b s))).mpr hb
  · exact hk _ hb

/-! ### The waits of order_before (R185) -/

/-- The state in which a walk over the copy channels ends. -/
def Joined.after : Joined → State
  | .stops s => s
  | .waits s _ => s
  | .done s => s

theorem joinChannels_wf {s : State} (h : Memory.wf s.mem = true) (ks : List Nat) :
    Memory.wf (joinChannels ks s).after.mem = true := by
  induction ks generalizing s with
  | nil => exact h
  | cons k ks ih =>
    unfold joinChannels; dsimp only
    split
    · exact deliver_wf h k
    · generalize CopyChan.join _ = ch
      split
      · exact ih (s := s.mapCx _) h
      · split
        · exact takeTrap_wf (s := s.mapCx _) h _
        · exact h

section
variable {q : Pending} (hq : KeepsForm q.k) {s : State} (h : Memory.wf s.mem = true)
include hq h

theorem Pending.settle_wf (i : Instr) : Memory.wf (q.settle i s).mem = true := by
  unfold Pending.settle
  split
  · exact takeTrap_wf h _
  · split
    · exact hq _ h
    · exact h

theorem Pending.goFrom_wf (i : Instr) (ks : List Nat) : Memory.wf (q.goFrom i ks s).mem = true := by
  have hj := joinChannels_wf h ks
  unfold Pending.goFrom
  split <;> rename_i e <;> rw [e] at hj
  · exact hj
  · exact hj
  · exact Pending.settle_wf hq hj i

theorem orderBefore_wf (i : Instr) : Memory.wf (orderBefore q i s).mem = true := by
  unfold orderBefore
  split
  · exact takeTrap_wf h _
  · exact Pending.goFrom_wf hq (by rw [forceCommit_mem]; exact h) i _

theorem Pending.goOn_wf (i : Instr) (ms : List (Nat × BitVec 32)) : Memory.wf (q.goOn i ms s).mem = true := by
  unfold Pending.goOn; dsimp only
  split
  · exact Pending.settle_wf (s := s.mapCx _) hq h i
  · split
    · exact deliver_wf (s := s.mapCx _) h _
    · split
      · exact Pending.goFrom_wf (s := s.mapCx _) hq h i _
      · exact takeTrap_wf (s := s.mapCx _) h _
end

end Sys2Proof.Machine
end

section
/-! SUPPORT. The scalar unit, the engines and messages keep the memory's form (R3, R143). -/

namespace Sys2Proof.Machine

/-! ### State registers (R83, R84) -/

@[simp] theorem countCore_mem (s : State) (core n : Nat) : (countCore s core n).mem = s.mem := by
  unfold countCore; dsimp only
  split
  · rfl
  · split <;> rfl

@[simp] theorem adjunctRuns_mem (c : Nat) (s : State) : (adjunctRuns c s).mem = s.mem := by
  unfold adjunctRuns; split <;> rfl

@[simp] theorem readState_mem (s : State) (n : Nat) : (readState s n).2.mem = s.mem := by
  unfold readState
  refine snd_mem_ite rfl (snd_mem_ite rfl (snd_mem_ite rfl (snd_mem_ite (adjunctRuns_mem s.cur s) ?_)))
  refine snd_mem_ite rfl (snd_mem_ite rfl (snd_mem_ite rfl (snd_mem_ite rfl (snd_mem_ite rfl ?_))))
  exact snd_mem_ite rfl (snd_mem_ite rfl (snd_mem_ite rfl (countCore_mem s _ _)))

@[simp] theorem writeCore_mem (s : State) (core n : Nat) (v : Word) : (writeCore s core n v).mem = s.mem := by
  unfold writeCore; dsimp only
  split <;> split <;> simp [countFrom]

@[simp] theorem writeState_mem (s : State) (n : Nat) (v : Word) : (writeState s n v).mem = s.mem := by
  unfold writeState
  split
  · rfl
  · split
    · rfl
    · split
      · exact writeCore_mem s _ _ _
      · rfl

/-! ### Copies read and write (R184, R187) -/

@[simp] theorem copyTouch_mem (s : State) (a : Acc) (pages : List TlbEntry) (va : Word) :
    (copyTouch s a pages va).mem = s.mem := by
  unfold copyTouch; split <;> rfl

section
variable {s : State} (h : Memory.wf s.mem = true)
include h

theorem execMfs_inForm (r : BitVec 5) (n : BitVec 12) : InForm (execMfs r n s) := by
  unfold execMfs
  split
  · simp [takeTrap_wf h]
  · simp [h]

theorem execMts_inForm (r : BitVec 5) (n : BitVec 12) : InForm (execMts r n s) := by
  unfold execMts
  split
  · simp [takeTrap_wf h]
  · simp [h]

/-! ### Scalar accesses -/

theorem loadScalar_wf (d : BitVec 5) (va : Word) (strm sz : Nat) (z : Bool) (f : Context → Context) :
    Memory.wf (loadScalar d va strm sz z f s).mem = true := by
  unfold loadScalar
  split
  · exact takeTrap_wf h _
  · split
    · exact h
    · exact consume_wf (touch_wf h _ _ _) _ _ _ _ fun _ _ ht => ht

theorem storeScalar_wf (va : Word) (strm sz : Nat) (v : Word) : Memory.wf (storeScalar va strm sz v s).mem = true := by
  unfold storeScalar
  split
  · exact takeTrap_wf h _
  · exact holdWrite_wf (touch_wf h _ _ _) _

theorem releaseStore_wf (b : BitVec 5) (sz : Nat) (p : Place) : Memory.wf (releaseStore b sz p s).mem = true := by
  unfold releaseStore
  split
  · exact takeTrap_wf h _
  · exact h

theorem performAtomic_wf (op : AtomicOp) (d b : BitVec 5) (sz : Nat) (p : Place) :
    Memory.wf (performAtomic op d b sz p s).mem = true := by
  unfold performAtomic; dsimp only
  split
  · exact takeTrap_wf h _
  · refine consume_wf h _ _ _ _ fun t old ht => ?_
    rw [State.retireWith_mem]
    split
    · exact ht
    · exact performWrite_wf ht _ _

theorem execStRel_inForm (a b : BitVec 5) (p : BitVec 3) (u : BitVec 2) : InForm (execStRel a b p u s) := by
  unfold execStRel
  split
  · simp [takeTrap_wf h]
  · exact (inForm_next _).2 (orderBefore_wf (q := releaseRest _ _ _ _) (fun _ ht => releaseStore_wf ht _ _ _) (touch_wf h _ _ _) _)

theorem atomicScalar_inForm (op : AtomicOp) (i : Instr) (d a b : BitVec 5) (p : BitVec 3) (u : BitVec 1) :
    InForm (atomicScalar op i d a b p u s) := by
  unfold atomicScalar
  split
  · simp [takeTrap_wf h]
  · exact (inForm_next _).2
      (orderBefore_wf (q := atomicRest _ _ _ _ _ _) (fun _ ht => performAtomic_wf ht _ _ _ _ _) (touch_wf h _ _ _) _)

/-! ### Transfers of control -/

theorem pushAndGo_wf (target : Context → Word) : Memory.wf (pushAndGo target s).mem = true := by
  unfold pushAndGo
  split
  · exact takeTrap_wf h _
  · rename_i t e
    have ht : Memory.wf t.mem = true := by
      unfold spillOldest at e; dsimp only at e
      split at e
      · cases e; exact h
      · split at e
        · cases e
        · cases e; exact holdWrite_wf (touch_wf h _ _ _) _
    exact ht

theorem returnTo_wf (t : Word) (r : RetStore) : Memory.wf (returnTo t r s).mem = true := by
  unfold returnTo
  split
  · exact takeTrap_wf h _
  · exact h

theorem execRet_inForm : InForm (execRet s) := by
  unfold execRet; dsimp only
  split
  · exact (inForm_next _).2 (returnTo_wf h _ _)
  · split
    · simp [takeTrap_wf h]
    · split
      · simp [takeTrap_wf h]
      · split
        · simpa using h
        · exact (inForm_next _).2 (consume_wf (touch_wf h _ _ _) _ _ _ _ fun _ _ ht => returnTo_wf ht _ _)

theorem execLoop_inForm (a : BitVec 5) (n l : BitVec 10) : InForm (execLoop a n l s) := by
  unfold execLoop; dsimp only
  generalize (if a = 0 then n.setWidth 64 else s.cx.reg a) = count
  split
  · simpa using h
  · split
    · simp [takeTrap_wf h]
    · simpa using h

/-! ### Copy channels (R187 to R190) -/

theorem enterChannel_wf (i : Instr) (r : CopyReq) : Memory.wf (enterChannel i r s).mem = true := by
  unfold enterChannel
  exact wf_ite (deliver_wf h _) (wf_ite h h)

theorem execXcopy_inForm (d a b : BitVec 5) (c : BitVec 2) (n : BitVec 1) (l : BitVec 5) :
    InForm (execXcopy d a b c n l s) := by
  unfold execXcopy; dsimp only
  split
  · simp [takeTrap_wf h]
  · split
    · simp [takeTrap_wf h]
    · split
      · simp [takeTrap_wf h]
      · exact (inForm_next _).2 (enterChannel_wf (by simpa [forceCommit_mem] using h) _ _)

theorem execXcopyEnqueue_inForm (c : Nat) : InForm (execXcopyEnqueue c s) := by
  have hs : InForm (.next s) := (inForm_next s).2 h
  unfold execXcopyEnqueue
  refine inForm_ite (inForm_fault _) (inForm_ite hs ?_)
  split
  · exact inForm_ite (by simp [takeTrap_wf, h]) (inForm_ite hs (by simp [enterChannel_wf, h]))
  · exact hs

theorem waitId_wf (i : Instr) (k : Nat) (id : BitVec 32) : Memory.wf (waitId i k id s).mem = true := by
  unfold waitId
  exact wf_ite (deliver_wf h _) (wf_ite h (wf_ite (takeTrap_wf (s := s.mapCx _) h _) h))

theorem execXwaitRetire_inForm (c : Nat) : InForm (execXwaitRetire c s) := by
  have hs : InForm (.next s) := (inForm_next s).2 h
  unfold execXwaitRetire
  refine inForm_ite (inForm_fault _) (inForm_ite hs ?_)
  split
  · refine inForm_ite hs (inForm_ite (by simp [deliver_wf, h]) (inForm_ite (by simpa using h) (inForm_ite ?_ hs)))
    simp [takeTrap_wf, h]
  · exact hs

theorem execFence_inForm (m : BitVec 13) (p : BitVec 3) : InForm (execFence m p s) := by
  unfold execFence
  split
  · simpa using h
  · exact (inForm_next _).2 (orderBefore_wf (q := .plain _ (·.mapCx _)) (fun _ ht => ht) h _)

/-! ### Commands run (R188, R190) -/

theorem touchCopy_wf (a : Acc) (es : List (Word × Word)) : Memory.wf (touchCopy a es s).2.mem = true := by
  induction es generalizing s with
  | nil => exact h
  | cons e es ih =>
    unfold touchCopy; dsimp only
    refine ih ?_
    split <;> split <;> simp [touch_wf, h]

theorem startCommand_wf (k : Nat) (c : CopyCmd) : Memory.wf (startCommand k c s).mem = true := by
  unfold startCommand; dsimp only
  split
  · exact h
  · exact touchCopy_wf h _ _

theorem copyWrite_wf (ctx k : Nat) (a : Acc) (pages : List TlbEntry) (e : Word × List Byte × Bool) :
    Memory.wf (copyWrite ctx k a pages s e).mem = true := by
  unfold copyWrite; dsimp only
  split
  · exact h
  · have hw (w : Write) : Memory.wf (performAt (countWrite s (s.ctxAt ctx).launchNo w) w).mem = true :=
      performAt_wf ((countWrite_keeps s _ w).2 h) w
    exact wf_ite (hw _) (hw _)

theorem completeCommand_wf (k : Nat) (c : CopyCmd) (pages : List TlbEntry) (got : Tab (List Byte × Bool)) (put : List Nat) :
    Memory.wf (completeCommand k c pages got put s).mem = true := by
  unfold completeCommand
  refine foldl_wf _ (fun e t ht => copyWrite_wf ht _ _ _ _ e) _ _ ?_
  refine foldl_wf _ (fun e t ht => ?_) _ _ h
  exact wf_ite ht (by rw [copyTouch_mem]; exact ht)

theorem execCopyCommandStart_inForm (ctx chan : Nat) (id : BitVec 32) : InForm (execCopyCommandStart ctx chan id s) := by
  have hs : InForm (.next s) := (inForm_next s).2 h
  unfold execCopyCommandStart
  refine inForm_ite (inForm_fault _) ?_
  dsimp only
  split
  · exact inForm_ite (by simp [startCommand_wf, h]) hs
  · exact hs

theorem execCopyCommandComplete_inForm (ctx chan : Nat) (id : BitVec 32) :
    InForm (execCopyCommandComplete ctx chan id s) := by
  have hs : InForm (.next s) := (inForm_next s).2 h
  unfold execCopyCommandComplete
  refine inForm_ite (inForm_fault _) ?_
  split
  · split
    · exact inForm_ite (by simp [completeCommand_wf, h]) hs
    · exact hs
  · exact hs

theorem copyElement_wf (k : Nat) (id : BitVec 32) (m : Nat) : Memory.wf (copyElement k id m s).mem = true := by
  unfold copyElement; dsimp only
  split
  · exact h
  · split
    · split
      · split
        · exact h
        · rw [State.mapCx_mem, copyTouch_mem]; exact h
      · exact wf_ite (copyWrite_wf h _ _ _ _ _) h
    · exact h

theorem execVcappThresholdNotify_inForm (c n : Nat) : InForm (execVcappThresholdNotify c n s) := by
  have hs : InForm (.next s) := (inForm_next s).2 h
  unfold execVcappThresholdNotify
  refine inForm_ite (inForm_fault _) ?_
  dsimp only
  split
  · exact hs
  · exact inForm_ite hs ((inForm_next _).2 h)

/-! ### Messages and user interrupts (R192 to R195 engines, R204 to R208) -/

theorem execSend_inForm (v a : BitVec 5) (t : BitVec 2) : InForm (execSend v a t s) := by
  unfold execSend; dsimp only
  split
  · simp [takeTrap_wf h]
  · refine inForm_ite (by simp [takeTrap_wf h]) (inForm_ite (by simp [takeTrap_wf h]) ?_)
    simp [forceCommit_mem, h]

theorem execGrantRequest_inForm (n : Nat) : InForm (execGrantRequest n s) := by
  unfold execGrantRequest
  split
  · simpa using h
  · exact inForm_ite (by simpa using h) (by simp [h])

theorem execGrantReply_inForm (c : Nat) (granted : Bool) : InForm (execGrantReply c granted s) := by
  have hs : InForm (.next s) := (inForm_next s).2 h
  unfold execGrantReply
  refine inForm_ite (inForm_fault _) (inForm_ite hs ?_)
  split
  · refine inForm_ite (by simp [takeTrap_wf, h]) ?_
    split
    · refine inForm_ite hs ((inForm_next _).2 (KeepsForm.within ?_ (by exact h) c))
      exact fun t ht => wf_ite ht (takeTrap_wf ht _)
    · exact hs
  · exact hs

theorem execMessageArrival_inForm (c tag : Nat) : InForm (execMessageArrival c tag s) := by
  have hs : InForm (.next s) := (inForm_next s).2 h
  unfold execMessageArrival
  refine inForm_ite (inForm_fault _) ?_
  split
  · exact hs
  · exact inForm_ite hs (inForm_ite ((inForm_next _).2 h) ((inForm_next _).2 h))

theorem execRecv_inForm (v : BitVec 5) (t : BitVec 2) : InForm (execRecv v t s) := by
  unfold execRecv; dsimp only
  split
  · simp [takeTrap_wf h]
  · refine inForm_ite (by simp [takeTrap_wf h]) ?_
    split <;> simp [forceCommit_mem, h]

theorem execRecvSlotFull_inForm (c : Nat) : InForm (execRecvSlotFull c s) := by
  have hs : InForm (.next s) := (inForm_next s).2 h
  unfold execRecvSlotFull
  refine inForm_ite (inForm_fault _) (inForm_ite hs ?_)
  split
  · split
    · exact inForm_ite (by simp [h]) hs
    · exact inForm_ite (by simp [takeTrap_wf, h]) hs
  · exact hs

theorem execUserInterruptTake_inForm (c : Nat) : InForm (execUserInterruptTake c s) := by
  have hs : InForm (.next s) := (inForm_next s).2 h
  unfold execUserInterruptTake
  refine inForm_ite (inForm_fault _) ?_
  split
  · exact hs
  · exact inForm_ite (by simp [takeInterrupt, h]) hs

theorem execUiret_inForm : InForm (execUiret s) := by
  unfold execUiret
  exact inForm_ite (by simp [takeTrap_wf h]) ((inForm_next _).2 h)

/-! ### Code maintenance and WAIT (R267, R268, R388) -/

theorem waitLines_wf (i : Instr) (lines : List Nat) : Memory.wf (waitLines i lines s).mem = true := by
  unfold waitLines
  exact wf_ite h (wf_ite (takeTrap_wf h _) h)

theorem execDcwb_inForm (r : BitVec 5) (n : BitVec 12) : InForm (execDcwb r n s) := by
  unfold execDcwb
  split
  · simp [takeTrap_wf h]
  · exact (inForm_next _).2 (waitLines_wf (by rw [forceCommit_mem]; exact h) _ _)

theorem execDcwbComplete_inForm (c : Nat) : InForm (execDcwbComplete c s) := by
  have hs : InForm (.next s) := (inForm_next s).2 h
  unfold execDcwbComplete
  refine inForm_ite (inForm_fault _) ?_
  split
  · exact inForm_ite (by simp [waitLines_wf, h]) hs
  · exact hs

theorem execIinv_inForm (r : BitVec 5) (n : BitVec 12) : InForm (execIinv r n s) := by
  unfold execIinv
  exact inForm_ite (by simp [takeTrap_wf h]) ((inForm_next _).2 h)

theorem execIinvComplete_inForm (c : Nat) : InForm (execIinvComplete c s) := by
  have hs : InForm (.next s) := (inForm_next s).2 h
  unfold execIinvComplete
  refine inForm_ite (inForm_fault _) ?_
  split
  · exact inForm_ite hs (inForm_ite (by simp [takeTrap_wf, h]) ((inForm_next _).2 h))
  · exact hs

theorem execWait_inForm : InForm (execWait s) := inForm_ite ((inForm_next _).2 h) ((inForm_next _).2 h)

theorem execWaitWake_inForm (c : Nat) : InForm (execWaitWake c s) := by
  have hs : InForm (.next s) := (inForm_next s).2 h
  unfold execWaitWake
  refine inForm_ite (inForm_fault _) (inForm_ite hs ?_)
  split
  · exact inForm_ite ((inForm_next _).2 h) hs
  · exact hs

/-! ### Reads performed early (R178) -/

theorem readEarly_wf (c strm va n : Nat) : Memory.wf (readEarly c strm va n s).mem = true := by
  unfold readEarly; dsimp only
  split
  · exact h
  · exact wf_ite (touch_wf h _ _ _) h
end

end Sys2Proof.Machine
end

section
/-! SUPPORT. Vector words, vector memory and the matrix unit keep the memory's form (R3, R143). -/

namespace Sys2Proof.Machine

/-! ### Destinations (R110, R111) -/

@[simp] theorem writeUpTo_mem (start stop w : Nat) (vd : BitVec 5) (m q : BitVec 1) (rounds : Bool)
    (f : Context → Nat → Nat → Nat → Nat → Nat × Flags) (s : State) :
    (writeUpTo start stop w vd m q rounds f s).mem = s.mem := allocate_mem s _

@[simp] theorem writeElements_mem (start w : Nat) (vd : BitVec 5) (m q : BitVec 1) (rounds : Bool)
    (f : Context → Nat → Nat → Nat → Nat → Nat × Flags) (s : State) :
    (writeElements start w vd m q rounds f s).mem = s.mem := writeUpTo_mem ..

@[simp] theorem elementwiseOp_mem (vd : BitVec 5) (m q : BitVec 1) (rounds : Bool)
    (f : Context → Nat → Nat → Nat → Nat → Nat × Flags) (s : State) : (elementwiseOp vd m q rounds f s).mem = s.mem := by
  unfold elementwiseOp; dsimp only
  split
  · rfl
  · simp

@[simp] theorem maskOp_mem (vd : BitVec 5) (m q : BitVec 1) (f : Context → Nat → Nat → Bool × Flags) (s : State) :
    (maskOp vd m q f s).mem = s.mem := by
  unfold maskOp; dsimp only
  split
  · rfl
  · exact allocate_mem s _

@[simp] theorem copyScales_mem (a d : BitVec 5) (x : Context) (s : State) : (copyScales a d x s).mem = s.mem := by
  unfold copyScales; split <;> rfl

@[simp] theorem reduceAct_mem (whole : Bool) (d a : BitVec 5) (m : BitVec 1) (o : BitVec 3) (s : State) :
    (reduceAct whole d a m o s).mem = s.mem := by
  unfold reduceAct; dsimp only
  split
  · rfl
  · simp

@[simp] theorem scanAct_mem (d a : BitVec 5) (m q : BitVec 1) (o : BitVec 3) (s : State) :
    (scanAct d a m q o s).mem = s.mem := by
  unfold scanAct; dsimp only
  split
  · rfl
  · simp

@[simp] theorem moveAct_mem (start : Nat) (d : BitVec 5) (m q : BitVec 1) (f : Context → Nat → Nat → Nat → Nat)
    {after : State → State} (ha : ∀ t, (after t).mem = t.mem) (s : State) : (moveAct start d m q f after s).mem = s.mem := by
  unfold moveAct
  split
  · rfl
  · simp [ha]

@[simp] theorem convAct_mem (d : BitVec 5) (m q : BitVec 1) (t : BitVec 5) (rounds : Bool)
    (f : Context → Nat → Nat → Nat → Nat → Nat × Flags) {after : State → State} (ha : ∀ t, (after t).mem = t.mem)
    (s : State) : (convAct d m q t rounds f after s).mem = s.mem := by
  unfold convAct
  split
  · rfl
  · simp [ha]

/-! ### The matrix unit -/

@[simp] theorem multiply_mem (d f : Nat) (n : BitVec 2) (free : Nat) (s : State) : (multiply d f n free s).mem = s.mem := by
  unfold multiply; dsimp only
  rw [State.mapCx_mem, checkerDraw_mem]; rfl

@[simp] theorem mldbAct_mem (a b : BitVec 5) (s : State) : (mldbAct a b s).mem = s.mem := (commitIf_keeps _ s).1

@[simp] theorem mdrainAct_mem (d b : BitVec 5) (n : BitVec 2) (s : State) : (mdrainAct d b n s).mem = s.mem := by
  unfold mdrainAct; dsimp only
  split
  · rfl
  · simp

/-! ### Elements read (R373) -/

@[simp] theorem retireAll_mem (stop : Nat) (s : State) : (retireAll stop s).mem = s.mem := by
  unfold retireAll; split <;> rfl

@[simp] theorem readElem_mem (g : Nat) (half : Tab Nat) (s : State) (e : VElem) (p : Place) :
    (readElem g half s e p).2.2.mem = s.mem := by
  unfold readElem; dsimp only
  split
  · rfl
  · split
    · split
      · rfl
      · exact dropBytes_mem ..
    · exact dropBytes_mem ..

@[simp] theorem readFrom_mem (g : Nat) (es : List (VElem × Place)) (half : Tab Nat) (s : State) :
    (readFrom g es half s).2.mem = s.mem := by
  induction es generalizing half s with
  | nil => rfl
  | cons e es ih => exact (ih _ _).trans (readElem_mem ..)

@[simp] theorem State.dropAll_mem (g n : Nat) (ps : List Place) (s : State) : (s.dropAll g n ps).mem = s.mem :=
  foldl_mem (fun (t : State) (p : Place) => t.dropEarly t.cur g p.loc n) (fun t p => dropEarly_mem t t.cur g p.loc n) ps s

@[simp] theorem loadElems_mem (start : Nat) (d : BitVec 5) (m q : BitVec 1) (g stop : Nat) (es : List (VElem × Place))
    (sc : List (Word × Place)) (s : State) : (loadElems start d m q g stop es sc s).mem = s.mem := by
  unfold loadElems; dsimp only
  rw [retireAll_mem]
  split <;> split <;> simp [readElems]

section
variable {s : State} (h : Memory.wf s.mem = true)
include h

/-! ### A vector word -/

theorem vectorWord_inForm (check : Option Trap) {act : State → State} (ha : KeepsForm act) :
    InForm (vectorWord check act s) := by
  unfold vectorWord
  split
  · simp [takeTrap_wf h]
  · exact (inForm_next _).2 (ha s h)

theorem vectorWord_inForm_of_mem (check : Option Trap) {act : State → State} (ha : ∀ t, (act t).mem = t.mem) :
    InForm (vectorWord check act s) := vectorWord_inForm h check (.of_mem ha)

/-! ### Vector memory (R164 to R169, R218) -/

theorem translateAll_wf (k : AccKind) (vas : List Word) : Memory.wf (translateAll k vas s).2.mem = true := by
  induction vas generalizing s with
  | nil => exact h
  | cons va vas ih =>
    unfold translateAll; dsimp only
    refine ih ?_
    split
    · exact touch_wf h _ _ _
    · exact h

theorem holdElems_wf (d : BitVec 5) (g stop : Nat) (es : List (VElem × Place)) (sc : List (Word × Place)) (free : Nat) :
    Memory.wf (holdElems d g stop es sc free s).mem = true := by
  unfold holdElems; dsimp only
  rw [retireAll_mem]
  refine foldl_wf _ (fun w _ ht => holdWrite_wf ht w) _ _ ?_
  rw [(commitIf_keeps _ s).1]; exact h

theorem storeElems_wf (i : Instr) (d : BitVec 5) (g stop : Nat) (es : List (VElem × Place)) (sc : List (Word × Place)) :
    Memory.wf (storeElems i d g stop es sc s).mem = true :=
  consumeScales_wf h _ _ fun n _ ht => holdElems_wf ht d g stop es sc n

theorem amoElem_wf (op : VAmo) (d : BitVec 5) (g : Nat) (e : VElem) (p : Place) :
    Memory.wf (amoElem op d g e p s).2.mem = true := by
  have hd : Memory.wf (if s.poisoned p.loc then s.draw.2 else s).mem = true := wf_ite h h
  unfold amoElem; dsimp only
  generalize (if s.poisoned p.loc then s.draw.2 else s) = t at *
  split
  · exact hd
  · exact performWrite_wf hd _ _

theorem amoElems_wf (op : VAmo) (d : BitVec 5) (g : Nat) (es : List (VElem × Place)) :
    Memory.wf (amoElems op d g es s).2.mem = true := by
  induction es generalizing s with
  | nil => exact h
  | cons e es ih => exact ih (amoElem_wf h op d g e.1 e.2)

theorem amoAct_wf (op : VAmo) (start : Nat) (d : BitVec 5) (m q : BitVec 1) (g stop : Nat) (es : List (VElem × Place))
    (sc : List (Word × Place)) : Memory.wf (amoAct op start d m q g stop es sc s).mem = true := by
  unfold amoAct
  simp [amoElems_wf h]
end

/-- A vector memory member whose parts keep the memory's form. -/
structure VAct.Keeps (v : VAct) : Prop where
  prep : KeepsForm v.prep
  act : ∀ stop es sc, KeepsForm (v.act stop es sc)

theorem loadAct_keeps (start : Nat) (d : BitVec 5) (m q : BitVec 1) (g : Nat) : (loadAct start d m q g).Keeps :=
  ⟨.id, fun _ _ _ => .of_mem fun t => loadElems_mem start d m q g _ _ _ t⟩

theorem storeAct_keeps (i : Instr) (d : BitVec 5) (g : Nat) : (storeAct i d g).Keeps :=
  ⟨.id, fun _ _ _ _ ht => storeElems_wf ht i d g _ _ _⟩

theorem vamoAct_keeps (op : VAmo) (start : Nat) (d : BitVec 5) (m q : BitVec 1) (g : Nat) :
    (vamoAct op start d m q g).Keeps :=
  ⟨.of_mem forceCommit_mem, fun stop es sc _ ht => amoAct_wf ht op start d m q g stop es sc⟩

section
variable {v : VAct} (hv : v.Keeps)
include hv

theorem VAct.Keeps.perform (stop : Nat) (es : List (VElem × Place)) : KeepsForm (v.perform stop es) := fun t ht =>
  hv.act _ _ _ _ (by rw [goOnPoisoned_mem]; exact ht)

theorem VAct.Keeps.indexed {s : State} (h : Memory.wf s.mem = true) (i : Instr) (k : VMem) (kind : Nat) {t : Translated}
    (ht : Memory.wf t.after.mem = true) : Memory.wf (v.indexed i k kind t s).mem = true := by
  have hu := hv.prep _ ht
  unfold VAct.indexed
  refine wf_ite (hv.prep _ h) ?_
  split
  · exact hv.perform _ _ _ hu
  · dsimp only
    split
    · rw [unpinnableAt_mem]; exact hv.perform _ _ _ hu
    · exact hv.perform _ _ _ hu
    · exact hv.perform _ _ _ hu

theorem VAct.Keeps.whole {s : State} (h : Memory.wf s.mem = true) (i : Instr) (k : VMem) {t : Translated}
    (ht : Memory.wf t.after.mem = true) : Memory.wf (v.whole i k t s).mem = true := by
  unfold VAct.whole; dsimp only
  split
  · exact ht
  · refine wf_ite (by rw [unpinnableAt_mem]; exact ht) (wf_ite h ?_)
    exact hv.act _ _ _ _ (by rw [goOnPoisoned_mem]; exact ht)

/-- What a vector memory word does once its issue checks have passed. -/
theorem VAct.Keeps.vmemAct (mode : VMode) (ak : AccKind) (kind : Nat) (i : Instr) (a b : BitVec 5) (m : BitVec 1) :
    KeepsForm (vmemAct mode ak kind i a b m v) := by
  intro s h
  unfold Machine.vmemAct; dsimp only
  split
  · exact h
  · split
    · exact h
    · have hc : Memory.wf (if mode = .index then s.mapCx fun x => x.capture (x.groupRegs b.toNat) else s).mem = true :=
        wf_ite h h
      exact wf_ite (hv.indexed hc _ _ _ (translateAll_wf hc _ _)) (hv.whole hc _ _ (translateAll_wf hc _ _))
end

/-! ### VCAPP (R42 to R44, R375) -/

section
variable {s : State} (h : Memory.wf s.mem = true)
include h

theorem touchQueue_wf (g : Nat) (va : Word) : Memory.wf (touchQueue g va s).mem = true := by
  unfold touchQueue
  split
  · exact h
  · split
    · exact h
    · rw [dropEarly_mem]; exact touch_wf h _ _ _

theorem append_wf (k : Queue) (v : Option (BitVec 5)) (g : Nat) (p : Place) (ps : List (Nat × Nat × Nat)) :
    Memory.wf (append k v g p ps s).mem = true := by
  unfold append; dsimp only
  refine wf_ite h ?_
  rw [State.mapCx_mem, foldl_mem postWrite fun _ _ => rfl]
  exact performWrite_wf h _ _

theorem appendActive_wf (k : Queue) (v : Option (BitVec 5)) (g : Nat) (p : Place) (ps : List (Nat × Nat × Nat)) :
    Memory.wf (appendActive k v g p ps s).mem = true := by
  have hf : Memory.wf (forceCommit s).mem = true := by rw [forceCommit_mem]; exact h
  unfold appendActive; dsimp only
  refine wf_ite h (wf_ite (wf_ite (append_wf ?_ _ _ _ _ _) (append_wf hf _ _ _ _ _)) hf)
  simpa using hf

theorem cappAct_wf (i : Instr) (v : Option (BitVec 5)) (a : BitVec 5) (m : BitVec 1) (g : BitVec 3) :
    Memory.wf (cappAct i v a m g s).mem = true := by
  unfold cappAct; dsimp only
  refine wf_ite h (wf_ite h ?_)
  split
  · exact h
  · have hq := touchQueue_wf h g.toNat (s.cx.src a)
    refine wf_ite (by rw [unpinnableAt_mem]; exact hq) (wf_ite hq ?_)
    split
    · exact translateAll_wf (translateAll_wf hq _ _) _ _
    · exact appendActive_wf (translateAll_wf (translateAll_wf hq _ _) _ _) _ _ _ _ _

/-! ### VSHAPE and VREL (R77, R78, R385) -/

theorem takeLanes_wf (i : Instr) (r : ShapeReq) (want : Nat) : Memory.wf (takeLanes i r want s).mem = true := by
  unfold takeLanes; dsimp only
  exact wf_ite (by simpa using h) h

theorem grantShape_wf (i : Instr) (r : ShapeReq) : Memory.wf (grantShape i r s).mem = true := by
  unfold grantShape; dsimp only
  exact wf_ite h (takeLanes_wf (s := s.mapCx _) h _ _ _)

theorem execVshape_inForm (d a b e : BitVec 5) (g : BitVec 2) (t x : BitVec 1) : InForm (execVshape d a b e g t x s) :=
  (inForm_next _).2 (atBoundary_wf h true fun _ ht => grantShape_wf ht _ _)

theorem execVrel_inForm : InForm (execVrel s) :=
  (inForm_next _).2 (atBoundary_wf h true (.of_mem fun t => tellRel_mem t t.cur))

theorem lanesOn_wf : Memory.wf (lanesOn s).mem = true := by
  unfold lanesOn
  split
  · exact takeLanes_wf (s := s.mapCx _) h _ _ _
  · exact h

/-! ### Vector words -/

theorem vecArith_inForm (fn : VFn) (i : Instr) (d a : BitVec 5) (k : Second) (m q : BitVec 1) :
    InForm (vecArith fn i d a k m q s) := vectorWord_inForm_of_mem h _ fun t => elementwiseOp_mem _ _ _ _ _ t

theorem vecCompare_inForm (i : Instr) (d a : BitVec 5) (k : Second) (m q : BitVec 1) (r : BitVec 3) :
    InForm (vecCompare i d a k m q r s) := vectorWord_inForm_of_mem h _ fun t => maskOp_mem _ _ _ _ t

theorem maskLogic_inForm (op : Bool → Bool → Bool) (i : Instr) (d a b : BitVec 5) (m q : BitVec 1) :
    InForm (maskLogic op i d a b m q s) := vectorWord_inForm_of_mem h _ fun t => maskOp_mem _ _ _ _ t

theorem move_inForm (check : Option Trap) (start : Nat) (d : BitVec 5) (m q : BitVec 1)
    (f : Context → Nat → Nat → Nat → Nat) : InForm (vectorWord check (moveAct start d m q f id) s) :=
  vectorWord_inForm_of_mem h _ fun t => moveAct_mem start d m q f (fun _ => rfl) t

theorem moveScales_inForm (check : Option Trap) (start : Nat) (d a : BitVec 5) (m q : BitVec 1) (x : Context)
    (f : Context → Nat → Nat → Nat → Nat) : InForm (vectorWord check (moveAct start d m q f (copyScales a d x)) s) :=
  vectorWord_inForm_of_mem h _ fun t => moveAct_mem start d m q f (copyScales_mem a d x) t

theorem vecLoad_inForm (mode : VMode) (i : Instr) (d a b : BitVec 5) (m q : BitVec 1) (g : BitVec 3) (check : Option Trap) :
    InForm (vecLoad mode i d a b m q g check s) :=
  vectorWord_inForm h _ ((loadAct_keeps _ _ _ _ _).vmemAct _ _ _ _ _ _ _)

theorem vecStore_inForm (mode : VMode) (i : Instr) (d a b : BitVec 5) (m : BitVec 1) (g : BitVec 3) (check : Option Trap) :
    InForm (vecStore mode i d a b m g check s) :=
  vectorWord_inForm h _ ((storeAct_keeps _ _ _).vmemAct _ _ _ _ _ _ _)

theorem vecAmo_inForm (op : VAmo) (i : Instr) (d a b : BitVec 5) (m q : BitVec 1) (g : BitVec 3) :
    InForm (vecAmo op i d a b m q g s) :=
  vectorWord_inForm h _ ((vamoAct_keeps _ _ _ _ _ _).vmemAct _ _ _ _ _ _ _)

/-- A word that changes its context alone. -/
theorem vectorWord_mapCx_inForm (check : Option Trap) (f : Context → Context) : InForm (vectorWord check (·.mapCx f) s) :=
  vectorWord_inForm_of_mem h _ fun t => t.mapCx_mem f

theorem maskToReg_inForm (f : List (Nat × Nat × Nat) → Word) (i : Instr) (d a : BitVec 5) (m : BitVec 1) :
    InForm (maskToReg f i d a m s) := vectorWord_mapCx_inForm h _ _

theorem maskToCond_inForm (f : Nat → Nat → Bool) (i : Instr) (c : BitVec 3) (a : BitVec 5) (m : BitVec 1) :
    InForm (maskToCond f i c a m s) := vectorWord_mapCx_inForm h _ _

theorem execVext_inForm (k : BitVec 1) (d a b : BitVec 5) : InForm (execVext k d a b s) := vectorWord_mapCx_inForm h _ _

theorem execMzero_inForm (k : BitVec 1) (n : BitVec 2) : InForm (execMzero k n s) := by
  unfold execMzero
  exact vectorWord_inForm_of_mem h _ fun t => by rw [State.mapCx_mem]; rfl

theorem execVins_inForm (k : BitVec 1) (d a b : BitVec 5) : InForm (execVins k d a b s) := by
  unfold execVins
  exact vectorWord_inForm_of_mem h _ fun t => by rw [State.mapCx_mem, allocate_mem]

theorem execVcvt_inForm (k : BitVec 1) (d a : BitVec 5) (m q : BitVec 1) (t : BitVec 5) : InForm (execVcvt k d a m q t s) := by
  unfold execVcvt
  exact vectorWord_inForm_of_mem h _ (convAct_mem d m q t _ _ fun _ => rfl)

theorem execVbq_inForm (k : BitVec 1) (d a : BitVec 5) (m q : BitVec 1) (t : BitVec 5) : InForm (execVbq k d a m q t s) := by
  unfold execVbq
  exact vectorWord_inForm_of_mem h _ (convAct_mem d m q t _ _ fun _ => rfl)

theorem execVbdq_inForm (k : BitVec 1) (d a : BitVec 5) (m q : BitVec 1) (t : BitVec 5) : InForm (execVbdq k d a m q t s) :=
  vectorWord_inForm h _ fun _ hu => consumeScales_wf hu _ _ fun _ =>
    .of_mem fun u => convAct_mem d m q t true _ (fun _ => rfl) u

/-! ### Words of the matrix unit -/

theorem execMatt_inForm (d : BitVec 5) (c : BitVec 3) : InForm (execMatt d c s) := by
  unfold execMatt
  exact inForm_ite (by simp [takeTrap_wf h]) ((inForm_next _).2 (atBoundary_wf h true (.of_mem fun _ => rfl)))

theorem execMdet_inForm : InForm (execMdet s) := (inForm_next _).2 (atBoundary_wf h false (.of_mem fun _ => rfl))

theorem execMclaim_inForm (d : BitVec 5) : InForm (execMclaim d s) := by
  unfold execMclaim
  split <;> exact (inForm_next _).2 h

theorem execMrel_inForm (a : BitVec 5) : InForm (execMrel a s) := by
  unfold execMrel
  exact inForm_ite (by simp [takeTrap_wf h]) ((inForm_next _).2 h)

theorem execMma_inForm (k : BitVec 1) (d a : BitVec 5) (n : BitVec 2) : InForm (execMma k d a n s) := by
  refine vectorWord_inForm h _ fun t ht => ?_
  unfold mmaAct; dsimp only
  exact wf_ite ht (consumeScales_wf ht _ _ fun _ => .of_mem fun u => multiply_mem _ _ _ _ u)
end

end Sys2Proof.Machine
end

section
/-! SUPPORT. Fetching, cocoons, tasks and the system words keep the memory's form (R3, R143). -/

namespace Sys2Proof.Machine

/-! ### Code words and framing (R292) -/

@[simp] theorem keepCode_mem (s : State) (c : Nat) (p : Place) (w : BitVec 32) : (keepCode s c p w).mem = s.mem := by
  unfold keepCode; dsimp only
  split <;> rfl

@[simp] theorem memberTag_mem (i : Instr) (s : State) : (memberTag i s).mem = s.mem := by
  unfold memberTag; split <;> rfl

/-- What the checks before the members of a convoy may change is the context alone (R294). -/
theorem beforeMembers_mem {s t : State} {a : Word} {ws : List (BitVec 32)} (e : beforeMembers s a ws = .ok t) :
    t.mem = s.mem := by
  unfold beforeMembers at e; dsimp only at e
  repeat' split at e
  all_goals cases e
  rfl

theorem passChecks_mem {s t : State} {a : Word} {ws : List (BitVec 32)} (e : passChecks s a ws = .ok t) :
    t.mem = s.mem := by
  unfold passChecks at e
  split at e
  · cases e
  · rename_i hb
    split at e <;> cases e
    exact beforeMembers_mem hb

section
variable {s : State} (h : Memory.wf s.mem = true)
include h

theorem fetchWord_wf {va : Word} {r : State × BitVec 32} (e : fetchWord s va = .ok r) : Memory.wf r.1.mem = true := by
  unfold fetchWord at e; dsimp only at e
  split at e <;> cases e
  rw [keepCode_mem]
  exact touch_wf h _ _ _

theorem frameFrom_wf (a : Word) (fuel n : Nat) (ws : List (BitVec 32)) :
    Memory.wf (frameFrom a fuel n s ws).1.mem = true := by
  induction fuel generalizing s n ws with
  | zero => exact h
  | succ fuel ih =>
    unfold frameFrom; dsimp only
    split
    · exact h
    · rename_i t w e
      have ht : Memory.wf t.mem = true := fetchWord_wf h e
      split
      · exact ht
      · split
        · exact ht
        · split
          · exact ih ht _ _
          · exact ht

theorem memberReads_wf (i : Instr) : Memory.wf (memberReads i s).mem = true := by
  unfold memberReads
  split
  · exact wf_ite h (touchQueue_wf h _ _)
  · exact wf_ite h (touchQueue_wf h _ _)
  · exact h

theorem checksRead_wf (ws : List (BitVec 32)) : Memory.wf (checksRead ws s).mem = true := by
  induction ws generalizing s with
  | nil => exact h
  | cons w ws ih =>
    unfold checksRead; dsimp only
    split
    · exact ih h
    · have hr := memberReads_wf h
      split
      · exact hr _
      · exact ih (by simp [hr])

theorem withChecks_wf (u : State) (ws : List (BitVec 32)) : Memory.wf (withChecks u s ws).mem = true := checksRead_wf h ws

theorem withReads_wf (a : Word) (ws : List (BitVec 32)) : Memory.wf (withReads s a ws).mem = true := by
  unfold withReads
  split
  · exact h
  · rename_i e
    exact withChecks_wf (by rw [beforeMembers_mem e]; exact h) s _

theorem fetchConvoy_wf : Memory.wf (fetchConvoy s).mem = true := by
  have hf := frameFrom_wf h s.cx.pc 4 0 []
  unfold fetchConvoy; dsimp only
  split <;> rename_i e <;> rw [e] at hf
  · exact takeTrap_wf hf _
  · refine wf_ite hf ?_
    split
    · exact takeTrap_wf (withReads_wf hf _ _) _
    · rename_i e
      rw [passChecks_mem e]; exact hf

theorem prefetch_wf (c va : Nat) : Memory.wf (prefetch c va s).mem = true := by
  unfold prefetch; dsimp only
  split
  · exact h
  · exact wf_ite (by rw [keepCode_mem]; exact touch_wf h _ _ _) h

theorem execConvoyFetch_inForm (c : Nat) : InForm (execConvoyFetch c s) := by
  unfold execConvoyFetch
  exact inForm_ite (inForm_fault _) (inForm_ite (by simp [fetchConvoy_wf, h]) ((inForm_next _).2 h))
end

/-! ### Cocoons (R229 to R239) -/

@[simp] theorem weightChange_mem (s : State) (c w : Nat) : (weightChange s c w).mem = s.mem := by
  unfold weightChange; split <;> rfl

@[simp] theorem loadCocoon_mem (s : State) (c : Nat) (r : CocoonRead) (pc : Word) : (loadCocoon s c r pc).mem = s.mem :=
  dropReturned_mem c _

section
variable {s : State} (h : Memory.wf s.mem = true)
include h

theorem touchBlock_wf (a : Acc) (k : AccKind) (key : Option Nat) (va n : Nat) :
    Memory.wf (touchBlock s a k key va n).mem = true := (touchBlock_keeps s a k key va n).2 h

theorem writeAreas_wf {t : State} {a : Acc} {key va : Nat} {areas : List (Nat × List Byte)}
    (e : writeAreas s a key va areas = .ok t) : Memory.wf t.mem = true := by
  unfold writeAreas at e
  split at e <;> cases e
  exact foldl_wf _ (fun _ _ hb => performAt_wf (touch_wf hb _ _ _) _) _ _ h

theorem touchCocoon_wf (a : Acc) (key va : Nat) (b : List Byte) : Memory.wf (touchCocoon s a key va b).mem = true :=
  foldl_wf _ (fun _ _ hb => touchBlock_wf hb _ _ _ _ _) _ _ (touchBlock_wf h _ _ _ _ _)

theorem touchDump_wf : Memory.wf (touchDump s).mem = true := by
  unfold touchDump; dsimp only
  split
  · exact h
  · exact touchBlock_wf h _ _ _ _ _

/-! ### Tasks (R32, R40, R208, R362) -/

theorem execTaskStart_inForm (c : Nat) : InForm (execTaskStart c s) := by
  have hs : InForm (.next s) := (inForm_next s).2 h
  unfold execTaskStart
  refine inForm_ite (inForm_fault _) ?_
  dsimp only
  split
  · split
    · exact inForm_ite (by simp [h]) hs
    · exact hs
  · exact hs
end

@[simp] theorem dropEntries_mem (s : State) (out : TlbEntry → Bool) : (dropEntries s out).mem = s.mem := settleTables_mem _

@[simp] theorem releaseAll_mem (s : State) (c : Nat) : (releaseAll s c).mem = s.mem := withdraw_mem c s

@[simp] theorem endTask_mem (s : State) : (endTask s).mem = s.mem := by
  unfold endTask; dsimp only
  split
  · exact releaseAll_mem _ _
  · exact releaseAll_mem _ _

section
variable {s : State} (h : Memory.wf s.mem = true)
include h

theorem tendChannels_wf (ks : List Nat) : Memory.wf (tendChannels ks s).1.mem = true := by
  induction ks generalizing s with
  | nil => exact h
  | cons k ks ih =>
    unfold tendChannels; dsimp only
    split
    · exact deliver_wf h k
    · exact ih (wf_ite h h)

theorem waitTend_wf : Memory.wf (waitTend s).mem = true := by
  unfold waitTend
  split
  · exact deliver_wf h _
  · exact wf_ite (by simpa using h) (wf_ite (takeTrap_wf h _) h)

theorem execTend_inForm : InForm (execTend s) := by
  have ht := tendChannels_wf (s := forceCommit s) (by rw [forceCommit_mem]; exact h) [0, 1, 2, 3]
  unfold execTend
  exact inForm_ite (by simp [takeTrap_wf h]) ((inForm_next _).2 (wf_ite (waitTend_wf ht) ht))

theorem execTendWaitEnd_inForm (c : Nat) : InForm (execTendWaitEnd c s) := by
  have hs : InForm (.next s) := (inForm_next s).2 h
  unfold execTendWaitEnd
  refine inForm_ite (inForm_fault _) ?_
  split
  · exact inForm_ite (by simp [waitTend_wf, h]) hs
  · exact hs

theorem askMill_wf (i : Instr) (a : Word) : Memory.wf (askMill i a s).mem = true := by
  unfold askMill
  exact wf_ite (takeTrap_wf h _) (orderBefore_wf (q := .plain _ (·.waitIn _ _ _)) (fun _ ht => ht) h _)

/-! ### TRAP, ERET and TLBINV (R175, R221 to R223) -/

theorem execEret_inForm : InForm (execEret s) := by
  have hd := touchDump_wf h
  unfold execEret
  refine inForm_ite (by simp [takeTrap_wf h]) (inForm_ite ((inForm_next _).2 h) (inForm_ite ((inForm_next _).2 h) ?_))
  refine inForm_ite (by simp [takeTrap_wf h]) ?_
  split
  · simp [leaveTrap_mem, hd]
  · simp [badDump, doubleTrap_mem, hd]

theorem execQueuedTrap_inForm (c : Nat) : InForm (execQueuedTrap c s) := by
  unfold execQueuedTrap
  refine inForm_ite (inForm_fault _) ?_
  split
  · exact inForm_ite ((inForm_next _).2 h) (by simp [takeQueued_wf, h])
  · exact (inForm_next _).2 h

theorem execTlbinv_inForm (r : BitVec 5) (k : BitVec 2) : InForm (execTlbinv r k s) := by
  unfold execTlbinv
  refine inForm_ite (by simp [takeTrap_wf h]) ((inForm_next _).2 ?_)
  exact orderBefore_wf (q := .plain _ (·.waitIn _ _ _)) (fun _ ht => ht) h _

theorem execTlbinvComplete_inForm (c : Nat) : InForm (execTlbinvComplete c s) := by
  have hs : InForm (.next s) := (inForm_next s).2 h
  unfold execTlbinvComplete
  refine inForm_ite (inForm_fault _) ?_
  split
  · exact inForm_ite hs (inForm_ite (by simp [takeTrap_wf, h]) (inForm_ite hs (by simp [h])))
  · exact hs

/-! ### CSAVE and CLOAD (R237, R238) -/

theorem saveTask_wf {t : State} {kind va : Nat} {pc : Word} {dump : Option SavedDump}
    (e : saveTask s kind va pc dump = .ok t) : Memory.wf t.mem = true := by
  unfold saveTask at e; dsimp only at e
  split at e
  · cases e
  · rename_i u hu
    have hw : Memory.wf u.mem = true := writeAreas_wf (by exact h) hu
    cases e
    split
    · exact hw
    · rw [weightChange_mem]; exact hw

theorem saveNow_wf (va : Word) (dump : Option SavedDump) : Memory.wf (saveNow va dump s).mem = true := by
  have hf : Memory.wf (forceCommit s).mem = true := by rw [forceCommit_mem]; exact h
  unfold saveNow; dsimp only
  refine wf_ite (takeTrap_wf h _) (wf_ite hf ?_)
  split
  · exact takeTrap_wf h _
  · rename_i e
    have hu := saveTask_wf hf e
    exact hu

theorem execCsave_inForm (r : BitVec 5) : InForm (execCsave r s) := by
  have ht (t : Trap) : InForm (.next (takeTrap s t)) := (inForm_next _).2 (takeTrap_wf h t)
  unfold execCsave; dsimp only
  refine inForm_ite (ht _) (inForm_ite (ht _) (inForm_ite (ht _) ?_))
  split
  · exact ht _
  · split
    · exact ht _
    · exact inForm_ite (ht _) ((inForm_next _).2 (saveNow_wf (wf_ite (touchDump_wf h) h) _ _))

theorem placeDump_wf {t : State} {r : CocoonRead} (e : placeDump s r = .ok t) : Memory.wf t.mem = true := by
  unfold placeDump at e; dsimp only at e
  split at e
  · cases e; exact h
  · split at e
    · cases e
    · rename_i hu
      cases e
      have hw := writeAreas_wf h hu
      exact hw

theorem adoptTask_wf {t : State} {r : CocoonRead} {next : Word} (e : adoptTask r next s = .ok t) :
    Memory.wf t.mem = true := by
  unfold adoptTask at e; dsimp only at e
  split at e
  · cases e
  · rename_i hu
    cases e
    rw [serveWaiting_mem, weightChange_mem]
    refine placeDump_wf ?_ hu
    rw [State.mapCx_mem, loadCocoon_mem]; exact h

theorem loadNow_wf (r : BitVec 5) (va : Word) (b : List Byte) : Memory.wf (loadNow r va b s).mem = true := by
  unfold loadNow; dsimp only
  split
  · exact takeTrap_wf (touchCocoon_wf h _ _ _ _) _
  · refine wf_ite (by simpa using h) ?_
    split
    · exact takeTrap_wf h _
    · rename_i e
      exact adoptTask_wf (touchCocoon_wf h _ _ _ _) e

theorem loadFrom_wf (r : BitVec 5) : Memory.wf (loadFrom r s).mem = true := by
  unfold loadFrom; dsimp only
  split
  · exact takeTrap_wf h _
  · have hb := touchBlock_wf h (s.cx.saverAcc s.cur) .load (some s.cx.space.ckey.toNat) (s.cx.reg r).toNat 256
    split
    · exact takeTrap_wf hb _
    · exact wf_ite (takeTrap_wf hb _) (wf_ite (takeTrap_wf h _) (loadNow_wf hb _ _ _))

theorem execCload_inForm (r : BitVec 5) : InForm (execCload r s) := by
  have ht (t : Trap) : InForm (.next (takeTrap s t)) := (inForm_next _).2 (takeTrap_wf h t)
  unfold execCload
  exact inForm_ite (ht _) (inForm_ite (ht _) (inForm_ite (ht _) ((inForm_next _).2 (loadFrom_wf h r))))

theorem execCloadLaneGrant_inForm (c : Nat) : InForm (execCloadLaneGrant c s) := by
  have hs : InForm (.next s) := (inForm_next s).2 h
  unfold execCloadLaneGrant
  refine inForm_ite (inForm_fault _) ?_
  split
  · exact inForm_ite (by simp [loadFrom_wf, h]) hs
  · exact hs
end

end Sys2Proof.Machine
end

section
/-! SUPPORT. The mill and its launches keep the memory's form (R3, R143). -/

namespace Sys2Proof.Machine

/-! ### What the mill tells and hears (R46) -/

@[simp] theorem State.mapRec_mem (s : State) (n : Nat) (va : Word) (f : Rec → Rec) : (s.mapRec n va f).mem = s.mem := rfl

@[simp] theorem State.msixTo_mem (s : State) (m v : Nat) : (s.msixTo m v).mem = s.mem := by
  unfold State.msixTo; split <;> rfl

@[simp] theorem lowerCap_mem (s : State) (c short : Nat) : (lowerCap s c short).mem = s.mem := by
  unfold lowerCap; dsimp only; split <;> rfl

@[simp] theorem millHears_mem (p : MillPart) (s : State) : (millHears p s).mem = s.mem := by
  unfold millHears hearMsg
  split
  · rfl
  · split
    · exact lowerCap_mem _ _ _
    · exact restoreCap_mem _ _
    all_goals rfl

@[simp] theorem capsAfter_mem (s : State) (c : Nat) : (capsAfter s c).mem = s.mem := by
  unfold capsAfter; dsimp only
  split
  · split
    · exact restoreCap_mem s c
    · exact restoreCap_mem s c
  · exact restoreCap_mem s c

@[simp] theorem markDispatch_mem (s : State) (c : Nat) : (markDispatch s c).mem = s.mem := by
  unfold markDispatch; dsimp only; split <;> rfl

@[simp] theorem checkStalls_mem (s : State) : (checkStalls s).mem = s.mem := by
  unfold checkStalls
  refine foldl_mem _ (fun t l => ?_) _ _
  split <;> rfl

@[simp] theorem settleMill_mem (s : State) : (settleMill s).mem = s.mem := checkStalls_mem s

@[simp] theorem keepCauses_mem (b s : State) : (keepCauses b s).mem = s.mem := by
  unfold keepCauses
  refine foldl_mem _ (fun t l => ?_) _ _
  split <;> rfl

@[simp] theorem giveLanes_mem (s : State) (c : Nat) : (giveLanes s c).mem = s.mem := rfl

@[simp] theorem giveNotice_mem (s : State) (l : Launch) (r : Rec) (c : Nat) (e : Bool) :
    (giveNotice s l r c e).mem = s.mem := rfl

section
variable {s : State} (h : Memory.wf s.mem = true)
include h

/-- A block that is written, or the state as it stood where it cannot be, keeps the form. -/
theorem writeBlock_wf {t : State} {a : Acc} {key : Option Nat} {va : Nat} {bs : List Byte}
    (e : writeBlock s a key va bs = some t) : Memory.wf t.mem = true := (writeBlock_keeps e).2 h

/-! ### Records (R28 to R30, R38) -/

theorem writeField_wf (l : Launch) (va : Word) (off v : Nat) : Memory.wf (writeField s l va off v).mem = true := by
  unfold writeField
  split
  · rename_i e
    exact writeBlock_wf h e
  · exact h

theorem makeReady_wf (n : Nat) (va : Word) : Memory.wf (makeReady s n va).mem = true := by
  unfold makeReady; dsimp only
  split
  · exact h
  · split
    · exact h
    · rename_i l _ _ b _
      have ht : Memory.wf (touchRecord s l va.toNat b).mem = true := touchBlock_wf (touchBlock_wf h _ _ _ _ _) _ _ _ _ _
      split
      · exact ht
      · have hf := writeField_wf (writeField_wf ht l va 0x40 0) l va 0x50 0
        exact wf_ite hf hf

theorem decrement_wf {l : Launch} {va : Word} {r : Nat × State} (e : decrement s l va = some r) :
    Memory.wf r.2.mem = true := by
  unfold decrement at e; dsimp only at e
  split at e
  · cases e
  · rename_i p _
    have ht := touch_wf h l.acc .atomic p
    split at e <;> cases e
    · exact ht
    · exact performAt_wf ((countWrite_keeps _ _ _).2 ht) _

/-! ### What the mill does (R28, R30, R38, R40) -/

theorem actRoot_wf (l : Launch) (va : Word) : Memory.wf (actRoot s l va).2.mem = true := by
  unfold actRoot
  split
  · exact h
  · split <;> exact h

theorem actSpawn_wf (l : Launch) (va : Word) : Memory.wf (actSpawn s l va).2.mem = true := by
  unfold actSpawn
  split
  · exact h
  · split
    · exact h
    · split
      · exact h
      · exact touchBlock_wf h _ _ _ _ _

theorem actSignal_wf (l : Launch) (va : Word) : Memory.wf (actSignal s l va).2.mem = true := by
  unfold actSignal
  split
  · exact h
  · split
    · rename_i e
      have ht := decrement_wf h e
      split
      · exact ht
      · split <;> exact ht
    · exact h

theorem actComplete_wf (l : Launch) (va : Word) : Memory.wf (actComplete s l va).2.mem = true := by
  unfold actComplete; dsimp only
  split
  · exact h
  · split
    · exact h
    · split
      · exact h
      · split
        · exact h
        · dsimp only
          exact touchBlock_wf (by exact h) _ _ _ _ _

theorem millAct_wf (a : MillAct) : Memory.wf (millAct a s).2.mem = true := by
  unfold millAct
  split
  · exact h
  · rename_i l _
    split
    · split
      · exact actRoot_wf h _ _
      · exact h
    · exact actSpawn_wf h _ _
    · exact actSignal_wf h _ _
    · dsimp only
      exact makeReady_wf h _ _
    · exact actComplete_wf h _ _
    · simpa using h

theorem runActs_wf (fuel : Nat) (acts : List MillAct) : Memory.wf (runActs fuel acts s).mem = true := by
  induction fuel generalizing s acts with
  | zero => exact h
  | succ fuel ih =>
    cases acts with
    | nil => exact h
    | cons a rest => exact ih (millAct_wf h a) _

theorem runEvent_wf (acts : List MillAct) : Memory.wf (runEvent acts s).mem = true := by
  unfold runEvent
  rw [keepCauses_mem]; exact runActs_wf h _ _

theorem millEvent_wf (acts : List MillAct) : Memory.wf (millEvent acts s).mem = true := by
  unfold millEvent
  rw [settleMill_mem]; exact runEvent_wf h _

theorem acceptRequest_wf (c : Nat) (act : Nat → Word → MillAct) (va : Word) :
    Memory.wf (acceptRequest c act va s).mem = true := millEvent_wf (by simpa using h) _

theorem execSpawnRequest_inForm (c : Nat) : InForm (execSpawnRequest c s) := by
  unfold execSpawnRequest
  refine inForm_ite (inForm_fault _) ?_
  split
  · exact (inForm_next _).2 (acceptRequest_wf h _ _ _)
  · exact (inForm_next _).2 h

theorem execSignalRequest_inForm (c : Nat) : InForm (execSignalRequest c s) := by
  unfold execSignalRequest
  refine inForm_ite (inForm_fault _) ?_
  split
  · exact (inForm_next _).2 (acceptRequest_wf h _ _ _)
  · exact (inForm_next _).2 h

/-! ### Retirements (R36, R38) -/

theorem retireIteration_wf (k : HeldTask) : Memory.wf (retireIteration s k).mem = true := by
  unfold retireIteration
  split
  · rename_i l r _ _
    have hw := writeField_wf h l r.addr 0x40 (r.retired + 1)
    dsimp only
    rw [keepCauses_mem]
    exact wf_ite (runActs_wf (s := State.mapRec _ _ _ _) hw _ _) hw
  · exact h

theorem retireEnd_wf (e : EndMsg) : Memory.wf (retireEnd s e).mem = true := by
  unfold retireEnd; dsimp only
  rw [settleMill_mem]
  exact retireIteration_wf (by simpa using h) _

theorem execTendRetirement_inForm : InForm (execTendRetirement s) := by
  unfold execTendRetirement
  split
  · exact (inForm_next _).2 h
  · exact (inForm_next _).2 (retireEnd_wf h _)

theorem endArrives_wf (c : Nat) : Memory.wf (endArrives c s).mem = true := by
  unfold endArrives
  split
  · exact retireEnd_wf h _
  · exact h

/-! ### A dispatch pick (R30, R34 to R36, R225, R230) -/

theorem dispatch_wf (l : Launch) (r : Rec) (c : Nat) : Memory.wf (dispatch s l r c).mem = true := by
  unfold dispatch
  split
  · exact h
  · rename_i e
    simpa using writeBlock_wf h e

theorem restoreTask_wf (t : SavedTask) (l : Launch) (r : Rec) : Memory.wf (restoreTask s t l r).mem = true := by
  have hb {u : State} (hu : Memory.wf u.mem = true) := touchBlock_wf hu
  have hc {u : State} (hu : Memory.wf u.mem = true) := touchCocoon_wf hu
  have hl := loadCocoon_mem
  -- Every function it calls becomes a variable before its body is simplified: the kernel would evaluate them.
  obtain ⟨restored, e⟩ : ∃ f, f = restoreTask := exists_eq
  obtain ⟨read, er⟩ : ∃ f, f = readBlock := exists_eq
  obtain ⟨readAll, ea⟩ : ∃ f, f = readCocoon := exists_eq
  obtain ⟨touched, eb⟩ : ∃ f, f = touchBlock := exists_eq
  obtain ⟨touchedAll, ec⟩ : ∃ f, f = touchCocoon := exists_eq
  obtain ⟨loaded, el⟩ : ∃ f, f = loadCocoon := exists_eq
  rw [← e]
  delta restoreTask at e
  rw [← er, ← ea, ← eb, ← ec, ← el] at e
  rw [← eb] at hb
  rw [← ec] at hc
  rw [← el] at hl
  rw [e]
  clear e er ea eb ec el
  dsimp only [-Nat.reducePow]
  split
  · exact h
  · have hb := @hb s h
    split
    · exact hb _ _ _ _ _
    · split
      · exact hc (hb _ _ _ _ _) _ _ _ _
      · rw [serveWaiting_mem, weightChange_mem, giveLanes_mem, State.setCtx_mem, hl]
        exact hc (hb _ _ _ _ _) _ _ _ _

theorem pick_wf : Memory.wf (pick s).mem = true := by
  have hr (t : SavedTask) (l : Launch) (r : Rec) := restoreTask_wf h t l r
  unfold pick
  obtain ⟨restored, e⟩ : ∃ f, f = restoreTask := exists_eq
  rw [← e] at hr ⊢
  extract_lets u v
  have hu : Memory.wf u.mem = true := by
    dsimp only [u]
    split
    · exact hr _ _ _
    · exact h
  have hv : Memory.wf v.mem = true := by
    dsimp only [v]
    split
    · rw [giveNotice_mem]; exact hu
    · exact hu
  split
  · exact dispatch_wf hv _ _ _
  · exact hv

theorem execDispatchPick_inForm : InForm (execDispatchPick s) := by
  unfold execDispatchPick
  exact inForm_ite (by simp [pick_wf h]) ((inForm_next _).2 h)
end

end Sys2Proof.Machine
end

section
/-! SUPPORT. Waits, saves, the ends of tasks, launches, errors, planes and migration keep the memory's form (R3, R143). -/

namespace Sys2Proof.Machine

/-! ### Changes that write no byte -/

@[simp] theorem dropWork_mem (s : State) (n : Nat) : (dropWork s n).mem = s.mem :=
  foldl_mem unpark (fun _ _ => rfl) _ s

@[simp] theorem startSave_mem (c : Nat) (s : State) : (startSave c s).mem = s.mem :=
  (forceCommit_mem _).trans (withdraw_mem c { s with cur := c })

@[simp] theorem endNow_mem (c : Nat) (s : State) : (endNow c s).mem = s.mem :=
  (weightChange_mem _ _ _).trans (withdraw_mem c s)

@[simp] theorem leaveEnded_mem (c : Nat) (s : State) : (leaveEnded c s).mem = s.mem := by
  unfold leaveEnded; split <;> simp

@[simp] theorem endTaskOf_mem (c : Nat) (s : State) : (endTaskOf c s).mem = s.mem := by
  unfold endTaskOf
  rw [leaveEnded_mem]
  split
  · rfl
  · exact endNow_mem c s

@[simp] theorem State.msix_mem (s : State) (port vector : Nat) : (s.msix port vector).mem = s.mem := rfl

@[simp] theorem State.msixBoth_mem (s : State) (vector : Nat) : (s.msixBoth vector).mem = s.mem := rfl

@[simp] theorem reject_mem (m : Nat) (v : Word) (s : State) : (reject m v s).mem = s.mem := State.msixTo_mem _ _ _

@[simp] theorem bootEnds_mem (s : State) : (bootEnds s).mem = s.mem := by
  unfold bootEnds; split <;> rfl

@[simp] theorem startCycles_mem (n : Nat) (s : State) : (startCycles n s).mem = s.mem := by
  unfold startCycles
  refine foldl_mem _ (fun t i => ?_) _ s
  rfl

@[simp] theorem planeDeath_mem (k : Nat) (s : State) : (planeDeath k s).mem = s.mem := by
  unfold planeDeath; split <;> rfl

/-! ### Waits (R77, R185, R186) and performed writes (R181, R182, R189) -/

/-- The rest of an instruction that waits in order_before keeps the form. -/
theorem pendingOf_keeps {i : Instr} {p : Option Place} {q : Pending} (e : pendingOf i p = some q) : KeepsForm q.k := by
  have hatomic (op : AtomicOp) (d b : BitVec 5) (n : BitVec 3) (u : BitVec 1)
      (e : p.map (atomicRest op d b n u) = some q) : KeepsForm q.k := by
    obtain ⟨place, -, rfl⟩ := Option.map_eq_some_iff.1 e
    exact fun _ ht => performAtomic_wf ht _ _ _ _ _
  unfold pendingOf at e; dsimp only at e
  split at e
  · cases e; exact fun _ ht => ht
  · obtain ⟨place, -, rfl⟩ := Option.map_eq_some_iff.1 e
    exact fun _ ht => releaseStore_wf ht _ _ _
  iterate 11
    · exact hatomic _ _ _ _ _ e
  iterate 3
    · cases e; exact fun _ ht => ht
  · cases e

section
variable {s : State} (h : Memory.wf s.mem = true)
include h

theorem fenceOn_wf : Memory.wf (fenceOn s).mem = true := by
  unfold fenceOn
  split
  · split
    · rename_i e
      exact Pending.goOn_wf (pendingOf_keeps e) h _ _
    · exact h
  · exact h

theorem execFenceWaitEnd_inForm (c : Nat) : InForm (execFenceWaitEnd c s) := by
  unfold execFenceWaitEnd
  exact inForm_ite (inForm_fault _)
    (inForm_ite ((inForm_next _).2 (KeepsForm.within (fun _ ht => fenceOn_wf ht) h c)) ((inForm_next _).2 h))

theorem execBufferedWritePerform_inForm (c n : Nat) : InForm (execBufferedWritePerform c n s) := by
  unfold execBufferedWritePerform
  exact inForm_ite (inForm_fault _) ((inForm_next _).2 (wf_ite (performIdx_wf h _ _) h))

theorem execUnheldWritePerform_inForm (c n : Nat) : InForm (execUnheldWritePerform c n s) := by
  unfold execUnheldWritePerform
  exact inForm_ite (inForm_fault _) ((inForm_next _).2 (wf_ite (performIdx_wf h _ _) h))

theorem execVshapeLaneGrant_inForm (c : Nat) : InForm (execVshapeLaneGrant c s) := by
  unfold execVshapeLaneGrant
  exact inForm_ite (inForm_fault _)
    (inForm_ite ((inForm_next _).2 (KeepsForm.within (fun _ ht => lanesOn_wf ht) h c)) ((inForm_next _).2 h))

/-! ### Saves and the ends of tasks (R26, R226, R229) -/

theorem execPreemptwinExpiry_inForm (c : Nat) : InForm (execPreemptwinExpiry c s) := by
  unfold execPreemptwinExpiry
  exact inForm_ite (inForm_fault _) ((inForm_next _).2 (wf_ite (by rw [startSave_mem]; exact h) h))

theorem finishSave_wf : Memory.wf (finishSave s).mem = true := by
  have hw {va : Nat} {pc : Word} {t : State} (e : saveTask s 1 va pc none = .ok t) := saveTask_wf h e
  unfold finishSave
  obtain ⟨saved, e⟩ : ∃ f, f = saveTask := exists_eq
  rw [← e] at hw ⊢
  extract_lets x
  split
  · exact h
  · split
    · exact h
    · rename_i e
      exact hw e

theorem execWholeSaveDone_inForm (c : Nat) : InForm (execWholeSaveDone c s) := by
  unfold execWholeSaveDone
  refine inForm_ite (inForm_fault _) ((inForm_next _).2 (wf_ite ?_ h))
  rw [settleMill_mem]
  exact KeepsForm.within (fun _ ht => finishSave_wf ht) h c

theorem execTaskEndByMill_inForm (c : Nat) : InForm (execTaskEndByMill c s) := by
  unfold execTaskEndByMill
  exact inForm_ite (inForm_fault _) (inForm_ite (by simp [h]) ((inForm_next _).2 h))

theorem execTaskEndedByRuntime_inForm (c : Nat) : InForm (execTaskEndedByRuntime c s) := by
  unfold execTaskEndedByRuntime
  exact inForm_ite (inForm_fault _) (inForm_ite (by simp [h]) ((inForm_next _).2 h))

/-! ### Launches (R31 to R34, R248, R252) -/

theorem clearDirectory_wf (l : Launch) : Memory.wf (clearDirectory s l).mem = true := by
  unfold clearDirectory
  split
  · cases e : writeBlock s l.acc none l.pool.toNat (zeros (8 * l.slotCount)) with
    | none => exact h
    | some t => exact writeBlock_wf h e
  · exact h

theorem readLaunch_wf (l : Launch) (va : Nat) (b : List Byte) : Memory.wf (readLaunch s l va b).2.mem = true :=
  touchBlock_wf (touchBlock_wf (touchBlock_wf h _ _ _ _ _) _ _ _ _ _) _ _ _ _ _

theorem acceptValue_wf (m : Nat) (v : Word) : Memory.wf (acceptValue m v s).2.mem = true := by
  have hr {t : State} (ht : Memory.wf t.mem = true) : Memory.wf (reject m v t).mem = true := by rw [reject_mem]; exact ht
  unfold acceptValue
  split
  · exact hr h
  · dsimp only [-Nat.reducePow]
    split
    · exact hr h
    · split
      · exact hr (touchBlock_wf h _ _ _ _ _)
      · split
        · exact readLaunch_wf h _ _ _
        · exact clearDirectory_wf (s := addLaunch _ _) (readLaunch_wf h _ _ _) _

omit h in
theorem takeValue_wf (r : List MillAct × State) (m : Nat) (h : Memory.wf r.2.mem = true) :
    Memory.wf (takeValue r m).2.mem = true := by
  unfold takeValue
  split
  · exact h
  · exact acceptValue_wf (by exact h) m _

theorem execLaunchAccept_inForm : InForm (execLaunchAccept s) := by
  unfold execLaunchAccept
  refine inForm_ite ((inForm_next _).2 h) ((inForm_next _).2 (millEvent_wf ?_ _))
  exact foldl_keeps (fun r : List MillAct × State => Memory.wf r.2.mem = true) takeValue takeValue_wf _ _ h

theorem completeLaunch_wf (l : Launch) : Memory.wf (completeLaunch s l).mem = true := by
  have hc : Memory.wf (dropWork (clearDirectory s l) l.num).mem = true := by rw [dropWork_mem]; exact clearDirectory_wf h l
  unfold completeLaunch; dsimp only
  split
  · rw [reject_mem]; exact hc
  · rename_i e
    have ht := writeBlock_wf (by exact hc) e
    exact wf_ite (by rw [State.msixTo_mem]; exact ht) ht

theorem execCompletionWordWrite_inForm (n : Nat) : InForm (execCompletionWordWrite n s) := by
  unfold execCompletionWordWrite
  split
  · exact (inForm_next _).2 h
  · exact inForm_ite ((inForm_next _).2 (by rw [settleMill_mem]; exact completeLaunch_wf h _)) ((inForm_next _).2 h)

/-! ### Replay (R251 to R253) -/

theorem restorePage_wf (l : Launch) (i : Nat) : Memory.wf (restorePage l s i).mem = true := by
  unfold restorePage; dsimp only [-Nat.reducePow]
  refine wf_ite h ?_
  split
  · exact h
  · exact copyPage_wf (s := dropPage _ _) (touch_wf h _ _ _) _ _

theorem rerun_wf (l : Launch) : Memory.wf (rerun s l).mem = true := by
  have hd : Memory.wf (dropWork s l.num).mem = true := by rw [dropWork_mem]; exact h
  have hp := foldl_wf (restorePage l) (fun i _ ht => restorePage_wf ht l i) (List.range l.slotCount) _
    (touchBlock_wf hd l.acc .load none l.pool.toNat (8 * l.slotCount))
  unfold rerun; dsimp only
  split
  · exact clearDirectory_wf (s := State.mapLaunch _ _ _) hp l
  · rename_i e
    exact runEvent_wf (clearDirectory_wf (writeBlock_wf (s := State.mapLaunch _ _ _) hp e) l) _

theorem execReplayRerun_inForm (n : Nat) : InForm (execReplayRerun n s) := by
  unfold execReplayRerun
  split
  · exact (inForm_next _).2 h
  · exact inForm_ite ((inForm_next _).2 (by rw [settleMill_mem]; exact rerun_wf h _)) ((inForm_next _).2 h)

/-! ### Errors (R240 to R246) -/

theorem pinnedError_wf (cause : Nat) (tval : Word) (queued : Bool) :
    Memory.wf (pinnedError cause tval queued s).mem = true := by
  unfold pinnedError
  split
  · exact h
  · exact unpinnable_wf (s := s.mapCx _) h _ _ _

theorem breaksOff_wf {f : State → State} (hf : KeepsForm f) : Memory.wf (breaksOff f s).mem = true := by
  unfold breaksOff; dsimp only
  exact wf_ite (by rw [withdraw_mem]; exact hf _ h) (hf _ h)

theorem execCheckerMismatch_inForm (c : Nat) : InForm (execCheckerMismatch c s) := by
  unfold execCheckerMismatch
  refine inForm_ite (inForm_fault _) (inForm_ite ((inForm_next _).2 ?_) ((inForm_next _).2 h))
  refine KeepsForm.within (fun t ht => breaksOff_wf ht (f := mismatch) fun u hu => ?_) h c
  exact pinnedError_wf (s := u.draw.2) hu _ _ _

theorem execUncorrectableError_inForm (c : Nat) (pinned scalarLoad named : Bool) :
    InForm (execUncorrectableError c pinned scalarLoad named s) := by
  unfold execUncorrectableError
  refine inForm_ite (inForm_fault _) (inForm_ite ((inForm_next _).2 h) ((inForm_next _).2 ?_))
  exact KeepsForm.within (fun _ ht => breaksOff_wf ht fun _ hu => wf_ite (pinnedError_wf hu _ _ _) (unpinnable_wf hu _ _ _)) h c

theorem execPatrolVisit_inForm (line : Nat) (corrected uncorrectable : Bool) :
    InForm (execPatrolVisit line corrected uncorrectable s) := by
  unfold execPatrolVisit
  exact inForm_ite (inForm_fault _) ((inForm_next _).2 (wf_ite h h))

/-! ### Strings, planes and the fabric (R48 to R53, R208 to R212) -/

theorem execAdjunctRequest_inForm (n node : Nat) (under : Bool) : InForm (execAdjunctRequest n node under s) := by
  unfold execAdjunctRequest
  exact inForm_ite (inForm_fault _) (inForm_ite ((inForm_next _).2 h) ((inForm_next _).2 h))

theorem execThrottleDown_inForm (n : Nat) : InForm (execThrottleDown n s) := by
  unfold execThrottleDown
  exact inForm_ite (inForm_fault _) (inForm_ite ((inForm_next _).2 h) ((inForm_next _).2 h))

theorem execThrottleUp_inForm (n : Nat) : InForm (execThrottleUp n s) := by
  unfold execThrottleUp
  exact inForm_ite (inForm_fault _) (inForm_ite ((inForm_next _).2 h) ((inForm_next _).2 h))

theorem execStringFloor_inForm (n : Nat) : InForm (execStringFloor n s) := by
  unfold execStringFloor
  exact inForm_ite (inForm_fault _) (inForm_ite ((inForm_next _).2 h) ((inForm_next _).2 (wf_ite h h)))

theorem execStringPowered_inForm (n : Nat) : InForm (execStringPowered n s) := by
  unfold execStringPowered
  exact inForm_ite (inForm_fault _) (inForm_ite (by simp [h]) ((inForm_next _).2 h))

theorem execStringUnpowered_inForm (n : Nat) : InForm (execStringUnpowered n s) := by
  unfold execStringUnpowered
  exact inForm_ite (inForm_fault _) (inForm_ite ((inForm_next _).2 h) ((inForm_next _).2 h))

theorem execFlitRetransmit_inForm (p : Nat) : InForm (execFlitRetransmit p s) := by
  unfold execFlitRetransmit
  exact inForm_ite (inForm_fault _) ((inForm_next _).2 h)

theorem execPortDown_inForm (p : Nat) : InForm (execPortDown p s) := by
  unfold execPortDown
  exact inForm_ite (inForm_fault _) (inForm_ite ((inForm_next _).2 h) (by simp [h]))

theorem execMeshUncorrectableError_inForm (d k : Nat) : InForm (execMeshUncorrectableError d k s) := by
  unfold execMeshUncorrectableError
  exact inForm_ite (inForm_fault _) (by simp [h])

theorem execPlaneDeathLearned_inForm (k : Nat) : InForm (execPlaneDeathLearned k s) := by
  unfold execPlaneDeathLearned
  exact inForm_ite (inForm_fault _) (by simp [h])

theorem execMoultRemap_inForm : InForm (execMoultRemap s) := by
  unfold execMoultRemap
  exact inForm_ite ((inForm_next _).2 h) ((inForm_next _).2 h)

/-! ### Page migration (R173, R174) -/

theorem execPageMigration_inForm (c : Nat) (va : BitVec 64) (dest frame : Nat) :
    InForm (execPageMigration c va dest frame s) := by
  unfold execPageMigration
  refine inForm_ite (inForm_fault _) ?_
  split <;> exact (inForm_next _).2 h

theorem finishMove_wf (m : Migration) : Memory.wf (finishMove s m).mem = true := by
  unfold finishMove
  rw [dropEntries_mem]
  refine memWriteN_wf ?_ _ _
  exact foldl_keeps (fun mem => Memory.wf mem = true) (moveLine s.keys m) (fun _ _ hm => memWriteN_wf hm _ _) _ _ h

theorem execMigrationDone_inForm : InForm (execMigrationDone s) := by
  unfold execMigrationDone
  split
  · exact (inForm_next _).2 h
  · exact (inForm_next _).2 (finishMove_wf h _)
end

end Sys2Proof.Machine
end

section
/-! SUPPORT. What the host does keeps the memory's form (R3, R143). -/

namespace Sys2Proof.Machine

/-! ### Changes that write no byte -/

@[simp] theorem State.rejected_mem (s : State) : s.rejected.mem = s.mem := rfl

@[simp] theorem State.mapHost_mem (s : State) (f : HostBlk → HostBlk) : (s.mapHost f).mem = s.mem := rfl

@[simp] theorem State.hold_mem (s : State) (mv : Move) : (s.hold mv).mem = s.mem := rfl

@[simp] theorem readAllOnes_mem (bytes : Nat) (s : State) : (readAllOnes bytes s).mem = s.mem := rfl

@[simp] theorem msixControl_mem (port : Nat) (on allMasked : Bool) (s : State) : (msixControl port on allMasked s).mem = s.mem := by
  unfold msixControl; split <;> rfl

@[simp] theorem msixVector_mem (port vector : Nat) (masked : Bool) (s : State) : (msixVector port vector masked s).mem = s.mem := by
  unfold msixVector; split <;> rfl

@[simp] theorem lineCached_mem (line slot : Nat) (s : State) : (lineCached line slot s).mem = s.mem := by
  unfold lineCached; dsimp only [-Nat.reducePow]; split <;> rfl

@[simp] theorem lineEvicted_mem (line : Nat) (s : State) : (lineEvicted line s).mem = s.mem := rfl

@[simp] theorem writeHold_mem (d : Nat) (w : Word) (s : State) : (writeHold d w s).mem = s.mem := by
  unfold writeHold
  refine foldl_mem _ (fun t i => ?_) _ s
  rfl

@[simp] theorem putCaps_mem (d : Nat) (v : Word) (s : State) : (putCaps d v s).mem = s.mem := by
  unfold putCaps
  refine foldl_mem _ (fun t i => ?_) _ s
  rfl

@[simp] theorem putPower_mem (d : Nat) (v : Word) (s : State) : (putPower d v s).mem = s.mem := by
  unfold putPower
  refine foldl_mem _ (fun t i => ?_) _ s
  rfl

@[simp] theorem resizeBar2_mem (n : Nat) (s : State) : (resizeBar2 n s).mem = s.mem := by
  unfold resizeBar2; split <;> rfl

@[simp] theorem countFrom_mem (s : State) (c n : Nat) : (countFrom s c n).mem = s.mem := rfl

@[simp] theorem countDie_mem (s : State) (d i : Nat) : (countDie s d i).mem = s.mem := by
  unfold countDie; dsimp only; split <;> rfl

@[simp] theorem countStr_mem (s : State) (n i : Nat) : (countStr s n i).mem = s.mem := by
  unfold countStr; dsimp only; split <;> rfl

@[simp] theorem writeCounters_mem (off bytes : Nat) (v : Word) (s : State) : (writeCounters off bytes v s).mem = s.mem := by
  unfold writeCounters; dsimp only
  split
  · split
    · simp
    · rfl
  · split
    · simp
    · split
      · simp
      · rfl

section
variable {s : State} (h : Memory.wf s.mem = true)
include h

/-! ### Register writes (R155, R270 to R288) -/

/-- A write that the owner alone may make keeps what its change keeps. -/
theorem guarded_wf (m : Nat) {f : State → State} (hf : KeepsForm f) : Memory.wf (guarded m f s).mem = true := by
  unfold guarded
  exact wf_ite (hf s h) h

theorem hostReach_inForm {m off : Nat} {write : Bool} {mv : Move} {refused : State → State}
    {k : State → Host.Outcome State Fault Refusal} (hr : Memory.wf (refused s).mem = true) (hk : InForm (k s)) :
    InForm (hostReach m off write mv refused k s) := by
  unfold hostReach
  exact inForm_ite (inForm_fault _) (inForm_ite ((inForm_next _).2 h) (inForm_ite ((inForm_next _).2 hr) hk))

/-- A write of a whole register that the owner alone may make. -/
theorem hostWrites_inForm (m off : Nat) (v : Word) {k : State → State} (hk : Memory.wf (k s).mem = true) :
    InForm (hostWrites m off v (fun t => .next (k t)) s) := by
  unfold hostWrites
  exact hostReach_inForm h h ((inForm_next _).2 hk)

theorem setSlot_wf (slot : Nat) (v : Option (BitVec 512)) : Memory.wf (setSlot slot v s).mem = true := by
  unfold setSlot; dsimp only
  split
  · refine foldl_keeps (fun m => Memory.wf m = true) _ (fun m l hm => ?_) _ _ h
    split
    · exact putBytes_wf _ hm _ _ _ _
    · exact hm
  · exact h

omit h in
/-- The bytes of a node that takes another number are listed anew, one by one. -/
theorem renumber_wf (s : State) (n : BitVec 10) : Memory.wf (renumber s n).mem = true :=
  foldl_keeps (fun m => Memory.wf m = true) _ (fun _ _ hm => memWrite_wf hm _ _) _ _ wf_nil

theorem writeModule_wf (m off bytes : Nat) (v : Word) : Memory.wf (writeModule m off bytes v s).mem = true := by
  have hg (f : HostBlk → HostBlk) : Memory.wf (guarded m (·.mapHost f) s).mem = true := guarded_wf h m fun _ ht => ht
  unfold writeModule; dsimp only
  split
  · exact h
  iterate 5
    · exact hg _
  exact wf_ite (hg _) (wf_ite (hg _) h)

theorem writeBoot_wf (m off bytes : Nat) (v : Word) : Memory.wf (writeBoot m off bytes v s).mem = true := by
  have hg (f : HostBlk → HostBlk) :
      Memory.wf (guarded m (fun s => if s.host.qgo then s.rejected else s.mapHost f) s).mem = true :=
    guarded_wf h m fun _ ht => wf_ite ht ht
  unfold writeBoot; dsimp only
  exact wf_ite (hg _) (wf_ite (hg _) (wf_ite (hg _) h))

theorem writeFabric_wf (m off bytes : Nat) (v : Word) : Memory.wf (writeFabric m off bytes v s).mem = true := by
  have hg {f : State → State} (hf : KeepsForm f) :
      Memory.wf (guarded m (fun s => if s.host.accepted then s.rejected else f s) s).mem = true :=
    guarded_wf h m fun t ht => wf_ite ht (hf t ht)
  unfold writeFabric; dsimp only
  split
  · exact hg fun t _ => renumber_wf t _
  · exact hg fun _ ht => ht
  · exact h

theorem writeTable_wf (m off bytes : Nat) (v : Word) : Memory.wf (writeTable m off bytes v s).mem = true :=
  guarded_wf h m fun _ ht => by rw [settleTables_mem]; exact ht

theorem writeDie_wf (m off bytes : Nat) (v : Word) : Memory.wf (writeDie m off bytes v s).mem = true := by
  unfold writeDie; dsimp only
  exact wf_ite (guarded_wf h m fun _ ht => by rw [writeHold_mem]; exact ht) h

theorem writeReg_wf (m off bytes : Nat) (v : Word) : Memory.wf (writeReg m off bytes v s).mem = true := by
  unfold writeReg
  refine wf_ite (writeModule_wf h _ _ _ _) (wf_ite (writeBoot_wf h _ _ _ _) (wf_ite (writeFabric_wf h _ _ _ _) ?_))
  refine wf_ite (writeTable_wf h _ _ _ _) (wf_ite (writeDie_wf h _ _ _ _) ?_)
  rw [writeCounters_mem]; exact h

theorem execRegisterWrite_inForm (m off bytes : Nat) (v : BitVec 64) : InForm (execRegisterWrite m off bytes v s) := by
  unfold execRegisterWrite
  exact hostReach_inForm h h ((inForm_next _).2 (wf_ite (writeReg_wf h _ _ _ _) h))

theorem execLaunchWrite_inForm (m bytes : Nat) (v : BitVec 64) : InForm (execLaunchWrite m bytes v s) := by
  unfold execLaunchWrite
  exact hostReach_inForm h h ((inForm_next _).2 (wf_ite h (wf_ite h h)))

theorem execSemaRead_inForm (m : Nat) : InForm (execSemaRead m s) := by
  unfold execSemaRead
  exact hostReach_inForm h h ((inForm_next _).2 h)

theorem execSemaWrite_inForm (m : Nat) (v : BitVec 64) : InForm (execSemaWrite m v s) := by
  unfold execSemaWrite
  exact hostWrites_inForm h _ _ _ (wf_ite h h)

theorem execPcieLinkDown_inForm (p : Nat) : InForm (execPcieLinkDown p s) := by
  unfold execPcieLinkDown
  exact inForm_ite (inForm_fault _) ((inForm_next _).2 (wf_ite h h))

theorem execKeycmdLoad_inForm (m n : Nat) : InForm (execKeycmdLoad m n s) := by
  unfold execKeycmdLoad
  exact inForm_ite (inForm_fault _)
    (hostWrites_inForm h _ _ _ (guarded_wf h m fun _ ht => wf_ite ht (setSlot_wf ht _ _)))

theorem execKeycmdEmpty_inForm (m n : Nat) : InForm (execKeycmdEmpty m n s) := by
  unfold execKeycmdEmpty
  exact inForm_ite (inForm_fault _)
    (hostWrites_inForm h _ _ _ (guarded_wf h m fun _ ht => wf_ite ht (setSlot_wf ht _ _)))

theorem execAtflushGo_inForm (m : Nat) : InForm (execAtflushGo m s) := by
  unfold execAtflushGo
  exact hostWrites_inForm h _ _ _ (guarded_wf h m fun _ ht => ht)

theorem execAtflushDone_inForm : InForm (execAtflushDone s) := by
  unfold execAtflushDone
  refine (inForm_next _).2 (wf_ite ?_ h)
  rw [State.mapHost_mem]
  exact (congrArg (Memory.wf · = true) (dropEntries_mem s fun _ => true)).mpr h

theorem execPartszWrite_inForm (m d : Nat) (v : BitVec 64) : InForm (execPartszWrite m d v s) := by
  unfold execPartszWrite
  exact inForm_ite (inForm_fault _) (hostWrites_inForm h _ _ _ (guarded_wf h m fun _ ht => wf_ite ht ht))

theorem execStrcapWrite_inForm (m d : Nat) (v : BitVec 64) : InForm (execStrcapWrite m d v s) := by
  unfold execStrcapWrite
  exact inForm_ite (inForm_fault _)
    (hostWrites_inForm h _ _ _ (guarded_wf h m fun _ ht => by rw [putCaps_mem]; exact ht))

theorem execStrpwrWrite_inForm (m d : Nat) (v : BitVec 64) : InForm (execStrpwrWrite m d v s) := by
  unfold execStrpwrWrite
  exact inForm_ite (inForm_fault _)
    (hostWrites_inForm h _ _ _ (guarded_wf h m fun _ ht => wf_ite (by rw [bootEnds_mem, putPower_mem]; exact ht) ht))

/-! ### BAR2, reset and boot (R276, R277, R285 to R287) -/

theorem execBar2Read_inForm (off bytes : Nat) : InForm (execBar2Read off bytes s) := by
  unfold execBar2Read
  refine inForm_ite ((inForm_next _).2 h) ?_
  split
  · refine (inForm_next _).2 ?_
    refine foldl_wf _ (fun e t ht => ?_) _ s h
    exact ht
  · exact (inForm_next _).2 h

theorem hostWrite_wf (loc : Nat) (bs : List Byte) : Memory.wf (hostWrite s loc bs).mem = true :=
  foldl_wf _ (fun _ _ ht => performAt_wf ht _) _ s h

theorem execBar2Write_inForm (off bytes : Nat) (v : BitVec 64) : InForm (execBar2Write off bytes v s) := by
  unfold execBar2Write
  refine inForm_ite ((inForm_next _).2 h) ?_
  split
  · exact (inForm_next _).2 (hostWrite_wf h _ _)
  · exact (inForm_next _).2 h

theorem execResetGo_inForm (m : Nat) : InForm (execResetGo m s) := by
  unfold execResetGo
  exact hostWrites_inForm h _ _ _ (guarded_wf h m fun t _ => renumber_wf t 0)

theorem execBootRom_inForm : InForm (execBootRom s) := by
  unfold execBootRom
  exact inForm_ite ((inForm_next _).2 h) ((inForm_next _).2 h)

theorem execMeascmdExtend_inForm (m n : Nat) : InForm (execMeascmdExtend m n s) := by
  unfold execMeascmdExtend
  exact inForm_ite (inForm_fault _) (hostWrites_inForm h _ _ _ (guarded_wf h m fun _ ht => wf_ite ht ht))

theorem execQcmdGo_inForm (m : Nat) : InForm (execQcmdGo m s) := by
  unfold execQcmdGo
  exact hostWrites_inForm h _ _ _ (guarded_wf h m fun _ ht => ht)

theorem execQuoteReady_inForm : InForm (execQuoteReady s) := by
  unfold execQuoteReady
  exact inForm_ite ((inForm_next _).2 h) ((inForm_next _).2 h)
end

end Sys2Proof.Machine
end

section
/-! SUPPORT. Every instruction keeps the memory's form (R3, R143). -/

namespace Sys2Proof.Machine

/-- Every word and every event, executed, keeps the form: one line for each way in which they act. -/
theorem exec_inForm {s : State} (h : Memory.wf s.mem = true) (i : Instr) : InForm (exec i s) := by
  cases i with
  | addReg | addImm | andReg | andImm | orReg | orImm | xorReg | xorImm | sub | mul | mulh | div | rem | shlReg |
  shrReg | sraReg | shlImm | shrImm | sraImm | min | max | clz | popc | sel | cmpReg | cmpImm | cbitAnd | cbitOr |
  cbitXor | cbitAndn | cbitSet | cbitClear | cbitNot | cbitMove | lui | fadd | fsub | fmul | fma | fdiv | fsqrt | fmin
  | fmax | fcmp | fcvt | b | j | adj | fetchb | pref | nop =>
    exact (inForm_next _).2 h
  | ld | ldAcq => exact (inForm_next _).2 (loadScalar_wf h ..)
  | st => exact (inForm_next _).2 (storeScalar_wf h ..)
  | amoAdd | amoAnd | amoOr | amoXor | amoMin | amoMax | amoMinZ | amoMaxZ | amoSwap | amoFadd | cas =>
    exact atomicScalar_inForm h ..
  | jal => exact (inForm_next _).2 (pushAndGo_wf h _)
  | jr => exact inForm_ite ((inForm_next _).2 (takeTrap_wf h _)) ((inForm_next _).2 h)
  | jrLink => exact inForm_ite ((inForm_next _).2 (takeTrap_wf h _)) ((inForm_next _).2 (pushAndGo_wf h _))
  | vaddVV | vaddVS | vsubVV | vsubVS | vmulVV | vmulVS | vmaVV | vmaVS | vdivVV | vdivVS | vminVV | vminVS | vmaxVV |
  vmaxVS | vmulhVV | vmulhVS | vandVV | vandVS | vorVV | vorVS | vxorVV | vxorVS | vshlVV | vshlVS | vshrVV | vshrVS |
  vsraVV | vsraVS | vsaddVV | vsaddVS | vssubVV | vssubVS | vraddVV | vraddVS | vrsubVV | vrsubVS | vsqrt | vexp2 |
  vsgnCopyVV | vsgnCopyVS | vsgnNegVV | vsgnNegVS | vsgnXorVV | vsgnXorVS | vsgnAbs =>
    exact vecArith_inForm h ..
  | vcmpVV | vcmpVS => exact vecCompare_inForm h ..
  | vmlogAnd | vmlogOr | vmlogXor => exact maskLogic_inForm h ..
  | vmlogAndn => exact maskLogic_inForm h (fun p r => p && !r) ..
  | vmlogOrn => exact maskLogic_inForm h (fun p r => p || !r) ..
  | vmlogNot | vmlogSet | vmlogClear => exact vectorWord_inForm_of_mem h _ fun t => maskOp_mem _ _ _ _ t
  | vmpop => exact maskToReg_inForm h (fun ps => BitVec.ofNat 64 ps.length) ..
  | vmfirst => exact maskToReg_inForm h firstNumber ..
  | vmtocAny => exact maskToCond_inForm h (fun n _ => 0 < n) ..
  | vmtocAll => exact maskToCond_inForm h (fun n t => n == t) ..
  | vmtocNone => exact maskToCond_inForm h (fun n _ => n == 0) ..
  | vext => exact execVext_inForm h ..
  | mzero k n => exact execMzero_inForm h k n
  | vcvt => exact execVcvt_inForm h ..
  | vbq => exact execVbq_inForm h ..
  | vmov | vpermRow => exact moveScales_inForm h ..
  | vmovSplat | vpermCol | vslideUp | vslideDown | vxpose | viota | viotaRow | viotaCol =>
    exact move_inForm h ..
  | vins => exact execVins_inForm h ..
  | vred | vredAll => exact vectorWord_inForm_of_mem h _ fun t => reduceAct_mem _ _ _ _ _ t
  | vscan => exact vectorWord_inForm_of_mem h _ fun t => scanAct_mem _ _ _ _ _ t
  | vld | vldSt | vldZ | vldBc | vldB | vgather => exact vecLoad_inForm h ..
  | vst | vstSt | vstZ | vstBc | vstB | vscatter => exact vecStore_inForm h ..
  | vamoAdd | vamoMin | vamoMax | vamoAnd | vamoOr | vamoXor | vamoSwap | vamoFadd => exact vecAmo_inForm h ..
  | vcappIdx | vcappVal => exact vectorWord_inForm h _ fun _ ht => cappAct_wf ht ..
  | mldb => exact vectorWord_inForm_of_mem h _ fun t => mldbAct_mem _ _ t
  | mdrain => exact vectorWord_inForm_of_mem h _ fun t => mdrainAct_mem _ _ _ t
  | xwait => exact (inForm_next _).2 (waitId_wf h ..)
  | gspawn | gsig => exact (inForm_next _).2 (askMill_wf h ..)
  | trap => exact (inForm_next _).2 (takeTrapAt_wf h ..)
  | stRel => exact execStRel_inForm h ..
  | ret => exact execRet_inForm h ..
  | loop => exact execLoop_inForm h ..
  | vshape => exact execVshape_inForm h ..
  | vrel => exact execVrel_inForm h ..
  | vbdq => exact execVbdq_inForm h ..
  | matt => exact execMatt_inForm h ..
  | mdet => exact execMdet_inForm h ..
  | mclaim => exact execMclaim_inForm h ..
  | mrel => exact execMrel_inForm h ..
  | mma => exact execMma_inForm h ..
  | xcopy => exact execXcopy_inForm h ..
  | fence => exact execFence_inForm h ..
  | send => exact execSend_inForm h ..
  | recv => exact execRecv_inForm h ..
  | tend => exact execTend_inForm h ..
  | uiret => exact execUiret_inForm h ..
  | dcwb => exact execDcwb_inForm h ..
  | iinv => exact execIinv_inForm h ..
  | eret => exact execEret_inForm h ..
  | mfs => exact execMfs_inForm h ..
  | mts => exact execMts_inForm h ..
  | wait => exact execWait_inForm h ..
  | csave => exact execCsave_inForm h ..
  | cload => exact execCload_inForm h ..
  | tlbinv => exact execTlbinv_inForm h ..
  | bufferedWritePerform => exact execBufferedWritePerform_inForm h ..
  | vshapeLaneGrant => exact execVshapeLaneGrant_inForm h ..
  | fenceWaitEnd => exact execFenceWaitEnd_inForm h ..
  | tendWaitEnd => exact execTendWaitEnd_inForm h ..
  | tlbinvComplete => exact execTlbinvComplete_inForm h ..
  | iinvComplete => exact execIinvComplete_inForm h ..
  | dcwbComplete => exact execDcwbComplete_inForm h ..
  | xwaitRetire => exact execXwaitRetire_inForm h ..
  | xcopyEnqueue => exact execXcopyEnqueue_inForm h ..
  | copyCommandStart => exact execCopyCommandStart_inForm h ..
  | copyCommandComplete => exact execCopyCommandComplete_inForm h ..
  | vcappThresholdNotify => exact execVcappThresholdNotify_inForm h ..
  | grantRequest => exact execGrantRequest_inForm h ..
  | grantReply => exact execGrantReply_inForm h ..
  | messageArrival => exact execMessageArrival_inForm h ..
  | recvSlotFull => exact execRecvSlotFull_inForm h ..
  | waitWake => exact execWaitWake_inForm h ..
  | userInterruptTake => exact execUserInterruptTake_inForm h ..
  | queuedTrap => exact execQueuedTrap_inForm h ..
  | replayRerun => exact execReplayRerun_inForm h ..
  | preemptwinExpiry => exact execPreemptwinExpiry_inForm h ..
  | wholeSaveDone => exact execWholeSaveDone_inForm h ..
  | cloadLaneGrant => exact execCloadLaneGrant_inForm h ..
  | launchAccept => exact execLaunchAccept_inForm h ..
  | taskEndByMill => exact execTaskEndByMill_inForm h ..
  | dispatchPick => exact execDispatchPick_inForm h ..
  | taskStart => exact execTaskStart_inForm h ..
  | tendRetirement => exact execTendRetirement_inForm h ..
  | completionWordWrite => exact execCompletionWordWrite_inForm h ..
  | spawnRequest => exact execSpawnRequest_inForm h ..
  | signalRequest => exact execSignalRequest_inForm h ..
  | moultRemap => exact execMoultRemap_inForm h ..
  | migrationDone => exact execMigrationDone_inForm h ..
  | bootRom => exact execBootRom_inForm h ..
  | atflushDone => exact execAtflushDone_inForm h ..
  | quoteReady => exact execQuoteReady_inForm h ..
  | stringPowered => exact execStringPowered_inForm h ..
  | stringUnpowered => exact execStringUnpowered_inForm h ..
  | taskEndedByRuntime => exact execTaskEndedByRuntime_inForm h ..
  | convoyFetch => exact execConvoyFetch_inForm h ..
  | checkerMismatch => exact execCheckerMismatch_inForm h ..
  | uncorrectableError => exact execUncorrectableError_inForm h ..
  | launchWrite => exact execLaunchWrite_inForm h ..
  | adjunctRequest => exact execAdjunctRequest_inForm h ..
  | throttleDown => exact execThrottleDown_inForm h ..
  | throttleUp => exact execThrottleUp_inForm h ..
  | stringFloor => exact execStringFloor_inForm h ..
  | flitRetransmit => exact execFlitRetransmit_inForm h ..
  | portDown => exact execPortDown_inForm h ..
  | pageMigration => exact execPageMigration_inForm h ..
  | patrolVisit => exact execPatrolVisit_inForm h ..
  | semaRead => exact execSemaRead_inForm h ..
  | semaWrite => exact execSemaWrite_inForm h ..
  | registerWrite => exact execRegisterWrite_inForm h ..
  | resetGo => exact execResetGo_inForm h ..
  | atflushGo => exact execAtflushGo_inForm h ..
  | keycmdLoad => exact execKeycmdLoad_inForm h ..
  | keycmdEmpty => exact execKeycmdEmpty_inForm h ..
  | meascmdExtend => exact execMeascmdExtend_inForm h ..
  | qcmdGo => exact execQcmdGo_inForm h ..
  | partszWrite => exact execPartszWrite_inForm h ..
  | strcapWrite => exact execStrcapWrite_inForm h ..
  | strpwrWrite => exact execStrpwrWrite_inForm h ..
  | bar2Read => exact execBar2Read_inForm h ..
  | bar2Write => exact execBar2Write_inForm h ..
  | pcieLinkDown => exact execPcieLinkDown_inForm h ..
  | meshUncorrectableError => exact execMeshUncorrectableError_inForm h ..
  | planeDeathLearned => exact execPlaneDeathLearned_inForm h ..
  | unheldWritePerform => exact execUnheldWritePerform_inForm h ..

end Sys2Proof.Machine
end

section
/-! SUPPORT. The host's bus, the peers' messages, a context's turn and one step of the machine keep the memory's form
(R3, R143). -/

namespace Sys2Proof.Machine

/-! ### The bus (R155, R271 to R288) -/

@[simp] theorem readCounters_mem (off : Nat) (s : State) : (readCounters off s).2.mem = s.mem := by
  unfold readCounters
  -- The differences become variables: the kernel would count their second operands down.
  obtain ⟨core, ec⟩ : ∃ o, o = off - 0x200000 := exists_eq
  obtain ⟨die, ed⟩ : ∃ o, o = off - 0x300000 := exists_eq
  obtain ⟨str, es⟩ : ∃ o, o = off - 0x310000 := exists_eq
  rw [← ec, ← ed, ← es]
  refine snd_mem_ite ?_ (snd_mem_ite ?_ (snd_mem_ite ?_ rfl))
  · exact snd_mem_ite rfl (snd_mem_ite (countCore_mem s _ _) rfl)
  · exact snd_mem_ite rfl (countDie_mem s _ _)
  · exact snd_mem_ite rfl (countStr_mem s _ _)

@[simp] theorem readReg_mem (m base : Nat) (s : State) : (readReg m base s).2.mem = s.mem := by
  unfold readReg
  exact snd_mem_ite rfl (snd_mem_ite rfl (snd_mem_ite rfl (snd_mem_ite rfl (snd_mem_ite rfl (readCounters_mem base s)))))

@[simp] theorem peerRequest_mem (r : GrantReq) (s : State) : (peerRequest r s).mem = s.mem := by
  unfold peerRequest; split <;> rfl

@[simp] theorem peerReply_mem (r : GrantReq) (granted : Bool) (s : State) : (peerReply r granted s).mem = s.mem := by
  unfold peerReply; split <;> rfl

@[simp] theorem peerWithdraw_mem (r : GrantReq) (s : State) : (peerWithdraw r s).mem = s.mem := by
  unfold peerWithdraw
  split
  · rfl
  · exact withdrawAll_mem _ s

@[simp] theorem peerMessage_mem (f : Flight) (s : State) : (peerMessage f s).mem = s.mem := by
  unfold peerMessage; split <;> rfl

@[simp] theorem peerDelivered_mem (n : Nat) (s : State) : (peerDelivered n s).mem = s.mem := by
  unfold peerDelivered
  split
  · split <;> rfl
  · rfl

@[simp] theorem coreRead_mem (loc n : Nat) (s : State) : (coreRead loc n s).mem = s.mem := by
  unfold coreRead; dsimp only; split <;> rfl

@[simp] theorem peerTable_mem (node target entry : Nat) (master range : Word) (s : State) :
    (peerTable node target entry master range s).mem = s.mem := by
  unfold peerTable; dsimp only
  split
  · rfl
  · exact settleTables_mem _

@[simp] theorem millLags_mem (p : MillPart) (s : State) : (millLags p s).mem = s.mem := rfl

section
variable {s : State} (h : Memory.wf s.mem = true)
include h

theorem busRead_inForm (m off bytes : Nat) : InForm (busRead m off bytes s) := by
  have hr := execSemaRead_inForm h m
  unfold busRead; dsimp only
  refine hostReach_inForm h h (inForm_ite ((inForm_next _).2 h) (inForm_ite ?_ ((inForm_next _).2 ?_)))
  · split
    · rename_i e
      have ht := hr.wf _ e
      exact (inForm_next _).2 ht
    · exact hr
  · rw [State.mapHost_mem, readReg_mem]; exact h

theorem busKeycmd_inForm (m : Nat) (w : Word) : InForm (busKeycmd m w s) := by
  unfold busKeycmd
  split
  · exact execKeycmdLoad_inForm h _ _
  · exact execKeycmdEmpty_inForm h _ _
  · exact (inForm_next _).2 (guarded_wf h m .id)

theorem busGo_inForm (m : Nat) (w : Word) {start : State → Host.Outcome State Fault Refusal} (hs : InForm (start s)) :
    InForm (busGo m w start s) := by
  unfold busGo
  exact inForm_ite hs ((inForm_next _).2 (guarded_wf h m .id))

theorem busWrite_inForm (m off bytes : Nat) (v : Word) : InForm (busWrite m off bytes v s) := by
  unfold busWrite; dsimp only
  refine hostReach_inForm h h (inForm_ite ((inForm_next _).2 h) (inForm_ite ?_ ?_))
  · split
    · exact execPartszWrite_inForm h _ _ _
    · exact execStrpwrWrite_inForm h _ _ _
    · exact execStrcapWrite_inForm h _ _ _
    · exact execRegisterWrite_inForm h _ _ _ _
  · split
    · exact execSemaWrite_inForm h _ _
    · exact execLaunchWrite_inForm h _ _ _
    · exact busGo_inForm h _ _ (execResetGo_inForm h _)
    · exact busGo_inForm h _ _ (execAtflushGo_inForm h _)
    · exact busKeycmd_inForm h _ _
    · exact execMeascmdExtend_inForm h _ _
    · exact busGo_inForm h _ _ (execQcmdGo_inForm h _)
    · exact execRegisterWrite_inForm h _ _ _ _

/-! ### Peers (R147, R153, R204 to R207) -/

theorem peerWrite_wf (m : Master) (node loc key : Nat) (bs : List Byte) : Memory.wf (peerWrite m node loc key bs s).mem = true := by
  unfold peerWrite; dsimp only
  exact wf_ite h (wf_ite h (performAt_wf h _))

theorem peerKey_wf (node slot : Nat) (v : Option (BitVec 512)) : Memory.wf (peerKey node slot v s).mem = true := by
  unfold peerKey
  exact wf_ite h (setSlot_wf h _ _)

/-! ### A context's turn (R65, R194, R216, R294) -/

theorem runMembers_inForm (fuel : Nat) : InForm (runMembers fuel s) := by
  induction fuel generalizing s with
  | zero => exact (inForm_next _).2 h
  | succ fuel ih =>
    unfold runMembers
    split
    · exact (inForm_next _).2 h
    · split
      · exact (inForm_next _).2 (takeTrap_wf h _)
      · rename_i i _
        have he := exec_inForm h i
        split
        · rename_i t e
          have ht := he.wf t e
          exact inForm_ite (ih ht) ((inForm_next _).2 ht)
        · exact he

theorem reissueConvoy_inForm (v : Convoy) : InForm (reissueConvoy s v) := by
  unfold reissueConvoy
  refine inForm_ite ((inForm_next _).2 (takeTrap_wf h _)) (inForm_ite ?_ ?_)
  · exact inForm_ite ((inForm_next _).2 (takeTrap_wf (s := s.mapCx _) h _)) (runMembers_inForm h 4)
  · refine inForm_ite ((inForm_next _).2 h) ?_
    split
    · exact runMembers_inForm (s := issueConvoy s) h 4
    · exact (inForm_next _).2 (takeTrap_wf (withChecks_wf h _ _) _)

theorem runConvoy_inForm : InForm (runConvoy s) := by
  unfold runConvoy
  refine inForm_ite (exec_inForm h _) ?_
  split
  · exact reissueConvoy_inForm h _
  · exact reissueConvoy_inForm (s := s.mapCx _) h _
  · exact runMembers_inForm (s := issueConvoy (fetchConvoy s)) (fetchConvoy_wf h) 4

theorem runAhead_wf (f : QueueFault) : Memory.wf (runAhead s f).mem = true := by
  unfold runAhead; dsimp only
  refine wf_ite h ?_
  generalize e : fetchConvoy _ = t
  have ht : Memory.wf t.mem = true := by rw [← e]; exact fetchConvoy_wf (s := s.mapCx _) h
  have hm := runMembers_inForm ht 1
  split
  · exact h
  · refine wf_ite (wf_ite ht h) (wf_ite ?_ h)
    split
    · rename_i u eu
      exact wf_ite (hm.wf u eu) h
    · exact h

theorem runContext_inForm (c : Nat) : InForm (runContext c s) := by
  unfold runContext; dsimp only
  refine inForm_ite ((inForm_next _).2 h) ?_
  split
  · exact (inForm_next _).2 (runAhead_wf (s := { s with cur := c }) h _)
  · exact runConvoy_inForm (s := { s with cur := c }) h

/-! ### One step of the machine -/

theorem runMove_inForm (m : Move) : InForm (runMove m s) := by
  cases m with
  | run c => exact runContext_inForm h c
  | event i => exact inForm_ite ((inForm_next _).2 h) (exec_inForm h i)
  | deferNotify | notify | amoPause => exact (inForm_next _).2 h
  | copyElement c k id m => exact (inForm_next _).2 (KeepsForm.within (fun _ ht => copyElement_wf ht k id m) h c)
  | readEarly => exact (inForm_next _).2 (readEarly_wf h ..)
  | prefetch => exact (inForm_next _).2 (prefetch_wf h ..)
  | endArrives => exact (inForm_next _).2 (endArrives_wf h ..)
  | peerWrite => exact (inForm_next _).2 (peerWrite_wf h ..)
  | peerKey => exact (inForm_next _).2 (peerKey_wf h ..)
  | millLags | millHears | adjunctRuns | bar2size | msixControl | msixVector | lineCached | lineEvicted | peerRequest |
    peerReply | peerWithdraw | peerMessage | peerDelivered | peerTable | coreRead => simp [runMove, h]
  | registerWrite => exact execRegisterWrite_inForm h ..
  | bar2Read => exact execBar2Read_inForm h ..
  | bar2Write => exact execBar2Write_inForm h ..
  | busRead => exact busRead_inForm h ..
  | busWrite => exact busWrite_inForm h ..

theorem runTurn_inForm : InForm (runTurn s) := by
  have hi (i : Instr) := exec_inForm (s := { s with tick := s.tick + 1, fromContext := false }) h i
  have hc (c : Nat) := runContext_inForm (s := { s with tick := s.tick + 1, fromContext := true }) h c
  have hs : InForm (.next { s with tick := s.tick + 1 }) := (inForm_next _).2 h
  unfold runTurn; dsimp only
  refine inForm_ite ?_ ?_
  · split
    · exact hi _
    · split
      · exact hc _
      · exact hs
  · split
    · exact hc _
    · split
      · exact hi _
      · exact hs

theorem step_inForm : InForm (step s) := by
  unfold step runStep
  split
  · refine runMove_inForm ?_ _
    exact h
  · split
    · refine runMove_inForm ?_ _
      exact h
    · exact runTurn_inForm h
end

end Sys2Proof.Machine
end

section
/-! PROOF. The memory's canonical form is kept by every step (R3, R143). -/

namespace Sys2Proof

open Sys2Proof.Machine

/-- Settles O57: every instruction, event and move keeps the memory's canonical form (`step_inForm`). -/
theorem stepKeepsTheMemoryForm : Obligations.StepKeepsTheMemoryForm := by
  unfold Obligations.StepKeepsTheMemoryForm
  intro s t hs ht
  exact (step_inForm hs).wf t ht

end Sys2Proof
end

section
/-! SUPPORT. What MTS does (R83, R84, R353): where it traps, what it writes of a context and of a core, and how it
retires. -/

namespace Sys2Proof.Machine

open Sys2Proof.Spec

/-! ### Access (R83, R84) -/

theorem regAccess_of_writable : ∀ n ∈ writableNumbers, regAccess n = some .userWrite := by decide

theorem regAccess_of_readable : ∀ n ∈ readableNumbers, regAccess n = some .userRead := by decide

theorem regAccess_of_privileged : ∀ n ∈ privilegedNumbers, regAccess n = some .priv := by decide

theorem regAccess_of_counter : ∀ n ∈ counterNumbers, regAccess n = some .supWrite := by decide

theorem regAccess_of_unassigned {n : Nat} (h : Unassigned n) : regAccess n = none := by
  obtain ⟨-, hw, hr, hp, hc⟩ := h
  simp only [writableNumbers, readableNumbers, privilegedNumbers, counterNumbers, List.mem_cons, List.not_mem_nil,
    or_false, not_or] at hw hr hp hc
  unfold regAccess
  split
  · rw [if_neg (by simp; omega), if_neg (by simp; omega)]
  · rw [if_neg (by simp; omega), if_neg (by simp; omega)]

theorem lt_of_mem_numbers :
    ∀ n ∈ readableNumbers ++ privilegedNumbers ++ counterNumbers, n < 4096 := by decide

/-- A register's number fits the word's field. -/
theorem toNat_number {n : Nat} (hn : n < 4096) : (BitVec.ofNat 12 n).toNat = n :=
  (BitVec.toNat_ofNat n 12).trans (Nat.mod_eq_of_lt hn)

theorem exec_mts_fault {s : State} {r : BitVec 5} {n c : Nat} (hn : n < 4096)
    (h : regFault (regAccess n) s.cx.sup true = some c) :
    exec (.mts r (.ofNat 12 n)) s =
      .next (takeTrap s (trapOf c (.ofNat 64 ((encodeNat (.mts r (.ofNat 12 n))).getD 0)))) := by
  show execMts r (.ofNat 12 n) s = _
  unfold execMts
  rw [toNat_number hn, h]
  rfl

theorem exec_mts_next {s : State} {r : BitVec 5} {n : Nat} (hn : n < 4096)
    (h : regFault (regAccess n) s.cx.sup true = none) :
    exec (.mts r (.ofNat 12 n)) s = .next ((writeState s n (s.cx.reg r)).mapCx (·.retire)) := by
  show execMts r (.ofNat 12 n) s = _
  unfold execMts
  rw [toNat_number hn, h]

/-! ### Retirement (R67, R226) -/

/-- What the retirement of a word depends on is the same in two contexts. -/
def SamePlace (x f : Context) : Prop := f.pc = x.pc ∧ f.cvy = x.cvy ∧ f.sup = x.sup ∧ f.notice = x.notice

theorem SamePlace.refl (x : Context) : SamePlace x x := ⟨rfl, rfl, rfl, rfl⟩

theorem Context.retire_notice (x : Context) : x.retire.notice = noticeAfter x := by
  unfold Context.retire Context.goto Context.countConvoy noticeAfter
  cases hn : x.notice with
  | none => simp [hn]
  | some n => cases hs : x.sup <;> simp [hn]

theorem SamePlace.retired {x f : Context} (h : SamePlace x f) : Retired x f.retire := by
  obtain ⟨hpc, hcvy, hsup, hnotice⟩ := h
  refine ⟨?_, f.retire_cvy, f.retire_wait, ?_⟩
  · show f.nextPc = x.nextPc
    unfold Context.nextPc
    rw [hcvy, hpc]
  · rw [Context.retire_notice]
    unfold noticeAfter
    rw [hsup, hnotice]

theorem Context.retire_eq (x : Context) :
    x.retire = { x with pc := x.retire.pc, cvy := none, wait := none, notice := x.retire.notice } := by
  unfold Context.retire Context.goto Context.countConvoy
  split
  · split <;> rfl
  · rfl

/-! ### Registers of a context (R75, R82, R85, R127, R151, R161, R192, R202, R215, R224, R236) -/

theorem Context.writeShape_samePlace (x : Context) (n : Nat) (v : Word) : SamePlace x (x.writeShape n v) := by
  unfold Context.writeShape; split <;> exact .refl x

theorem Context.writeTask_samePlace (x : Context) (n : Nat) (v : Word) : SamePlace x (x.writeTask n v) := by
  unfold Context.writeTask; split <;> exact .refl x

theorem Context.writePriv_samePlace (x : Context) (n : Nat) (v : Word) : SamePlace x (x.writePriv n v) := by
  unfold Context.writePriv
  split
  case h_10 => split <;> exact .refl x
  all_goals exact .refl x

theorem writeState_shape {n : Nat} (h : n < 0x20) (s : State) (v : Word) :
    writeState s n v = s.mapCx (·.writeShape n v) := if_pos h

theorem writeState_task {n : Nat} (h : 0x20 ≤ n) (h' : n < 0x50) (s : State) (v : Word) :
    writeState s n v = s.mapCx (·.writeTask n v) := by
  unfold writeState
  rw [if_neg (by omega), if_pos h']

theorem writeState_priv {n : Nat} (h : 0x50 ≤ n) (h' : n < 0x200) (hc : n ∉ [0x121, 0x122, 0x130]) (s : State) (v : Word) :
    writeState s n v = s.mapCx (·.writePriv n v) := by
  simp only [List.mem_cons, List.not_mem_nil, or_false, not_or] at hc
  unfold writeState
  rw [if_neg (by omega), if_neg (by omega), if_neg (by simp; omega)]

theorem writeState_core {n : Nat} (h : n ∈ [0x121, 0x122, 0x130] ∨ 0x200 ≤ n) (s : State) (v : Word) :
    writeState s n v = writeCore s (coreOf s.cur) n v := by
  simp only [List.mem_cons, List.not_mem_nil, or_false] at h
  unfold writeState
  rw [if_neg (by omega), if_neg (by omega), if_pos (by simp; omega)]

/-- MTS to a number retires with the context changed to `f`, and changes nothing else. -/
def MtsWrites (s : State) (r : BitVec 5) (n : Nat) (f : Context) : Prop :=
  ∃ t, exec (.mts r (.ofNat 12 n)) s = .next t ∧ OnlyCx s t ∧ Retired s.cx t.cx ∧
    t.cx = { f with pc := t.cx.pc, cvy := none, wait := none, notice := t.cx.notice }

theorem mtsWrites_of_mapCx {s : State} {r : BitVec 5} {n : Nat} {g : Context → Context} (hn : n < 4096)
    (ha : regFault (regAccess n) s.cx.sup true = none) (hw : writeState s n (s.cx.reg r) = s.mapCx g)
    (hg : SamePlace s.cx (g s.cx)) : MtsWrites s r n (g s.cx) := by
  have hcx : ((s.mapCx g).mapCx (·.retire)).cx = (g s.cx).retire := by rw [State.cx_mapCx, State.cx_mapCx]
  refine ⟨_, exec_mts_next hn ha, ?_⟩
  rw [hw, hcx]
  refine ⟨⟨rfl, fun c hc => ?_, fun _ => rfl⟩, hg.retired, (g s.cx).retire_eq⟩
  have hc' : c ≠ (s.mapCx g).cur := hc
  rw [State.ctxAt_mapCx, if_neg hc', State.ctxAt_mapCx, if_neg hc]

theorem mtsWrites_shape {s : State} {r : BitVec 5} {n : Nat} (hn : n ∈ writableNumbers) (h : n < 0x20) :
    MtsWrites s r n (s.cx.writeShape n (s.cx.reg r)) :=
  mtsWrites_of_mapCx (by omega) (by rw [regAccess_of_writable n hn]; rfl) (writeState_shape h s _)
    (s.cx.writeShape_samePlace n _)

theorem mtsWrites_task {s : State} {r : BitVec 5} {n : Nat} (hn : n ∈ writableNumbers) (h : 0x20 ≤ n) (h' : n < 0x50) :
    MtsWrites s r n (s.cx.writeTask n (s.cx.reg r)) :=
  mtsWrites_of_mapCx (by omega) (by rw [regAccess_of_writable n hn]; rfl) (writeState_task h h' s _)
    (s.cx.writeTask_samePlace n _)

theorem regFault_priv {s : State} {n : Nat} (hs : s.cx.sup = true) (hn : n ∈ privilegedNumbers) :
    regFault (regAccess n) s.cx.sup true = none := by
  rw [regAccess_of_privileged n hn, hs]; rfl

theorem mtsWrites_priv {s : State} {r : BitVec 5} {n : Nat} (hs : s.cx.sup = true) (hn : n ∈ privilegedNumbers)
    (h : 0x50 ≤ n) (h' : n < 0x200) (hc : n ∉ [0x121, 0x122, 0x130]) :
    MtsWrites s r n (s.cx.writePriv n (s.cx.reg r)) :=
  mtsWrites_of_mapCx (by omega) (regFault_priv hs hn) (writeState_priv h h' hc s _) (s.cx.writePriv_samePlace n _)

/-! ### Registers of a core (R224, R242, R290) -/

/-- Only the cores differ, and of those one, which is as `k` but for what its counters have seen. -/
def OnlyCore (s t : State) (core : Nat) (k : Core) : Prop :=
  t = { s with cores := t.cores } ∧ t.coreAt core = { k with seen := (t.coreAt core).seen } ∧
    ∀ c, c ≠ core → t.coreAt c = s.coreAt c

theorem onlyCore_setCore (s : State) (core : Nat) (k : Core) : OnlyCore s (s.setCore core k) core k := by
  refine ⟨rfl, ?_, fun c hc => ?_⟩
  · rw [State.coreAt_setCore_self]
  · rw [State.coreAt_setCore, if_neg hc]

theorem OnlyCore.countFrom {s t : State} {core : Nat} {k : Core} (h : OnlyCore s t core k) (n : Nat) :
    OnlyCore s (countFrom t core n) core k := by
  obtain ⟨ht, hk, ho⟩ := h
  unfold Machine.countFrom
  refine ⟨?_, ?_, fun c hc => ?_⟩
  · show { t with cores := _ } = _
    rw [ht]
    rfl
  · rw [State.coreAt_setCore_self, hk]
  · rw [State.coreAt_setCore, if_neg hc, ho c hc]

/-- MTS to a number retires with the core changed to `k`, but for what its counters have seen, and changes nothing else. -/
def MtsWritesCore (s : State) (r : BitVec 5) (n : Nat) (k : Core) : Prop :=
  ∃ t, exec (.mts r (.ofNat 12 n)) s = .next t ∧ Retired s.cx t.cx ∧
    t.coreAt (coreOf s.cur) = { k with seen := (t.coreAt (coreOf s.cur)).seen } ∧
    (∀ c, c ≠ coreOf s.cur → t.coreAt c = s.coreAt c) ∧ t = { s with ctxs := t.ctxs, cores := t.cores } ∧
    t.cx = { s.cx with pc := t.cx.pc, cvy := none, wait := none, notice := t.cx.notice }

theorem mtsWritesCore_of_onlyCore {s : State} {r : BitVec 5} {n : Nat} {k : Core} (hn : n < 4096)
    (ha : regFault (regAccess n) s.cx.sup true = none)
    (hw : OnlyCore s (writeState s n (s.cx.reg r)) (coreOf s.cur) k) : MtsWritesCore s r n k := by
  refine ⟨_, exec_mts_next hn ha, ?_⟩
  generalize writeState s n (s.cx.reg r) = t at hw ⊢
  obtain ⟨ht, hk, ho⟩ := hw
  have hcx : t.cx = s.cx := by rw [ht]; rfl
  refine ⟨?_, hk, ho, ?_, ?_⟩
  · rw [State.cx_mapCx, hcx]
    exact (SamePlace.refl s.cx).retired
  · rw [State.mapCx_eq, ht]
  · rw [State.cx_mapCx, hcx]
    exact s.cx.retire_eq

theorem writeCore_lt {n : Nat} (hn : n < 0x200) (s : State) (core : Nat) (v : Word) :
    writeCore s core n v = s.setCore core ((s.coreAt core).write n v) := by
  have h : ¬ 0x200 ≤ n := by omega
  simp [writeCore, h]

theorem mtsWritesCore_of_lt {s : State} {r : BitVec 5} {n : Nat} (hs : s.cx.sup = true) (hn : n ∈ [0x121, 0x122, 0x130]) :
    MtsWritesCore s r n ((s.coreAt (coreOf s.cur)).write n (s.cx.reg r)) := by
  have hp : n ∈ privilegedNumbers := by revert n; decide
  have hlt : n < 0x200 := by revert n; decide
  refine mtsWritesCore_of_onlyCore (by omega) (regFault_priv hs hp) ?_
  rw [writeState_core (.inl hn), writeCore_lt hlt]
  exact onlyCore_setCore s _ _

/-! ### Event counters (R290) -/

/-- At supervisor level a counter's registers are written. -/
theorem regFault_counter {s : State} {n : Nat} (hs : s.cx.sup = true) (h : 0x200 ≤ n) (h' : n < 0x210) :
    regFault (regAccess n) s.cx.sup true = none := by
  have hn : n ∈ counterNumbers := by
    simp only [counterNumbers, List.mem_cons, List.not_mem_nil, or_false]
    omega
  rw [regAccess_of_counter n hn, hs]; rfl

theorem Core.write_evsel (k : Core) {n : Nat} (hn : n < 8) (v : Word) :
    k.write (0x200 + n) v = { k with evsel := k.evsel.setIfInBounds n (v.extractLsb' 0 10) } := by
  unfold Core.write
  split
  · omega
  · omega
  · omega
  · rw [if_pos (by omega), Nat.add_sub_cancel_left, BitVec.setWidth_eq_extractLsb' (by decide)]

theorem Core.write_evcnt (k : Core) {n : Nat} (v : Word) :
    k.write (0x208 + n) v = { k with evcnt := k.evcnt.setIfInBounds n v } := by
  unfold Core.write
  split
  · omega
  · omega
  · omega
  · rw [if_neg (by omega), Nat.add_sub_cancel_left]

/-- A source is written after its counter has counted up to here (R290). -/
theorem writeCore_evsel {n : Nat} (hn : n < 8) (s : State) (core : Nat) (v : Word) :
    writeCore s core (0x200 + n) v =
      countFrom ((countCore s core n).setCore core (((countCore s core n).coreAt core).write (0x200 + n) v)) core n := by
  have h : 0x200 + n < 0x208 := by omega
  have hm : (0x200 + n) % 8 = n := by omega
  simp [writeCore, h, hm]

theorem writeCore_evcnt {n : Nat} (hn : n < 8) (s : State) (core : Nat) (v : Word) :
    writeCore s core (0x208 + n) v = countFrom (s.setCore core ((s.coreAt core).write (0x208 + n) v)) core n := by
  have h' : 0x200 ≤ 0x208 + n := by omega
  have hm : (0x208 + n) % 8 = n := by omega
  simp [writeCore, h', hm]

theorem countCore_of_not_counts {s : State} {core n : Nat} (h : coreCounts ((s.coreAt core).evsel.toList.getD n 0) = false) :
    countCore s core n = s := by
  unfold countCore
  dsimp only
  rw [h]
  rfl

theorem mtsWritesCore_evsel {s : State} {r : BitVec 5} {n : Nat} (hs : s.cx.sup = true) (hn : n < 8)
    (hc : coreCounts ((s.coreAt (coreOf s.cur)).evsel.toList.getD n 0) = false) :
    MtsWritesCore s r (0x200 + n) ((s.coreAt (coreOf s.cur)).write (0x200 + n) (s.cx.reg r)) := by
  refine mtsWritesCore_of_onlyCore (by omega) (regFault_counter hs (by omega) (by omega)) ?_
  rw [writeState_core (.inr (by omega)), writeCore_evsel hn, countCore_of_not_counts hc]
  exact (onlyCore_setCore s _ _).countFrom _

theorem mtsWritesCore_evcnt {s : State} {r : BitVec 5} {n : Nat} (hs : s.cx.sup = true) (hn : n < 8) :
    MtsWritesCore s r (0x208 + n) ((s.coreAt (coreOf s.cur)).write (0x208 + n) (s.cx.reg r)) := by
  refine mtsWritesCore_of_onlyCore (by omega) (regFault_counter hs (by omega) (by omega)) ?_
  rw [writeState_core (.inr (by omega)), writeCore_evcnt hn]
  exact (onlyCore_setCore s _ _).countFrom _

/-- A counter brought up to date changes no context, no source, and no other counter of its core. -/
theorem countCore_keeps (s : State) (core n : Nat) :
    (countCore s core n).ctxs = s.ctxs ∧ (countCore s core n).cur = s.cur ∧
      ((countCore s core n).coreAt core).evsel = (s.coreAt core).evsel ∧
      ∀ m, m ≠ n → ((countCore s core n).coreAt core).evcnt.toList.getD m 0 = (s.coreAt core).evcnt.toList.getD m 0 := by
  unfold countCore
  dsimp only
  split
  · exact ⟨rfl, rfl, rfl, fun _ _ => rfl⟩
  · split
    all_goals
      refine ⟨rfl, rfl, by rw [State.coreAt_setCore_self], fun m hm => ?_⟩
      simp [State.coreAt_setCore_self, List.getElem?_set_ne hm.symm]

/-- A source written: its counter has counted up to here, and no other counter changes. -/
theorem mts_evsel {s : State} {r : BitVec 5} {n : Nat} (hs : s.cx.sup = true) (hn : n < 8) :
    ∃ t, exec (.mts r (.ofNat 12 (0x200 + n))) s = .next t ∧ Retired s.cx t.cx ∧
      (t.coreAt (coreOf s.cur)).evsel = (s.coreAt (coreOf s.cur)).evsel.setIfInBounds n ((s.cx.reg r).extractLsb' 0 10) ∧
      ∀ m, m ≠ n → (t.coreAt (coreOf s.cur)).evcnt.toList.getD m 0 =
        (s.coreAt (coreOf s.cur)).evcnt.toList.getD m 0 := by
  obtain ⟨hctxs, hcur, hsel, hcnt⟩ := countCore_keeps s (coreOf s.cur) n
  refine ⟨_, exec_mts_next (by omega) (regFault_counter hs (by omega) (by omega)), ?_⟩
  rw [writeState_core (.inr (by omega)), writeCore_evsel hn]
  generalize countCore s (coreOf s.cur) n = t at hctxs hcur hsel hcnt ⊢
  obtain ⟨-, hk, -⟩ := (onlyCore_setCore t (coreOf s.cur)
    ((t.coreAt (coreOf s.cur)).write (0x200 + n) (s.cx.reg r))).countFrom n
  have hcx : t.cx = s.cx := by simp [State.cx, State.ctxAt, hctxs, hcur]
  refine ⟨?_, ?_, fun m hm => ?_⟩
  · rw [State.cx_mapCx]
    show Retired s.cx t.cx.retire
    rw [hcx]
    exact (SamePlace.refl s.cx).retired
  · refine (congrArg Core.evsel hk).trans ?_
    rw [Core.write_evsel _ hn, ← hsel]
  · refine (congrArg (fun k : Core => k.evcnt.toList.getD m 0) hk).trans ?_
    rw [Core.write_evsel _ hn]
    exact hcnt m hm

end Sys2Proof.Machine
end

section
/-! PROOF. What MTS writes (R82 to R85, R127, R151, R161, R192, R215, R224, R242, R290, R353). -/

namespace Sys2Proof.Machine

/-- The low bits of a word are none set where its remainder is 0. -/
theorem setWidth_eq_zero_iff (v : Word) (w : Nat) : v.setWidth w = 0#w ↔ v.toNat % 2 ^ w = 0 := by
  rw [← BitVec.toNat_inj, BitVec.toNat_setWidth, BitVec.toNat_ofNat, Nat.zero_mod]

/-- The rounding modes 6 and 7 leave FPCTL.rm (R85). -/
theorem Context.writeShape_fpctl (x : Context) (v : Word) :
    x.writeShape 0x0A v = { x with fp := { x.fp with
      rm := if v.toNat % 8 < 6 then v.extractLsb' 0 3 else x.fp.rm, ftz := v.getLsbD 3, sat8 := v.getLsbD 4 } } := by
  by_cases h : v.toNat % 8 < 6
  · simp [Context.writeShape, h, Nat.not_le.2 h, BitVec.setWidth_eq_extractLsb']
  · simp [Context.writeShape, h, Nat.not_lt.1 h]

/-- SRSEED is never 0 (R85). -/
theorem Context.writeShape_seed (x : Context) (v : Word) :
    x.writeShape 0x0C v = { x with fp := { x.fp with
      seed := if v.toNat % 2 ^ 32 = 0 then 1 else v.extractLsb' 0 32 } } := by
  simp only [Context.writeShape, setWidth_eq_zero_iff]
  simp only [BitVec.setWidth_eq_extractLsb' (show 32 ≤ 64 by decide)]

/-- A cap outside 1 to 16 leaves LANECAP (R224). -/
theorem Context.writePriv_cap (x : Context) (v : Word) :
    x.writePriv 0x120 v =
      if 1 ≤ v.toNat % 32 ∧ v.toNat % 32 ≤ 16 then { x with cap := v.extractLsb' 0 5 } else x := by
  simp only [Context.writePriv, Bool.and_eq_true, decide_eq_true_eq]
  simp only [BitVec.setWidth_eq_extractLsb' (show 5 ≤ 64 by decide)]

/-- CHKSEED is never 0 (R242). -/
theorem Core.write_chkseed (k : Core) (v : Word) :
    k.write 0x130 v = { k with chkseed := if v.toNat % 2 ^ 16 = 0 then 1 else v.extractLsb' 0 16 } := by
  simp only [Core.write, setWidth_eq_zero_iff]
  simp only [BitVec.setWidth_eq_extractLsb' (show 16 ≤ 64 by decide)]

end Sys2Proof.Machine

namespace Sys2Proof

open Sys2Proof.Machine Sys2Proof.Spec

/-- Settles O43: by the access of each number (R83), MTS traps, or writes the fields of its register and retires. -/
theorem mtsWritesItsFields : Obligations.MtsWritesItsFields := by
  unfold Obligations.MtsWritesItsFields
  intro s r x v core k writes writesCore faults
  -- Where a field is the register's low bits, the two sides are the same by computation.
  have hshape {n : Nat} {f : Context} (e : x.writeShape n v = f := by rfl) (hn : n ∈ writableNumbers := by decide)
      (h : n < 0x20 := by decide) : writes n f := e ▸ mtsWrites_shape hn h
  have htask {n : Nat} {f : Context} (e : x.writeTask n v = f := by rfl) (hn : n ∈ writableNumbers := by decide)
      (h : 0x20 ≤ n ∧ n < 0x50 := by decide) : writes n f := e ▸ mtsWrites_task hn h.1 h.2
  have hpriv {n : Nat} {f : Context} (hs : x.sup = true) (e : x.writePriv n v = f := by rfl)
      (hn : n ∈ privilegedNumbers := by decide) (h : 0x50 ≤ n ∧ n < 0x200 := by decide)
      (hc : n ∉ [0x121, 0x122, 0x130] := by decide) : writes n f := e ▸ mtsWrites_priv hs hn h.1 h.2 hc
  have hcore {n : Nat} {f : Core} (hs : x.sup = true) (e : k.write n v = f := by rfl)
      (hn : n ∈ [0x121, 0x122, 0x130] := by decide) : writesCore n f := e ▸ mtsWritesCore_of_lt hs hn
  have hfault {n c : Nat} (hn : n ∈ readableNumbers ++ privilegedNumbers ++ counterNumbers)
      (h : regFault (regAccess n) x.sup true = some c) : faults n c := exec_mts_fault (lt_of_mem_numbers n hn) h
  refine ⟨⟨hshape, hshape (x.writeShape_fpctl v), hshape, hshape (x.writeShape_seed v), hshape, hshape, hshape, hshape, hshape,
      hshape, hshape, htask, htask, htask, htask, htask⟩,
    fun hs => ⟨hpriv hs, hpriv hs, hpriv hs, hpriv hs, hpriv hs, hpriv hs, hpriv hs, hpriv hs, hpriv hs,
      hpriv hs (x.writePriv_cap v), hpriv hs, hcore hs, hcore hs, hcore hs (k.write_chkseed v),
      fun n hn hc => ?evsel, fun n hn => mts_evsel hs hn, fun n hn => ?evcnt⟩,
    fun hs n hn => ?privileged, fun n hn => ?readable, fun hs n hn => ?counter, fun n hn => ?unassigned⟩
  case evsel => exact k.write_evsel hn v ▸ mtsWritesCore_evsel hs hn hc
  case evcnt => exact k.write_evcnt v ▸ mtsWritesCore_evcnt hs hn
  case privileged => exact hfault (by simp [hn]) (by rw [regAccess_of_privileged n hn, hs]; rfl)
  case readable =>
    refine hfault (by simp [hn]) ?_
    rw [regAccess_of_readable n hn]
    cases x.sup <;> rfl
  case counter => exact hfault (by simp [hn]) (by rw [regAccess_of_counter n hn, hs]; rfl)
  case unassigned => exact exec_mts_fault hn.1 (by rw [regAccess_of_unassigned hn]; rfl)

end Sys2Proof
end

section
/-! SUPPORT. MSI-X of the ports (R279; log entry 93): what a port does with a vector, and that a vector which comes about
changes nothing but the ports and what they have sent. -/

namespace Sys2Proof.Machine

open Sys2Proof.Spec

/-! ### One port -/

/-- Bit u of a set of eight that has gained bit v. -/
theorem getLsbD_or_bit (b : BitVec 8) {u v : Nat} (hu : u < 8) :
    (b ||| (1#8 <<< v)).getLsbD u = (b.getLsbD u || u == v) := by
  rcases Nat.lt_trichotomy u v with h | h | h
  · simp [h, Nat.ne_of_lt h]
  · subst h; simp [hu]
  · have h1 : ¬ u < v := by omega
    have h2 : u - v ≠ 0 := by omega
    have h3 : u ≠ v := by omega
    simp [hu, h1, h2, h3]

theorem MsiPort.send_sent (p : MsiPort) (v : Nat) : (p.send v).2 = sentBy p v := by
  obtain ⟨on, allMasked, mask, pend⟩ := p
  cases on
  · rfl
  · cases allMasked
    · refine (List.filter_congr fun u hu => ?_).trans (if_pos ⟨rfl, rfl⟩).symm
      rw [getLsbD_or_bit _ (List.mem_range.1 hu), Bool.or_comm]
    · rfl

theorem MsiPort.send_port (p : MsiPort) (v : Nat) :
    (p.send v).1 = { p with pend := (p.send v).1.pend } := by
  obtain ⟨on, allMasked, mask, pend⟩ := p
  cases on
  · rfl
  · cases allMasked <;> rfl

/-- What a port keeps pending: what it has not sent, of what was pending and the new vector. -/
theorem MsiPort.send_pend (p : MsiPort) (v : Nat) {u : Nat} (hu : u < 8) :
    (p.send v).1.pend.getLsbD u =
      if p.on = true then decide ((u = v ∨ p.pend.getLsbD u = true) ∧ ¬ u ∈ sentBy p v) else p.pend.getLsbD u := by
  obtain ⟨on, allMasked, mask, pend⟩ := p
  have hb := getLsbD_or_bit pend (v := v) hu
  cases on
  · rfl
  · cases allMasked
    · refine (BitVec.getLsbD_and ..).trans ?_
      rw [hb, if_pos rfl, Bool.eq_iff_iff]
      simp only [sentBy, and_self, if_true, List.mem_filter, List.mem_range, hu, true_and, Bool.and_eq_true,
        Bool.or_eq_true, beq_iff_eq, Bool.not_eq_true', decide_eq_true_eq]
      cases mask.getLsbD u
      · simp only [Bool.false_eq_true, and_false, not_and]
        exact iff_of_false id fun h => h.2 h.1 trivial
      · simp [or_comm]
    · refine hb.trans ?_
      rw [if_pos rfl, Bool.eq_iff_iff]
      simp [sentBy, or_comm]

/-! ### Vectors that come about -/

theorem msiPort_putPort (s : State) {port : Nat} (hport : port = 1 ∨ port = 2) (f : MsiPort → MsiPort × List Nat) {p : Nat}
    (hp : p ∈ [1, 2]) :
    msiPort (s.putPort port f).host p = if p = port then (f (msiPort s.host port)).1 else msiPort s.host p := by
  have hp' : p = 1 ∨ p = 2 := by simpa using hp
  unfold msiPort State.putPort
  rcases hport with rfl | rfl <;> rcases hp' with rfl | rfl <;> simp

/-- A vector at some ports: each of them does with it what a port does, and no other changes. -/
theorem vectored_of_sends {h g : HostBlk} {ports : List Nat} {v : Nat}
    (hm : g.msix = h.msix ++ ports.flatMap fun p => (sentBy (msiPort h p) v).map fun u => (p, u))
    (hp : ∀ p ∈ [1, 2], msiPort g p = if p ∈ ports then ((msiPort h p).send v).1 else msiPort h p) :
    Vectored h g ports v := by
  refine ⟨hm, fun p hmem u hu => ?_⟩
  dsimp only
  rw [hp p hmem]
  by_cases hin : p ∈ ports
  · simp only [hin, true_and, if_true]
    exact ⟨MsiPort.send_pend _ _ hu, MsiPort.send_port _ _⟩
  · simp [hin]

theorem vectored_nil {h g : HostBlk} (hm : g.msix = h.msix) (hp : g.ports = h.ports) (v : Nat) : Vectored h g [] v :=
  vectored_of_sends (by simp [hm]) fun p _ => by simp [msiPort, hp]

theorem vectored_msix (s : State) {port : Nat} (hport : port = 1 ∨ port = 2) (v : Nat) :
    Vectored s.host (s.msix port v).host [port] v := by
  refine vectored_of_sends ?_ fun p hp => ?_
  · show s.host.msix ++ (((msiPort s.host port).send v).2.map fun u => (port, u)) = _
    rw [MsiPort.send_sent]
    simp
  · simp only [List.mem_singleton]
    exact msiPort_putPort s hport _ hp |>.trans (by split <;> simp_all)

theorem vectored_msixTo (s : State) (m v : Nat) :
    Vectored s.host (s.msixTo m v).host (if m = 1 ∨ m = 2 then [m] else []) v := by
  unfold State.msixTo
  by_cases h : m = 1 ∨ m = 2
  · have hb : (decide (m = 1) || decide (m = 2)) = true := by simpa using h
    rw [if_pos h, if_pos hb]
    exact vectored_msix s h v
  · have hb : ¬ (decide (m = 1) || decide (m = 2)) = true := by simpa using h
    rw [if_neg h, if_neg hb]
    exact vectored_nil rfl rfl v

theorem vectored_msixBoth (s : State) (v : Nat) : Vectored s.host (s.msixBoth v).host [1, 2] v := by
  have h2 : msiPort (s.msix 1 v).host 2 = msiPort s.host 2 := msiPort_putPort s (.inl rfl) _ (by simp)
  have h1 : msiPort (s.msix 1 v).host 1 = ((msiPort s.host 1).send v).1 := msiPort_putPort s (.inl rfl) _ (by simp)
  refine vectored_of_sends ?_ fun p hp => ?_
  · show (s.host.msix ++ ((msiPort s.host 1).send v).2.map fun u => (1, u)) ++
      (((msiPort (s.msix 1 v).host 2).send v).2.map fun u => (2, u)) = _
    rw [h2, MsiPort.send_sent, MsiPort.send_sent]
    simp
  · rw [if_pos hp]
    refine (msiPort_putPort (s.msix 1 v) (.inr rfl) _ hp).trans ?_
    have hp' : p = 1 ∨ p = 2 := by simpa using hp
    rcases hp' with rfl | rfl
    · exact h1
    · simp only [if_true]
      rw [h2]

/-- A vector is a matter of the ports alone. -/
theorem Vectored.congr {h g h' g' : HostBlk} {ports : List Nat} {v : Nat} (k : Vectored h g ports v)
    (hm : h'.msix = h.msix) (hp : h'.ports = h.ports) (gm : g'.msix = g.msix) (gp : g'.ports = g.ports) :
    Vectored h' g' ports v := by
  have eh (p : Nat) : msiPort h' p = msiPort h p := by unfold msiPort; rw [hp]
  have eg (p : Nat) : msiPort g' p = msiPort g p := by unfold msiPort; rw [gp]
  unfold Vectored at *
  simp only [eh, eg, hm, gm]
  exact k

/-! ### What else a vector changes -/

/-- Only what the ports keep and have sent differs. -/
def PortsOnly (s t : State) : Prop := t = { s with host := { s.host with msix := t.host.msix, ports := t.host.ports } }

theorem PortsOnly.refl (s : State) : PortsOnly s s := rfl

theorem PortsOnly.trans {s t u : State} (h : PortsOnly s t) (g : PortsOnly t u) : PortsOnly s u := by
  unfold PortsOnly at *; rw [g, h]

theorem msix_portsOnly (s : State) (port v : Nat) : PortsOnly s (s.msix port v) := rfl

theorem msixTo_portsOnly (s : State) (m v : Nat) : PortsOnly s (s.msixTo m v) := by
  unfold State.msixTo; split
  · exact msix_portsOnly _ _ _
  · exact .refl s

end Sys2Proof.Machine
end

section
/-! SUPPORT. A master's access at an offset of BAR0 (R155, R211, R276): held, refused, or made; and a write that only the
owner of SEMA may make (R282). -/

namespace Sys2Proof.Machine

open Sys2Proof.Spec

section
variable {s : State} {m off : Nat} (hm1 : 1 ≤ m) (hm3 : m ≤ 3) {write : Bool} {mv : Move} {refused : State → State}
  {k : State → Host.Outcome State Fault Refusal}
include hm1 hm3

theorem masterInRange_of_le : masterInRange m = true := by simp [masterInRange, hm1, hm3]

theorem hostReach_held (hf : s.flows = false) (hm : m ≠ 3) : hostReach m off write mv refused k s = .next (s.hold mv) := by
  simp [hostReach, masterInRange_of_le hm1 hm3, hf, hm]

theorem hostReach_refused (hf : s.flows = true ∨ m = 3) (ha : mmioAllows s m off write = false) :
    hostReach m off write mv refused k s = .next (refused s) := by
  have hn : ¬ (!s.flows && decide (m ≠ 3)) = true := by rcases hf with h | h <;> simp [h]
  unfold hostReach
  rw [masterInRange_of_le hm1 hm3, if_neg (by decide), if_neg hn, ha]
  rfl

theorem hostReach_reaches (hr : Reaches s m off write) : hostReach m off write mv refused k s = k s := by
  obtain ⟨hf, ha⟩ := hr
  have hn : ¬ (!s.flows && decide (m ≠ 3)) = true := by rcases hf with h | h <;> simp [h]
  unfold hostReach
  rw [masterInRange_of_le hm1 hm3, if_neg (by decide), if_neg hn, ha]
  rfl

/-- A write of a whole register waits at a port's entry in a moult or a migration, and is dropped where it is refused. -/
theorem hostWrites_heldOrRefused {v : Word} {i : Instr} (hi : exec i s = hostWrites m off v k s) :
    HeldOrRefused s m off true i (.busWrite m off 8 v) s := by
  refine ⟨fun hf hm => ?_, fun hf ha => ?_⟩
  · exact hi.trans (hostReach_held hm1 hm3 hf hm)
  · exact hi.trans (hostReach_refused hm1 hm3 hf ha)

theorem hostWrites_reaches {v : Word} (hr : Reaches s m off true) : hostWrites m off v k s = k s :=
  hostReach_reaches hm1 hm3 hr
end

theorem guarded_owner {s : State} {m : Nat} (h : s.host.owner = m) (f : State → State) : guarded m f s = f s := if_pos h

theorem guarded_other {s : State} {m : Nat} (h : s.host.owner ≠ m) (f : State → State) : guarded m f s = s.rejected :=
  if_neg h

end Sys2Proof.Machine
end

section
/-! SUPPORT. Strings (R47 to R62, R285, R287, R289): a changed step or cap, and what a run over the strings of a die or
over the cores of a string changes. -/

namespace Sys2Proof.Machine

/-! ### Runs over strings and cores -/

/-- A run over strings changes each of them by itself, and nothing else. -/
theorem foldl_setStr (base : Nat) (f : Nat → Str → Str) (n : Nat) (s : State) :
    let t := (List.range n).foldl (fun s k => s.setStr (base + k) (f k (s.strAt (base + k)))) s
    t = { s with strs := t.strs } ∧
      ∀ j, t.strAt j = if base ≤ j ∧ j < base + n then f (j - base) (s.strAt j) else s.strAt j := by
  induction n with
  | zero => exact ⟨rfl, fun j => (if_neg (by omega)).symm⟩
  | succ n ih =>
    obtain ⟨hrest, hat⟩ := ih
    rw [List.range_succ, List.foldl_append, List.foldl_cons, List.foldl_nil]
    generalize (List.range n).foldl _ s = u at hrest hat ⊢
    refine ⟨?_, fun j => ?_⟩
    · show { u with strs := _ } = _
      rw [hrest]
      rfl
    · rw [State.strAt_setStr, hat, hat]
      by_cases hj : j = base + n
      · subst hj; simp
      · rw [if_neg hj]
        exact if_congr (by omega) rfl rfl

/-- The strings of a die: its twelve, from 12 d on. -/
theorem str_of_die {d k : Nat} : (12 * d ≤ k ∧ k < 12 * d + 12) ↔ k / 12 = d := by omega

theorem putCaps_strs (d : Nat) (v : Word) (s : State) :
    putCaps d v s = { s with strs := (putCaps d v s).strs } ∧
      ∀ k, (putCaps d v s).strAt k =
        if k / 12 = d then (s.strAt k).restep (s.strAt k).step (v.toNat / 4 ^ (k % 12) % 4) else s.strAt k := by
  obtain ⟨hrest, hat⟩ := foldl_setStr (12 * d) (fun k t => t.restep t.step (v.toNat / 4 ^ k % 4)) 12 s
  refine ⟨hrest, fun k => (hat k).trans ?_⟩
  rw [if_congr str_of_die rfl rfl]
  split
  · rw [show k - 12 * d = k % 12 by omega]
  · rfl

theorem putPower_strs (d : Nat) (v : Word) (s : State) :
    putPower d v s = { s with strs := (putPower d v s).strs } ∧
      ∀ k, (putPower d v s).strAt k =
        if k / 12 = d then { s.strAt k with pwr := v.getLsbD (k % 12) } else s.strAt k := by
  obtain ⟨hrest, hat⟩ := foldl_setStr (12 * d) (fun k t => { t with pwr := v.getLsbD k }) 12 s
  refine ⟨hrest, fun k => (hat k).trans ?_⟩
  rw [if_congr str_of_die rfl rfl]
  split
  · rw [show k - 12 * d = k % 12 by omega]
  · rfl

/-- Cores that start their clocks: each gets a free CYCLE, and nothing else of them changes (R18). -/
theorem foldl_startCycles (base n : Nat) (s : State) :
    let t := (List.range n).foldl (fun s i =>
      let d := s.draw
      d.2.setCore (base + i) { d.2.coreAt (base + i) with cycle0 := d.1 }) s
    t = { s with cores := t.cores, tick := t.tick } ∧
      ∀ c, t.coreAt c =
        if base ≤ c ∧ c < base + n then { s.coreAt c with cycle0 := (t.coreAt c).cycle0 } else s.coreAt c := by
  induction n with
  | zero => exact ⟨rfl, fun c => (if_neg (by omega)).symm⟩
  | succ n ih =>
    obtain ⟨hrest, hat⟩ := ih
    rw [List.range_succ, List.foldl_append, List.foldl_cons, List.foldl_nil]
    generalize (List.range n).foldl _ s = u at hrest hat ⊢
    refine ⟨?_, fun c => ?_⟩
    · show { u with cores := _, tick := _ } = _
      rw [hrest]
      rfl
    · have hd (c : Nat) : u.draw.2.coreAt c = u.coreAt c := rfl
      dsimp only
      rw [State.coreAt_setCore]
      by_cases hc : c = base + n
      · subst hc
        have hu := hat (base + n)
        rw [if_neg (by omega)] at hu
        rw [if_pos rfl, if_pos (by omega), hd, hu]
      · rw [if_neg hc, hd]
        refine (hat c).trans (if_congr (by omega) rfl rfl)

theorem startCycles_cores (n : Nat) (s : State) :
    startCycles n s = { s with cores := (startCycles n s).cores, tick := (startCycles n s).tick } ∧
      ∀ c, (startCycles n s).coreAt c =
        if c / 16 = n then { s.coreAt c with cycle0 := ((startCycles n s).coreAt c).cycle0 } else s.coreAt c := by
  obtain ⟨hrest, hat⟩ := foldl_startCycles (16 * n) 16 s
  exact ⟨hrest, fun c => (hat c).trans (if_congr (by omega) rfl rfl)⟩

/-- A string that is set up and starts its clocks. -/
theorem startCycles_setStr (s : State) (n : Nat) (x : Str) :
    let t := startCycles n (s.setStr n x)
    (∀ k, t.strAt k = if k = n then x else s.strAt k) ∧
      (∀ c, t.coreAt c = if c / 16 = n then { s.coreAt c with cycle0 := (t.coreAt c).cycle0 } else s.coreAt c) ∧
      t = { s with strs := t.strs, cores := t.cores, tick := t.tick } := by
  obtain ⟨hrest, hat⟩ := startCycles_cores n (s.setStr n x)
  generalize startCycles n (s.setStr n x) = t at hrest hat ⊢
  have hstrs : t.strs = (s.setStr n x).strs := by rw [hrest]
  refine ⟨fun k => ?_, hat, ?_⟩
  · exact (congrArg (fun l => tabGet Str.reset l k) hstrs).trans (s.strAt_setStr n k x)
  · rw [hstrs]
    exact hrest

/-! ### Steps and power -/

/-- A changed effective step clears the requests, and any changed step the floor (R50, R54, R59). -/
theorem Str.restep_eq (t : Str) (step cap : Nat) :
    t.restep step cap =
      { t with
        step := step, cap := cap
        adjreq := if max step (min cap 2) = max t.step (min t.cap 2) then t.adjreq else 0
        floor := if max step (min cap 2) = max t.step (min t.cap 2) ∧ step = t.step then t.floor else false } := by
  unfold Str.restep Str.effective
  simp only [Bool.and_eq_true, decide_eq_true_eq]

/-- Boot that has ended does not end again. -/
theorem bootEnds_of_ended {s : State} (h : s.host.bootst = 1) : bootEnds s = s := by simp [bootEnds, h]

theorem mayPower_of_ended {s : State} (hb : s.host.booted = true) (h : s.host.bootst = 1) (n : Nat) :
    mayPower s n = true := by simp [mayPower, hb, h]

theorem gatesRightly_iff (d : Nat) (v : Word) (s : State) :
    gatesRightly d v s = true ↔
      ∀ k < 12, (s.strAt (12 * d + k)).pwr = true → v.getLsbD k = false →
        (s.strAt (12 * d + k)).hold = true ∧ strBusy s (12 * d + k) = false := by
  unfold gatesRightly
  simp only [List.all_eq_true, List.mem_range, Bool.or_eq_true, Bool.and_eq_true, Bool.not_eq_true']
  refine forall₂_congr fun k _ => ?_
  cases (s.strAt (12 * d + k)).pwr <;> cases v.getLsbD k <;> simp

theorem anyTask_iff (s : State) : s.anyTask = true ↔ ∃ e ∈ s.ctxs, e.2.task ≠ none := by
  simp [State.anyTask, Option.isSome_iff_ne_none]

end Sys2Proof.Machine
end

section
/-! PROOF. Strings throttle and are powered (R18, R47, R50, R54, R59, R62, R279, R282, R285, R287, R289). -/

namespace Sys2Proof.Machine

open Sys2Proof.Spec

section
variable {s : State} {n : Nat} (hn : n < 24)
include hn

theorem stringInRange_of_lt : stringInRange n = true := by simp [stringInRange, hn]

theorem exec_adjunctRequest {node : Nat} (h1 : 1 ≤ node) (h3 : node ≤ 3) (under : Bool) (hr : (s.strAt n).rdy = true) :
    exec (.adjunctRequest n node under) s =
      .next (s.setStr n { s.strAt n with adjreq := (s.strAt n).adjreq ||| (1#4 <<< overTile node under) }) := by
  show execAdjunctRequest n node under s = _
  simp [execAdjunctRequest, stringInRange_of_lt hn, h1, h3, hr]

theorem exec_throttleDown (hr : (s.strAt n).rdy = true) (hs : (s.strAt n).step < 2) (ha : (s.strAt n).adjreq ≠ 0) :
    exec (.throttleDown n) s = .next (s.setStr n ((s.strAt n).restep ((s.strAt n).step + 1) (s.strAt n).cap)) := by
  show execThrottleDown n s = _
  rw [execThrottleDown, stringInRange_of_lt hn, Bool.not_true, if_neg Bool.false_ne_true]
  exact if_pos (by simpa [hr, hs] using ha)

theorem exec_throttleDown_unrequested (ha : (s.strAt n).adjreq = 0) : exec (.throttleDown n) s = .next s := by
  show execThrottleDown n s = _
  simp [execThrottleDown, stringInRange_of_lt hn, ha]

theorem exec_throttleUp (hr : (s.strAt n).rdy = true) (hs : 0 < (s.strAt n).step) :
    exec (.throttleUp n) s = .next (s.setStr n ((s.strAt n).restep ((s.strAt n).step - 1) (s.strAt n).cap)) := by
  show execThrottleUp n s = _
  simp [execThrottleUp, stringInRange_of_lt hn, hr, hs]

theorem exec_stringFloor_unrequested (ha : (s.strAt n).adjreq = 0) : exec (.stringFloor n) s = .next s := by
  show execStringFloor n s = _
  simp [execStringFloor, stringInRange_of_lt hn, ha]

/-- A floor comes about: vector 4 goes to both ports where it was clear (R54, R279). -/
theorem exec_stringFloor (hr : (s.strAt n).rdy = true) (hs : (s.strAt n).step = 2) (ha : (s.strAt n).adjreq ≠ 0) :
    ∃ t, exec (.stringFloor n) s = .next t ∧
      (∀ k, t.strAt k = if k = n then { s.strAt n with floor := true } else s.strAt k) ∧
      Vectored s.host t.host (if (s.strAt n).floor = true then [] else [1, 2]) 4 ∧
      t = { s with strs := t.strs, host := { s.host with msix := t.host.msix, ports := t.host.ports } } := by
  have he : exec (.stringFloor n) s = .next (if (s.strAt n).floor then s.setStr n { s.strAt n with floor := true }
      else (s.setStr n { s.strAt n with floor := true }).msixBoth 4) := by
    show execStringFloor n s = _
    rw [execStringFloor, stringInRange_of_lt hn, Bool.not_true, if_neg Bool.false_ne_true]
    exact if_neg (by simpa [hr, hs] using ha)
  refine ⟨_, he, ?_⟩
  have hat (k : Nat) := s.strAt_setStr n k { s.strAt n with floor := true }
  cases (s.strAt n).floor
  · exact ⟨hat, vectored_msixBoth _ 4, rfl⟩
  · exact ⟨hat, vectored_nil rfl rfl 4, rfl⟩

theorem exec_stringPowered (hp : (s.strAt n).pwr = true) (hr : (s.strAt n).rdy = false) (hb : s.host.booted = true)
    (h1 : s.host.bootst = 1) :
    ∃ t, exec (.stringPowered n) s = .next t ∧
      (∀ k, t.strAt k =
        if k = n then { s.strAt n with rdy := true, step := 0, adjreq := 0, floor := false, clock := 0 } else s.strAt k) ∧
      (∀ c, t.coreAt c = if c / 16 = n then { s.coreAt c with cycle0 := (t.coreAt c).cycle0 } else s.coreAt c) ∧
      t = { s with strs := t.strs, cores := t.cores, tick := t.tick } := by
  obtain ⟨hat, hcore, hrest⟩ := startCycles_setStr s n
    { s.strAt n with rdy := true, step := 0, adjreq := 0, floor := false, clock := 0 }
  refine ⟨_, ?_, hat, hcore, hrest⟩
  show execStringPowered n s = _
  rw [execStringPowered, stringInRange_of_lt hn, Bool.not_true, if_neg Bool.false_ne_true]
  refine (if_pos (by simp [hp, hr, mayPower_of_ended hb h1])).trans (congrArg _ ?_)
  exact bootEnds_of_ended (by rw [hrest]; exact h1)

theorem exec_stringUnpowered (hp : (s.strAt n).pwr = false) (hr : (s.strAt n).rdy = true) (hb : strBusy s n = false) :
    exec (.stringUnpowered n) s = .next (s.setStr n { s.strAt n with rdy := false, adjreq := 0, floor := false }) := by
  show execStringUnpowered n s = _
  simp [execStringUnpowered, stringInRange_of_lt hn, hp, hr, hb]
end

/-! ### Registers of a die -/

section
variable {s : State} {m d : Nat} {v : Word} (hd : d < 2)
include hd

/-- Each of the three registers of a die that change under SEMA is written at its offset (R282, R285). -/
theorem exec_partszWrite : exec (.partszWrite m d v) s = hostWrites m (0x100000 + 0x10000 * d) v (fun s =>
    .next (guarded m (fun s => if 8 < v.toNat % 16 || s.anyTask then s.rejected
      else s.setDie d { s.dieAt d with partsz := v.toNat % 16 }) s)) s := by
  show execPartszWrite m d v s = _
  rw [execPartszWrite, if_neg (by omega), Nat.mul_comm]

theorem exec_strcapWrite : exec (.strcapWrite m d v) s = hostWrites m (0x100028 + 0x10000 * d) v (fun s =>
    .next (guarded m (putCaps d v) s)) s := by
  show execStrcapWrite m d v s = _
  rw [execStrcapWrite, if_neg (by omega), Nat.mul_comm]

theorem exec_strpwrWrite : exec (.strpwrWrite m d v) s = hostWrites m (0x100010 + 0x10000 * d) v (fun s =>
    .next (guarded m (fun s => if gatesRightly d v s then bootEnds (putPower d v s) else s.rejected) s)) s := by
  show execStrpwrWrite m d v s = _
  rw [execStrpwrWrite, if_neg (by omega), Nat.mul_comm]
end

/-- A register that only the owner of SEMA may write: the write waits, is refused, or is rejected. -/
theorem guardedWrite_unowned {s : State} {m off : Nat} (hm1 : 1 ≤ m) (hm3 : m ≤ 3) {i : Instr} {v : Word}
    {f : State → State} (hi : exec i s = hostWrites m off v (fun s => .next (guarded m f s)) s) :
    HeldOrRefused s m off true i (.busWrite m off 8 v) s ∧
      (Reaches s m off true → s.host.owner ≠ m → exec i s = .next s.rejected) := by
  refine ⟨hostWrites_heldOrRefused hm1 hm3 hi, fun hr ho => ?_⟩
  rw [hi, hostWrites_reaches hm1 hm3 hr, guarded_other ho]

theorem guardedWrite_owned {s : State} {m off : Nat} (hm1 : 1 ≤ m) (hm3 : m ≤ 3) {i : Instr} {v : Word}
    {f : State → State} (hi : exec i s = hostWrites m off v (fun s => .next (guarded m f s)) s)
    (ho : s.host.owner = m) (hr : Reaches s m off true) : exec i s = .next (f s) := by
  rw [hi, hostWrites_reaches hm1 hm3 hr, guarded_owner ho]

end Sys2Proof.Machine

namespace Sys2Proof

open Sys2Proof.Machine Sys2Proof.Spec

/-- Settles O51: each event's one case by its equation, and the three registers through the checks that a host's write
shares. -/
theorem stringsThrottleAndPower : Obligations.StringsThrottleAndPower := by
  unfold Obligations.StringsThrottleAndPower
  intro s n hn t0 sets effective stepped
  have hstepped (t : Str) (step cap : Nat) : t.restep step cap = stepped t step cap := t.restep_eq step cap
  refine ⟨fun hr => ⟨fun node h1 h3 => ⟨?overNode, ?underNode⟩, fun hs ha => ?down, fun ha => ?none, fun hs => ?up,
    fun hs ha => exec_stringFloor hn hr hs ha⟩, fun hp hr hb h1 => exec_stringPowered hn hp hr hb h1,
    fun hp hr hb => exec_stringUnpowered hn hp hr hb, fun m d v hm1 hm3 hd => ?_⟩
  case overNode => exact exec_adjunctRequest hn h1 h3 true hr
  case underNode => exact exec_adjunctRequest hn h1 h3 false hr
  case down => exact (exec_throttleDown hn hr hs ha).trans (by rw [hstepped])
  case none => exact ⟨exec_throttleDown_unrequested hn ha, exec_stringFloor_unrequested hn ha⟩
  case up => exact (exec_throttleUp hn hr hs).trans (by rw [hstepped])
  intro size caps power rejected
  refine ⟨fun e he => ?_, fun ho => ⟨fun hr => ?partsz, fun hr => ?strcap, fun hr h1 => ?strpwr⟩⟩
  · simp only [List.mem_cons, List.not_mem_nil, or_false] at he
    rcases he with rfl | rfl | rfl
    · exact guardedWrite_unowned hm1 hm3 (exec_partszWrite hd)
    · exact guardedWrite_unowned hm1 hm3 (exec_strcapWrite hd)
    · exact guardedWrite_unowned hm1 hm3 (exec_strpwrWrite hd)
  case partsz =>
    have he := guardedWrite_owned (v := v) hm1 hm3 (exec_partszWrite hd) ho hr
    have ht := anyTask_iff s
    refine ⟨fun h8 hno => he.trans ?_, fun hbad => he.trans ?_⟩
    · rw [if_neg]
      simp only [Bool.or_eq_true, decide_eq_true_eq, ht, not_or]
      exact ⟨by omega, fun ⟨e, hmem, hne⟩ => hne (hno e hmem)⟩
    · rw [if_pos]
      · rfl
      · simpa only [Bool.or_eq_true, decide_eq_true_eq, ht] using hbad
  case strcap =>
    obtain ⟨hrest, hat⟩ := putCaps_strs d v s
    refine ⟨_, guardedWrite_owned hm1 hm3 (exec_strcapWrite hd) ho hr, hrest, fun k _ => (hat k).trans ?_⟩
    rw [hstepped]
  case strpwr =>
    obtain ⟨hrest, hat⟩ := putPower_strs d v s
    have he := guardedWrite_owned (v := v) hm1 hm3 (exec_strpwrWrite hd) ho hr
    have hg := gatesRightly_iff d v s
    refine ⟨fun hok => ⟨putPower d v s, he.trans ?_, hrest, fun k _ => (hat k).trans ?_⟩, fun hbad => he.trans ?_⟩
    · rw [if_pos (hg.2 hok), bootEnds_of_ended (by rw [hrest]; exact h1)]
    · split <;> rfl
    · rw [if_neg]
      · rfl
      · obtain ⟨k, hk, hp, hv, hbusy⟩ := hbad
        intro h
        obtain ⟨hh, hb⟩ := hg.1 h k hk hp hv
        simp [hh, hb] at hbusy

end Sys2Proof
end

section
/-! SUPPORT. What the mill's work changes of the machine (R24 to R40, R250 to R252): launches and records, memory through its
own accesses, and what the ports send. -/

namespace Sys2Proof.Machine

/-! ### Work of the mill -/

/-- A launch but for what its run changes: whether it may be replayed, and whether it has failed. -/
def Launch.fixed (l : Launch) : Launch := { l with replayable := false, failed := none }

/-- Nothing differs but the tracked records and the readiness order, whether launches may be replayed and have failed, what an
access changes of the memory, and what the ports keep and have sent. -/
structure MillWork (s t : State) : Prop where
  launches : t.mill.launches.map Launch.fixed = s.mill.launches.map Launch.fixed
  rest : t = { s with
    mill := { s.mill with launches := t.mill.launches, recs := t.mill.recs, nextReady := t.mill.nextReady }
    host := { s.host with msix := t.host.msix, ports := t.host.ports }
    mem := t.mem, tlb := t.tlb, poison := t.poison, plain := t.plain }

theorem MillWork.refl (s : State) : MillWork s s := ⟨rfl, rfl⟩

theorem MillWork.trans {s t u : State} (h : MillWork s t) (g : MillWork t u) : MillWork s u := by
  obtain ⟨hl, hr⟩ := h
  obtain ⟨gl, gr⟩ := g
  exact ⟨gl.trans hl, by rw [gr, hr]⟩

theorem MemoryOnly.millWork {s t : State} (h : MemoryOnly s t) : MillWork s t :=
  ⟨by rw [h], by unfold MemoryOnly at h; rw [h]⟩

theorem PortsOnly.millWork {s t : State} (h : PortsOnly s t) : MillWork s t :=
  ⟨by rw [h], by unfold PortsOnly at h; rw [h]⟩

theorem mapLaunch_millWork (s : State) (n : Nat) {f : Launch → Launch} (hf : ∀ l, (f l).fixed = l.fixed) :
    MillWork s (s.mapLaunch n f) := by
  refine ⟨?_, rfl⟩
  show (s.mill.launches.map _).map Launch.fixed = _
  rw [List.map_map]
  refine List.map_congr_left fun l _ => ?_
  show Launch.fixed (if _ then _ else _) = _
  split
  · exact hf l
  · rfl

theorem setRecs_millWork (s : State) (recs : List Rec) : MillWork s { s with mill := { s.mill with recs := recs } } :=
  ⟨rfl, rfl⟩

theorem failInCycle_millWork (s : State) (n cause : Nat) : MillWork s (s.failInCycle n cause) :=
  mapLaunch_millWork s n fun l => by split <;> rfl

theorem failLaunch_millWork (s : State) (n cause : Nat) : MillWork s (s.failLaunch n cause) :=
  mapLaunch_millWork s n fun l => by split <;> rfl

theorem unreplayable_millWork (s : State) (n : Nat) :
    MillWork s (s.mapLaunch n fun l => { l with replayable := false }) := mapLaunch_millWork s n fun _ => rfl

theorem writeBlock_memoryOnly {s t : State} {a : Acc} {key : Option Nat} {va : Nat} {bs : List Byte}
    (h : writeBlock s a key va bs = some t) : MemoryOnly s t := (writeBlock_keeps h).1

theorem touchBlock_memoryOnly (s : State) (a : Acc) (k : AccKind) (key : Option Nat) (va n : Nat) :
    MemoryOnly s (touchBlock s a k key va n) := (touchBlock_keeps s a k key va n).1

theorem setMemory_memoryOnly (s : State) (mem : List Host.Cell) (poison : Tab (BitVec 128)) :
    MemoryOnly s { s with mem := mem, poison := poison } := rfl

theorem copyPage_memoryOnly (s : State) (src dst : Nat) : MemoryOnly s (copyPage s src dst) :=
  setMemory_memoryOnly s _ _

/-! ### Records (R28 to R30) -/

theorem writeField_millWork (s : State) (l : Launch) (va : Word) (off v : Nat) : MillWork s (writeField s l va off v) := by
  unfold writeField
  split
  · rename_i e
    exact (writeBlock_memoryOnly e).millWork
  · exact failInCycle_millWork _ _ _

theorem touchRecord_memoryOnly (s : State) (l : Launch) (va : Nat) (b : List Byte) :
    MemoryOnly s (touchRecord s l va b) := (touchBlock_memoryOnly ..).trans (touchBlock_memoryOnly ..)

theorem makeReady_millWork (s : State) (n : Nat) (va : Word) : MillWork s (makeReady s n va) := by
  unfold makeReady; dsimp only
  split
  · exact .refl s
  · split
    · exact failInCycle_millWork _ _ _
    · rename_i l _ _ b _
      have ht := (touchRecord_memoryOnly s l va.toNat b).millWork
      split
      · exact ht.trans (failInCycle_millWork _ _ _)
      · have hw := ht.trans ((writeField_millWork _ l va 0x40 0).trans (writeField_millWork _ l va 0x50 0))
        generalize writeField (writeField _ _ _ _ _) _ _ _ _ = u at hw ⊢
        have hu : MillWork u { (u.mapRec n va fun r => r.load l b u.mill.nextReady) with
            mill := { (u.mapRec n va fun r => r.load l b u.mill.nextReady).mill with
              nextReady := (u.mapRec n va fun r => r.load l b u.mill.nextReady).mill.nextReady + 1 } } := ⟨rfl, rfl⟩
        split
        · exact hw.trans hu
        · exact (hw.trans hu).trans (unreplayable_millWork _ _)

/-! ### Writes that count (R250 to R252) -/

theorem getD_millWork {s d : State} {o : Option State} (hd : MillWork s d) (ho : ∀ t, o = some t → MillWork s t) :
    MillWork s (o.getD d) := by
  cases o with
  | none => exact hd
  | some t => exact ho t rfl

theorem shadowCopy_millWork (s : State) (l : Launch) (loc key : Nat) : MillWork s (shadowCopy s l loc key) := by
  have hd := (touchBlock_memoryOnly s l.acc .load none l.pool.toNat (8 * l.slotCount)).millWork
  unfold shadowCopy; dsimp only [-Nat.reducePow]
  generalize touchBlock s l.acc .load none l.pool.toNat (8 * l.slotCount) = d at hd ⊢
  have hend := hd.trans (unreplayable_millWork d l.num)
  split
  · exact hd
  · split
    · exact hend
    · split
      · exact hend
      · rename_i dst _
        generalize loc / 2 ^ 16 * 2 ^ 16 = page
        have hc := (touch_memoryOnly d l.acc .store dst).trans (copyPage_memoryOnly _ page dst.loc)
        exact getD_millWork hd fun t hw => hd.trans (hc.trans (writeBlock_memoryOnly hw)).millWork

theorem countWrite_millWork (s : State) (n : Nat) (w : Write) : MillWork s (countWrite s n w) := by
  unfold countWrite
  split
  · exact .refl s
  · split
    · exact .refl s
    · split
      · exact .refl s
      · exact shadowCopy_millWork _ _ _ _
      · exact unreplayable_millWork _ _

theorem decrement_millWork {s : State} {l : Launch} {va : Word} {r : Nat × State} (e : decrement s l va = some r) :
    MillWork s r.2 := by
  unfold decrement at e; dsimp only at e
  split at e
  · cases e
  · rename_i p _
    have ht := (touch_memoryOnly s l.acc .atomic p).millWork
    split at e <;> cases e
    · exact ht
    · exact (ht.trans (countWrite_millWork _ _ _)).trans (performAt_memoryOnly _ _).millWork

/-! ### Actions of one event (R28, R30, R38, R40) -/

theorem track_millWork (s : State) (n : Nat) (va : Word) : MillWork s (track s n va) := setRecs_millWork s _

theorem actRoot_millWork (s : State) (l : Launch) (va : Word) : MillWork s (actRoot s l va).2 := by
  unfold actRoot
  split
  · exact failInCycle_millWork _ _ _
  · split
    · exact failInCycle_millWork _ _ _
    · exact track_millWork _ _ _

theorem actSpawn_millWork (s : State) (l : Launch) (va : Word) : MillWork s (actSpawn s l va).2 := by
  unfold actSpawn
  split
  · exact failInCycle_millWork _ _ _
  · split
    · exact failInCycle_millWork _ _ _
    · split
      · exact failInCycle_millWork _ _ _
      · exact (touchBlock_memoryOnly ..).millWork.trans (track_millWork _ _ _)

theorem actSignal_millWork (s : State) (l : Launch) (va : Word) : MillWork s (actSignal s l va).2 := by
  unfold actSignal
  split
  · exact failInCycle_millWork _ _ _
  · split
    · rename_i e
      have ht := decrement_millWork e
      split
      · exact ht.trans (failInCycle_millWork _ _ _)
      · split
        · exact ht
        · exact ht.trans (track_millWork _ _ _)
    · exact failInCycle_millWork _ _ _

theorem actComplete_millWork (s : State) (l : Launch) (va : Word) : MillWork s (actComplete s l va).2 := by
  unfold actComplete; dsimp only
  split
  · exact .refl s
  · have hu := setRecs_millWork s (s.mill.recs.filter fun k => !(k.launch == l.num && k.addr == va))
    split
    · exact hu
    · split
      · exact hu.trans (failInCycle_millWork _ _ _)
      · split
        · exact hu.trans (failInCycle_millWork _ _ _)
        · exact hu.trans (touchBlock_memoryOnly ..).millWork

theorem millAct_millWork (a : MillAct) (s : State) : MillWork s (millAct a s).2 := by
  unfold millAct
  split
  · exact .refl s
  · split
    · split
      · exact actRoot_millWork _ _ _
      · exact .refl s
    · exact actSpawn_millWork _ _ _
    · exact actSignal_millWork _ _ _
    · dsimp only
      exact makeReady_millWork _ _ _
    · exact actComplete_millWork _ _ _
    · exact (msixTo_portsOnly _ _ _).millWork

theorem runActs_millWork (fuel : Nat) (acts : List MillAct) (s : State) : MillWork s (runActs fuel acts s) := by
  induction fuel generalizing s acts with
  | zero => exact .refl s
  | succ fuel ih =>
    cases acts with
    | nil => exact .refl s
    | cons a rest => exact (millAct_millWork a s).trans (ih _ _)

/-- With nothing to do an event does nothing. -/
@[simp] theorem runActs_nil (fuel : Nat) (s : State) : runActs fuel [] s = s := by cases fuel <;> rfl

/-- One action that nothing follows. -/
theorem runActs_single {fuel : Nat} (hf : 1 ≤ fuel) {a : MillAct} {s : State} (h : (millAct a s).1 = []) :
    runActs fuel [a] s = (millAct a s).2 := by
  obtain ⟨n, rfl⟩ := Nat.exists_eq_add_of_le' hf
  rw [runActs, h]
  exact runActs_nil _ _

/-- One action, and another that follows it and that nothing follows. -/
theorem runActs_pair {fuel : Nat} (hf : 2 ≤ fuel) {a b : MillAct} {s : State} (h : (millAct a s).1 = [b])
    (hb : (millAct b (millAct a s).2).1 = []) : runActs fuel [a] s = (millAct b (millAct a s).2).2 := by
  obtain ⟨n, rfl⟩ := Nat.exists_eq_add_of_le' hf
  rw [runActs, h]
  have e : [b].filter (!·.isCompletion) ++ [] ++ [b].filter (·.isCompletion) = [b] := by
    cases hc : b.isCompletion <;> simp [hc]
  rw [e]
  exact runActs_single (by omega) hb

theorem two_le_millFuel : 2 ≤ millFuel := by decide

/-! ### The end of an event (R26, R39, R225, R228) -/

theorem foldl_millWork {α : Type} (f : State → α → State) (hf : ∀ t a, MillWork t (f t a)) (l : List α) (s : State) :
    MillWork s (l.foldl f s) := foldl_keeps (MillWork s) f (fun t a h => h.trans (hf t a)) l s (.refl s)

theorem keepCauses_millWork (b s : State) : MillWork s (keepCauses b s) :=
  foldl_millWork _ (fun t l => by
    split
    · exact mapLaunch_millWork _ _ fun _ => rfl
    · exact .refl t) _ s

theorem runEvent_millWork (acts : List MillAct) (s : State) : MillWork s (runEvent acts s) :=
  (runActs_millWork _ _ s).trans (keepCauses_millWork _ _)

theorem checkStalls_millWork (s : State) : MillWork s (checkStalls s) :=
  foldl_millWork _ (fun t l => by
    split
    · exact failLaunch_millWork _ _ _
    · exact .refl t) _ s

/-- Only launches differ. -/
def LaunchesOnly (s t : State) : Prop := t = { s with mill := { s.mill with launches := t.mill.launches } }

theorem foldl_launchesOnly {α : Type} (f : State → α → State) (hf : ∀ t a, LaunchesOnly t (f t a)) (l : List α) (s : State) :
    LaunchesOnly s (l.foldl f s) :=
  foldl_keeps (LaunchesOnly s) f (fun t a h => by
    have g := hf t a
    unfold LaunchesOnly at *
    rw [g, h]) l s rfl

theorem keepCauses_launchesOnly (b s : State) : LaunchesOnly s (keepCauses b s) :=
  foldl_launchesOnly _ (fun t l => by split <;> rfl) _ s

theorem checkStalls_launchesOnly (s : State) : LaunchesOnly s (checkStalls s) :=
  foldl_launchesOnly _ (fun t l => by split <;> rfl) _ s

/-- At the end of an event launches may fail, and contexts have other notices and caps. -/
theorem settleMill_rest (s : State) :
    settleMill s = { s with ctxs := (settleMill s).ctxs, mill := { s.mill with launches := (settleMill s).mill.launches } } := by
  have e : settleMill s = { checkStalls s with ctxs := (settleMill s).ctxs } := rfl
  have hl : (settleMill s).mill.launches = (checkStalls s).mill.launches := rfl
  have h := checkStalls_launchesOnly s
  refine e.trans ?_
  rw [hl]
  generalize (settleMill s).ctxs = cs
  generalize checkStalls s = t at h ⊢
  unfold LaunchesOnly at h
  rw [h]

theorem settleMill_launches (s : State) :
    (settleMill s).mill.launches.map Launch.fixed = s.mill.launches.map Launch.fixed := (checkStalls_millWork s).launches

@[simp] theorem settleMill_recs (s : State) : (settleMill s).mill.recs = s.mill.recs := by rw [settleMill_rest]
@[simp] theorem settleMill_ends (s : State) : (settleMill s).mill.ends = s.mill.ends := by rw [settleMill_rest]
@[simp] theorem settleMill_saved (s : State) : (settleMill s).mill.saved = s.mill.saved := by rw [settleMill_rest]
@[simp] theorem settleMill_nextNum (s : State) : (settleMill s).mill.nextNum = s.mill.nextNum := by rw [settleMill_rest]
@[simp] theorem settleMill_host (s : State) : (settleMill s).host = s.host := by rw [settleMill_rest]
@[simp] theorem settleMill_rcd (s : State) (n : Nat) (va : Word) : (settleMill s).rcd n va = s.rcd n va := by
  unfold State.rcd; rw [settleMill_recs]

@[simp] theorem keepCauses_recs (b s : State) : (keepCauses b s).mill.recs = s.mill.recs := by rw [keepCauses_launchesOnly b s]
@[simp] theorem keepCauses_host (b s : State) : (keepCauses b s).host = s.host := by rw [keepCauses_launchesOnly b s]
@[simp] theorem keepCauses_rcd (b s : State) (n : Nat) (va : Word) : (keepCauses b s).rcd n va = s.rcd n va := by
  unfold State.rcd; rw [keepCauses_recs]

/-- A context after an event of the mill, but for its notice and its cap. -/
def SettledFrom (x y : Context) : Prop := y = { x with notice := y.notice, cap := y.cap, capBack := y.capBack }

theorem dropNotices_settled (x : Context) (s : State) : SettledFrom x (x.dropNotices s) := by
  unfold Context.dropNotices; split <;> rfl

theorem capReturns_settled (x : Context) (s : State) : SettledFrom x (x.capReturns s) := by
  unfold Context.capReturns; split
  · split <;> rfl
  · rfl

theorem SettledFrom.trans {x y z : Context} (h : SettledFrom x y) (g : SettledFrom y z) : SettledFrom x z := by
  unfold SettledFrom at *; rw [g, h]

theorem tabGet_map {α : Type} {d : α} {f : α → α} (hf : f d = d) (t : Tab α) (i : Nat) :
    tabGet d (t.map fun e => (e.1, f e.2)) i = f (tabGet d t i) := by
  induction t with
  | nil => exact hf.symm
  | cons e t ih =>
    obtain ⟨k, v⟩ := e
    simp only [List.map_cons, tabGet, ih]
    split <;> rfl

theorem settleMill_ctxAt (s : State) (c : Nat) : SettledFrom (s.ctxAt c) ((settleMill s).ctxAt c) := by
  have hc : (checkStalls s).ctxs = s.ctxs := by rw [checkStalls_launchesOnly s]
  have h : (settleMill s).ctxAt c = ((s.ctxAt c).dropNotices (checkStalls s)).capReturns (checkStalls s) := by
    show tabGet Context.reset ((checkStalls s).ctxs.map _) c = _
    rw [hc]
    exact tabGet_map (d := .reset) (f := fun x => (x.dropNotices (checkStalls s)).capReturns (checkStalls s)) rfl s.ctxs c
  rw [h]
  exact (dropNotices_settled _ _).trans (capReturns_settled _ _)

/-! ### Launches and records looked up -/

theorem launch_fixed {s t : State} (h : t.mill.launches.map Launch.fixed = s.mill.launches.map Launch.fixed) (n : Nat) :
    (t.launch n).map Launch.fixed = (s.launch n).map Launch.fixed := by
  have hfind (ls : List Launch) :
      (ls.find? (·.num == n)).map Launch.fixed = (ls.map Launch.fixed).find? (·.num == n) := by
    rw [List.find?_map]; rfl
  unfold State.launch
  rw [hfind, hfind, h]

theorem State.launch_num {s : State} {n : Nat} {l : Launch} (h : s.launch n = some l) : l.num = n := by
  simpa using List.find?_some h

theorem State.rcd_is {s : State} {n : Nat} {va : Word} {r : Rec} (h : s.rcd n va = some r) : r.launch = n ∧ r.addr = va := by
  simpa using List.find?_some h

/-- The first of some that were changed is the first changed. -/
theorem find?_map_ite {α : Type} {p : α → Bool} {f : α → α} (hf : ∀ a, p a = true → p (f a) = true) (l : List α) :
    (l.map fun a => if p a then f a else a).find? p = (l.find? p).map f := by
  induction l with
  | nil => rfl
  | cons a l ih =>
    rw [List.map_cons, List.find?_cons, List.find?_cons]
    cases h : p a with
    | false => simp only [Bool.false_eq_true, if_false, h]; exact ih
    | true => simp [hf a h]

theorem State.launch_mapLaunch (s : State) (n : Nat) {f : Launch → Launch} (hf : ∀ l, (f l).num = l.num) :
    (s.mapLaunch n f).launch n = (s.launch n).map f :=
  find?_map_ite (p := fun l : Launch => l.num == n) (fun l h => by rw [hf]; exact h) s.mill.launches

theorem State.rcd_mapRec (s : State) (n : Nat) (va : Word) {f : Rec → Rec}
    (hf : ∀ r, (f r).launch = r.launch ∧ (f r).addr = r.addr) : (s.mapRec n va f).rcd n va = (s.rcd n va).map f :=
  find?_map_ite (p := fun r : Rec => r.launch == n && r.addr == va)
    (fun r h => by rw [(hf r).1, (hf r).2]; exact h) s.mill.recs

end Sys2Proof.Machine
end

section
/-! SUPPORT. Launches (R20 to R28, R283): the masters' queues, and what becomes of a LAUNCH value. -/

namespace Sys2Proof.Machine

open Sys2Proof.Spec

/-! ### The queues -/

/-- One master's queue written. -/
theorem HostBlk.queue_set (h : HostBlk) {m k : Nat} (hm1 : 1 ≤ m) (hm3 : m ≤ 3) (hk : 1 ≤ k) (q : List Word) :
    { h with queues := h.queues.setIfInBounds (m - 1) q }.queue k = if k = m then q else h.queue k := by
  have hlt : m - 1 < h.queues.toList.length := by simp; omega
  show (h.queues.setIfInBounds (m - 1) q).toList.getD (k - 1) [] = _
  rw [Vector.toList_setIfInBounds, List.getD_eq_getElem?_getD, List.getElem?_set]
  by_cases hkm : k = m
  · subst hkm
    rw [if_pos rfl, if_pos hlt, if_pos rfl]
    rfl
  · rw [if_neg (by omega), if_neg hkm, ← List.getD_eq_getElem?_getD]
    rfl

theorem takeValue_of_empty {r : List MillAct × State} {m : Nat} (h : r.2.host.queue m = []) : takeValue r m = r := by
  unfold takeValue; rw [h]

theorem getD_setIfInBounds_self {α : Type} {n i : Nat} (a : Vector α n) (hi : i < n) (x d : α) :
    (a.setIfInBounds i x).toList.getD i d = x := by
  rw [Vector.toList_setIfInBounds, List.getD_eq_getElem?_getD, List.getElem?_set, if_pos rfl, if_pos (by simpa using hi)]
  rfl

/-- The state in which the only value of a master's queue is handled. -/
def State.emptied (s : State) (m : Nat) : State :=
  { s with host := { s.host with queues := s.host.queues.setIfInBounds (m - 1) [] } }

theorem takeValue_of_single {s : State} {m : Nat} {v : Word} (h : s.host.queue m = [v]) :
    takeValue ([], s) m = acceptValue m v (s.emptied m) := by
  unfold takeValue
  rw [h]
  rfl

/-! ### One value -/

theorem reject_host (m : Nat) (v : Word) (s : State) :
    PortsOnly { s with host := { s.host with
      lbad := s.host.lbad.setIfInBounds (m - 1) v, bad := s.host.bad.setIfInBounds (m - 1) true } } (reject m v s) :=
  msixTo_portsOnly _ _ _

theorem reject_queues (m : Nat) (v : Word) (s : State) : (reject m v s).host.queues = s.host.queues := by
  have h := reject_host m v s
  unfold PortsOnly at h
  rw [h]

theorem MemoryOnly.host {s t : State} (h : MemoryOnly s t) : t.host = s.host := by rw [h]

theorem MemoryOnly.mill {s t : State} (h : MemoryOnly s t) : t.mill = s.mill := by rw [h]

theorem clearDirectory_memoryOnly (s : State) (l : Launch) : MemoryOnly s (clearDirectory s l) := by
  unfold clearDirectory
  split
  · cases e : writeBlock s l.acc none l.pool.toNat (zeros (8 * l.slotCount)) with
    | none => exact .refl s
    | some t => exact writeBlock_memoryOnly e
  · exact .refl s

theorem readLaunch_memoryOnly (s : State) (l : Launch) (va : Nat) (b : List Byte) :
    MemoryOnly s (readLaunch s l va b).2 :=
  (touchBlock_memoryOnly ..).trans ((touchBlock_memoryOnly ..).trans (touchBlock_memoryOnly ..))

/-- Handling a value leaves the queues as they are. -/
theorem acceptValue_queues (m : Nat) (v : Word) (s : State) : (acceptValue m v s).2.host.queues = s.host.queues := by
  unfold acceptValue
  split
  · exact reject_queues m v s
  · dsimp only [-Nat.reducePow]
    split
    · exact reject_queues m v s
    · split
      · rw [reject_queues, (touchBlock_memoryOnly ..).host]
      · split
        · show (readLaunch _ _ _ _).2.host.queues = _
          rw [(readLaunch_memoryOnly ..).host]
        · rw [(clearDirectory_memoryOnly ..).host]
          show (readLaunch _ _ _ _).2.host.queues = _
          rw [(readLaunch_memoryOnly ..).host]

/-- Where one master's queue alone holds one value, the event handles that value (R283). -/
theorem exec_launchAccept_of_single {s : State} {m : Nat} {v : Word} (hm1 : 1 ≤ m) (hm3 : m ≤ 3)
    (hq : s.host.queue m = [v]) (ho : ∀ k, 1 ≤ k → k ≤ 3 → k ≠ m → s.host.queue k = []) :
    exec .launchAccept s =
      .next (millEvent (acceptValue m v (s.emptied m)).1 (acceptValue m v (s.emptied m)).2) := by
  have hsome : ¬ s.host.queues.toList.all (·.isEmpty) = true := by
    intro hall
    have hmem : s.host.queue m ∈ s.host.queues.toList := by
      unfold HostBlk.queue
      rw [List.getD_eq_getElem _ _ (by simp; omega)]
      exact List.getElem_mem _
    have := List.all_eq_true.1 hall _ hmem
    rw [hq] at this
    cases this
  have hrest {k : Nat} (hk : 1 ≤ k) (hk3 : k ≤ 3) :
      (acceptValue m v (s.emptied m)).2.host.queue k = [] := by
    have e : (acceptValue m v (s.emptied m)).2.host.queue k = (s.emptied m).host.queue k := by
      unfold HostBlk.queue; rw [acceptValue_queues]
    rw [e]
    refine (s.host.queue_set hm1 hm3 hk []).trans ?_
    split
    · rfl
    · exact ho k hk hk3 ‹_›
  have hfold : [1, 2, 3].foldl takeValue ([], s) = acceptValue m v (s.emptied m) := by
    have htake := takeValue_of_single hq
    have hafter {k : Nat} (hk : 1 ≤ k) (hk3 : k ≤ 3) := takeValue_of_empty (hrest hk hk3)
    have hbefore {k : Nat} (hk : 1 ≤ k) (hk3 : k ≤ 3) (hne : k ≠ m) : takeValue ([], s) k = ([], s) :=
      takeValue_of_empty (ho k hk hk3 hne)
    obtain rfl | rfl | rfl : m = 1 ∨ m = 2 ∨ m = 3 := by omega
    · simp [htake, hafter]
    · simp [htake, hafter, hbefore]
    · simp [htake, hbefore]
  show execLaunchAccept s = _
  unfold execLaunchAccept
  rw [if_neg hsome, hfold]

/-! ### Rejected and accepted values -/

/-- A LAUNCH value names a space that may be used (R20, R27). -/
def Usable (h : HostBlk) (v : Word) : Prop :=
  v.toNat < 2 ^ 62 ∧ v.toNat / 2 ^ 55 % 2 = 0 ∧ h.bootst ≠ 2 ∧
    (tabGet ⟨0, 0, 0, false⟩ h.spaces (v.toNat / 2 ^ 56 % 64) : SpaceEntry).valid = true

/-- What `spaceOf` tests is that the value names no space that may be used. -/
theorem unusable_iff (h : HostBlk) (v : Word) (e : SpaceEntry) :
    (decide (v.toNat / 2 ^ 62 ≠ 0) || bitOf v.toNat 55 || decide (h.bootst = 2) || !e.valid) = true ↔
      ¬ (v.toNat < 2 ^ 62 ∧ v.toNat / 2 ^ 55 % 2 = 0 ∧ h.bootst ≠ 2 ∧ e.valid = true) := by
  have h62 : v.toNat / 2 ^ 62 ≠ 0 ↔ ¬ v.toNat < 2 ^ 62 := by omega
  have h55 : bitOf v.toNat 55 = true ↔ ¬ v.toNat / 2 ^ 55 % 2 = 0 := by
    unfold bitOf
    rw [beq_iff_eq]
    omega
  simp only [Bool.or_eq_true, decide_eq_true_eq, Bool.not_eq_true', h62, h55, not_and_or, or_assoc, ne_eq, not_not,
    Bool.not_eq_true]

theorem spaceOf_of_usable {s : State} {v : Word} (h : Usable s.host v) :
    spaceOf s v = some (tabGet ⟨0, 0, 0, false⟩ s.host.spaces (v.toNat / 2 ^ 56 % 64)) :=
  if_neg fun hc => (unusable_iff ..).1 hc h

theorem spaceOf_of_unusable {s : State} {v : Word} (h : ¬ Usable s.host v) : spaceOf s v = none :=
  if_pos ((unusable_iff ..).2 h)

theorem acceptValue_of_unusable {s : State} {m : Nat} {v : Word} (h : spaceOf s v = none) :
    acceptValue m v s = ([], reject m v s) := by
  unfold acceptValue; rw [h]

theorem acceptValue_of_accepted {s : State} {m : Nat} {v : Word} {e : SpaceEntry} {b : List Byte} {l : Launch}
    (he : spaceOf s v = some e) (hl : l = launchOf (s.mill.nextNum + 1) m v (.ofWords e.ptroot e.asid e.keydef) b)
    (hb : readBlock s l.acc none (v.toNat % 2 ^ 55) 64 = .ok b) (hw : wordWritable s l = true)
    (hc : lowestCause (blockCauses s l (v.toNat % 2 ^ 55) b) = none) :
    acceptValue m v s =
      (let r := readLaunch s l (v.toNat % 2 ^ 55) b
       (r.1.roots.map (.root l.num), clearDirectory (addLaunch r.2 r.1) r.1)) := by
  subst hl
  have hb' : readBlock s (launchOf (s.mill.nextNum + 1) m v (.ofWords e.ptroot e.asid e.keydef) []).acc none
    (v.toNat % 2 ^ 55) 64 = .ok b := hb
  unfold acceptValue
  rw [he]
  dsimp only [-Nat.reducePow]
  rw [hb']
  dsimp only [-Nat.reducePow]
  rw [hw, hc]
  rfl

end Sys2Proof.Machine
end

section
/-! PROOF. Launches are queued and accepted (R20, R21, R24, R27, R155, R211, R279, R283). -/

namespace Sys2Proof.Machine

open Sys2Proof.Spec

/-! ### LAUNCH writes (R283) -/

/-- A write that reaches the register is ignored, sets ovf, or joins the queue. -/
theorem exec_launchWrite_reaches {s : State} {m : Nat} (hm1 : 1 ≤ m) (hm3 : m ≤ 3) (hr : Reaches s m 8 true) (n : Nat)
    (v : Word) : exec (.launchWrite m n v) s = .next (
      if n ≠ 8 then s
      else if 8 ≤ (s.host.queue m).length then
        { s with host := { s.host with ovf := s.host.ovf.setIfInBounds (m - 1) true } }
      else { s with host := { s.host with
        queues := s.host.queues.setIfInBounds (m - 1) (s.host.queue m ++ [v]) } }) := by
  show execLaunchWrite m n v s = _
  unfold execLaunchWrite
  exact hostReach_reaches hm1 hm3 hr

/-! ### Acceptance (R21, R24, R27) -/

/-- An event of the mill keeps what it never changes of the launches, and of the host block all but the ports. -/
theorem millEvent_keeps (acts : List MillAct) (s : State) :
    (millEvent acts s).mill.launches.map Launch.fixed = s.mill.launches.map Launch.fixed ∧
      (millEvent acts s).mill.nextNum = s.mill.nextNum ∧
      (millEvent acts s).host =
        { s.host with msix := (millEvent acts s).host.msix, ports := (millEvent acts s).host.ports } := by
  obtain ⟨hl, hr⟩ := runEvent_millWork acts s
  unfold millEvent
  rw [settleMill_launches, settleMill_nextNum, settleMill_host]
  generalize runEvent acts s = t at hl hr ⊢
  exact ⟨hl, by rw [hr], congrArg State.host hr⟩

/-- An event without anything to do changes no byte, and nothing of the host block. -/
theorem millEvent_nil (s : State) : (millEvent [] s).mem = s.mem ∧ (millEvent [] s).host = s.host := by
  unfold millEvent runEvent
  rw [runActs_nil]
  simp

theorem fixed_nums {s t : State} (h : t.mill.launches.map Launch.fixed = s.mill.launches.map Launch.fixed) :
    t.mill.launches.map (·.num) = s.mill.launches.map (·.num) := by
  have hn (ls : List Launch) : ls.map (·.num) = (ls.map Launch.fixed).map (·.num) := by rw [List.map_map]; rfl
  rw [hn t.mill.launches, hn s.mill.launches, h]

theorem fixed_mem {s t : State} (h : t.mill.launches.map Launch.fixed = s.mill.launches.map Launch.fixed) {l : Launch}
    (hl : l ∈ s.mill.launches) : ∃ k ∈ t.mill.launches, k.fixed = l.fixed := by
  have : l.fixed ∈ t.mill.launches.map Launch.fixed := h ▸ List.mem_map_of_mem hl
  exact List.mem_map.1 this

/-- A value that names no usable space is rejected (R27, R283). -/
theorem exec_launchAccept_rejects {s : State} {m : Nat} {v : Word} (hm1 : 1 ≤ m) (hm3 : m ≤ 3)
    (hq : s.host.queue m = [v]) (ho : ∀ k, 1 ≤ k → k ≤ 3 → k ≠ m → s.host.queue k = []) (hu : ¬ Usable s.host v) :
    ∃ t, exec .launchAccept s = .next t ∧ t.host.queue m = [] ∧
      t.host.lbad.toList.getD (m - 1) 0 = v ∧ t.host.bad.toList.getD (m - 1) false = true ∧
      Vectored s.host t.host (if m = 3 then [] else [m]) 2 ∧ t.mem = s.mem ∧
      t.mill.launches.map (·.num) = s.mill.launches.map (·.num) := by
  have he := exec_launchAccept_of_single hm1 hm3 hq ho
  rw [acceptValue_of_unusable (s := s.emptied m) (spaceOf_of_unusable hu)] at he
  have hvec : Vectored s.host (reject m v (s.emptied m)).host (if m = 1 ∨ m = 2 then [m] else []) 2 :=
    Vectored.congr (g := (reject m v (s.emptied m)).host) (vectored_msixTo _ m 2) rfl rfl rfl rfl
  have hports : (if m = 1 ∨ m = 2 then [m] else []) = if m = 3 then [] else [m] := by
    obtain rfl | rfl | rfl : m = 1 ∨ m = 2 ∨ m = 3 := by omega
    all_goals rfl
  have hrej := reject_host m v (s.emptied m)
  obtain ⟨hmem, hhost⟩ := millEvent_nil (reject m v (s.emptied m))
  obtain ⟨hl, -, -⟩ := millEvent_keeps [] (reject m v (s.emptied m))
  generalize reject m v (s.emptied m) = u at he hvec hrej hmem hhost hl
  unfold PortsOnly at hrej
  refine ⟨_, he, ?_, ?_, ?_, ?_, hmem.trans (by rw [hrej]; rfl), (fixed_nums hl).trans (by rw [hrej]; rfl)⟩
  all_goals rw [hhost]
  · rw [hrej]
    exact (s.host.queue_set hm1 hm3 hm1 []).trans (if_pos rfl)
  · rw [hrej]
    exact getD_setIfInBounds_self _ (by omega) _ _
  · rw [hrej]
    exact getD_setIfInBounds_self _ (by omega) _ _
  · exact hports ▸ hvec

/-- A value whose block, word, roots and parameters pass is the next launch (R21, R24). -/
theorem exec_launchAccept_accepts {s : State} {m : Nat} {v : Word} {e : SpaceEntry} {b : List Byte} {l : Launch}
    (hm1 : 1 ≤ m) (hm3 : m ≤ 3) (hq : s.host.queue m = [v]) (ho : ∀ k, 1 ≤ k → k ≤ 3 → k ≠ m → s.host.queue k = [])
    (he : spaceOf s v = some e) (hl : l = launchOf (s.mill.nextNum + 1) m v (.ofWords e.ptroot e.asid e.keydef) b)
    (hb : readBlock (s.emptied m) l.acc none (v.toNat % 2 ^ 55) 64 = .ok b) (hw : wordWritable (s.emptied m) l = true)
    (hc : lowestCause (blockCauses (s.emptied m) l (v.toNat % 2 ^ 55) b) = none) :
    ∃ t, exec .launchAccept s = .next t ∧ t.host.accepted = true ∧ t.mill.nextNum = l.num ∧
      ∃ n ∈ t.mill.launches, n.num = l.num ∧ n.master = l.master ∧ n.value = l.value ∧ n.space = l.space ∧ n.word = l.word := by
  have hx := exec_launchAccept_of_single hm1 hm3 hq ho
  rw [acceptValue_of_accepted (s := s.emptied m) he hl hb hw hc] at hx
  dsimp only [-Nat.reducePow] at hx
  generalize hr : readLaunch (s.emptied m) l (v.toNat % 2 ^ 55) b = r at hx
  have hfix : r.1.num = l.num ∧ r.1.master = l.master ∧ r.1.value = l.value ∧ r.1.space = l.space ∧ r.1.word = l.word := by
    subst hr; exact ⟨rfl, rfl, rfl, rfl, rfl⟩
  have hclear := clearDirectory_memoryOnly (addLaunch r.2 r.1) r.1
  generalize clearDirectory (addLaunch r.2 r.1) r.1 = u at hx hclear
  obtain ⟨hls, hnum, hhost⟩ := millEvent_keeps (r.1.roots.map (.root l.num)) u
  refine ⟨_, hx, ?_, ?_, ?_⟩
  · rw [hhost, hclear.host]; rfl
  · rw [hnum, hclear.mill]; exact hfix.1
  · have hmem : r.1 ∈ u.mill.launches := by
      rw [hclear.mill]
      exact List.mem_append_right _ (List.mem_singleton.2 rfl)
    obtain ⟨k, hk, hkf⟩ := fixed_mem hls hmem
    obtain ⟨h1, h2, h3, h4, h5⟩ := hfix
    exact ⟨k, hk, (congrArg Launch.num hkf).trans h1, (congrArg Launch.master hkf).trans h2,
      (congrArg Launch.value hkf).trans h3, (congrArg Launch.space hkf).trans h4, (congrArg Launch.word hkf).trans h5⟩

end Sys2Proof.Machine

namespace Sys2Proof

open Sys2Proof.Machine Sys2Proof.Spec

/-- Settles O48: a write by what a host's access meets, and a value by whether it names a space that may be used. -/
theorem launchesAreQueuedAndAccepted : Obligations.LaunchesAreQueuedAndAccepted := by
  unfold Obligations.LaunchesAreQueuedAndAccepted
  intro s m v hm1 hm3 h
  refine ⟨fun hf hm n => ?held, fun hf ha n => ?refused, fun hr n hn => ?narrow, fun hr hq => ?joins, fun hr hq => ?full, fun hq ho => ?_⟩
  case held => exact (execLaunchWrite.eq_1 m n v s).trans (hostReach_held hm1 hm3 hf hm)
  case refused => exact (execLaunchWrite.eq_1 m n v s).trans (hostReach_refused hm1 hm3 hf ha)
  case narrow => rw [exec_launchWrite_reaches hm1 hm3 hr, if_pos hn]
  case full => rw [exec_launchWrite_reaches hm1 hm3 hr, if_neg (by decide), if_pos hq]
  case joins =>
    have he := exec_launchWrite_reaches hm1 hm3 hr 8 v
    rw [if_neg (by decide), if_neg (Nat.not_le.2 hq)] at he
    exact ⟨_, he, (h.queue_set hm1 hm3 hm1 _).trans (if_pos rfl),
      fun k hk hkm => (h.queue_set hm1 hm3 hk _).trans (if_neg hkm), rfl⟩
  intro e usable
  refine ⟨fun hu => exec_launchAccept_rejects hm1 hm3 hq ho hu, fun hu => ?_⟩
  intro u l b hb hw hc
  obtain ⟨t, he, hacc, hnum, n, hn, h1, h2, h3, h4, h5⟩ :=
    exec_launchAccept_accepts hm1 hm3 hq ho (spaceOf_of_usable hu) (b := b) rfl hb hw hc
  exact ⟨t, he, hacc, hnum, n, hn, h1, h2, h3, h4, h5⟩

end Sys2Proof
end

section
/-! SUPPORT. A dispatch pick (R34 to R36, R46): what its choice has looked at, and what the context is given. -/

namespace Sys2Proof.Machine

/-! ### What the mill knows (R46) -/

theorem seenString_none {k : Nat} {links : List LinkMsg} (h : ∀ p b, .string k p b ∉ links) : seenString k links = none := by
  unfold seenString
  rw [List.findSome?_eq_none_iff]
  intro m hm
  cases m with
  | string n p b =>
    have hn : n ≠ k := fun e => h p b (e ▸ hm)
    simp [hn]
  | core | tile | wait | vrel => rfl

theorem seenCore_none {k : Nat} {links : List LinkMsg} (h : ∀ a b p q, .core k a b p q ∉ links) : seenCore k links = none := by
  induction links with
  | nil => rfl
  | cons m ms ih =>
    have hms := ih fun a b p q hm => h a b p q (List.mem_cons_of_mem _ hm)
    cases m with
    | core n a b p q =>
      have hn : n ≠ k := fun e => h a b p q (e ▸ List.mem_cons_self)
      simp [seenCore, hn, hms]
    | tile | string | wait | vrel => exact hms

theorem takesTasks_of_seen {s : State} {k : Nat} (h : takesSeen s k = true) (hl : ∀ p b, .string k p b ∉ s.mill.links) :
    (s.strAt k).hold = false := by
  unfold takesSeen at h
  rw [seenString_none hl] at h
  simp only [Bool.and_eq_true, Str.takesTasks, Bool.not_eq_true'] at h
  exact h.2.2

theorem coreOf_siblingOf (c : Nat) : coreOf (siblingOf c) = coreOf c := by
  unfold coreOf siblingOf; split <;> omega

theorem siblingOf_ne (c : Nat) : c ≠ siblingOf c := by
  unfold siblingOf; split <;> omega

theorem freeSeen_of_no_links {s : State} {c : Nat} (h : ∀ a b p q, .core (coreOf c) a b p q ∉ s.mill.links) :
    freeSeen s c = s.freeLanes c := by
  unfold freeSeen State.freeLanes lanesSeen
  rw [coreOf_siblingOf, seenCore_none h]

theorem bandsSeen_of_no_links {s : State} {n : Nat} (h : ∀ b, .tile n b ∉ s.mill.links) : bandsSeen s n = freeBands s n := by
  unfold bandsSeen
  rw [List.findSome?_eq_none_iff.2]
  intro m hm
  cases m with
  | tile k b =>
    have hk : k ≠ n := fun e => h b (e ▸ hm)
    simp [hk]
  | core | string | wait | vrel => rfl

/-! ### The choice (R35) -/

theorem firstBy_mem {before : Nat → Nat → Bool} {cs : List Nat} {c : Nat} (h : firstBy before cs = some c) : c ∈ cs := by
  induction cs generalizing c with
  | nil => cases h
  | cons d ds ih =>
    unfold firstBy at h
    split at h
    · cases h; exact List.mem_cons_self
    · rename_i e he
      split at h
      · cases h; exact List.mem_cons_of_mem _ (ih he)
      · cases h; exact List.mem_cons_self

/- The scan is unfolded with the choice of one record's context opaque: evaluated, it runs over all contexts. -/

theorem chooseFrom_cons_some {s : State} {q : Launch × Rec} {qs : List (Launch × Rec)} {c : Nat}
    (h : chooseContext s q.1 q.2 = some c) : chooseFrom s (q :: qs) = some (q.1, q.2, c) := by
  revert h
  delta chooseFrom chooseFrom._f
  generalize chooseContext s = f
  intro h
  dsimp only
  rw [h]

theorem chooseFrom_cons_none {s : State} {q : Launch × Rec} {qs : List (Launch × Rec)}
    (h : chooseContext s q.1 q.2 = none) : chooseFrom s (q :: qs) = chooseFrom s qs := by
  revert h
  delta chooseFrom chooseFrom._f
  generalize chooseContext s = f
  intro h
  dsimp only
  rw [h]

theorem chooseFrom_some {s : State} {rs : List (Launch × Rec)} {l : Launch} {r : Rec} {c : Nat}
    (h : chooseFrom s rs = some (l, r, c)) : chooseContext s l r = some c := by
  induction rs with
  | nil => cases h
  | cons q qs ih =>
    generalize hv : chooseContext s q.1 q.2 = v
    cases v with
    | none => exact ih ((chooseFrom_cons_none hv).symm.trans h)
    | some d =>
      obtain ⟨rfl, rfl, rfl⟩ : q.1 = l ∧ q.2 = r ∧ d = c := by
        simpa using (chooseFrom_cons_some hv).symm.trans h
      exact hv

/-- The context chosen is one of the module, and eligible for the record. -/
theorem choose_eligible {s : State} {l : Launch} {r : Rec} {c : Nat} (h : choose s = some (l, r, c)) :
    c < 768 ∧ eligible s l r c = true := by
  unfold choose at h
  have hc := chooseFrom_some h
  unfold chooseContext at hc
  obtain ⟨hm, he⟩ := List.mem_filter.1 (firstBy_mem hc)
  unfold allContexts at hm
  exact ⟨List.mem_range.1 hm, he⟩

theorem free_of_inMillView {s : State} {c : Nat} (h : inMillView s c = false) :
    (s.ctxAt c).task = none ∧ (s.ctxAt c).sup = false := by
  unfold inMillView Context.busy at h
  simp only [Bool.or_eq_false_iff, Option.isSome_eq_false_iff, Option.isNone_iff_eq_none] at h
  exact h.1

theorem takesSeen_of_eligible {s : State} {l : Launch} {r : Rec} {c : Nat} (h : eligible s l r c = true) :
    takesSeen s (strOf c) = true := by
  unfold eligible at h
  simp only [Bool.and_eq_true] at h
  exact h.1.1.1.2

/-! ### What a context is given -/

theorem weightChange_strsOnly (s : State) (c w : Nat) : weightChange s c w = { s with strs := (weightChange s c w).strs } := by
  unfold weightChange; split <;> rfl

theorem weightChange_ctxAt (s : State) (c w d : Nat) : (weightChange s c w).ctxAt d = s.ctxAt d := by
  rw [weightChange_strsOnly]; rfl

theorem markDispatch_ctxAt (s : State) (c : Nat) : (markDispatch s c).ctxAt c = s.ctxAt c := by
  unfold markDispatch; dsimp only
  split
  · rw [State.ctxAt_setCtx, if_neg (siblingOf_ne c)]
  · rfl

theorem pick_of_dispatch {s : State} {l : Launch} {r : Rec} {c : Nat} (hr : restorable s = none) (hn : chooseNotice s = none)
    (hc : choose s = some (l, r, c)) : pick s = dispatch s l r c := by
  unfold pick
  rw [hr]
  dsimp only
  rw [hn]
  dsimp only
  rw [hc]

theorem dispatch_gives {s u : State} {l : Launch} {r : Rec} {c : Nat}
    (hw : writeBlock s l.acc none (r.addr.toNat + 0x50) (valBytes 8 (r.dispatched + 1)) = some u) :
    (dispatch s l r c).mem = u.mem ∧
      ((dispatch s l r c).ctxAt c).task =
        some { launch := l.num, rcd := r.addr, prio := r.prio, weight := classWeight s r.cls } ∧
      ((dispatch s l r c).ctxAt c).start = some
        { idx := walkAt r.ext r.order.toNat r.blocking r.dispatched, seq := r.dispatched, entry := r.entry
          param := r.param, space := l.space } := by
  have hcls : classWeight u r.cls = classWeight s r.cls := by
    unfold classWeight; rw [(writeBlock_memoryOnly hw).host]
  unfold dispatch
  rw [hw]
  dsimp only
  rw [weightChange_mem, markDispatch_mem, weightChange_ctxAt, markDispatch_ctxAt, hcls]
  show u.mem = u.mem ∧ ((u.setCtx c _).ctxAt c).task = _ ∧ ((u.setCtx c _).ctxAt c).start = _
  rw [State.ctxAt_setCtx_self]
  exact ⟨rfl, rfl, rfl⟩

end Sys2Proof.Machine
end

section
/-! SUPPORT. A task starts (R32, R206). -/

namespace Sys2Proof.Machine

/-! ### Grants change slots alone (R206) -/

/-- A context but for its receive slots. -/
def SlotsFrom (x y : Context) : Prop := y = { x with recv := y.recv }

theorem SlotsFrom.trans {x y z : Context} (h : SlotsFrom x y) (g : SlotsFrom y z) : SlotsFrom x z := by
  unfold SlotsFrom at *; rw [g, h]

theorem State.reply_ctxAt (s : State) (r : GrantReq) (ok : Bool) (c : Nat) : (s.reply r ok).ctxAt c = s.ctxAt c := by
  unfold State.reply; split <;> rfl

theorem serve_ctxAt (s : State) (r : GrantReq) (c : Nat) : SlotsFrom (s.ctxAt c) ((serve s r).2.ctxAt c) := by
  unfold serve; dsimp only
  split
  · rfl
  · rw [State.reply_ctxAt]; rfl
  · rw [State.reply_ctxAt, State.ctxAt_setCtx]
    split
    · rename_i h
      rw [h]; rfl
    · rfl

theorem serveAll_ctxAt (rs : List GrantReq) (s : State) (c : Nat) : SlotsFrom (s.ctxAt c) ((serveAll rs s).2.ctxAt c) := by
  induction rs generalizing s with
  | nil => rfl
  | cons r rs ih => exact (serve_ctxAt s r c).trans (ih (serve s r).2)

theorem serveWaiting_ctxAt (s : State) (c : Nat) : SlotsFrom (s.ctxAt c) ((serveWaiting s).ctxAt c) :=
  serveAll_ctxAt s.fab.waiting s c

/-! ### Start values (R32) -/

theorem Context.begin_reg (x : Context) (c : Nat) (h : HeldTask) (i : StartInfo) (r : BitVec 5) :
    (x.begin c h i).reg r =
      if 1 ≤ r.toNat ∧ r.toNat ≤ 4 then .ofNat 64 (i.idx.getD (r.toNat - 1) 0)
      else if r = 5 then i.param else if r = 6 then .ofNat 64 i.seq else if r = 7 then h.rcd else 0 := by
  have h0 : r = 0 ↔ r.toNat = 0 := BitVec.toNat_inj.symm
  have h5 : r = 5 ↔ r.toNat = 5 := BitVec.toNat_inj.symm
  have h6 : r = 6 ↔ r.toNat = 6 := BitVec.toNat_inj.symm
  have h7 : r = 7 ↔ r.toNat = 7 := BitVec.toNat_inj.symm
  show (if r = 0 then 0 else (startRegs i h.rcd)[r.toNat]'r.isLt) = _
  unfold startRegs
  rw [Vector.getElem_ofFn]
  simp only [h0, h5, h6, h7, Bool.and_eq_true, decide_eq_true_eq]
  split
  · rw [if_neg (by omega), if_neg (by omega), if_neg (by omega), if_neg (by omega)]
  · rfl

theorem startSeed_ofNat (n : Nat) :
    startSeed (.ofNat 64 n) = (let q := BitVec.ofNat 32 n ^^^ 0xACE12345; if q = 0 then 1 else q) := by
  unfold startSeed
  rw [BitVec.setWidth_ofNat_of_le (by decide)]

theorem exec_taskStart {s : State} {c : Nat} {h : HeldTask} {i : StartInfo} {l : Launch} (hc : c < 768)
    (ht : (s.ctxAt c).task = some h) (hs : (s.ctxAt c).start = some i) (he : (s.ctxAt c).ended = false)
    (hl : s.launch h.launch = some l) (hf : l.failed = none) (hr : l.tearing = false) :
    exec (.taskStart c) s = .next (serveWaiting (s.setCtx c ((s.ctxAt c).begin c h i))) := by
  have hin : ctxInRange c = true := by simpa [ctxInRange] using hc
  show execTaskStart c s = _
  unfold execTaskStart
  rw [hin, Bool.not_true, if_neg Bool.false_ne_true]
  dsimp only
  rw [ht, hs]
  dsimp only
  rw [hl]
  dsimp only
  exact if_pos (by simp [he, hf, hr])

end Sys2Proof.Machine
end

section
/-! PROOF. Tasks are dispatched and start (R30, R32, R34 to R36, R46). -/

namespace Sys2Proof.Machine

open Sys2Proof.Spec

theorem exec_dispatchPick {s u : State} {l : Launch} {r : Rec} {c : Nat} (hr : restorable s = none)
    (hn : chooseNotice s = none) (hc : choose s = some (l, r, c))
    (hw : writeBlock s l.acc none (r.addr.toNat + 0x50) (valBytes 8 (r.dispatched + 1)) = some u) :
    ∃ t, exec .dispatchPick s = .next t ∧ t.mem = u.mem ∧
      (t.ctxAt c).task = some { launch := l.num, rcd := r.addr, prio := r.prio, weight := classWeight s r.cls } ∧
      (t.ctxAt c).start = some
        { idx := walkAt r.ext r.order.toNat r.blocking r.dispatched, seq := r.dispatched, entry := r.entry
          param := r.param, space := l.space } := by
  have hp : pickable s = true := by simp [pickable, hc]
  have he : exec .dispatchPick s = .next (settleMill (dispatch s l r c)) := by
    show execDispatchPick s = _
    rw [execDispatchPick, if_pos hp, pick_of_dispatch hr hn hc]
  obtain ⟨hmem, htask, hstart⟩ := dispatch_gives (c := c) hw
  have hset : SettledFrom _ _ := settleMill_ctxAt (dispatch s l r c) c
  unfold SettledFrom at hset
  exact ⟨_, he, (settleMill_mem _).trans hmem, by rw [hset]; exact htask, by rw [hset]; exact hstart⟩

theorem tasksAreDispatchedAndStart : TasksAreDispatchedAndStart := by
  intro s
  refine ⟨fun l r c u hr hn hc hw => ?dispatched, fun c h i l hc ht hs he hl hf hrt => ?started⟩
  case dispatched =>
    obtain ⟨hlt, hel⟩ := choose_eligible hc
    obtain ⟨hview, hrdy, hlanes, hbands⟩ := eligible_free hel
    obtain ⟨htask, hsup⟩ := free_of_inMillView hview
    exact ⟨hlt, htask, hsup, hrdy, takesTasks_of_seen (takesSeen_of_eligible hel), hlanes,
      fun h => freeSeen_of_no_links h ▸ hlanes, hbands, fun h => bandsSeen_of_no_links h ▸ hbands,
      exec_dispatchPick hr hn hc hw⟩
  case started =>
    refine ⟨_, exec_taskStart hc ht hs he hl hf hrt, ?_⟩
    have hslots := serveWaiting_ctxAt (s.setCtx c ((s.ctxAt c).begin c h i)) c
    rw [State.ctxAt_setCtx_self] at hslots
    have hmem : (serveWaiting (s.setCtx c ((s.ctxAt c).begin c h i))).mem = s.mem := serveWaiting_mem _
    generalize serveWaiting (s.setCtx c ((s.ctxAt c).begin c h i)) = t at hslots hmem
    intro y
    have hy : y = { (s.ctxAt c).begin c h i with recv := y.recv } := hslots
    have hregs : y.regs = ((s.ctxAt c).begin c h i).regs := by rw [hy]
    refine ⟨fun r => ?_, ?_⟩
    · refine Eq.trans ?_ ((s.ctxAt c).begin_reg c h i r)
      unfold Context.reg
      rw [hregs]
    · rw [hy]
      exact ⟨rfl, rfl, rfl, rfl, rfl, rfl, rfl, rfl, rfl, rfl, rfl, rfl, rfl, rfl, rfl, rfl, rfl, rfl, startSeed_ofNat i.seq,
        rfl, rfl, rfl, rfl, rfl, rfl, rfl, rfl, hmem⟩

end Sys2Proof.Machine
end


section
/-! PROOF. A tracked record becomes ready (R26, R29, R30, R160, R424). -/

namespace Sys2Proof.Machine

open Sys2Proof.Spec

/-! ### The causes of a record (R25, R26) -/

/-- The lowest of some causes is one of them, and no other is lower. -/
theorem lowestCause_cons (c : Nat) (cs : List Nat) :
    ∃ d ∈ c :: cs, (∀ e ∈ c :: cs, d ≤ e) ∧ lowestCause (c :: cs) = some d := by
  refine ⟨cs.foldl min c, ?_, ?_, rfl⟩
  · induction cs generalizing c with
    | nil => exact List.mem_cons_self
    | cons d ds ih =>
      rw [List.foldl_cons]
      rcases List.mem_cons.1 (ih (min c d)) with h | h
      · rw [h]
        rcases Nat.le_total c d with hc | hd
        · rw [Nat.min_eq_left hc]; exact List.mem_cons_self
        · rw [Nat.min_eq_right hd]; exact List.mem_cons_of_mem _ List.mem_cons_self
      · exact List.mem_cons_of_mem _ (List.mem_cons_of_mem _ h)
  · induction cs generalizing c with
    | nil => intro e he; exact (List.mem_singleton.1 he).symm.le
    | cons d ds ih =>
      intro e he
      have hmin : ds.foldl min (min c d) ≤ min c d := ih (min c d) _ List.mem_cons_self
      rw [List.foldl_cons]
      rcases List.mem_cons.1 he with rfl | he
      · exact hmin.trans (Nat.min_le_left _ _)
      · rcases List.mem_cons.1 he with rfl | he
        · exact hmin.trans (Nat.min_le_right _ _)
        · exact ih (min c d) e (List.mem_cons_of_mem _ he)

/-- A launch fails in a mill cycle with the lower of a cause and of the one that it has, if any. -/
theorem failInCycle_eq (s : State) (n d : Nat) :
    s.failInCycle n d = s.mapLaunch n fun k =>
      if k.tearing = true then k else { k with failed := some (match k.failed with
        | none => d
        | some c => min c d) } := by
  unfold State.failInCycle
  congr 1
  funext k
  cases k.failed with
  | none => rfl
  | some c => rw [Option.map_some, Option.getD_some, Nat.min_comm]

/-! ### What becoming ready does -/

theorem makeReady_unread {s : State} {n : Nat} {va : Word} {l : Launch} {e : Nat × Nat} (hl : s.launch n = some l)
    (hb : readBlock s l.acc none va.toNat 128 = .error e) : makeReady s n va = s.failInCycle n 0x04 := by
  rw [makeReady, hl]
  dsimp only
  rw [hb]

theorem makeReady_refused {s : State} {n : Nat} {va : Word} {l : Launch} {b : List Byte} {d : Nat}
    (hl : s.launch n = some l) (hb : readBlock s l.acc none va.toNat 128 = .ok b)
    (hc : lowestCause (recordCauses s l va.toNat b) = some d) :
    makeReady s n va = (touchRecord s l va.toNat b).failInCycle n d := by
  rw [makeReady, hl]
  dsimp only
  rw [hb]
  dsimp only
  rw [hc]

/-- A record takes its fields, and the next place in readiness order is another. -/
def takeFields (s : State) (n : Nat) (va : Word) (l : Launch) (b : List Byte) : State :=
  let t := s.mapRec n va fun r => r.load l b s.mill.nextReady
  { t with mill := { t.mill with nextReady := t.mill.nextReady + 1 } }

/-- A record's counters are zeroed in memory. -/
def zeroCounters (s : State) (l : Launch) (va : Word) : State := writeField (writeField s l va 0x40 0) l va 0x50 0

theorem makeReady_taken {s : State} {n : Nat} {va : Word} {l : Launch} {b : List Byte}
    (hl : s.launch n = some l) (hb : readBlock s l.acc none va.toNat 128 = .ok b)
    (hc : recordCauses s l va.toNat b = []) :
    makeReady s n va =
      let t := takeFields (zeroCounters (touchRecord s l va.toNat b) l va) n va l b
      if bitOf (leAt b 0x29 1) 0 then t else t.mapLaunch n fun l => { l with replayable := false } := by
  rw [makeReady, hl]
  dsimp only
  rw [hb]
  dsimp only
  rw [hc]
  rfl

theorem writeField_mill (s : State) (l : Launch) (va : Word) (off v : Nat) :
    (writeField s l va off v).mill.recs = s.mill.recs ∧ (writeField s l va off v).mill.nextReady = s.mill.nextReady := by
  unfold writeField
  split
  · rename_i e
    rw [(writeBlock_memoryOnly e).mill]
    exact ⟨rfl, rfl⟩
  · exact ⟨rfl, rfl⟩

theorem writeField_some {s t : State} {l : Launch} {va : Word} {off v : Nat}
    (h : writeBlock s l.acc none (va.toNat + off) (valBytes 8 v) = some t) : writeField s l va off v = t := by
  rw [writeField, h]

theorem zeroCounters_mill (s : State) (l : Launch) (va : Word) :
    (zeroCounters s l va).mill.recs = s.mill.recs ∧ (zeroCounters s l va).mill.nextReady = s.mill.nextReady := by
  obtain ⟨hr, hn⟩ := writeField_mill s l va 0x40 0
  obtain ⟨gr, gn⟩ := writeField_mill (writeField s l va 0x40 0) l va 0x50 0
  exact ⟨gr.trans hr, gn.trans hn⟩

theorem valBytes_zero (n : Nat) : valBytes n 0 = zeros n := by
  induction n with
  | zero => rfl
  | succ n ih => rw [valBytes, Nat.zero_div, ih]; rfl

theorem zeroCounters_some {u v w : State} {l : Launch} {va : Word}
    (hv : writeBlock u l.acc none (va.toNat + 0x40) (zeros 8) = some v)
    (hw : writeBlock v l.acc none (va.toNat + 0x50) (zeros 8) = some w) : zeroCounters u l va = w := by
  rw [← valBytes_zero] at hv hw
  rw [zeroCounters, writeField_some hv, writeField_some hw]

theorem takeFields_rcd (s : State) (n : Nat) (va : Word) (l : Launch) (b : List Byte) :
    (takeFields s n va l b).rcd n va = (s.rcd n va).map fun r => r.load l b s.mill.nextReady :=
  s.rcd_mapRec n va fun _ => ⟨rfl, rfl⟩

/-- The record's flag bit 0 alone keeps its launch replayable. -/
theorem unreplayable_launch {s : State} {n : Nat} {k : Launch}
    (h : (s.mapLaunch n fun l => { l with replayable := false }).launch n = some k) : k.replayable = false := by
  rw [State.launch_mapLaunch s n (f := fun l => { l with replayable := false }) fun _ => rfl] at h
  obtain ⟨l, _, rfl⟩ := Option.map_eq_some_iff.1 h
  rfl

theorem recordsBecomeReady : RecordsBecomeReady := by
  intro s n va l hl
  refine ⟨fun e he => ?unread, fun b hb => ⟨fun c cs hc => ?refused, fun hc => ?taken⟩⟩
  case unread => exact (makeReady_unread hl he).trans (failInCycle_eq s n 0x04)
  case refused =>
    obtain ⟨d, hd, hmin, hlow⟩ := lowestCause_cons c cs
    exact ⟨d, hd, hmin, (makeReady_refused hl hb (hc ▸ hlow)).trans (failInCycle_eq _ n d)⟩
  case taken =>
    have hu : (touchRecord s l va.toNat b).mill = s.mill := (touchRecord_memoryOnly s l va.toNat b).mill
    obtain ⟨hrecs, hnext⟩ := zeroCounters_mill (touchRecord s l va.toNat b) l va
    rw [hu] at hrecs hnext
    have ht := makeReady_taken hl hb hc
    have hrcd : (takeFields (zeroCounters (touchRecord s l va.toNat b) l va) n va l b).rcd n va =
        (s.rcd n va).map fun r => r.load l b s.mill.nextReady := by
      rw [takeFields_rcd, hnext]
      unfold State.rcd
      rw [hrecs]
    have hmem (v w : State) (hv : writeBlock (touchRecord s l va.toNat b) l.acc none (va.toNat + 0x40) (zeros 8) = some v)
        (hw : writeBlock v l.acc none (va.toNat + 0x50) (zeros 8) = some w) :
        (takeFields (zeroCounters (touchRecord s l va.toNat b) l va) n va l b).mem = w.mem := by
      rw [zeroCounters_some hv hw]; rfl
    have hno : (takeFields (zeroCounters (touchRecord s l va.toNat b) l va) n va l b).mill.nextReady =
        s.mill.nextReady + 1 := congrArg (· + 1) hnext
    generalize takeFields (zeroCounters (touchRecord s l va.toNat b) l va) n va l b = t at ht hrcd hmem hno
    rw [ht]
    dsimp only
    split
    · rename_i hbit
      exact ⟨hmem, hno, fun _ _ _ => by simpa [bitOf, leAt] using hbit, fun q hq => by rw [hrcd, hq]; rfl⟩
    · refine ⟨hmem, hno, fun k hk hrep => ?_, fun q hq => ?_⟩
      · exact absurd hrep (by simp [unreplayable_launch hk])
      · exact hrcd.trans (by rw [hq]; rfl)

end Sys2Proof.Machine
end


section
/-! SUPPORT. Accesses of the mill beside contexts, strings and its own state, and the retirement of a task at its record
(R36, R38). -/

namespace Sys2Proof.Machine

open Sys2Proof.Spec

/-! ### Accesses beside contexts, strings and the mill -/

/-- A state with other contexts, strings and mill. -/
def State.beside (s : State) (cs : Tab Context) (xs : Tab Str) (m : Mill) : State :=
  { s with ctxs := cs, strs := xs, mill := m }

theorem resolveUnder_beside (s : State) (cs : Tab Context) (xs : Tab Str) (m : Mill) (key : Option Nat) (a : Acc)
    (k : AccKind) (va : Nat) : resolveUnder key (s.beside cs xs m) a k va = resolveUnder key s a k va := rfl

theorem resolveBlock_beside (s : State) (cs : Tab Context) (xs : Tab Str) (m : Mill) (a : Acc) (k : AccKind)
    (key : Option Nat) (ps : List (Nat × List Byte)) :
    resolveBlock (s.beside cs xs m) a k key ps = resolveBlock s a k key ps := by
  induction ps with
  | nil => rfl
  | cons p ps ih => rw [resolveBlock, resolveBlock, ih, resolveUnder_beside]

theorem touch_beside (s : State) (cs : Tab Context) (xs : Tab Str) (m : Mill) (a : Acc) (k : AccKind) (p : Place) :
    touch (s.beside cs xs m) a k p = (touch s a k p).beside cs xs m := by
  unfold touch
  split <;> rfl

theorem foldl_beside {α : Type} {f : State → α → State} {cs : Tab Context} {xs : Tab Str} {m : Mill}
    (hf : ∀ s e, f (s.beside cs xs m) e = (f s e).beside cs xs m) (l : List α) (s : State) :
    l.foldl f (s.beside cs xs m) = (l.foldl f s).beside cs xs m := by
  induction l generalizing s with
  | nil => rfl
  | cons e l ih => rw [List.foldl_cons, List.foldl_cons, hf, ih]

theorem writeBlock_beside (s : State) (cs : Tab Context) (xs : Tab Str) (m : Mill) (a : Acc) (key : Option Nat) (va : Nat)
    (bs : List Byte) : writeBlock (s.beside cs xs m) a key va bs = (writeBlock s a key va bs).map (·.beside cs xs m) := by
  unfold writeBlock
  rw [resolveBlock_beside]
  split
  · rfl
  · exact congrArg some (foldl_beside (fun t e => by rw [touch_beside]; rfl) _ s)

/-- Nothing differs but contexts, strings and the mill. -/
def Beside (s t : State) : Prop := t = s.beside t.ctxs t.strs t.mill

theorem Beside.trans {s t u : State} (h : Beside s t) (g : Beside t u) : Beside s u := by
  unfold Beside at *; rw [g, h]; rfl

/-- A write of the mill leaves the same memory then. -/
theorem Beside.writeBlock {s t u : State} (h : Beside s t) {a : Acc} {key : Option Nat} {va : Nat} {bs : List Byte}
    (hw : writeBlock s a key va bs = some u) : ∃ v, Machine.writeBlock t a key va bs = some v ∧ v.mem = u.mem := by
  refine ⟨u.beside t.ctxs t.strs t.mill, ?_, rfl⟩
  rw [h, writeBlock_beside, hw]
  rfl

/-! ### A retirement that reaches the mill -/

theorem firstEnd_mem {es : List EndMsg} {e : EndMsg} (h : firstEnd es = some e) : e ∈ es := by
  induction es generalizing e with
  | nil => cases h
  | cons d ds ih =>
    rw [firstEnd] at h
    cases hf : firstEnd ds with
    | none =>
      rw [hf] at h
      exact List.mem_cons.2 (.inl (Option.some.inj h).symm)
    | some f =>
      rw [hf] at h
      dsimp only at h
      split at h
      · exact List.mem_cons_of_mem _ (ih (hf.trans h))
      · exact List.mem_cons.2 (.inl (Option.some.inj h).symm)

/-- The lowest context's retirement comes first. -/
theorem firstEnd_of_lowest {es : List EndMsg} {e : EndMsg} (he : e ∈ es) (h : ∀ f ∈ es, f ≠ e → e.ctx < f.ctx) :
    firstEnd es = some e := by
  induction es with
  | nil => cases he
  | cons d ds ih =>
    have hds (hd : e ∈ ds) : firstEnd ds = some e := ih hd fun f hf => h f (List.mem_cons_of_mem _ hf)
    rw [firstEnd]
    by_cases hd : e ∈ ds
    · rw [hds hd]
      dsimp only
      split
      · rfl
      · rename_i hlt
        by_cases hde : d = e
        · rw [hde]
        · exact absurd (h d List.mem_cons_self hde) hlt
    · obtain rfl : e = d := (List.mem_cons.1 he).resolve_right hd
      cases hf : firstEnd ds with
      | none => rfl
      | some f =>
        have hmem : f ∈ ds := firstEnd_mem hf
        have hne : f ≠ e := fun h => hd (h ▸ hmem)
        exact if_neg (Nat.not_lt.2 (h f (List.mem_cons_of_mem _ hmem) hne).le)

theorem restoreCap_beside (s : State) (c : Nat) : Beside s (restoreCap s c) ∧ (restoreCap s c).mill = s.mill := by
  unfold restoreCap; dsimp only
  split <;> exact ⟨rfl, rfl⟩

theorem weightChange_beside (s : State) (c w : Nat) : Beside s (weightChange s c w) ∧ (weightChange s c w).mill = s.mill := by
  unfold weightChange
  split <;> exact ⟨rfl, rfl⟩

theorem capsAfter_beside (s : State) (c : Nat) : Beside s (capsAfter s c) ∧ (capsAfter s c).mill = s.mill := by
  have h := restoreCap_beside s c
  unfold capsAfter; dsimp only
  generalize restoreCap s c = t at h ⊢
  split
  · split
    · exact ⟨h.1.trans rfl, h.2⟩
    · exact h
  · exact h

/-- The machine where a retirement is about to be counted: it has left the crossing, and its weight and the caps that its task
held are given back. -/
def taken (s : State) (e : EndMsg) : State :=
  capsAfter (weightChange { s with mill := { s.mill with ends := s.mill.ends.erase e } } e.ctx e.task.weight) e.ctx

theorem taken_beside (s : State) (e : EndMsg) :
    Beside s (taken s e) ∧ (taken s e).mill = { s.mill with ends := s.mill.ends.erase e } := by
  obtain ⟨hw, mw⟩ := weightChange_beside { s with mill := { s.mill with ends := s.mill.ends.erase e } } e.ctx e.task.weight
  obtain ⟨hc, mc⟩ := capsAfter_beside (weightChange { s with mill := { s.mill with ends := s.mill.ends.erase e } }
    e.ctx e.task.weight) e.ctx
  have h0 : Beside s { s with mill := { s.mill with ends := s.mill.ends.erase e } } := rfl
  exact ⟨(h0.trans hw).trans hc, mc.trans mw⟩

theorem exec_tendRetirement {s : State} {e : EndMsg} (he : e ∈ s.mill.ends)
    (h : ∀ f ∈ s.mill.ends, f ≠ e → e.ctx < f.ctx) :
    exec .tendRetirement s = .next (settleMill (retireIteration (taken s e) e.task)) := by
  show execTendRetirement s = _
  rw [execTendRetirement, firstEnd_of_lowest he h]
  rfl

/-! ### The count at the record (R26, R30) -/

/-- A record's count of retired tasks goes up by 1, in memory too. -/
def countRetired (s : State) (l : Launch) (r : Rec) : State :=
  (writeField s l r.addr 0x40 (r.retired + 1)).mapRec l.num r.addr fun r => { r with retired := r.retired + 1 }

theorem countRetired_rcd (s : State) (l : Launch) (r : Rec) :
    (countRetired s l r).rcd l.num r.addr = (s.rcd l.num r.addr).map fun r => { r with retired := r.retired + 1 } := by
  have hrecs : (writeField s l r.addr 0x40 (r.retired + 1)).mill.recs = s.mill.recs := (writeField_mill ..).1
  refine (State.rcd_mapRec _ l.num r.addr (f := fun r => { r with retired := r.retired + 1 }) fun _ => ⟨rfl, rfl⟩).trans ?_
  unfold State.rcd
  rw [hrecs]

theorem countRetired_millWork (s : State) (l : Launch) (r : Rec) : MillWork s (countRetired s l r) :=
  (writeField_millWork s l r.addr 0x40 (r.retired + 1)).trans (setRecs_millWork _ _)

theorem writeField_host (s : State) (l : Launch) (va : Word) (off v : Nat) : (writeField s l va off v).host = s.host := by
  unfold writeField
  split
  · rename_i e
    exact (writeBlock_memoryOnly e).host
  · rfl

theorem countRetired_host (s : State) (l : Launch) (r : Rec) : (countRetired s l r).host = s.host := writeField_host ..

theorem countRetired_mem {s u : State} {l : Launch} {r : Rec}
    (h : writeBlock s l.acc none (r.addr.toNat + 0x40) (valBytes 8 (r.retired + 1)) = some u) :
    (countRetired s l r).mem = u.mem := by
  show (writeField s l r.addr 0x40 (r.retired + 1)).mem = _
  rw [writeField_some h]

theorem retireIteration_eq {s : State} {h : HeldTask} {l : Launch} {r : Rec} (hl : s.launch h.launch = some l)
    (hr : s.rcd h.launch h.rcd = some r) : retireIteration s h =
      keepCauses s (if r.retired + 1 = r.total then runActs millFuel [.complete l.num r.addr] (countRetired s l r)
        else countRetired s l r) := by
  rw [retireIteration, hl, hr]
  rfl

theorem retireIteration_millWork (s : State) (h : HeldTask) : MillWork s (retireIteration s h) := by
  unfold retireIteration
  split
  · rename_i l r _ _
    refine MillWork.trans ?_ (keepCauses_millWork s _)
    have hc : MillWork s (countRetired s l r) := countRetired_millWork s l r
    split
    · exact hc.trans (runActs_millWork _ _ _)
    · exact hc
  · exact .refl s

/-! ### The last retirement completes the record (R30, R38) -/

theorem rcd_filtered (s : State) (n : Nat) (va : Word) :
    ({ s with mill := { s.mill with recs := s.mill.recs.filter fun k => !(k.launch == n && k.addr == va) } } : State).rcd n va
      = none := by
  refine List.find?_eq_none.2 fun k hk => ?_
  exact Bool.eq_false_iff.1 (Bool.not_eq_true' _ ▸ (List.mem_filter.1 hk).2)

/-- A record without successors completes: it is tracked no more, and its message is all that follows. -/
theorem actComplete_alone {s : State} {l : Launch} {va : Word} {r : Rec} (hr : s.rcd l.num va = some r)
    (hs : r.succCount = 0) : actComplete s l va = (if r.flags.getLsbD 1 then [.notify l.num] else [],
      { s with mill := { s.mill with recs := s.mill.recs.filter fun k => !(k.launch == l.num && k.addr == va) } }) := by
  unfold actComplete
  rw [hr]
  exact if_pos hs

theorem millAct_complete {s : State} {n : Nat} {va : Word} {l : Launch} (hl : s.launch n = some l) :
    millAct (.complete n va) s = actComplete s l va := by
  unfold millAct MillAct.launch
  dsimp only
  rw [hl]

theorem millAct_notify {s : State} {n : Nat} {l : Launch} (hl : s.launch n = some l) :
    millAct (.notify n) s = ([], s.msixTo l.master 1) := by
  unfold millAct MillAct.launch
  dsimp only
  rw [hl]

/-- The completion of a record without successors, with its message. -/
theorem runActs_complete {s : State} {n : Nat} {va : Word} {l : Launch} {r : Rec} (hl : s.launch n = some l)
    (hr : s.rcd n va = some r) (hs : r.succCount = 0) :
    (runActs millFuel [.complete n va] s).rcd n va = none ∧
      Vectored s.host (runActs millFuel [.complete n va] s).host
        (if r.flags.getLsbD 1 = true ∧ (l.master = 1 ∨ l.master = 2) then [l.master] else []) 1 := by
  obtain rfl := State.launch_num hl
  have hone := (millAct_complete (va := va) hl).trans (actComplete_alone hr hs)
  by_cases hf : r.flags.getLsbD 1 = true
  · rw [if_pos hf] at hone
    have htwo := millAct_notify (s := (millAct (.complete l.num va) s).2) (n := l.num) (l := l) (by rw [hone]; exact hl)
    rw [runActs_pair two_le_millFuel (by rw [hone]) (by rw [htwo]), htwo, hone]
    refine ⟨?_, ?_⟩
    · have hmill := msixTo_portsOnly
        { s with mill := { s.mill with recs := s.mill.recs.filter fun k => !(k.launch == l.num && k.addr == va) } } l.master 1
      show State.rcd (State.msixTo _ l.master 1) l.num va = none
      rw [hmill]
      exact rcd_filtered s l.num va
    · have hv := vectored_msixTo
        { s with mill := { s.mill with recs := s.mill.recs.filter fun k => !(k.launch == l.num && k.addr == va) } } l.master 1
      simp only [hf, true_and]
      exact hv
  · rw [if_neg hf] at hone
    rw [runActs_single (two_le_millFuel.trans' (by decide)) (by rw [hone]), hone, if_neg fun h => hf h.1]
    exact ⟨rcd_filtered s l.num va, vectored_nil rfl rfl 1⟩

end Sys2Proof.Machine
end


section
/-! PROOF. The mill takes retirements (R36, R38). -/

namespace Sys2Proof.Machine

open Sys2Proof.Spec

theorem MillWork.ends {s t : State} (h : MillWork s t) : t.mill.ends = s.mill.ends := by rw [h.rest]
theorem MillWork.saved {s t : State} (h : MillWork s t) : t.mill.saved = s.mill.saved := by rw [h.rest]
theorem MillWork.ctxAt {s t : State} (h : MillWork s t) (c : Nat) : t.ctxAt c = s.ctxAt c := by rw [h.rest]; rfl

/-- A launch is found again after the mill's work. -/
theorem MillWork.launch {s t : State} (h : MillWork s t) {n : Nat} {l : Launch} (hl : s.launch n = some l) :
    ∃ k, t.launch n = some k ∧ k.fixed = l.fixed := by
  have e := launch_fixed h.launches n
  rw [hl] at e
  exact Option.map_eq_some_iff.1 e

theorem taken_launch (s : State) (e : EndMsg) (n : Nat) : (taken s e).launch n = s.launch n := by
  unfold State.launch; rw [(taken_beside s e).2]

theorem taken_rcd (s : State) (e : EndMsg) (n : Nat) (va : Word) : (taken s e).rcd n va = s.rcd n va := by
  unfold State.rcd; rw [(taken_beside s e).2]

theorem taken_host (s : State) (e : EndMsg) : (taken s e).host = s.host := by
  rw [(taken_beside s e).1]; rfl

/-- The retirement of a task counts at its record, in memory too. -/
theorem retirement_counts {s : State} {e : EndMsg} {l : Launch} {r : Rec} (hl : s.launch e.task.launch = some l)
    (hr : s.rcd e.task.launch e.task.rcd = some r) (hlast : r.retired + 1 ≠ r.total) :
    let t := settleMill (retireIteration (taken s e) e.task)
    (t.rcd e.task.launch e.task.rcd).map (·.retired) = some (r.retired + 1) ∧
      ∀ u, writeBlock s l.acc none (r.addr.toNat + 0x40) (valBytes 8 (r.retired + 1)) = some u → t.mem = u.mem := by
  have hn := State.launch_num hl
  have hva := (State.rcd_is hr).2
  have he := retireIteration_eq ((taken_launch s e _).trans hl) ((taken_rcd s e _ _).trans hr)
  rw [if_neg hlast] at he
  have hrcd := countRetired_rcd (taken s e) l r
  rw [taken_rcd, hn, hva, hr] at hrcd
  dsimp only
  rw [he]
  refine ⟨?_, fun u hu => ?_⟩
  · rw [settleMill_rcd, keepCauses_rcd, hrcd]
    rfl
  · obtain ⟨v, hv, hmem⟩ := (taken_beside s e).1.writeBlock hu
    rw [settleMill_mem, keepCauses_mem, countRetired_mem hv, hmem]

/-- The last one completes its record. -/
theorem retirement_completes {s : State} {e : EndMsg} {l : Launch} {r : Rec} (hl : s.launch e.task.launch = some l)
    (hr : s.rcd e.task.launch e.task.rcd = some r) (hlast : r.retired + 1 = r.total) (hsucc : r.succCount = 0) :
    let t := settleMill (retireIteration (taken s e) e.task)
    t.rcd e.task.launch e.task.rcd = none ∧ Vectored s.host t.host
      (if r.flags.getLsbD 1 = true ∧ (l.master = 1 ∨ l.master = 2) then [l.master] else []) 1 := by
  have hn := State.launch_num hl
  have hva := (State.rcd_is hr).2
  have he := retireIteration_eq ((taken_launch s e _).trans hl) ((taken_rcd s e _ _).trans hr)
  rw [if_pos hlast] at he
  have hrcd := countRetired_rcd (taken s e) l r
  rw [taken_rcd, hn, hva, hr] at hrcd
  obtain ⟨k, hk, hfix⟩ := (countRetired_millWork (taken s e) l r).launch ((taken_launch s e _).trans hl)
  have hm : k.master = l.master := show k.fixed.master = l.fixed.master by rw [hfix]
  obtain ⟨hnone, hvec⟩ := runActs_complete hk hrcd hsucc
  rw [countRetired_host, taken_host, hm] at hvec
  dsimp only
  rw [he, hn, hva]
  exact ⟨by rw [settleMill_rcd, keepCauses_rcd, hnone], by rw [settleMill_host, keepCauses_host]; exact hvec⟩

end Sys2Proof.Machine
end

section
/-! SUPPORT. Requests of GSPAWN and GSIG at the mill (R40). -/

namespace Sys2Proof.Machine

open Sys2Proof.Spec

/-! ### A request is accepted -/

/-- The machine where a context's waiting word has just retired. -/
def State.released (s : State) (c : Nat) : State := s.setCtx c (s.ctxAt c).retire

theorem released_of_retiresIn {s u : State} {c : Nat} (h : RetiresIn s u c) : u = s.released c := by
  obtain ⟨hset, ⟨hpc, -, -, hnotice⟩, hcx⟩ := h
  have hx : u.ctxAt c = (s.ctxAt c).retire := by
    rw [Context.retire_eq, (s.ctxAt c).retire_notice, (s.ctxAt c).retire_pc, ← hnotice, ← hpc]
    exact hcx
  rw [hx] at hset
  exact hset

/-- An event of the mill leaves a context but for its notice and its cap. -/
theorem millEvent_ctxAt (acts : List MillAct) (s : State) (c : Nat) : SettledFrom (s.ctxAt c) ((millEvent acts s).ctxAt c) := by
  have h := settleMill_ctxAt (runEvent acts s) c
  rw [(runEvent_millWork acts s).ctxAt c] at h
  exact h

/-- The instruction of a request that the mill accepts retires. -/
theorem acceptRequest_retires (c : Nat) (act : Nat → Word → MillAct) (va : Word) (s : State) :
    let y := (acceptRequest c act va s).ctxAt c
    y.pc = (s.ctxAt c).nextPc ∧ y.wait = none ∧ y.cvy = none ∧ y.regs = (s.ctxAt c).regs := by
  have h := millEvent_ctxAt [act (s.ctxAt c).launchNo va] (s.released c) c
  unfold SettledFrom at h
  dsimp only
  show Context.pc ((millEvent [act (s.ctxAt c).launchNo va] (s.released c)).ctxAt c) = _ ∧
    Context.wait ((millEvent [act (s.ctxAt c).launchNo va] (s.released c)).ctxAt c) = _ ∧
    Context.cvy ((millEvent [act (s.ctxAt c).launchNo va] (s.released c)).ctxAt c) = _ ∧
    Context.regs ((millEvent [act (s.ctxAt c).launchNo va] (s.released c)).ctxAt c) = _
  rw [h]
  have hx : (s.released c).ctxAt c = (s.ctxAt c).retire := State.ctxAt_setCtx_self ..
  rw [hx, Context.retire_eq]
  exact ⟨(s.ctxAt c).retire_pc, rfl, rfl, rfl⟩

@[simp] theorem millEvent_recs (acts : List MillAct) (s : State) :
    (millEvent acts s).mill.recs = (runActs millFuel acts s).mill.recs := by
  rw [millEvent, settleMill_recs, runEvent, keepCauses_recs]

@[simp] theorem millEvent_mem (acts : List MillAct) (s : State) :
    (millEvent acts s).mem = (runActs millFuel acts s).mem := by
  rw [millEvent, settleMill_mem, runEvent, keepCauses_mem]

/-! ### A record readied by an action -/

/-- What follows a record's becoming ready: its completion, where it has no iteration. -/
theorem millAct_ready {s : State} {n : Nat} {va : Word}
    (h : ∀ q, (makeReady s n va).rcd n va = some q → q.wasReady = true → q.total ≠ 0) :
    millAct (.ready n va) s = ([], makeReady s n va) := by
  unfold millAct MillAct.launch
  cases hl : s.launch n with
  | none => dsimp only; rw [makeReady, hl]
  | some l =>
    dsimp only
    generalize makeReady s n va = t at h
    cases hq : t.rcd n va with
    | none => rfl
    | some q =>
      refine congrArg (·, t) (if_neg fun hw => ?_)
      obtain ⟨hr, h0⟩ := Bool.and_eq_true_iff.1 hw
      exact h q hq hr (of_decide_eq_true h0)

/-- An action that readies a record does it as makeReady has it. -/
theorem becomesReady_of_act {a : MillAct} {s v : State} {n : Nat} {va : Word} (h : millAct a s = ([.ready n va], v)) :
    BecomesReady v (millEvent [a] s) n va := by
  intro hq
  have hb := millAct_ready hq
  have hrun : runActs millFuel [a] s = makeReady v n va := by
    rw [runActs_pair two_le_millFuel (congrArg Prod.fst h) (by rw [h]; exact congrArg Prod.fst hb), h]
    exact congrArg Prod.snd hb
  exact ⟨by rw [millEvent_recs, hrun], by rw [millEvent_mem, hrun]⟩

/-- An action that nothing follows. -/
theorem runActs_of_act {a : MillAct} {s v : State} (h : millAct a s = ([], v)) : runActs millFuel [a] s = v := by
  rw [runActs_single (two_le_millFuel.trans' (by decide)) (congrArg Prod.fst h), h]

/-! ### GSPAWN -/

theorem millAct_spawn {s : State} {n : Nat} {va : Word} {l : Launch} (hl : s.launch n = some l) :
    millAct (.spawn n va) s = actSpawn s l va := by
  unfold millAct MillAct.launch
  dsimp only
  rw [hl]

theorem actSpawn_tracks {s : State} {l : Launch} {va : Word} {loc : Nat} {b : List Byte} (hp : recPlace s l va = some loc)
    (ht : trackedAt s loc = none) (hb : readBlock s l.acc none (va.toNat + 0x30) 4 = .ok b) :
    actSpawn s l va = (if bytesVal b = 0 then [.ready l.num va] else [],
      track (touchBlock s l.acc .load none (va.toNat + 0x30) 4) l.num va) := by
  rw [actSpawn, hp]
  dsimp only
  rw [ht, hb]
  rfl

/-- What a GSPAWN that the mill takes does. -/
theorem spawn_tracks {s : State} {c : Nat} {va : Word} {l : Launch} {loc : Nat} {b : List Byte}
    (hl : (s.released c).launch (s.ctxAt c).launchNo = some l) (hp : recPlace (s.released c) l va = some loc)
    (ht : trackedAt (s.released c) loc = none)
    (hb : readBlock (s.released c) l.acc none (va.toNat + 0x30) 4 = .ok b) :
    let t := acceptRequest c .spawn va s
    let v := track (touchBlock (s.released c) l.acc .load none (va.toNat + 0x30) 4) l.num va
    (bytesVal b ≠ 0 → t.mill.recs = s.mill.recs ++ [Rec.fresh l.num va] ∧ t.mem = v.mem) ∧
      (bytesVal b = 0 → BecomesReady v t l.num va) := by
  have he : acceptRequest c .spawn va s = millEvent [.spawn (s.ctxAt c).launchNo va] (s.released c) := rfl
  have hact := (millAct_spawn (va := va) hl).trans (actSpawn_tracks hp ht hb)
  dsimp only
  rw [he]
  refine ⟨fun h0 => ?_, fun h0 => ?_⟩
  · rw [if_neg h0] at hact
    rw [millEvent_recs, millEvent_mem, runActs_of_act hact]
    refine ⟨?_, rfl⟩
    show (touchBlock (s.released c) l.acc .load none (va.toNat + 0x30) 4).mill.recs ++ _ = _
    rw [(touchBlock_memoryOnly ..).mill]
    rfl
  · rw [if_pos h0] at hact
    exact becomesReady_of_act hact

end Sys2Proof.Machine
end


section
/-! SUPPORT. GSIG at the mill: the decrement of a count at its home (R38, R40). -/

namespace Sys2Proof.Machine

open Sys2Proof.Spec

/-! ### Little-endian numbers (R3) -/

theorem bytesVal_lt (bs : List Byte) : bytesVal bs < 256 ^ bs.length := by
  induction bs with
  | nil => exact Nat.one_pos
  | cons b bs ih =>
    have hb : b.toNat < 256 := b.isLt
    rw [bytesVal, List.length_cons, pow_succ]
    omega

theorem memReadN_length (m : List Host.Cell) (a n : Nat) : (memReadN m a n).length = n := by
  induction n generalizing a with
  | zero => rfl
  | succ n ih => rw [memReadN, List.length_cons, ih]

theorem valBytes_length (n v : Nat) : (valBytes n v).length = n := by
  induction n generalizing v with
  | zero => rfl
  | succ n ih => rw [valBytes, List.length_cons, ih]

theorem valBytes_getElem (n v i : Nat) (h : i < (valBytes n v).length) :
    (valBytes n v)[i] = BitVec.ofNat 8 (v / 256 ^ i) := by
  induction n generalizing v i with
  | zero => exact absurd h (Nat.not_lt_zero i)
  | succ n ih =>
    cases i with
    | zero => simp [valBytes]
    | succ i =>
      have hi : i < (valBytes n (v / 256)).length := by simpa [valBytes] using h
      simp only [valBytes, List.getElem_cons_succ]
      rw [ih _ _ hi, Nat.div_div_eq_div_mul, ← pow_succ']

theorem littleEndian_succ (m : List Host.Cell) (loc n : Nat) :
    littleEndian m loc (n + 1) = (memRead m loc).toNat + 256 * littleEndian m (loc + 1) n := rfl

/-- Written bytes are read back as the number that they are. -/
theorem littleEndian_memWriteN {m : List Host.Cell} (h : Memory.wf m = true) (loc n v : Nat) (hv : v < 256 ^ n) :
    littleEndian (memWriteN m loc (valBytes n v)) loc n = v := by
  have hread : ∀ i < n, memRead (memWriteN m loc (valBytes n v)) (loc + i) = BitVec.ofNat 8 (v / 256 ^ i) := by
    intro i hi
    have hlen : i < (valBytes n v).length := by rwa [valBytes_length]
    rw [memRead_memWriteN_of_inside h loc _ i hlen, valBytes_getElem]
  generalize memWriteN m loc (valBytes n v) = mem at hread
  clear h
  induction n generalizing loc v with
  | zero => exact (Nat.lt_one_iff.1 hv).symm
  | succ n ih =>
    have h0 := hread 0 n.succ_pos
    rw [pow_zero, Nat.div_one, Nat.add_zero] at h0
    rw [littleEndian_succ, h0, ih (loc + 1) (v / 256) (Nat.div_lt_of_lt_mul (by rwa [pow_succ'] at hv)) fun i hi => ?_]
    · rw [BitVec.toNat_ofNat]; exact Nat.mod_add_div v 256
    · have h1 := hread (i + 1) (Nat.succ_lt_succ hi)
      rw [Nat.div_div_eq_div_mul, ← pow_succ', ← h1, Nat.add_assoc, Nat.add_comm 1 i]

/-! ### The decrement -/

/-- The write of a decrement (R250). -/
def lowering (s : State) (p : Place) (old : Nat) : Write :=
  { p.write 0 (valBytes 4 (old - 1)) with cls := pageClass s p }

/-- The machine where a launch's count at a place has been lowered. -/
def lowered (s : State) (l : Launch) (p : Place) (old : Nat) : State :=
  performAt (countWrite (touch s l.acc .atomic p) l.num (lowering s p old)) (lowering s p old)

theorem pageClass_memoryOnly {s t : State} (h : MemoryOnly s t) (p : Place) : pageClass t p = pageClass s p := by
  have hn : t.node = s.node := by unfold State.node; rw [h.host]
  unfold pageClass
  rw [hn]

theorem decrement_zero {s : State} {l : Launch} {va : Word} {p : Place}
    (hp : resolve s l.acc .atomic (va.toNat + 0x30) = .ok p)
    (h0 : bytesVal (fetchBytes s.keys s.mem p.loc p.key p.enc 4) = 0) :
    decrement s l va = some (0, touch s l.acc .atomic p) := by
  rw [decrement, hp]
  exact if_pos h0

theorem decrement_pos {s : State} {l : Launch} {va : Word} {p : Place} {old : Nat}
    (hp : resolve s l.acc .atomic (va.toNat + 0x30) = .ok p)
    (hold : bytesVal (fetchBytes s.keys s.mem p.loc p.key p.enc 4) = old) (h0 : old ≠ 0) :
    decrement s l va = some (old, lowered s l p old) := by
  subst hold
  rw [lowered, lowering, ← pageClass_memoryOnly (touch_memoryOnly s l.acc .atomic p), decrement, hp]
  exact if_neg h0

theorem millAct_signal {s : State} {n : Nat} {va : Word} {l : Launch} (hl : s.launch n = some l) :
    millAct (.signal n va) s = actSignal s l va := by
  unfold millAct MillAct.launch
  dsimp only
  rw [hl]

theorem actSignal_zero {s t : State} {l : Launch} {va : Word} {loc : Nat} (ha : va.toNat % 128 = 0)
    (hr : recPlace s l va = some loc) (hd : decrement s l va = some (0, t)) :
    actSignal s l va = ([], t.failInCycle l.num 0x0C) := by
  rw [actSignal, if_neg (not_not.2 ha), hr, hd]
  rfl

theorem actSignal_untracked {s t : State} {l : Launch} {va : Word} {loc old : Nat} (ha : va.toNat % 128 = 0)
    (hr : recPlace s l va = some loc) (hd : decrement s l va = some (old, t)) (h0 : old ≠ 0) (ht : trackedAt t loc = none) :
    actSignal s l va = (if old = 1 then [.ready l.num va] else [], track t l.num va) := by
  rw [actSignal, if_neg (not_not.2 ha), hr, hd]
  dsimp only
  rw [if_neg h0, ht]

theorem actSignal_tracked {s t : State} {l : Launch} {va : Word} {loc old : Nat} {q : Rec} (ha : va.toNat % 128 = 0)
    (hr : recPlace s l va = some loc) (hd : decrement s l va = some (old, t)) (h0 : old ≠ 0)
    (ht : trackedAt t loc = some q) :
    actSignal s l va = (if old = 1 && !q.wasReady then [.ready q.launch q.addr] else [], t) := by
  rw [actSignal, if_neg (not_not.2 ha), hr, hd]
  dsimp only
  rw [if_neg h0, ht]

/-- What a write means for replay changes no record. -/
theorem countWrite_recs (s : State) (n : Nat) (w : Write) : (countWrite s n w).mill.recs = s.mill.recs := by
  have hcopy (l : Launch) : (shadowCopy s l w.loc w.key).mill.recs = s.mill.recs := by
    have hd := (touchBlock_memoryOnly s l.acc .load none l.pool.toNat (8 * l.slotCount)).mill
    unfold shadowCopy; dsimp only [-Nat.reducePow]
    generalize touchBlock s l.acc .load none l.pool.toNat (8 * l.slotCount) = d at hd ⊢
    generalize w.loc / 2 ^ 16 * 2 ^ 16 = page
    have hrecs : d.mill.recs = s.mill.recs := by rw [hd]
    split
    · exact hrecs
    · split
      · exact hrecs
      · split
        · exact hrecs
        · rename_i dst _
          have hc := (touch_memoryOnly d l.acc .store dst).trans (copyPage_memoryOnly _ page dst.loc)
          cases hw : writeBlock (copyPage (touch d l.acc .store dst) page dst.loc) l.acc none
              (l.pool.toNat + 8 * _) (valBytes 8 (dirWord w.key page)) with
          | none => exact hrecs
          | some t =>
            show t.mill.recs = _
            rw [(hc.trans (writeBlock_memoryOnly hw)).mill, hrecs]
  unfold countWrite
  split
  · rfl
  · split
    · rfl
    · split
      · rfl
      · exact hcopy _
      · rfl

theorem lowered_recs (s : State) (l : Launch) (p : Place) (old : Nat) : (lowered s l p old).mill.recs = s.mill.recs := by
  show (countWrite _ _ _).mill.recs = _
  rw [countWrite_recs, (touch_memoryOnly ..).mill]

/-- The count in memory is 1 less, where it is not encrypted and its write does not count for replay. -/
theorem lowered_littleEndian {s : State} {l : Launch} {p : Place} {old : Nat} (hwf : Memory.wf s.mem = true)
    (hl : s.launch l.num = some l) (hrep : l.replayable = false) (henc : p.enc = false)
    (hold : bytesVal (fetchBytes s.keys s.mem p.loc p.key p.enc 4) = old) :
    littleEndian (lowered s l p old).mem p.loc 4 = old - 1 := by
  have hlt : old < 256 ^ 4 := by
    have h := bytesVal_lt (memReadN s.mem p.loc 4)
    rw [memReadN_length] at h
    rw [henc] at hold
    rwa [← hold]
  have hcount : countWrite (touch s l.acc .atomic p) l.num (lowering s p old) = touch s l.acc .atomic p := by
    have hlaunch : (touch s l.acc .atomic p).launch l.num = some l := by
      unfold State.launch; rw [(touch_memoryOnly s l.acc .atomic p).mill]; exact hl
    rw [countWrite, hlaunch]
    exact if_pos (by rw [hrep]; rfl)
  have hmem : (lowered s l p old).mem = memWriteN (touch s l.acc .atomic p).mem p.loc (valBytes 4 (old - 1)) := by
    rw [lowered, hcount]
    show putBytes _ _ p.loc p.key p.enc _ = _
    rw [henc]
    rfl
  rw [hmem]
  exact littleEndian_memWriteN (touch_wf hwf l.acc .atomic p) p.loc 4 (old - 1) (by omega)

end Sys2Proof.Machine
end


section
/-! SUPPORT. A launch that an event has failed with a cause keeps it through the event's end (R26). -/

namespace Sys2Proof.Machine

open Sys2Proof.Spec

/-! ### The cause of a launch that an event fails -/

theorem State.launch_mapLaunch_ne (s : State) {n m : Nat} (hne : m ≠ n) {f : Launch → Launch} (hf : ∀ l, (f l).num = l.num) :
    (s.mapLaunch m f).launch n = s.launch n := by
  unfold State.launch State.mapLaunch
  dsimp only
  induction s.mill.launches with
  | nil => rfl
  | cons k ks ih =>
    have hnum : (if k.num == m then f k else k).num = k.num := by split <;> [exact hf k; rfl]
    rw [List.map_cons, List.find?_cons, List.find?_cons, hnum, ih]
    by_cases hk : k.num = n
    · simp [hk, hne.symm]
    · rw [beq_false_of_ne hk]

/-- Launch n stands as it is, and every launch of that number has failed. -/
structure Fell (n : Nat) (l : Launch) (t : State) : Prop where
  launch : t.launch n = some l
  failed : ∀ k ∈ t.mill.launches, k.num = n → k.failed.isSome = true

theorem Fell.mapLaunch {n m : Nat} {l : Launch} {t : State} (h : Fell n l t) (hne : m ≠ n) {f : Launch → Launch}
    (hf : ∀ k, (f k).num = k.num) : Fell n l (t.mapLaunch m f) := by
  refine ⟨(t.launch_mapLaunch_ne hne hf).trans h.launch, fun k hk hn => ?_⟩
  obtain ⟨j, hj, rfl⟩ := List.mem_map.1 hk
  by_cases hjm : (j.num == m) = true
  · rw [if_pos hjm, hf, beq_iff_eq.1 hjm] at hn
    exact absurd hn hne
  · rw [if_neg hjm] at hn ⊢
    exact h.failed j hj hn

/-- The causes of launches that had failed before stand: launch n had not. -/
theorem Fell.keepCauses {n : Nat} {l : Launch} {b t : State} (h : Fell n l t)
    (hb : ∀ k ∈ b.mill.launches, k.num = n → k.failed = none) : Fell n l (keepCauses b t) := by
  refine List.foldlRecOn _ _ h fun u hu k hk => ?_
  split
  · rename_i hf
    refine hu.mapLaunch (fun hn => ?_) fun _ => rfl
    rw [hb k hk hn] at hf
    cases hf
  · exact hu

/-- A failed launch does not stall. -/
theorem Fell.checkStalls {n : Nat} {l : Launch} {t : State} (h : Fell n l t) : Fell n l (checkStalls t) := by
  refine List.foldlRecOn _ _ h fun u hu k hk => ?_
  split
  · rename_i hlive
    refine hu.mapLaunch (fun hn => ?_) fun _ => by split <;> rfl
    have hf := h.failed k hk hn
    cases hk : k.failed with
    | none => rw [hk] at hf; cases hf
    | some c => simp [Launch.live, hk] at hlive
  · exact hu

/-- A launch that fails and that no launch of its number had failed before, nor runs again. -/
theorem fell_failInCycle {s : State} {l : Launch} {d : Nat} (hl : s.launch l.num = some l)
    (h : ∀ k ∈ s.mill.launches, k.num = l.num → k.failed = none ∧ k.tearing = false) :
    Fell l.num { l with failed := some d } (s.failInCycle l.num d) := by
  obtain ⟨hf, ht⟩ := h l (List.mem_of_find?_eq_some hl) rfl
  refine ⟨?_, fun k hk hn => ?_⟩
  · unfold State.failInCycle
    rw [State.launch_mapLaunch _ _ (fun _ => by split <;> rfl), hl, Option.map_some, if_neg (by rw [ht]; simp), hf]
    rfl
  · obtain ⟨j, hj, rfl⟩ := List.mem_map.1 hk
    by_cases hjn : (j.num == l.num) = true
    · rw [if_pos hjn]
      dsimp only
      rw [if_neg (by rw [(h j hj (beq_iff_eq.1 hjn)).2]; simp)]
      rfl
    · rw [if_neg hjn] at hn
      exact absurd (beq_iff_eq.2 hn) hjn

/-- An event that does nothing but fail a launch leaves it failed with that cause. -/
theorem millEvent_fails {a : MillAct} {s t : State} {l : Launch} {d : Nat} (hact : millAct a s = ([], t.failInCycle l.num d))
    (ht : t.mill = s.mill) (hl : s.launch l.num = some l)
    (h : ∀ k ∈ s.mill.launches, k.num = l.num → k.failed = none ∧ k.tearing = false) :
    (millEvent [a] s).launch l.num = some { l with failed := some d } := by
  have hlt : t.launch l.num = some l := by unfold State.launch; rw [ht]; exact hl
  have hfell : Fell l.num { l with failed := some d } (t.failInCycle l.num d) := fell_failInCycle hlt (by rw [ht]; exact h)
  have hend := (hfell.keepCauses (b := s) fun k hk hn => (h k hk hn).1).checkStalls.launch
  rw [← runActs_of_act hact] at hend
  exact hend

end Sys2Proof.Machine
end

section
/-! PROOF. What a GSIG that the mill takes does (R38, R40). -/

namespace Sys2Proof.Machine

open Sys2Proof.Spec

/-- A count that is 0 already fails the launch. -/
theorem signal_fails {s : State} {c : Nat} {va : Word} {l : Launch} {loc : Nat} {p : Place}
    (hl : (s.released c).launch (s.ctxAt c).launchNo = some l) (ha : va.toNat % 128 = 0)
    (hr : recPlace (s.released c) l va = some loc)
    (hp : resolve (s.released c) l.acc .atomic (va.toNat + 0x30) = .ok p)
    (h0 : bytesVal (fetchBytes (s.released c).keys (s.released c).mem p.loc p.key p.enc 4) = 0) :
    let t := acceptRequest c .signal va s
    t.mem = (touch (s.released c) l.acc .atomic p).mem ∧ t.mill.recs = s.mill.recs ∧
      ((∀ k ∈ s.mill.launches, k.num = l.num → k.failed = none ∧ k.tearing = false) →
        t.launch l.num = some { l with failed := some 0x0C }) := by
  have hn := State.launch_num hl
  have he : acceptRequest c .signal va s = millEvent [.signal (s.ctxAt c).launchNo va] (s.released c) := rfl
  have hact := (millAct_signal (va := va) hl).trans (actSignal_zero ha hr (decrement_zero hp h0))
  have hmill := (touch_memoryOnly (s.released c) l.acc .atomic p).mill
  dsimp only
  rw [he]
  refine ⟨?_, ?_, fun h => millEvent_fails hact hmill (by rw [hn]; exact hl) h⟩
  · rw [millEvent_mem, runActs_of_act hact]
    rfl
  · rw [millEvent_recs, runActs_of_act hact]
    show (touch (s.released c) l.acc .atomic p).mill.recs = _
    rw [hmill]
    rfl

/-- A count that stays above 0: its record is tracked, and nothing becomes ready. -/
theorem signal_lowers {s : State} {c : Nat} {va : Word} {l : Launch} {loc old : Nat} {p : Place}
    (hl : (s.released c).launch (s.ctxAt c).launchNo = some l) (ha : va.toNat % 128 = 0)
    (hr : recPlace (s.released c) l va = some loc)
    (hp : resolve (s.released c) l.acc .atomic (va.toNat + 0x30) = .ok p)
    (hold : bytesVal (fetchBytes (s.released c).keys (s.released c).mem p.loc p.key p.enc 4) = old) (h2 : 2 ≤ old) :
    let t := acceptRequest c .signal va s
    let v := lowered (s.released c) l p old
    t.mem = v.mem ∧ (trackedAt v loc = none → t.mill.recs = s.mill.recs ++ [Rec.fresh l.num va]) ∧
      ∀ q, trackedAt v loc = some q → t.mill.recs = s.mill.recs := by
  have he : acceptRequest c .signal va s = millEvent [.signal (s.ctxAt c).launchNo va] (s.released c) := rfl
  have hact := millAct_signal (va := va) hl
  have hd := decrement_pos hp hold (by omega)
  have hrecs : (lowered (s.released c) l p old).mill.recs = s.mill.recs := lowered_recs (s.released c) l p old
  have hone : ¬ old = 1 := by omega
  dsimp only
  rw [he, millEvent_mem, millEvent_recs]
  cases ht : trackedAt (lowered (s.released c) l p old) loc with
  | none =>
    have hun := hact.trans (actSignal_untracked ha hr hd (by omega) ht)
    rw [if_neg hone] at hun
    rw [runActs_of_act hun]
    exact ⟨rfl, fun _ => congrArg (· ++ _) hrecs, fun q hq => nomatch hq⟩
  | some q =>
    have htr := hact.trans (actSignal_tracked ha hr hd (by omega) ht)
    rw [if_neg (by simp [hone])] at htr
    rw [runActs_of_act htr]
    exact ⟨rfl, fun h => (nomatch h), fun _ _ => hrecs⟩

/-- A count that reaches 0 readies its record, unless that has been ready since it was tracked. -/
theorem signal_readies {s : State} {c : Nat} {va : Word} {l : Launch} {loc : Nat} {p : Place}
    (hl : (s.released c).launch (s.ctxAt c).launchNo = some l) (ha : va.toNat % 128 = 0)
    (hr : recPlace (s.released c) l va = some loc)
    (hp : resolve (s.released c) l.acc .atomic (va.toNat + 0x30) = .ok p)
    (hold : bytesVal (fetchBytes (s.released c).keys (s.released c).mem p.loc p.key p.enc 4) = 1) :
    let t := acceptRequest c .signal va s
    let v := lowered (s.released c) l p 1
    (trackedAt v loc = none → BecomesReady (track v l.num va) t l.num va) ∧
      ∀ q, trackedAt v loc = some q →
        (q.wasReady = true → t.mill.recs = s.mill.recs ∧ t.mem = v.mem) ∧
          (q.wasReady = false → BecomesReady v t q.launch q.addr) := by
  have he : acceptRequest c .signal va s = millEvent [.signal (s.ctxAt c).launchNo va] (s.released c) := rfl
  have hact := millAct_signal (va := va) hl
  have hd := decrement_pos hp hold (by omega)
  dsimp only
  rw [he]
  refine ⟨fun ht => ?_, fun q ht => ?_⟩
  · exact becomesReady_of_act (hact.trans (actSignal_untracked ha hr hd (by omega) ht))
  · have htr := hact.trans (actSignal_tracked ha hr hd (by omega) ht)
    refine ⟨fun hq => ?_, fun hq => ?_⟩
    · rw [hq] at htr
      rw [millEvent_recs, millEvent_mem, runActs_of_act htr]
      exact ⟨lowered_recs (s.released c) l p 1, rfl⟩
    · rw [hq] at htr
      exact becomesReady_of_act htr

end Sys2Proof.Machine
end


section
/-! PROOF. A launch that is over, and one that runs again (R22, R26, R253). -/

namespace Sys2Proof.Machine

open Sys2Proof.Spec

/-! ### The work of a launch is dropped (R26, R239) -/

/-- Dropping a launch's work leaves the memory and the host block, and keeps the other launches' records and saved tasks. -/
theorem dropWork_eq (s : State) (n : Nat) : dropWork s n =
    { s with
      tiles := (dropWork s n).tiles, fab := (dropWork s n).fab
      mill := { s.mill with
        recs := s.mill.recs.filter (·.launch != n), saved := s.mill.saved.filter (·.task.launch != n) } } := by
  have h : ∀ t, t = { s with tiles := t.tiles } → ∀ q, unpark t q = { s with tiles := (unpark t q).tiles } := by
    intro t ht q
    show { t with tiles := _ } = _
    rw [ht]
    rfl
  have hfold := foldl_keeps (fun t => t = { s with tiles := t.tiles }) unpark (fun t q ht => h t ht q)
    (s.mill.saved.filter (·.task.launch == n)) s rfl
  unfold dropWork; dsimp only
  generalize (s.mill.saved.filter (·.task.launch == n)).foldl unpark s = t at hfold ⊢
  rw [hfold]

theorem dropWork_mill (s : State) (n : Nat) : (dropWork s n).mill = { s.mill with
    recs := s.mill.recs.filter (·.launch != n), saved := s.mill.saved.filter (·.task.launch != n) } := by
  rw [dropWork_eq]

theorem dropWork_host (s : State) (n : Nat) : (dropWork s n).host = s.host := by rw [dropWork_eq]

/-! ### The completion word (R22) -/

/-- The machine without a launch and its work. -/
def gone (s : State) (n : Nat) : State :=
  let u := dropWork s n
  { u with mill := { u.mill with launches := u.mill.launches.filter (·.num != n) } }

theorem gone_mill (s : State) (n : Nat) :
    (∀ k ∈ (gone s n).mill.launches, k.num ≠ n) ∧ (∀ r ∈ (gone s n).mill.recs, r.launch ≠ n) ∧
      ∀ q ∈ (gone s n).mill.saved, q.task.launch ≠ n := by
  refine ⟨fun k hk => by simpa using (List.mem_filter.1 hk).2, fun r hr => ?_, fun q hq => ?_⟩
  · have hr' : r ∈ (dropWork s n).mill.recs := hr
    rw [dropWork_mill] at hr'
    simpa using (List.mem_filter.1 hr').2
  · have hq' : q ∈ (dropWork s n).mill.saved := hq
    rw [dropWork_mill] at hq'
    simpa using (List.mem_filter.1 hq').2

theorem completeLaunch_mill (s : State) (l : Launch) :
    (completeLaunch s l).mill = (gone (clearDirectory s l) l.num).mill := by
  show State.mill (match writeBlock (gone (clearDirectory s l) l.num) l.acc none l.word.toNat (valBytes 4 l.completion) with
    | none => reject l.master l.value (gone (clearDirectory s l) l.num)
    | some t => if l.msix then t.msixTo l.master 0 else t) = _
  generalize gone (clearDirectory s l) l.num = u
  split
  · have h := reject_host l.master l.value u
    unfold PortsOnly at h
    rw [h]
  · rename_i t hw
    have ht : t.mill = u.mill := (writeBlock_memoryOnly hw).mill
    split
    · have h := msixTo_portsOnly t l.master 0
      unfold PortsOnly at h
      rw [h, ← ht]
    · exact ht

/-- The word of a launch without a shadow pool is written, and vector 0 comes about at its port where it asks for it. -/
theorem completeLaunch_writes {s v : State} {l : Launch} (hp : l.pooled = false)
    (hv : writeBlock (gone s l.num) l.acc none l.word.toNat (valBytes 4 l.completion) = some v) :
    completeLaunch s l = if l.msix then v.msixTo l.master 0 else v := by
  have hd : clearDirectory s l = s := by unfold clearDirectory; exact if_neg (by rw [hp]; simp)
  have hgone : gone (clearDirectory s l) l.num = gone s l.num := by rw [hd]
  show (match writeBlock (gone (clearDirectory s l) l.num) l.acc none l.word.toNat (valBytes 4 l.completion) with
    | none => reject l.master l.value (gone (clearDirectory s l) l.num)
    | some t => if l.msix then t.msixTo l.master 0 else t) = _
  rw [hgone, hv]

/-- The number of a launch is that of one before the event's end. -/
theorem settleMill_num {s : State} {n : Nat} (h : ∀ k ∈ s.mill.launches, k.num ≠ n) :
    ∀ k ∈ (settleMill s).mill.launches, k.num ≠ n := by
  intro k hk
  have hm : k.fixed ∈ (settleMill s).mill.launches.map Launch.fixed := List.mem_map_of_mem hk
  rw [settleMill_launches] at hm
  obtain ⟨j, hj, hfix⟩ := List.mem_map.1 hm
  have hnum : j.num = k.num := show j.fixed.num = k.fixed.num by rw [hfix]
  exact hnum ▸ h j hj

theorem exec_completionWordWrite {s : State} {n : Nat} {l : Launch} (hl : s.launch n = some l) (ho : launchOver s l = true) :
    exec (.completionWordWrite n) s = .next (settleMill (completeLaunch s l)) := by
  show execCompletionWordWrite n s = _
  rw [execCompletionWordWrite, hl]
  exact if_pos ho

/-- A launch that is over is gone with its work. -/
theorem completion_removes (s : State) (l : Launch) :
    let t := settleMill (completeLaunch s l)
    (∀ k ∈ t.mill.launches, k.num ≠ l.num) ∧ (∀ r ∈ t.mill.recs, r.launch ≠ l.num) ∧
      ∀ q ∈ t.mill.saved, q.task.launch ≠ l.num := by
  obtain ⟨hlaunches, hrecs, hsaved⟩ := gone_mill (clearDirectory s l) l.num
  rw [← completeLaunch_mill] at hlaunches hrecs hsaved
  dsimp only
  rw [settleMill_recs, settleMill_saved]
  exact ⟨settleMill_num hlaunches, hrecs, hsaved⟩

theorem completion_writes {s v : State} {l : Launch} (hp : l.pooled = false)
    (hv : writeBlock (gone s l.num) l.acc none l.word.toNat (valBytes 4 l.completion) = some v) :
    let t := settleMill (completeLaunch s l)
    t.mem = v.mem ∧
      Vectored s.host t.host (if l.msix = true ∧ (l.master = 1 ∨ l.master = 2) then [l.master] else []) 0 := by
  have hhost : v.host = s.host := (writeBlock_memoryOnly hv).host.trans (dropWork_host s l.num)
  dsimp only
  rw [settleMill_mem, settleMill_host, completeLaunch_writes hp hv, ← hhost]
  by_cases hm : l.msix = true
  · rw [if_pos hm]
    simp only [hm, true_and]
    exact ⟨State.msixTo_mem v l.master 0, vectored_msixTo v l.master 0⟩
  · rw [if_neg hm, if_neg fun h => hm h.1]
    exact ⟨rfl, vectored_nil rfl rfl 0⟩

/-! ### A replay (R253) -/

theorem restorePage_mill (l : Launch) (s : State) (i : Nat) : (restorePage l s i).mill = s.mill := by
  unfold restorePage; dsimp only [-Nat.reducePow]
  generalize nodePlace s.node _ = page
  split
  · rfl
  · split
    · rfl
    · rename_i src _
      rw [(copyPage_memoryOnly ..).mill]
      exact (touch_memoryOnly s l.acc .load src).mill

/-- A launch before the second run of its roots. -/
def restored (s : State) (l : Launch) : State :=
  let s := dropWork s l.num
  let s := touchBlock s l.acc .load none l.pool.toNat (8 * l.slotCount)
  let s := (List.range l.slotCount).foldl (restorePage l) s
  s.mapLaunch l.num fun l => { l with tearing := false, replays := l.replays + 1 }

theorem restored_launch {s : State} {l : Launch} (hl : s.launch l.num = some l) :
    (restored s l).launch l.num = some { l with tearing := false, replays := l.replays + 1 } := by
  have hmill := foldl_keeps (fun t => t.mill = (dropWork s l.num).mill) (restorePage l)
    (fun t i ht => (restorePage_mill l t i).trans ht) (List.range l.slotCount)
    (touchBlock (dropWork s l.num) l.acc .load none l.pool.toNat (8 * l.slotCount)) (touchBlock_memoryOnly ..).mill
  unfold restored; dsimp only
  rw [State.launch_mapLaunch _ l.num (f := fun l => { l with tearing := false, replays := l.replays + 1 }) fun _ => rfl]
  unfold State.launch at hl ⊢
  rw [hmill, dropWork_mill, hl]
  rfl

theorem rerun_millWork (s : State) (l : Launch) : MillWork (restored s l) (rerun s l) := by
  show MillWork (restored s l) (match writeBlock (restored s l) l.acc none l.paramAddr.toNat l.params with
    | none => (clearDirectory (restored s l) l).failLaunch l.num 0x0F
    | some s => runEvent (l.roots.map (.root l.num)) (clearDirectory s l))
  split
  · exact (clearDirectory_memoryOnly _ l).millWork.trans (failLaunch_millWork ..)
  · rename_i hw
    exact ((writeBlock_memoryOnly hw).trans (clearDirectory_memoryOnly _ l)).millWork.trans (runEvent_millWork ..)

theorem exec_replayRerun {s : State} {n : Nat} {l : Launch} (hl : s.launch n = some l) (ht : l.tearing = true)
    (hc : contextsGone s n = true) (hf : s.flows = true) : exec (.replayRerun n) s = .next (settleMill (rerun s l)) := by
  show execReplayRerun n s = _
  rw [execReplayRerun, hl]
  exact if_pos (by rw [ht, hc, hf]; rfl)

/-- A launch that was torn down runs again. -/
theorem rerun_launch {s : State} {l : Launch} (hl : s.launch l.num = some l) :
    ∃ k ∈ (settleMill (rerun s l)).mill.launches, k.num = l.num ∧ k.tearing = false ∧ k.replays = l.replays + 1 := by
  obtain ⟨j, hj, hfix⟩ := (rerun_millWork s l).launch (restored_launch hl)
  obtain ⟨k, hk, hkfix⟩ := fixed_mem (settleMill_launches (rerun s l)) (List.mem_of_find?_eq_some hj)
  have hsame : k.fixed = { l with tearing := false, replays := l.replays + 1 }.fixed := hkfix.trans hfix
  refine ⟨k, hk, ?_, ?_, ?_⟩
  · show k.fixed.num = l.num
    rw [hsame]; rfl
  · show k.fixed.tearing = false
    rw [hsame]; rfl
  · show k.fixed.replays = l.replays + 1
    rw [hsame]; rfl

end Sys2Proof.Machine
end

section
/-! PROOF. The mill counts and completes (O49). -/

namespace Sys2Proof.Machine

open Sys2Proof.Spec

theorem exec_spawnRequest {s : State} {c : Nat} {r : BitVec 5} {ms : List (Nat × BitVec 32)} (hc : c < 768)
    (hw : WaitsIn s c .mill (.gspawn r) ms) :
    exec (.spawnRequest c) s = .next (acceptRequest c .spawn ((s.ctxAt c).reg r) s) := by
  have hin : ctxInRange c = true := by simpa [ctxInRange] using hc
  unfold WaitsIn WaitsAt at hw
  show execSpawnRequest c s = _
  rw [execSpawnRequest, hin, hw]
  rfl

theorem exec_signalRequest {s : State} {c : Nat} {r : BitVec 5} {ms : List (Nat × BitVec 32)} (hc : c < 768)
    (hw : WaitsIn s c .mill (.gsig r) ms) :
    exec (.signalRequest c) s = .next (acceptRequest c .signal ((s.ctxAt c).reg r) s) := by
  have hin : ctxInRange c = true := by simpa [ctxInRange] using hc
  unfold WaitsIn WaitsAt at hw
  show execSignalRequest c s = _
  rw [execSignalRequest, hin, hw]
  rfl

/-- The class of a decrement's write, as its page gives it (R250). -/
theorem pageClass_eq (s : State) (p : Place) : pageClass s p = (match p.page with
    | none => .uncounted
    | some e => if e.node = s.node ∧ e.size = 16 ∧ e.shd = true then .versioned else .unversioned) := by
  unfold pageClass
  cases p.page with
  | none => rfl
  | some e => simp only [Bool.and_eq_true, decide_eq_true_eq, and_assoc]

theorem completion_eq (l : Launch) : l.completion = (match l.failed with
    | some cause => 0x80000000 + cause
    | none => if l.replays = 0 then 1 else 2) := by
  unfold Launch.completion
  cases l.failed <;> rfl

theorem theMillCountsAndCompletes : TheMillCountsAndCompletes := by
  intro s
  refine ⟨fun e he hlow => ?counted, fun e he hlow l r hl hr hlast hsucc => ?completed,
    fun c r ms hc => ⟨fun hw => ?spawned, fun hw => ?signalled⟩, fun n l hl ho => ?ended,
    fun n l hl ht hgone hf => ?again⟩
  case counted =>
    refine ⟨_, exec_tendRetirement he hlow, ?_, fun l r hl hr hlast => retirement_counts hl hr hlast⟩
    rw [settleMill_ends, (retireIteration_millWork _ _).ends, (taken_beside s e).2]
  case completed => exact ⟨_, exec_tendRetirement he hlow, retirement_completes hl hr hlast hsucc⟩
  case spawned =>
    obtain ⟨hpc, hwait, hcvy, hregs⟩ := acceptRequest_retires c .spawn ((s.ctxAt c).reg r) s
    refine ⟨_, exec_spawnRequest hc hw, hpc, hwait, hcvy, hregs, fun u l loc b hu hl hp ht hb => ?_⟩
    obtain rfl := released_of_retiresIn hu
    exact spawn_tracks hl hp ht hb
  case signalled =>
    obtain ⟨hpc, hwait, hcvy, hregs⟩ := acceptRequest_retires c .signal ((s.ctxAt c).reg r) s
    refine ⟨_, exec_signalRequest hc hw, hpc, hwait, hcvy, hregs, fun u l loc p hu hl ha hr hp => ?_⟩
    obtain rfl := released_of_retiresIn hu
    intro old w
    have hwrite : w = lowering (s.released c) p old := by
      unfold lowering
      rw [pageClass_eq]
      rfl
    rw [hwrite]
    refine ⟨fun h0 => signal_fails hl ha hr hp h0, fun h2 => signal_lowers hl ha hr hp rfl h2, fun h1 => ?_,
      fun hwf _ henc hrep => lowered_littleEndian hwf (by rw [State.launch_num hl]; exact hl) hrep henc rfl⟩
    rw [h1]
    exact signal_readies hl ha hr hp h1
  case ended =>
    obtain rfl := State.launch_num hl
    obtain ⟨hlaunches, hrecs, hsaved⟩ := completion_removes s l
    refine ⟨_, exec_completionWordWrite hl ho, hlaunches, hrecs, hsaved, fun hp => ?_⟩
    intro u w code v hv
    have hcode : l.completion = code := completion_eq l
    rw [← hcode] at hv
    exact completion_writes hp hv
  case again =>
    obtain rfl := State.launch_num hl
    exact ⟨_, exec_replayRerun hl ht hgone hf, rerun_launch hl⟩

end Sys2Proof.Machine
end

section
/-! PROOF. O49: the mill dispatches and counts. -/

namespace Sys2Proof

open Sys2Proof.Machine Sys2Proof.Spec

/-- Settles O49: dispatch and start by the pick's choice among eligible contexts, readiness by the three ends of `makeReady`, and
each event of the mill by the one action that it runs and the frame of the rest. -/
theorem theMillDispatchesAndCounts : Obligations.TheMillDispatchesAndCounts :=
  ⟨tasksAreDispatchedAndStart, recordsBecomeReady, theMillCountsAndCompletes⟩

end Sys2Proof
end

section
/-! PROOF. O45: a DCWB that ends takes the replaced words of its lines from their home. -/

namespace Sys2Proof.Spec

open Sys2Proof.Machine

/-- A machine at reset but for a context 0 that waits in a DCWB of line 0, with no write of its own under way, and a line 0 whose
home may still deliver a word that a write replaced. -/
def dcwbWitness : State :=
  { State.reset.setCtx 0
      { Context.reset with wait := some { kind := .dcwb, instr := .nop, marks := [(0, 0)], place := none } } with
    stale := [(0, [])] }

theorem dcwbWitness_ends : exec (.dcwbComplete 0) dcwbWitness = .next (dcwbWitness.within 0 fun s =>
    (cleanLines s [0]).mapCx (·.retire)) := by
  rfl

/-- The step answers a machine with no replaced word of line 0 left; `RetiresIn` keeps the one that was there. -/
theorem dcwbWitness_not_retiresIn {t : State} (ht : exec (.dcwbComplete 0) dcwbWitness = .next t) :
    ¬ RetiresIn dcwbWitness t 0 := by
  rintro ⟨hsame, -, -⟩
  have hkept : t.stale = dcwbWitness.stale := (congrArg State.stale hsame).trans rfl
  obtain rfl : _ = t := Host.Outcome.next.inj (dcwbWitness_ends.symm.trans ht)
  exact absurd hkept (by decide)

end Sys2Proof.Spec

namespace Sys2Proof

open Sys2Proof.Machine Sys2Proof.Spec

/-- Refutes O45: `WaitsEnd` has a DCWB that ends change nothing but its context, and the DCWB takes its lines' replaced words
from `stale` as well (`cleanLines`; log entry 14). -/
theorem not_waitsEndAndGoOn : ¬ Obligations.WaitsEndAndGoOn := by
  rintro ⟨hends, -⟩
  obtain ⟨-, -, hruns⟩ := hends dcwbWitness 0 .nop [(0, 0)] (by decide)
  obtain ⟨-, -, hdcwb, -⟩ := hruns ⟨rfl, rfl, rfl⟩ rfl
  obtain ⟨t, ht, hret⟩ := hdcwb rfl (by intro w hw; cases hw)
  exact dcwbWitness_not_retiresIn ht hret

end Sys2Proof
end

section
/-! SUPPORT. One context changed, and copy channels with nothing to do. -/

namespace Sys2Proof.Machine

/-! ### A step that changes the current context alone -/

/-- Nothing of the machine differs but the current context, which is x now. -/
def HasCx (s t : State) (x : Context) : Prop :=
  t = { s with ctxs := t.ctxs } ∧ (∀ c, c ≠ s.cur → t.ctxAt c = s.ctxAt c) ∧ t.cx = x

theorem HasCx.refl (s : State) : HasCx s s s.cx := ⟨rfl, fun _ _ => rfl, rfl⟩

theorem State.mapCx_hasCx (s : State) (f : Context → Context) : HasCx s (s.mapCx f) (f s.cx) :=
  ⟨rfl, fun c hc => by rw [State.ctxAt_mapCx, if_neg hc], State.cx_mapCx s f⟩

theorem HasCx.cur {s t : State} {x : Context} (h : HasCx s t x) : t.cur = s.cur := by rw [h.1]
theorem HasCx.mem {s t : State} {x : Context} (h : HasCx s t x) : t.mem = s.mem := by rw [h.1]
theorem HasCx.mill {s t : State} {x : Context} (h : HasCx s t x) : t.mill = s.mill := by rw [h.1]
theorem HasCx.fab {s t : State} {x : Context} (h : HasCx s t x) : t.fab = s.fab := by rw [h.1]
theorem HasCx.tiles {s t : State} {x : Context} (h : HasCx s t x) : t.tiles = s.tiles := by rw [h.1]
theorem HasCx.cx_eq {s t : State} {x : Context} (h : HasCx s t x) : t.cx = x := h.2.2
theorem HasCx.planesDead {s t : State} {x : Context} (h : HasCx s t x) : t.planesDead = s.planesDead := by rw [h.1]; rfl

theorem HasCx.delivered {s t : State} {x : Context} (h : HasCx s t x) (c : Nat) : t.delivered c = s.delivered c := by
  rw [h.1]; rfl

theorem HasCx.trans {s t u : State} {x y : Context} (h : HasCx s t x) (g : HasCx t u y) : HasCx s u y := by
  refine ⟨?_, fun c hc => (g.2.1 c (by rwa [h.cur])).trans (h.2.1 c hc), g.2.2⟩
  rw [g.1, h.1]

/-! ### Copy channels -/

theorem Context.chan_setChan (x : Context) (k n : Nat) (ch : CopyChan) :
    (x.setChan k ch).chan n = if n = k ∧ k < 4 then ch else x.chan n := by
  unfold Context.chan Context.setChan
  simp only [Vector.toList_setIfInBounds, List.getD_eq_getElem?_getD, List.getElem?_set, Vector.length_toList]
  by_cases hk : k = n
  · subst hk
    by_cases h4 : k < 4
    · simp [h4]
    · simp [h4]
  · simp [hk, Ne.symm hk]

theorem Context.chan_ge (x : Context) {k : Nat} (h : 4 ≤ k) : x.chan k = .reset := by
  unfold Context.chan
  rw [List.getD_eq_getElem?_getD, List.getElem?_eq_none (by simpa using h)]
  rfl

/-- A channel has no command and is not stopped. -/
def CopyChan.rests (ch : CopyChan) : Prop := ch.cmds = [] ∧ ch.cause = 0

theorem CopyChan.rests.not_stopped {ch : CopyChan} (h : ch.rests) : ch.stopped = false := by
  unfold CopyChan.stopped; rw [h.2]; rfl

theorem CopyChan.rests.join {ch : CopyChan} (h : ch.rests) : ch.join.rests := h

/-- Four resting channels are all that a context has. -/
theorem Context.chan_rests {x : Context} (h : ∀ k < 4, (x.chan k).cmds = [] ∧ (x.chan k).cause = 0) (k : Nat) :
    (x.chan k).rests := by
  by_cases hk : k < 4
  · exact h k hk
  · rw [x.chan_ge (Nat.le_of_not_lt hk)]; exact ⟨rfl, rfl⟩

theorem Context.setChan_rests {x : Context} (h : ∀ k, (x.chan k).rests) {ch : CopyChan} (hc : ch.rests) (k n : Nat) :
    ((x.setChan k ch).chan n).rests := by
  rw [Context.chan_setChan]
  split
  · exact hc
  · exact h n

/-- Channels that rest let a FENCE or release go on at once: it leaves its joins in them and nothing else. -/
theorem joinChannels_rests (ks : List Nat) (s : State) (h : ∀ k, (s.cx.chan k).rests) :
    ∃ t, joinChannels ks s = .done t ∧ HasCx s t { s.cx with chans := t.cx.chans } := by
  induction ks generalizing s with
  | nil => exact ⟨s, rfl, .refl s⟩
  | cons k ks ih =>
    have hstop := (h k).not_stopped
    let u := s.mapCx (·.setChan k (s.cx.chan k).join)
    have hu : HasCx s u (s.cx.setChan k (s.cx.chan k).join) := s.mapCx_hasCx _
    have hdone : (s.cx.chan k).join.doneBefore (s.cx.chan k).join.next = true := by
      show List.all (s.cx.chan k).cmds _ = true
      rw [(h k).1]; rfl
    obtain ⟨t, ht, hts⟩ := ih u (by rw [hu.cx_eq]; exact Context.setChan_rests h (h k).join k)
    refine ⟨t, ?_, ?_⟩
    · unfold joinChannels
      simp only [hstop, Bool.false_and, Bool.false_eq_true, if_false, hdone, if_true]
      exact ht
    · have := hu.trans hts
      rwa [hu.cx_eq] at this

theorem forceCommit_ctxAt (s : State) {c : Nat} (hc : c ≠ s.cur) : (forceCommit s).ctxAt c = s.ctxAt c := by
  unfold forceCommit
  rw [State.ctxAt_mapCx, commitAccumulators_rest]
  exact if_neg hc

theorem forceCommit_mill (s : State) : (forceCommit s).mill = s.mill := by rw [forceCommit_rest]

theorem forceCommit_planesDead (s : State) : (forceCommit s).planesDead = s.planesDead := by rw [forceCommit_rest]; rfl

theorem forceCommit_delivered (s : State) (c : Nat) : (forceCommit s).delivered c = s.delivered c := by
  rw [forceCommit_rest]; rfl

theorem forceCommit_chan (s : State) (k : Nat) : (forceCommit s).cx.chan k = s.cx.chan k := by
  unfold Context.chan; rw [forceCommit_cx]

theorem delivered_iff (s : State) (c : Nat) :
    s.delivered c = true ↔ ∀ f ∈ s.fab.flights, ¬ (f.msg.node = s.node ∧ f.msg.sender = c) := by
  simp only [State.delivered, List.all_eq_true, Bool.not_eq_true', Bool.and_eq_false_iff, beq_eq_false_iff_ne, not_and_or]

/-! ### What order_before does with channels that rest (R185) -/

/-- The strip is committed and forced, and the channels hold joins; nothing else has come about. -/
structure JoinsMade (s t : State) : Prop where
  rest : t = { s with ctxs := t.ctxs, tiles := t.tiles }
  others : ∀ c, c ≠ s.cur → t.ctxAt c = s.ctxAt c
  cx : t.cx = { (forceCommit s).cx with chans := t.cx.chans }

theorem HasCx.joinsMade {s t : State} (h : HasCx (forceCommit s) t { (forceCommit s).cx with chans := t.cx.chans }) :
    JoinsMade s t where
  rest := by rw [h.1, forceCommit_rest]
  others c hc := (h.2.1 c (by rwa [forceCommit_cur])).trans (forceCommit_ctxAt s hc)
  cx := h.cx_eq

namespace JoinsMade

variable {s t : State} (h : JoinsMade s t)
include h

theorem cur : t.cur = s.cur := by rw [h.rest]
theorem mem : t.mem = s.mem := by rw [h.rest]
theorem mill : t.mill = s.mill := by rw [h.rest]
theorem planesDead : t.planesDead = s.planesDead := by rw [h.rest]; rfl
theorem delivered (c : Nat) : t.delivered c = s.delivered c := by rw [h.rest]; rfl
theorem pend : t.cx.pend = s.cx.pend ++ s.cx.held := by rw [h.cx, forceCommit_cx]
theorem held : t.cx.held = [] := by rw [h.cx, forceCommit_cx]
theorem forced : t.cx.strip.forced = true := by rw [h.cx, forceCommit_cx]
theorem regs : t.cx.regs = s.cx.regs := by rw [h.cx, forceCommit_cx]
theorem pc : t.cx.pc = s.cx.pc := by rw [h.cx, forceCommit_cx]

end JoinsMade

/-- With a plane live, channels that rest leave the decision to the streams. -/
theorem orderBefore_rests {s : State} (q : Pending) (i : Instr) (hlive : s.planesDead = false)
    (hrest : ∀ k < 4, (s.cx.chan k).cmds = [] ∧ (s.cx.chan k).cause = 0) :
    ∃ t, orderBefore q i s = q.settle i t ∧ JoinsMade s t := by
  obtain ⟨t, ht, hts⟩ := joinChannels_rests q.order.channels (forceCommit s)
    (fun k => by rw [forceCommit_chan]; exact Context.chan_rests hrest k)
  refine ⟨t, ?_, hts.joinsMade⟩
  unfold orderBefore Pending.goFrom
  rw [hlive, Bool.false_and, if_neg Bool.false_ne_true, ht]

theorem Pending.settle_ready {q : Pending} {s : State} (i : Instr) (hlive : s.planesDead = false) (h : q.ready s = true) :
    q.settle i s = q.k (acceptNow s q.order) := by
  unfold Pending.settle; rw [hlive, h]; rfl

theorem Pending.settle_waits {q : Pending} {s : State} (i : Instr) (hlive : s.planesDead = false) (h : q.ready s = false) :
    q.settle i s = q.wait i [] s := by
  unfold Pending.settle; rw [hlive, h]; rfl

theorem Pending.plain_ready (o : Order) (k : State → State) (s : State) : (Pending.plain o k).ready s = settled s o :=
  Bool.and_true _

/-- With no write and no SEND under way every order is settled. -/
theorem settled_of_empty {s : State} (o : Order) (hp : s.cx.pend = []) (hd : s.delivered s.cur = true) :
    settled s o = true := by
  unfold settled; rw [hp, hd, Bool.or_true]; rfl

/-- At die scope or wider a named write that is not performed keeps an order unsettled. -/
theorem not_settled_of_named {s : State} {o : Order} (ho : 3 ≤ o.scope) {w : Write} (hw : w ∈ s.cx.pend)
    (hn : o.names w = true) : settled s o = false := by
  have hscope : decide (o.scope < 3) = false := by simpa using ho
  unfold settled
  rw [Bool.and_eq_false_iff]
  refine .inr (List.all_eq_false.2 ⟨w, hw, ?_⟩)
  rw [hn, hscope]; exact Bool.false_ne_true

end Sys2Proof.Machine
end

section
/-! PROOF. GSPAWN, GSIG and TEND (R40, R208, R210, R339, R362). -/

namespace Sys2Proof.Machine

open Sys2Proof.Spec

/-! ### GSPAWN and GSIG -/

theorem askMill_misaligned {i : Instr} {a : Word} {s : State} (h : a.toNat % 128 ≠ 0) :
    askMill i a s = takeTrap s (trapOf 0x04 a) := if_pos h

theorem askMill_aligned {i : Instr} {a : Word} {s : State} (h : a.toNat % 128 = 0) :
    askMill i a s = orderBefore (.plain (.all 4) fun s => s.waitIn .mill i []) i s := if_neg (not_not.2 h)

theorem askMill_noPlane {i : Instr} {a : Word} {s : State} (h : a.toNat % 128 = 0) (hdead : s.planesDead = true) :
    askMill i a s = takeTrap s (trapOf 0x14 0) := by
  rw [askMill_aligned h]
  unfold orderBefore
  rw [hdead]; rfl

theorem askMill_waitsForMill {i : Instr} {a : Word} {s : State} (h : a.toNat % 128 = 0) (hq : Quiet s) :
    ∃ t, askMill i a s = t ∧ t.cx.wait = some { kind := .mill, instr := i, marks := [], place := none } ∧
      t.cx.strip.forced = true ∧ t.cx.regs = s.cx.regs ∧ t.cx.pc = s.cx.pc ∧ t.mem = s.mem ∧ t.mill = s.mill := by
  obtain ⟨hpend, hheld, hchans, hflights, hlive⟩ := hq
  obtain ⟨t, ht, hj⟩ := orderBefore_rests (.plain (.all 4) fun s => s.waitIn .mill i []) i hlive hchans
  have hready : settled t (Order.all 4) = true := by
    refine settled_of_empty _ (by rw [hj.pend, hpend, hheld]; rfl) ?_
    rw [hj.delivered, hj.cur, (delivered_iff s s.cur).2 hflights]
  have hgo : askMill i a s = (acceptNow t (Order.all 4)).waitIn .mill i [] := by
    rw [askMill_aligned h, ht, Pending.settle_ready i (by rw [hj.planesDead, hlive]) (by rwa [Pending.plain_ready])]
    rfl
  have hcx : ((acceptNow t (Order.all 4)).waitIn .mill i []).cx = _ := State.cx_mapCx _ _
  have hacc : (acceptNow t (Order.all 4)).cx = _ := State.cx_mapCx _ _
  rw [hacc] at hcx
  refine ⟨_, hgo, ?_, ?_, ?_, ?_, hj.mem, hj.mill⟩ <;> rw [hcx]
  · exact hj.forced
  · exact hj.regs
  · exact hj.pc

theorem askMill_waitsForWrites {i : Instr} {a : Word} {s : State} (h : a.toNat % 128 = 0) (hlive : s.planesDead = false)
    (hchans : ∀ k < 4, (s.cx.chan k).cmds = [] ∧ (s.cx.chan k).cause = 0) {w : Write} (hw : w ∈ s.cx.pend ++ s.cx.held)
    (hstrm : w.strm < 8) :
    ∃ t, askMill i a s = t ∧ t.cx.wait = some { kind := .order, instr := i, marks := [], place := none } ∧
      t.cx.held = [] ∧ t.cx.pend = s.cx.pend ++ s.cx.held ∧ t.mill = s.mill := by
  obtain ⟨t, ht, hj⟩ := orderBefore_rests (.plain (.all 4) fun s => s.waitIn .mill i []) i hlive hchans
  have hnamed : (Order.all 4).names w = true := by
    unfold Order.names
    generalize w.strm = n at hstrm
    interval_cases n <;> rfl
  have hgo : askMill i a s = (Pending.plain (.all 4) fun s => s.waitIn .mill i []).wait i [] t := by
    rw [askMill_aligned h, ht, Pending.settle_waits i (by rw [hj.planesDead, hlive])]
    rw [Pending.plain_ready]
    exact not_settled_of_named (by decide) (by rwa [hj.pend]) hnamed
  have hcx : ((Pending.plain (.all 4) fun s => s.waitIn .mill i []).wait i [] t).cx = _ := State.cx_mapCx _ _
  refine ⟨_, hgo, ?_, ?_, ?_, hj.mill⟩ <;> rw [hcx]
  · rfl
  · exact hj.held
  · exact hj.pend

theorem millRequestsReleaseAndWait : MillRequestsReleaseAndWait := by
  intro s r i hi
  have hask : exec i s = .next (askMill i (s.cx.reg r) s) := by
    rcases List.mem_cons.1 hi with rfl | hi
    · rfl
    · obtain rfl := List.mem_singleton.1 hi; rfl
  rw [hask]
  refine ⟨fun h => by rw [askMill_misaligned h], fun h => ⟨fun hd => by rw [askMill_noPlane h hd], fun hq => ?_, ?_⟩⟩
  · obtain ⟨t, ht, hpost⟩ := askMill_waitsForMill (i := i) h hq
    exact ⟨t, congrArg _ ht, hpost⟩
  · rintro hlive hchans ⟨w, hw, hstrm⟩
    obtain ⟨t, ht, hpost⟩ := askMill_waitsForWrites (i := i) h hlive hchans hw hstrm
    exact ⟨t, congrArg _ ht, hpost⟩

end Sys2Proof.Machine
end

section
/-! SUPPORT. A context that becomes free (R40, R208). -/

namespace Sys2Proof.Machine

/-! ### Bands let go of -/

theorem Tile.setBands_getD (bs : List Nat) (t : Tile) (h : Option Holder) {b : Nat} (hb : b < 4) :
    (bs.foldl (fun t b => t.setBand b h) t).bands.toList.getD b none = if b ∈ bs then h else t.bands.toList.getD b none := by
  induction bs generalizing t with
  | nil => rfl
  | cons a bs ih =>
    rw [List.foldl_cons, ih (t.setBand a h)]
    by_cases hm : b ∈ bs
    · rw [if_pos hm, if_pos (List.mem_cons_of_mem a hm)]
    · rw [if_neg hm]
      have hset : (t.setBand a h).bands.toList.getD b none = if a = b then h else t.bands.toList.getD b none := by
        show (t.bands.setIfInBounds a h).toList.getD b none = _
        simp only [Vector.toList_setIfInBounds, List.getD_eq_getElem?_getD, List.getElem?_set, Vector.length_toList]
        split
        · rename_i hab
          rw [if_pos (hab ▸ hb)]; rfl
        · rfl
      rw [hset]
      by_cases hab : a = b
      · rw [if_pos hab, if_pos (hab ▸ List.mem_cons_self)]
      · rw [if_neg hab, if_neg (by simp [hm, Ne.symm hab])]

theorem Tile.takeBands_getD (bs : List Nat) (t : Tile) (h : Option Holder) {b : Nat} (hb : b < 4) :
    (t.takeBands bs h).bands.toList.getD b none = if b ∈ bs then h else t.bands.toList.getD b none :=
  Tile.setBands_getD bs t h hb

theorem Tile.mem_bandsOf (t : Tile) (h : Holder) (b : Nat) :
    b ∈ t.bandsOf h ↔ b < 4 ∧ t.bands.toList.getD b none = some h := by
  simp [Tile.bandsOf]

/-! ### Everything of a context let go of -/

theorem withdraw_of_none {s : State} (c : Nat) (hreq : s.fab.requests = []) (hwait : s.fab.waiting = [])
    (hrep : s.fab.replies = []) : withdraw c s = s := by
  have hfab : { s.fab with requests := [], waiting := [], replies := [] } = s.fab := by
    generalize s.fab = f at hreq hwait hrep ⊢
    cases f
    cases hreq; cases hwait; cases hrep; rfl
  unfold withdraw withdrawAll
  rw [hreq, hwait, hrep]
  exact congrArg (fun f => { s with fab := f }) hfab

section
variable (s : State) (c : Nat)

/-- The tile of a context when it lets go of everything. -/
theorem releaseAll_tile :
    ((releaseAll s c).tileAt (tileOf c)).bands =
        ((((withdraw c s).tileAt (tileOf c)).takeBands (((withdraw c s).tileAt (tileOf c)).bandsOf (.ctx c)) none)).bands ∧
      ((releaseAll s c).tileAt (tileOf c)).slots =
        ((((withdraw c s).tileAt (tileOf c)).takeBands (((withdraw c s).tileAt (tileOf c)).bandsOf (.ctx c)) none)).slots.map
          fun e => (e.1, if e.2.holder = some (.ctx c) then { e.2 with holder := none, released := false } else e.2) := by
  unfold releaseAll
  dsimp only
  rw [show ∀ (u : State) (x : Context), (u.setCtx c x).tileAt (tileOf c) = u.tileAt (tileOf c) from fun _ _ => rfl,
    State.tileAt_setTile, if_pos rfl]
  exact ⟨rfl, rfl⟩

theorem releaseAll_bands (b : Nat) (hb : b < 4) :
    ((releaseAll s c).tileAt (tileOf c)).bands.toList.getD b none ≠ some (.ctx c) := by
  rw [(releaseAll_tile s c).1, Tile.takeBands_getD _ _ _ hb]
  split
  · exact Option.some_ne_none _ |>.symm
  · rename_i hm
    exact fun h => hm ((Tile.mem_bandsOf ..).2 ⟨hb, h⟩)

theorem releaseAll_slots (f : Nat) : (((releaseAll s c).tileAt (tileOf c)).slot f).holder ≠ some (.ctx c) := by
  unfold Tile.slot
  rw [(releaseAll_tile s c).2, tabGet_map
    (f := fun k : Slot => if k.holder = some (.ctx c) then { k with holder := none, released := false } else k) rfl]
  split
  · exact Option.some_ne_none _ |>.symm
  · assumption

theorem releaseAll_ctxAt_ne {n : Nat} (hn : n ≠ c) : (releaseAll s c).ctxAt n = (withdraw c s).ctxAt n := by
  unfold releaseAll
  dsimp only
  rw [State.ctxAt_setCtx, if_neg hn]; rfl

theorem releaseAll_mill : (releaseAll s c).mill = (withdraw c s).mill := rfl

theorem releaseAll_cur : (releaseAll s c).cur = (withdraw c s).cur := rfl

theorem Context.releaseTo_zero (x : Context) : (x.releaseTo 0).lanes = 0 := by
  unfold Context.releaseTo
  split
  · rfl
  · omega

theorem Context.releaseTo_rest (x : Context) (n : Nat) :
    x.releaseTo n = { x with lanes := (x.releaseTo n).lanes, vregs := (x.releaseTo n).vregs } := by
  unfold Context.releaseTo; split <;> rfl

/-- A context that has let go of everything: no task, lanes, groups, loops, calls or handler; its registers, committed writes and
space are as they were. -/
structure Context.LetGo (x y : Context) : Prop where
  task : y.task = none
  start : y.start = none
  lanes : y.lanes = 0
  ill : y.vtype.ill = true
  mgCount : y.mgCount = 0
  sup : y.sup = false
  cvy : y.cvy = none
  wait : y.wait = none
  loops : y.loops = []
  entries : y.ret.entries = []
  trap : y.trap = { x.trap with task := false, cocoon := false }
  held : y.held = []
  evict : y.evict = false
  saving : y.saving = false
  ended : y.ended = false
  notice : y.notice = none
  slots : ∀ k, y.slot k = .empty
  pend : y.pend = x.pend
  regs : y.regs = x.regs
  saveKind : y.saveKind = x.saveKind

theorem Context.slot_of_replicate {x : Context} (h : x.recv = Vector.replicate 4 .empty) (k : Nat) : x.slot k = .empty := by
  unfold Context.slot
  rw [h]
  match k with
  | 0 | 1 | 2 | 3 => rfl
  | _ + 4 => rfl

theorem releaseAll_letsGo : ((withdraw c s).ctxAt c).LetGo ((releaseAll s c).ctxAt c) := by
  unfold releaseAll
  dsimp only
  rw [State.ctxAt_setCtx_self, show ∀ (u : State) (n : Nat) (t : Tile), (u.setTile n t).ctxAt c = u.ctxAt c from fun _ _ _ => rfl,
    Context.releaseTo_rest]
  exact
    { task := rfl, start := rfl, lanes := Context.releaseTo_zero _, ill := rfl, mgCount := rfl, sup := rfl, cvy := rfl, wait := rfl
      loops := rfl, entries := rfl, trap := rfl, held := rfl, evict := rfl, saving := rfl, ended := rfl, notice := rfl
      slots := Context.slot_of_replicate rfl, pend := rfl, regs := rfl, saveKind := rfl }

end

end Sys2Proof.Machine
end

section
/-! PROOF. TEND (R40, R208, R362). -/

namespace Sys2Proof.Machine

open Sys2Proof.Spec

theorem tendChannels_unstopped (ks : List Nat) {s : State} (h : ∀ k ∈ ks, (s.cx.chan k).cause = 0) :
    tendChannels ks s = (s, true) := by
  induction ks with
  | nil => rfl
  | cons k ks ih =>
    have hk : (s.cx.chan k).stopped = false := by unfold CopyChan.stopped; rw [h k List.mem_cons_self]; rfl
    unfold tendChannels
    simp only [hk, Bool.false_and, Bool.false_eq_true, if_false]
    exact ih fun k hk => h k (List.mem_cons_of_mem _ hk)

theorem waitTend_unstopped {s : State} (h : ∀ k < 4, (s.cx.chan k).cause = 0) (hlive : s.planesDead = false) :
    waitTend s = if tendDone s then endTask s else s.waitIn .tend .tend [] := by
  have hnone : (List.range 4).find? (fun k => (s.cx.chan k).stopped) = none :=
    List.find?_eq_none.2 fun k hk => by
      unfold CopyChan.stopped
      rw [h k (List.mem_range.1 hk)]; decide
  unfold waitTend tendStuck
  rw [hnone, hlive]; rfl

/-- TEND by a task with no channel stopped and a plane live. -/
theorem exec_tend {s : State} (htask : s.cx.sup = false ∨ s.cx.trap.task = true) (h : ∀ k < 4, (s.cx.chan k).cause = 0)
    (hlive : s.planesDead = false) :
    exec .tend s = .next (if tendDone (forceCommit s) then endTask (forceCommit s)
      else (forceCommit s).waitIn .tend .tend []) := by
  have hcause (k : Nat) (hk : k < 4) : ((forceCommit s).cx.chan k).cause = 0 := by rw [forceCommit_chan, h k hk]
  have hallowed : (s.cx.sup && !s.cx.trap.task) = false := by rcases htask with h | h <;> simp [h]
  show execTend s = _
  unfold execTend
  rw [hallowed, if_neg Bool.false_ne_true]
  dsimp only
  rw [tendChannels_unstopped [0, 1, 2, 3] (fun k hk => hcause k (by simp at hk; omega)),
    waitTend_unstopped hcause (by rw [forceCommit_planesDead, hlive])]
  rfl

theorem Context.mem_chans {x : Context} {ch : CopyChan} (h : ch ∈ x.chans.toList) : ∃ k < 4, x.chan k = ch := by
  obtain ⟨k, hk, rfl⟩ := List.mem_iff_getElem.1 h
  refine ⟨k, by simpa using hk, ?_⟩
  unfold Context.chan
  rw [List.getD_eq_getElem?_getD, List.getElem?_eq_getElem hk]; rfl

theorem Context.chan_mem {x : Context} {k : Nat} (hk : k < 4) : x.chan k ∈ x.chans.toList := by
  unfold Context.chan
  rw [List.getD_eq_getElem?_getD, List.getElem?_eq_getElem (by simpa using hk)]
  exact List.getElem_mem _

theorem tendDone_iff (s : State) :
    tendDone s = true ↔ s.cx.pend = [] ∧ (∀ k < 4, (s.cx.chan k).cmds = []) ∧ s.delivered s.cur = true := by
  unfold tendDone
  simp only [Bool.and_eq_true, List.isEmpty_iff, List.all_eq_true, and_assoc]
  refine and_congr_right fun _ => and_congr_left fun _ => ⟨fun h k hk => h _ (Context.chan_mem hk), fun h ch hch => ?_⟩
  obtain ⟨k, hk, rfl⟩ := Context.mem_chans hch
  exact h k hk

/-- The task of the current context has ended: the context has let go of everything, of its tile too, and the retirement is on
its way to the mill. -/
structure TaskEnded (s t : State) (h : HeldTask) : Prop where
  gone : s.cx.LetGo t.cx
  bands : ∀ b < 4, (t.tileAt (tileOf s.cur)).bands.toList.getD b none ≠ some (.ctx s.cur)
  slots : ∀ f, ((t.tileAt (tileOf s.cur)).slot f).holder ≠ some (.ctx s.cur)
  mill : t.mill = { s.mill with ends := s.mill.ends ++ [{ ctx := s.cur, task := h }] }
  mem : t.mem = s.mem
  others : ∀ c, c ≠ s.cur → t.ctxAt c = s.ctxAt c

theorem Context.LetGo.of_retire {x y : Context} (h : x.retire.LetGo y) : x.LetGo y := by
  rw [Context.retire_eq] at h
  exact { h with }

/-- A task ends whose context has asked for no grant, where no request waits at this node. -/
theorem endTask_ends {s : State} {h : HeldTask} (ht : s.cx.task = some h) (hreq : s.fab.requests = [])
    (hwait : s.fab.waiting = []) (hrep : s.fab.replies = []) : TaskEnded s (endTask s) h := by
  have hw : withdraw s.cur (s.mapCx (·.retire)) = s.mapCx (·.retire) := withdraw_of_none s.cur hreq hwait hrep
  have hend : endTask s = { releaseAll (s.mapCx (·.retire)) s.cur with
      mill := { s.mill with ends := s.mill.ends ++ [{ ctx := s.cur, task := h }] } } := by
    unfold endTask
    dsimp only
    rw [ht]
    dsimp only
    rw [releaseAll_mill, hw]; rfl
  have hgone := releaseAll_letsGo (s.mapCx (·.retire)) s.cur
  have hbands := releaseAll_bands (s.mapCx (·.retire)) s.cur
  have hslots := releaseAll_slots (s.mapCx (·.retire)) s.cur
  have hmem := releaseAll_mem (s.mapCx (·.retire)) s.cur
  have hothers (c : Nat) (hc : c ≠ s.cur) : (releaseAll (s.mapCx (·.retire)) s.cur).ctxAt c = s.ctxAt c := by
    rw [releaseAll_ctxAt_ne _ _ hc, hw, State.ctxAt_mapCx, if_neg hc]
  have hcur : (releaseAll (s.mapCx (·.retire)) s.cur).cur = s.cur := by rw [releaseAll_cur, hw]; rfl
  rw [hw, State.ctxAt_mapCx, if_pos rfl] at hgone
  rw [hend]
  generalize releaseAll (s.mapCx (·.retire)) s.cur = v at hgone hbands hslots hmem hothers hcur
  rw [← hcur] at hgone
  exact { gone := hgone.of_retire, bands := hbands, slots := hslots, mill := rfl, mem := hmem, others := hothers }

/-- With nothing of the context under way the forced commit leaves nothing to wait for. -/
theorem tendDone_of_quiet {s : State} (hq : Quiet s) : tendDone (forceCommit s) = true := by
  obtain ⟨hpend, hheld, hchans, hflights, -⟩ := hq
  refine (tendDone_iff _).2 ⟨?_, fun k hk => by rw [forceCommit_chan, (hchans k hk).1],
    by rw [forceCommit_delivered, forceCommit_cur, (delivered_iff s s.cur).2 hflights]⟩
  rw [forceCommit_cx]
  show s.cx.pend ++ s.cx.held = []
  rw [hpend, hheld]; rfl

theorem tend_ends {s : State} {h : HeldTask} (htask : s.cx.sup = false ∨ s.cx.trap.task = true) (ht : s.cx.task = some h)
    (hq : Quiet s) (hreq : s.fab.requests = []) (hwait : s.fab.waiting = []) (hrep : s.fab.replies = []) :
    ∃ t, exec .tend s = .next t ∧ TaskEnded (forceCommit s) t h := by
  have hfab : (forceCommit s).fab = s.fab := by rw [forceCommit_rest]
  refine ⟨endTask (forceCommit s), ?_, endTask_ends (by rw [forceCommit_cx]; exact ht) (by rw [hfab, hreq])
    (by rw [hfab, hwait]) (by rw [hfab, hrep])⟩
  obtain ⟨-, -, hchans, -, hlive⟩ := id hq
  rw [exec_tend htask (fun k hk => (hchans k hk).2) hlive, if_pos (tendDone_of_quiet hq)]

theorem tendEndsTheTask : TendEndsTheTask := by
  intro s
  refine ⟨fun hsup htask => ?privileged, fun htask => ⟨fun h ht hq hreq hwait hrep => ?ends, fun hlive hcause hbusy => ?waits⟩⟩
  case privileged =>
    show execTend s = _
    unfold execTend
    rw [hsup, htask]; rfl
  case ends =>
    obtain ⟨t, hexec, hend⟩ := tend_ends htask ht hq hreq hwait hrep
    obtain ⟨hpend, hheld, -⟩ := hq
    obtain ⟨hgone, hbands, hslots, hmill, hmem, hothers⟩ := hend
    rw [forceCommit_cx] at hgone
    rw [forceCommit_cur] at hbands hslots hothers
    rw [forceCommit_mill, forceCommit_cur] at hmill
    refine ⟨t, hexec, hgone.task, hgone.lanes, hgone.ill, hgone.mgCount, hgone.sup, hgone.cvy, hgone.wait, hgone.loops,
      hgone.entries, congrArg (·.task) hgone.trap, congrArg (·.cocoon) hgone.trap, hgone.held, ?_,
      fun k _ => hgone.slots k, hbands, hslots, hmill, hmem.trans (forceCommit_mem s), hgone.regs,
      fun c hc => (hothers c hc).trans (forceCommit_ctxAt s hc)⟩
    exact hgone.pend.trans (by dsimp only; rw [hpend, hheld]; rfl)
  case waits =>
    have hexec := exec_tend htask hcause hlive
    have hbusy' : tendDone (forceCommit s) ≠ true := by
      rw [Ne, tendDone_iff]
      rintro ⟨hp, hc, -⟩
      rcases hbusy with h | ⟨k, hk, h⟩
      · rw [forceCommit_cx] at hp; exact h hp
      · exact h (by rw [← forceCommit_chan, hc k hk])
    rw [if_neg hbusy'] at hexec
    have hcx : ((forceCommit s).waitIn .tend .tend []).cx = _ := State.cx_mapCx _ _
    rw [forceCommit_cx] at hcx
    refine ⟨_, hexec, ?_, ?_, ?_, ?_, ?_, forceCommit_mill s, forceCommit_mem s⟩ <;> rw [hcx]

end Sys2Proof.Machine
end

section
/-! PROOF. O36: tasks request and end. -/

namespace Sys2Proof

open Sys2Proof.Machine Sys2Proof.Spec

/-- Settles O36: GSPAWN and GSIG by what a release does when the channels rest, TEND by what a context that lets go of
everything keeps. -/
theorem tasksRequestAndEnd : Obligations.TasksRequestAndEnd := ⟨millRequestsReleaseAndWait, tendEndsTheTask⟩

end Sys2Proof
end

section
/-! SUPPORT. A context put back, and a copy channel that takes a command (R182 to R188 engines). -/

namespace Sys2Proof.Machine

/-! ### The last of two changes of one context stands -/

theorem tabSet_tabSet {α : Type} (t : Tab α) (i : Nat) (x y : α) : tabSet (tabSet t i x) i y = tabSet t i y := by
  induction t with
  | nil => simp [tabSet]
  | cons e t ih =>
    obtain ⟨k, v⟩ := e
    rcases lt_trichotomy i k with h | rfl | h
    · simp [tabSet, h]
    · simp [tabSet]
    · simp [tabSet, not_lt.2 h.le, h.ne', ih]

theorem State.setCx_setCx (s : State) (x y : Context) : (s.setCx x).setCx y = s.setCx y :=
  congrArg (fun t => { s with ctxs := t }) (tabSet_tabSet s.ctxs s.cur x y)

theorem State.mapCx_setCx_self (s : State) (f : Context → Context) : (s.setCx s.cx).mapCx f = s.mapCx f := by
  unfold State.mapCx
  rw [State.cx_setCx, State.setCx_setCx]

theorem State.mapCx_mapCx (s : State) (f g : Context → Context) : (s.mapCx f).mapCx g = s.mapCx fun x => g (f x) := by
  unfold State.mapCx
  rw [State.cx_setCx, State.setCx_setCx]

theorem Context.setChan_self (x : Context) (k : Nat) : x.setChan k (x.chan k) = x := by
  have h : x.chans.setIfInBounds k (x.chan k) = x.chans := by
    apply Vector.ext
    intro i hi
    rw [Vector.getElem_setIfInBounds]
    split
    · rename_i hk
      subst hk
      unfold Context.chan
      rw [List.getD_eq_getElem?_getD, List.getElem?_eq_getElem (by simpa using hi)]; simp
    · rfl
  unfold Context.setChan
  rw [h]

/-- A precise trap of a machine whose current context was put back is one of the machine. -/
theorem takeTrap_setCx_self (s : State) {t : Trap} (h : t.queued = false) : takeTrap (s.setCx s.cx) t = takeTrap s t := by
  have hat (epc : Word) : takeTrapAt (s.setCx s.cx) t epc [] [] = takeTrapAt s t epc [] [] := by
    unfold takeTrapAt doubleTrap
    rw [h, State.cx_setCx]
    simp only [Bool.false_eq_true, if_false, State.mapCx_setCx_self]
  unfold takeTrap
  simp only [State.cx_setCx, State.setCx_setCx]
  cases s.cx.cvy with
  | none => exact hat _
  | some v => rfl

/-! ### XDONE advances (R183, R188 engines) -/

/-- A command has completed. -/
def CopyCmd.isDone (m : CopyCmd) : Bool := m.st == .completed

theorem advanceDone_chan (c : CopyChan) (ms : List CopyCmd) :
    (advanceDone c ms).1 = { c with
      cmds := ms.dropWhile CopyCmd.isDone
      done := ((ms.takeWhile CopyCmd.isDone).getLast?.map (·.id)).getD c.done } := by
  induction ms generalizing c with
  | nil => rfl
  | cons m ms ih =>
    by_cases h : m.st = .completed
    · have hd : m.isDone = true := by simp [CopyCmd.isDone, h]
      rw [List.dropWhile_cons_of_pos hd, List.takeWhile_cons_of_pos hd]
      unfold advanceDone
      rw [if_pos h, ih, List.getLast?_cons]
      cases (ms.takeWhile CopyCmd.isDone).getLast? <;> rfl
    · have hd : ¬ m.isDone = true := by simpa [CopyCmd.isDone] using h
      rw [List.dropWhile_cons_of_neg hd, List.takeWhile_cons_of_neg hd]
      unfold advanceDone
      rw [if_neg h]; rfl

/-- Copy completions noted change the pending interrupts alone. -/
def NotesOnly (x y : Context) : Prop := y = { x with ui := y.ui, wake := y.wake, defer := y.defer }

theorem Context.noteCopy_notesOnly (x : Context) (v : Word) : NotesOnly x (x.noteCopy v) := by
  unfold Context.noteCopy
  split <;> rfl

theorem foldl_noteCopy_notesOnly (k : Nat) (ids : List (BitVec 32)) (x : Context) :
    NotesOnly x (ids.foldl (fun y id => y.noteCopy (copyValue k id)) x) := by
  induction ids generalizing x with
  | nil => rfl
  | cons id ids ih =>
    have h := x.noteCopy_notesOnly (copyValue k id)
    have g := ih (x.noteCopy (copyValue k id))
    unfold NotesOnly at *
    rw [List.foldl_cons, g, h]

/-- What a channel is once XDONE has advanced over its completed commands: joins that all commands have passed are gone. -/
def CopyChan.advanced (c : CopyChan) : CopyChan :=
  let r := (advanceDone c c.cmds).1
  { r with joins := r.joins.filter fun j => !r.doneBefore j }

theorem Context.advance_notesOnly (x : Context) (k : Nat) : NotesOnly (x.setChan k (x.chan k).advanced) (x.advance k) :=
  foldl_noteCopy_notesOnly k _ _

theorem CopyChan.advanced_next (c : CopyChan) : c.advanced.next = c.next := by
  unfold CopyChan.advanced; rw [advanceDone_chan]

theorem CopyChan.advanced_cmds (c : CopyChan) : c.advanced.cmds = c.cmds.dropWhile CopyCmd.isDone := by
  unfold CopyChan.advanced; rw [advanceDone_chan]

theorem CopyChan.advanced_done (c : CopyChan) :
    c.advanced.done = ((c.cmds.takeWhile CopyCmd.isDone).getLast?.map (·.id)).getD c.done := by
  unfold CopyChan.advanced; rw [advanceDone_chan]

end Sys2Proof.Machine
end

section
/-! PROOF. XCOPY (R40, R184, R186, R187, R210). -/

namespace Sys2Proof.Machine

open Sys2Proof.Spec

/-! ### Its checks -/

section
variable {s : State} {d a b l : BitVec 5} {c : BitVec 2} {n : BitVec 1}

theorem copyReq_legal_iff : (copyReq d a b c n l s.cx).legal s.cx = true ↔
    s.cx.width ≠ 4 ∧ s.cx.vcols ≤ 8 ∧ dimCount (layoutDims s.cx l) * (s.cx.width / 8) < 2 ^ 40 := by
  simp only [CopyReq.legal, copyReq, Bool.and_eq_true, and_assoc]
  exact and_congr decide_eq_true_iff (and_congr decide_eq_true_iff decide_eq_true_iff)

theorem xcopy_check (hi : Issues s [l] l 0) (ok : Bool) :
    s.cx.vectorCheck (wordOf (.xcopy d a b c n l)) [l.toNat] none false ok =
      if ok = true then none else some (illegalWord s (.xcopy d a b c n l)) := by
  obtain ⟨hill, hgroup, -⟩ := hi
  have hl : l.toNat % s.cx.group = 0 := hgroup l (List.mem_singleton_self l)
  unfold Context.vectorCheck
  rw [hill]
  cases ok <;> simp [hl, illegalWord, trapOf, Context.illegalType, Trap.issue, wordOf]

theorem exec_xcopy_illegal (hi : Issues s [l] l 0)
    (h : s.cx.width = 4 ∨ 8 < s.cx.vcols ∨ 2 ^ 40 ≤ dimCount (layoutDims s.cx l) * (s.cx.width / 8)) :
    exec (.xcopy d a b c n l) s = .next (takeTrap s (illegalWord s (.xcopy d a b c n l))) := by
  have hno : ¬ (copyReq d a b c n l s.cx).legal s.cx = true := by rw [copyReq_legal_iff]; omega
  show execXcopy d a b c n l s = _
  unfold execXcopy
  dsimp only
  rw [xcopy_check hi, if_neg hno]

variable (hi : Issues s [l] l 0) (hw : s.cx.width ≠ 4) (hv : s.cx.vcols ≤ 8)
  (hsize : dimCount (layoutDims s.cx l) * (s.cx.width / 8) < 2 ^ 40)
include hi hw hv hsize

theorem exec_xcopy_legal : exec (.xcopy d a b c n l) s =
    match (copyReq d a b c n l s.cx).misaligned s.cx with
    | some v => .next (takeTrap s (trapOf 0x04 v))
    | none =>
      if s.planesDead then .next (takeTrap s (trapOf 0x14 0))
      else .next (enterChannel (.xcopy d a b c n l) (copyReq d a b c n l s.cx)
        ((forceCommit s).mapCx (·.capture [l.toNat]))) := by
  show execXcopy d a b c n l s = _
  unfold execXcopy
  dsimp only
  rw [xcopy_check hi, if_pos (copyReq_legal_iff.2 ⟨hw, hv, hsize⟩)]
  dsimp only
  cases (copyReq d a b c n l s.cx).misaligned s.cx <;> rfl

end

/-! ### Its channel -/

/-- A channel that is not stopped takes the command, or holds it up where it is full. -/
theorem enterChannel_unstopped {s : State} (i : Instr) (r : CopyReq) (h : (s.cx.chan r.chan).cause = 0) :
    enterChannel i r s = if (s.cx.chan r.chan).full then (s.setCx s.cx).waitIn .room i [] else enqueue r (s.setCx s.cx) := by
  have hstop : (s.cx.chan r.chan).stopped = false := by unfold CopyChan.stopped; rw [h]; rfl
  have hsame : s.mapCx (·.setChan r.chan (s.cx.chan r.chan)) = s.setCx s.cx :=
    congrArg s.setCx (Context.setChan_self s.cx r.chan)
  unfold enterChannel
  simp only [hstop, Bool.false_and, Bool.false_eq_true, if_false, hsame]

/-- The strip of an XCOPY or SEND has been committed by force, and the registers that it reads are captured. -/
theorem capturing_cx (s : State) (regs : List Nat) :
    ((forceCommit s).mapCx (·.capture regs)).cx = { s.cx with
      held := [], pend := s.cx.pend ++ s.cx.held
      strip := { (forceCommit s).cx.strip with
        captured := ((forceCommit s).mapCx (·.capture regs)).cx.strip.captured }
      ckpt := s.cx.checkpoint s.cx.convoyStart } := by
  rw [State.cx_mapCx]
  unfold Context.capture
  rw [forceCommit_cx]

theorem CopyReq.command_eq (r : CopyReq) (x : Context) (id : BitVec 32) :
    r.command x id =
      { id := id, src := r.src, dst := r.dst, esz := x.width / 8, dims := layoutDims x r.layout, notify := r.notify
        space := x.space, sup := x.sup
        st := if x.zeroShape = true ∨ layoutDims x r.layout = [] ∨ dimCount (layoutDims x r.layout) = 0 then .completed
          else .queued } := by
  unfold CopyReq.command CopyCmd.empty
  dsimp only
  by_cases h : x.zeroShape = true ∨ layoutDims x r.layout = [] ∨ dimCount (layoutDims x r.layout) = 0
  · rw [if_pos h, if_pos (by simpa using h)]
  · rw [if_neg h, if_neg (by simpa using h)]

/-- A context whose channel has taken a command and completed what has completed, with the identifier in a register. -/
def Context.enqueued (x : Context) (r : CopyReq) : Context :=
  let c := x.chan r.chan
  ((x.setChan r.chan { c with next := c.next + 1, cmds := c.cmds ++ [r.command x c.next] }).advance r.chan).setReg r.d
    (.ofNat 64 c.next.toNat)

theorem enqueue_eq (r : CopyReq) (s : State) : enqueue r s = s.mapCx fun x => (x.enqueued r).retire := rfl

theorem Context.setReg_rest (x : Context) (d : BitVec 5) (v : Word) : x.setReg d v = { x with regs := (x.setReg d v).regs } := by
  unfold Context.setReg; split <;> rfl

theorem Context.advance_rest (x : Context) (k : Nat) : x.advance k = { x with
    chans := (x.advance k).chans, ui := (x.advance k).ui, wake := (x.advance k).wake, defer := (x.advance k).defer } := by
  have h := x.advance_notesOnly k
  unfold NotesOnly at h
  rw [h]; rfl

theorem Context.advance_chan (x : Context) {k : Nat} (hk : k < 4) (n : Nat) :
    (x.advance k).chan n = if n = k then (x.chan k).advanced else x.chan n := by
  have h : (x.advance k).chan n = (x.setChan k (x.chan k).advanced).chan n := by
    have hn := x.advance_notesOnly k
    unfold NotesOnly at hn
    rw [hn]; rfl
  rw [h, Context.chan_setChan]
  simp [hk]

/-- But for the channel, the register and what a notification may raise, the context is as before. -/
theorem Context.enqueued_rest (x : Context) (r : CopyReq) : x.enqueued r = { x with
    chans := (x.enqueued r).chans, regs := (x.enqueued r).regs, ui := (x.enqueued r).ui, wake := (x.enqueued r).wake
    defer := (x.enqueued r).defer } := by
  unfold Context.enqueued
  dsimp only
  rw [Context.setReg_rest, Context.advance_rest]; rfl

theorem Context.enqueued_chan (x : Context) {r : CopyReq} (hk : r.chan < 4) (n : Nat) : (x.enqueued r).chan n =
    if n = r.chan then
      { x.chan r.chan with
        next := (x.chan r.chan).next + 1
        cmds := (x.chan r.chan).cmds ++ [r.command x (x.chan r.chan).next] }.advanced
    else x.chan n := by
  unfold Context.enqueued
  dsimp only
  show Context.chan (Context.setReg _ _ _) n = _
  rw [show ∀ (y : Context) (d : BitVec 5) (v : Word), (y.setReg d v).chan n = y.chan n from fun y d v => by
    unfold Context.chan; rw [Context.setReg_rest], Context.advance_chan _ hk]
  simp only [Context.chan_setChan, hk, and_true, if_true]
  split <;> rfl

theorem Context.enqueued_reg (x : Context) (r : CopyReq) (n : BitVec 5) :
    (x.enqueued r).reg n = if n = 0 then 0 else if n = r.d then (x.chan r.chan).next.setWidth 64 else x.reg n := by
  have hreg : ∀ y : Context, y.regs = x.regs → y.reg n = x.reg n := fun y hy => by unfold Context.reg; rw [hy]
  unfold Context.enqueued
  dsimp only
  rw [Context.reg_setReg, hreg _ (by rw [Context.advance_rest]; rfl), BitVec.ofNat_toNat]
  by_cases h0 : n = 0
  · subst h0
    rw [if_pos rfl, if_neg (by rintro ⟨h, hd⟩; exact hd h.symm)]; rfl
  · rw [if_neg h0]
    by_cases hd : n = r.d
    · rw [if_pos hd, if_pos ⟨hd, hd ▸ h0⟩]
    · rw [if_neg hd, if_neg (by tauto)]

/-! ### What it does to its context -/

section
variable {s : State} {d a b l : BitVec 5} {c : BitVec 2} {n : BitVec 1}

theorem capturing_chan (s : State) (regs : List Nat) (k : Nat) :
    ((forceCommit s).mapCx (·.capture regs)).cx.chan k = s.cx.chan k := by
  rw [capturing_cx]; rfl

theorem capturing_command (s : State) (regs : List Nat) (r : CopyReq) (id : BitVec 32) :
    r.command ((forceCommit s).mapCx (·.capture regs)).cx id = r.command s.cx id := by
  rw [CopyReq.command_eq, CopyReq.command_eq, capturing_cx]; rfl

/-- The context of an XCOPY whose channel takes its command, before it retires. -/
def xcopyContext (s : State) (l : BitVec 5) (r : CopyReq) : Context :=
  ((forceCommit s).mapCx (·.capture [l.toNat])).cx.enqueued r

theorem xcopyContext_rest (s : State) (l : BitVec 5) (r : CopyReq) : xcopyContext s l r = { s.cx with
    held := [], pend := s.cx.pend ++ s.cx.held, strip := (xcopyContext s l r).strip, ckpt := (xcopyContext s l r).ckpt
    chans := (xcopyContext s l r).chans, regs := (xcopyContext s l r).regs, ui := (xcopyContext s l r).ui
    wake := (xcopyContext s l r).wake, defer := (xcopyContext s l r).defer } := by
  unfold xcopyContext
  rw [Context.enqueued_rest, capturing_cx]

theorem xcopyContext_forced (s : State) (l : BitVec 5) (r : CopyReq) : (xcopyContext s l r).strip.forced = true := by
  unfold xcopyContext
  rw [Context.enqueued_rest, capturing_cx]
  show (forceCommit s).cx.strip.forced = true
  rw [forceCommit_cx]

theorem xcopyContext_reg (s : State) (l : BitVec 5) (r : CopyReq) (m : BitVec 5) : (xcopyContext s l r).reg m =
    if m = 0 then 0 else if m = r.d then (s.cx.chan r.chan).next.setWidth 64 else s.cx.reg m := by
  unfold xcopyContext
  rw [Context.enqueued_reg, capturing_chan, capturing_cx]; rfl

theorem xcopyContext_chan (s : State) (l : BitVec 5) {r : CopyReq} (hk : r.chan < 4) (k : Nat) :
    (xcopyContext s l r).chan k =
      if k = r.chan then
        { s.cx.chan r.chan with
          next := (s.cx.chan r.chan).next + 1
          cmds := (s.cx.chan r.chan).cmds ++ [r.command s.cx (s.cx.chan r.chan).next] }.advanced
      else s.cx.chan k := by
  unfold xcopyContext
  rw [Context.enqueued_chan _ hk, capturing_command, capturing_chan, capturing_chan]

/-- A channel with room takes the command. -/
theorem enterChannel_takes {u : State} (i : Instr) {r : CopyReq} (hcause : (u.cx.chan r.chan).cause = 0)
    (hroom : (u.cx.chan r.chan).cmds.length < 16) :
    (enterChannel i r u).mem = u.mem ∧ (enterChannel i r u).cx = (u.cx.enqueued r).retire := by
  have hfull : (u.cx.chan r.chan).full = false := decide_eq_false (by omega)
  rw [enterChannel_unstopped i r hcause, hfull, if_neg Bool.false_ne_true, enqueue_eq, State.cx_mapCx, State.cx_setCx]
  exact ⟨rfl, rfl⟩

/-- A full channel has the instruction wait. -/
theorem enterChannel_waits {u : State} (i : Instr) {r : CopyReq} (hcause : (u.cx.chan r.chan).cause = 0)
    (hfull : 16 ≤ (u.cx.chan r.chan).cmds.length) :
    (enterChannel i r u).mem = u.mem ∧
      (enterChannel i r u).cx = { u.cx with wait := some { kind := .room, instr := i, marks := [], place := none } } := by
  have hfull' : (u.cx.chan r.chan).full = true := decide_eq_true hfull
  rw [enterChannel_unstopped i r hcause, if_pos hfull']
  refine ⟨rfl, (State.cx_mapCx _ _).trans ?_⟩
  rw [State.cx_setCx]

/-- A misaligned value is the first of its addresses and strides that no element starts at. -/
theorem copyReq_misaligned : (copyReq d a b c n l s.cx).misaligned s.cx =
    ((s.cx.reg a) :: (s.cx.reg b) :: ((layoutDims s.cx l).map (·.ss) ++ (layoutDims s.cx l).map (·.ds))).find?
      fun v => v.toNat % (s.cx.width / 8) != 0 := by
  show List.find? _ (([_, _] ++ _) ++ _) = _
  rw [List.append_assoc]; rfl

theorem exec_xcopy_takes (hcause : (s.cx.chan c.toNat).cause = 0) (hroom : (s.cx.chan c.toNat).cmds.length < 16)
    (henter : exec (.xcopy d a b c n l) s = .next (enterChannel (.xcopy d a b c n l) (copyReq d a b c n l s.cx)
      ((forceCommit s).mapCx (·.capture [l.toNat])))) :
    let x := s.cx
    let old := x.chan c.toNat
    let cmds := old.cmds ++ [(copyReq d a b c n l x).command x old.next]
    ∃ t, exec (.xcopy d a b c n l) s = .next t ∧ t.mem = s.mem ∧ WentTo x t.cx x.nextPc ∧
      t.cx.held = [] ∧ t.cx.pend = x.pend ++ x.held ∧ t.cx.strip.forced = true ∧
      (∀ r, t.cx.reg r = if r = 0 then 0 else if r = d then old.next.setWidth 64 else x.reg r) ∧
      (t.cx.chan c.toNat).next = old.next + 1 ∧
      (t.cx.chan c.toNat).cmds = cmds.dropWhile CopyCmd.isDone ∧
      (t.cx.chan c.toNat).done = (((cmds.takeWhile CopyCmd.isDone).getLast?).map (·.id)).getD old.done ∧
      (∀ k, k ≠ c.toNat → t.cx.chan k = x.chan k) ∧ t.cx.vregs = x.vregs ∧ t.cx.conds = x.conds ∧ t.cx.fp = x.fp ∧
      t.cx.trap = x.trap ∧ t.cx.loops = x.loops := by
  intro x old cmds
  obtain ⟨hmem, hcx⟩ := enterChannel_takes (.xcopy d a b c n l) (r := copyReq d a b c n l x)
    (u := (forceCommit s).mapCx (·.capture [l.toNat])) (by rw [capturing_chan]; exact hcause)
    (by rw [capturing_chan]; exact hroom)
  rw [show ((forceCommit s).mapCx (·.capture [l.toNat])).cx.enqueued (copyReq d a b c n l x) =
    xcopyContext s l (copyReq d a b c n l x) from rfl] at hcx
  generalize enterChannel (.xcopy d a b c n l) (copyReq d a b c n l x) ((forceCommit s).mapCx (·.capture [l.toNat])) = t
    at hmem hcx henter
  have hrest := xcopyContext_rest s l (copyReq d a b c n l x)
  have hforced := xcopyContext_forced s l (copyReq d a b c n l x)
  have hreg := xcopyContext_reg s l (copyReq d a b c n l x)
  have hchan := xcopyContext_chan s l (r := copyReq d a b c n l x) c.isLt
  have hself := (hchan c.toNat).trans (if_pos rfl)
  generalize xcopyContext s l (copyReq d a b c n l x) = y at hcx hrest hforced hreg hchan hself
  have hplace : WentTo x y.retire x.nextPc := SamePlace.retired (by rw [hrest]; exact SamePlace.refl _)
  have hret : ∀ k, y.retire.chan k = y.chan k := fun k => by rw [Context.retire_eq]; rfl
  rw [Context.retire_eq] at hcx
  refine ⟨t, henter, hmem.trans (forceCommit_mem s), ?_, ?_, ?_, ?_, fun r => ?_, ?_, ?_, ?_, fun k hk => ?_, ?_, ?_, ?_, ?_, ?_⟩
  · rw [hcx, ← Context.retire_eq]; exact hplace
  · rw [hcx, hrest]
  · rw [hcx, hrest]
  · rw [hcx]; exact hforced
  · rw [hcx]; exact hreg r
  · rw [hcx]; exact (congrArg CopyChan.next hself).trans (CopyChan.advanced_next _)
  · rw [hcx]; exact (congrArg CopyChan.cmds hself).trans (CopyChan.advanced_cmds _)
  · rw [hcx]; exact (congrArg CopyChan.done hself).trans (CopyChan.advanced_done _)
  · rw [hcx]; exact (hchan k).trans (if_neg hk)
  all_goals rw [hcx, hrest]

end

theorem xcopyEnqueuesACommand : XcopyEnqueuesACommand := by
  intro s d a b c n l x i old dims size cmd cmds hi
  have hcmd : cmd = (copyReq d a b c n l x).command x old.next :=
    (CopyReq.command_eq (copyReq d a b c n l x) x old.next).symm
  refine ⟨exec_xcopy_illegal hi, fun hw hv hsize => ?_⟩
  intro strides
  have hlegal := exec_xcopy_legal (d := d) (a := a) (b := b) (c := c) (n := n) hi hw hv hsize
  rw [copyReq_misaligned] at hlegal
  refine ⟨fun v hv => ?_, fun haligned => ?_⟩
  · rw [hlegal, hv]
  · have hnone : ((x.reg a) :: (x.reg b) :: strides).find? (fun v => v.toNat % (x.width / 8) != 0) = none :=
      List.find?_eq_none.2 fun v hv => by rw [haligned v hv]; decide
    rw [hnone] at hlegal
    refine ⟨fun hd => by rw [hlegal]; exact if_pos hd, fun hlive hcause hroom => ?_, fun hlive hcause hfull => ?_⟩
    · rw [show cmds = old.cmds ++ [(copyReq d a b c n l x).command x old.next] by rw [← hcmd]]
      exact exec_xcopy_takes hcause hroom (by rw [hlegal, hlive]; rfl)
    · obtain ⟨hmem, hcx⟩ := enterChannel_waits i (r := copyReq d a b c n l x)
        (u := (forceCommit s).mapCx (·.capture [l.toNat])) (by rw [capturing_chan]; exact hcause)
        (by rw [capturing_chan]; exact hfull)
      refine ⟨_, by rw [hlegal, hlive]; rfl, ?_⟩
      rw [capturing_cx] at hcx
      rw [hcx]
      exact ⟨rfl, rfl, rfl, fun k => rfl, hmem.trans (forceCommit_mem s)⟩

end Sys2Proof.Machine
end

section
/-! PROOF. XWAIT (R184, R189, R190, R210). -/

namespace Sys2Proof.Machine

open Sys2Proof.Spec

theorem exec_xwait (a : BitVec 5) (c : BitVec 2) (s : State) :
    exec (.xwait a c) s = .next (waitId (.xwait a c) c.toNat ((s.cx.reg a).setWidth 32) s) := rfl

theorem waitId_stopped {s : State} {i : Instr} {k : Nat} {id : BitVec 32} (hcause : (s.cx.chan k).cause ≠ 0)
    (hdlv : (s.cx.chan k).dlv = false) : waitId i k id s = deliver s k := by
  have hstop : (s.cx.chan k).stopped = true := by simpa [CopyChan.stopped] using hcause
  unfold waitId
  simp [hstop, hdlv]

/-- XWAIT on a channel that is not stopped goes by its identifier alone. -/
theorem waitId_unstopped {s : State} {i : Instr} {k : Nat} {id : BitVec 32} (hcause : (s.cx.chan k).cause = 0) :
    waitId i k id s =
      if (s.cx.chan k).pending id = false then (s.setCx s.cx).mapCx fun x => { x with early := [] }.retire
      else if s.planesDead = true ∧ (s.cx.chan k).needsPlane s s.cur (id + 1) = true then
        takeTrap (s.setCx s.cx) (trapOf 0x14 0)
      else (s.setCx s.cx).waitIn .xwait i [(k, id)] := by
  have hstop : (s.cx.chan k).stopped = false := by unfold CopyChan.stopped; rw [hcause]; rfl
  have hsame : s.mapCx (·.setChan k (s.cx.chan k)) = s.setCx s.cx := congrArg s.setCx (Context.setChan_self s.cx k)
  unfold waitId
  simp only [hstop, Bool.false_and, Bool.false_eq_true, if_false, hsame, Bool.not_eq_true', Bool.and_eq_true]
  rfl

theorem CopyChan.pending_iff (ch : CopyChan) (id : BitVec 32) :
    ch.pending id = true ↔ (id - ch.done - 1).toNat < (ch.next - ch.done - 1).toNat := decide_eq_true_iff

theorem CopyChan.needsPlane_iff (s : State) (c : Nat) (ch : CopyChan) (j : BitVec 32) : ch.needsPlane s c j = true ↔
    ∃ m ∈ ch.cmds, precedes m.id j = true ∧ m.st ≠ .completed ∧ m.carried s c = false := by
  simp [CopyChan.needsPlane, List.any_eq_true, and_assoc]

theorem xwaitWaitsForItsIdentifier : XwaitWaitsForItsIdentifier := by
  intro s a c x ch id pending needs
  have hneeds : needs ↔ ch.needsPlane s s.cur (id + 1) = true := (CopyChan.needsPlane_iff ..).symm
  have hpending : pending ↔ ch.pending id = true := (CopyChan.pending_iff ..).symm
  refine ⟨fun hcause hp => ?_, fun hcause hp hlive => ?_, fun hcause hp hdead hn => ?_, fun hcause hdlv => ?_⟩
  · have hno : ch.pending id = false := by simpa [hpending] using hp
    have hexec := exec_xwait a c s
    rw [waitId_unstopped hcause, if_pos hno, State.mapCx_setCx_self] at hexec
    obtain ⟨hrest, hothers, hcx⟩ := s.mapCx_hasCx fun x => { x with early := [] }.retire
    have hplace : WentTo x ({ x with early := [] } : Context).retire x.nextPc := SamePlace.retired ⟨rfl, rfl, rfl, rfl⟩
    refine ⟨_, hexec, ⟨hrest, hothers, fun _ => rfl⟩, ?_, ?_, fun k => ?_⟩ <;> rw [hcx]
    · exact hplace
    · rw [Context.retire_eq]
    · rw [Context.retire_eq]; rfl
  · have hmay : ¬ (s.planesDead = true ∧ ch.needsPlane s s.cur (id + 1) = true) := by
      rcases hlive with h | h
      · simp [h]
      · exact fun h' => h (hneeds.2 h'.2)
    rw [exec_xwait, waitId_unstopped hcause, if_neg (by simpa using hpending.1 hp), if_neg hmay]
    exact congrArg _ (State.mapCx_setCx_self s _)
  · rw [exec_xwait, waitId_unstopped hcause, if_neg (by simpa using hpending.1 hp), if_pos ⟨hdead, hneeds.1 hn⟩,
      takeTrap_setCx_self s rfl]
  · rw [exec_xwait, waitId_stopped hcause hdlv]
    rfl

end Sys2Proof.Machine
end

section
/-! PROOF. O33: copies are queued and awaited. -/

namespace Sys2Proof

open Sys2Proof.Machine Sys2Proof.Spec

/-- Settles O33: an XCOPY by its checks and what its channel does, an XWAIT by whether its channel is stopped and its identifier
pending. -/
theorem copiesAreQueuedAndAwaited : Obligations.CopiesAreQueuedAndAwaited :=
  ⟨xcopyEnqueuesACommand, xwaitWaitsForItsIdentifier⟩

end Sys2Proof
end

section
/-! SUPPORT. Withdrawn requests, a task off its context, and the end of a mill's event as one context meets them. -/

namespace Sys2Proof.Machine

open Sys2Proof.Spec

/-! ### A withdrawal changes slots and the fabric (R206) -/

/-- Nothing of the machine differs but contexts and the fabric, and of each context only its receive slots. -/
structure GrantsOnly (s t : State) : Prop where
  rest : t = { s with ctxs := t.ctxs, fab := t.fab }
  slots : ∀ c, SlotsFrom (s.ctxAt c) (t.ctxAt c)

theorem GrantsOnly.trans {s t u : State} (h : GrantsOnly s t) (g : GrantsOnly t u) : GrantsOnly s u where
  rest := by rw [g.rest, h.rest]
  slots c := (h.slots c).trans (g.slots c)

theorem GrantsOnly.of_fab {s t : State} (h : t = { s with fab := t.fab }) : GrantsOnly s t where
  rest := by rw [h]
  slots c := by rw [h]; rfl

theorem GrantsOnly.cur {s t : State} (h : GrantsOnly s t) : t.cur = s.cur := by rw [h.rest]
theorem GrantsOnly.mill {s t : State} (h : GrantsOnly s t) : t.mill = s.mill := by rw [h.rest]

theorem setSlot_grantsOnly (s : State) (c tag : Nat) (k : RecvSlot) :
    GrantsOnly s (s.setCtx c ((s.ctxAt c).setSlot tag k)) where
  rest := rfl
  slots n := by
    rw [State.ctxAt_setCtx]
    split
    · rename_i h
      rw [h]; rfl
    · rfl

theorem State.reply_grantsOnly (s : State) (r : GrantReq) (ok : Bool) : GrantsOnly s (s.reply r ok) := by
  unfold State.reply; split <;> exact .of_fab rfl

theorem serve_grantsOnly (s : State) (r : GrantReq) : GrantsOnly s (serve s r).2 := by
  unfold serve; dsimp only
  split
  · exact .of_fab rfl
  · exact s.reply_grantsOnly r false
  · exact (setSlot_grantsOnly ..).trans (State.reply_grantsOnly ..)

theorem serveAll_grantsOnly (rs : List GrantReq) (s : State) : GrantsOnly s (serveAll rs s).2 := by
  induction rs generalizing s with
  | nil => exact .of_fab rfl
  | cons r rs ih => exact (serve_grantsOnly s r).trans (ih _)

theorem serveWaiting_grantsOnly (s : State) : GrantsOnly s (serveWaiting s) :=
  (serveAll_grantsOnly s.fab.waiting s).trans (.of_fab rfl)

theorem returnGrant_grantsOnly (s : State) (r : GrantReq) : GrantsOnly s (returnGrant s r) := by
  unfold returnGrant; dsimp only
  split
  · exact setSlot_grantsOnly ..
  · split <;> exact .of_fab rfl

theorem returnGrants_grantsOnly (es : List (GrantReq × Bool)) (s : State) :
    GrantsOnly s (es.foldl (fun t e => returnGrant t e.1) s) := by
  induction es generalizing s with
  | nil => exact .of_fab rfl
  | cons e es ih => exact (returnGrant_grantsOnly s e.1).trans (ih _)

theorem withdraw_grantsOnly (c : Nat) (s : State) : GrantsOnly s (withdraw c s) := by
  unfold withdraw withdrawAll
  exact (GrantsOnly.of_fab rfl).trans ((returnGrants_grantsOnly ..).trans (serveWaiting_grantsOnly _))

/-! ### A free context when an event of the mill ends -/

theorem Context.LetGo.freed {x y : Context} (h : x.LetGo y) : Freed y :=
  ⟨h.task, congrArg (·.task) h.trap, h.lanes, h.mgCount, h.evict, h.saving, h.notice, fun k _ => h.slots k⟩

/-- The end of an event of the mill looks at each context's notice and cap alone. -/
theorem settleMill_ctxAt_eq (s : State) (c : Nat) :
    (settleMill s).ctxAt c = ((s.ctxAt c).dropNotices (checkStalls s)).capReturns (checkStalls s) := by
  have hc : (checkStalls s).ctxs = s.ctxs := by rw [checkStalls_launchesOnly s]
  show tabGet Context.reset ((checkStalls s).ctxs.map _) c = _
  rw [hc]
  exact tabGet_map (d := .reset) (f := fun x => (x.dropNotices (checkStalls s)).capReturns (checkStalls s)) rfl s.ctxs c

theorem Context.capReturns_notice (x : Context) (s : State) : (x.capReturns s).notice = x.notice := by
  unfold Context.capReturns; split
  · split <;> rfl
  · rfl

theorem settleMill_notice {s : State} {c : Nat} (h : (s.ctxAt c).notice = none) : ((settleMill s).ctxAt c).notice = none := by
  rw [settleMill_ctxAt_eq, Context.capReturns_notice]
  unfold Context.dropNotices
  rw [h]
  exact h

theorem settleMill_freed {s : State} {c : Nat} (h : Freed (s.ctxAt c)) : Freed ((settleMill s).ctxAt c) := by
  obtain ⟨htask, htrap, hlanes, hmg, hevict, hsaving, hnotice, hslots⟩ := h
  have hs := settleMill_ctxAt s c
  refine ⟨?_, ?_, ?_, ?_, ?_, ?_, settleMill_notice hnotice, fun k hk => ?_⟩ <;> unfold SettledFrom at hs <;> rw [hs]
  · exact htask
  · exact htrap
  · exact hlanes
  · exact hmg
  · exact hevict
  · exact hsaving
  · exact hslots k hk

/-- What the end of a context's task gives back is its sibling's cap. -/
theorem capsAfter_ctxAt (s : State) (c : Nat) : (capsAfter s c).ctxAt c = s.ctxAt c := by
  have hne : c ≠ siblingOf c := siblingOf_ne c
  have hrestore : (restoreCap s c).ctxAt c = s.ctxAt c := by
    unfold restoreCap; dsimp only
    split
    · rw [State.ctxAt_setCtx, if_neg hne]
    · rfl
  unfold capsAfter; dsimp only
  split
  · split
    · rw [State.ctxAt_setCtx, if_neg hne, hrestore]
    · exact hrestore
  · exact hrestore

theorem capsAfter_mill (s : State) (c : Nat) : (capsAfter s c).mill = s.mill := by
  have hrestore : (restoreCap s c).mill = s.mill := by
    unfold restoreCap; dsimp only
    split <;> rfl
  unfold capsAfter; dsimp only
  split
  · split <;> exact hrestore
  · exact hrestore

/-! ### A launch that has failed or is torn down stays as it is -/

/-- The launch is among the mill's, and is not live. -/
def HasEnding (s : State) (k : Launch) : Prop := k ∈ s.mill.launches ∧ (k.failed.isSome || k.tearing) = true

theorem failLaunch_hasEnding {s : State} {k : Launch} (h : HasEnding s k) (n cause : Nat) :
    HasEnding (s.failLaunch n cause) k := by
  refine ⟨List.mem_map.2 ⟨k, h.1, ?_⟩, h.2⟩
  dsimp only
  rw [if_pos h.2, ite_self]

theorem checkStalls_hasEnding {s : State} {k : Launch} (h : HasEnding s k) : HasEnding (checkStalls s) k := by
  unfold checkStalls
  generalize s.mill.launches = ls
  induction ls generalizing s with
  | nil => exact h
  | cons l ls ih =>
    rw [List.foldl_cons]
    refine ih ?_
    split
    · exact failLaunch_hasEnding h _ _
    · exact h

theorem settleMill_hasEnding {s : State} {k : Launch} (h : HasEnding s k) : HasEnding (settleMill s) k :=
  checkStalls_hasEnding h

end Sys2Proof.Machine
end

section
/-! PROOF. Whole saves and ended tasks (R26, R220, R226, R229, R230, R253). -/

namespace Sys2Proof.Machine

open Sys2Proof.Spec

/-! ### A victim stops to be saved -/

/-- A victim of a notice is due to be saved in a wait that R226 names, or between convoys with its window used up. -/
theorem saveDue_of_victim {s : State} {c : Nat} {n : NoticeMark} (hn : (s.ctxAt c).notice = some n)
    (ht : (s.ctxAt c).task ≠ none) (hstart : (s.ctxAt c).start = none) (hsup : (s.ctxAt c).sup = false)
    (hstop : (s.ctxAt c).stopped = false) (hsave : (s.ctxAt c).saving = false) (hend : (s.ctxAt c).ended = false)
    (hq : (s.ctxAt c).qfault = none) (hqueue : (s.ctxAt c).queue = [])
    (hwhere : (∃ w, (s.ctxAt c).wait = some w ∧ w.kind ∈ [.wake, .xwait, .recv, .grant, .order, .lanes, .room]) ∨
      ((s.ctxAt c).wait = none ∧ (s.ctxAt c).cvy = none ∧ (s.coreAt (coreOf c)).preemptwin.toNat ≤ n.convoys)) :
    saveDue s c = true := by
  obtain ⟨h, ht⟩ := Option.ne_none_iff_exists'.1 ht
  unfold saveDue
  simp only [hn, ht, hstart, hsup, hstop, hsave, hend, hq, hqueue]
  rcases hwhere with ⟨w, hw, hk⟩ | ⟨hw, hcvy, hwin⟩
  · have hsav : w.kind.savable = true := by
      generalize w.kind = k at hk
      simp only [List.mem_cons, List.not_mem_nil, or_false] at hk
      rcases hk with rfl | rfl | rfl | rfl | rfl | rfl | rfl <;> rfl
    rw [hw]; exact hsav
  · rw [hw, hcvy]; simp [hwin]

/-- A context that stops to be saved stands at its convoy's start, and waits for nothing. -/
theorem stopForSave_cx (s : State) : (stopForSave s).cx = { s.cx with
    saving := true, pc := s.cx.convoyStart, cvy := none, wait := none, loops := s.cx.loopsAtStart
    rewaits := (stopForSave s).cx.rewaits } := by
  have h : (stopForSave s).cx = _ := State.cx_mapCx s _
  rw [h]

theorem startSave_ctxAt (c : Nat) (s : State) :
    let x := s.ctxAt c
    let y := (startSave c s).ctxAt c
    y.saving = true ∧ y.pc = x.convoyStart ∧ y.cvy = none ∧ y.wait = none ∧ y.held = [] ∧ y.pend = x.pend ++ x.held ∧
      y.strip.forced = true ∧ y.regs = x.regs := by
  intro x y
  have hw := withdraw_grantsOnly c { s with cur := c }
  generalize hv : withdraw c { s with cur := c } = v at hw
  have hvcur : v.cur = c := hw.cur
  have hvcx : v.cx = { x with recv := v.cx.recv } := by
    have hs : SlotsFrom x (v.ctxAt c) := hw.slots c
    unfold State.cx; rw [hvcur]; exact hs
  have hy : y = (stopForSave (forceCommit v)).cx := by
    show ((stopForSave (forceCommit (withdraw c { s with cur := c }))).ctxAt c) = _
    rw [hv, ← hvcur, ← forceCommit_cur v]; rfl
  rw [stopForSave_cx, forceCommit_cx, hvcx] at hy
  rw [hy]
  exact ⟨rfl, rfl, rfl, rfl, rfl, rfl, rfl, rfl⟩

theorem exec_preemptwinExpiry {s : State} {c : Nat} (hc : c < 768) (hdue : saveDue s c = true) (hflows : s.flows = true) :
    exec (.preemptwinExpiry c) s = .next (startSave c s) := by
  have hin : ctxInRange c = true := by simpa [ctxInRange] using hc
  show execPreemptwinExpiry c s = _
  unfold execPreemptwinExpiry
  rw [hin, hdue, hflows]; rfl

/-! ### A save whose cocoon is written -/

theorem Context.undefer_notesOnly (x : Context) : NotesOnly x x.undefer := by
  have hraise (l : List Word) (y : Context) : NotesOnly y (l.foldl (fun y v => y.raise 0x01 v) y) := by
    induction l generalizing y with
    | nil => rfl
    | cons v l ih =>
      have h := ih (y.raise 0x01 v)
      unfold NotesOnly at *
      rw [List.foldl_cons, h]; rfl
  unfold Context.undefer
  split
  · rfl
  · rename_i l _
    have h := hraise l { x with defer := none }
    unfold NotesOnly at *
    rw [h]

/-- What a save counts before it writes: completions on their way and adjunct issue. -/
theorem countAdjunct_undefer (s : State) :
    let t := countAdjunct (s.mapCx (·.undefer))
    t.cur = s.cur ∧ t.mill = s.mill ∧
      t.cx = { s.cx with ui := t.cx.ui, wake := t.cx.wake, defer := t.cx.defer, adjV := t.cx.adjV, adjM := t.cx.adjM } := by
  intro t
  have hcx : t.cx = { s.cx.undefer with adjV := t.cx.adjV, adjM := t.cx.adjM } := by
    show (countAdjunct (s.mapCx (·.undefer))).cx = { s.cx.undefer with
      adjV := (countAdjunct (s.mapCx (·.undefer))).cx.adjV, adjM := (countAdjunct (s.mapCx (·.undefer))).cx.adjM }
    unfold countAdjunct
    rw [State.cx_mapCx]
    dsimp only [State.draw]
    rw [show ∀ (u : State) (n : Nat), ({ u with tick := n } : State).cx = u.cx from fun _ _ => rfl, State.cx_mapCx]
  have hu := s.cx.undefer_notesOnly
  unfold NotesOnly at hu
  refine ⟨rfl, rfl, ?_⟩
  rw [hcx, hu]

theorem writeAreas_memoryOnly {s t : State} {a : Acc} {key va : Nat} {areas : List (Nat × List Byte)}
    (h : writeAreas s a key va areas = .ok t) : MemoryOnly s t := by
  have hfold (ps : List (Place × List Byte)) (u : State) :
      MemoryOnly u (ps.foldl (fun s e => performAt (touch s a .store e.1) (e.1.write 0 e.2)) u) := by
    induction ps generalizing u with
    | nil => exact .refl u
    | cons e ps ih => exact ((touch_memoryOnly ..).trans (performAt_memoryOnly ..)).trans (ih _)
  unfold writeAreas at h
  split at h <;> cases h
  exact hfold _ _

/-- What a written cocoon leaves: the task is off its context, and the mill has it. -/
theorem saveTask_ok {s u : State} {kind va : Nat} {pc : Word} {dump : Option SavedDump} {h : HeldTask}
    (hu : saveTask s kind va pc dump = .ok u) (ht : s.cx.task = some h) :
    u.mill.saved = s.mill.saved ++ [s.cx.savedAs s.cur h (kind == 1) dump] ∧
      ∃ (len : Nat) (x : Context), u.ctxAt s.cur = x.taskOff.reportSave len kind := by
  obtain ⟨hcur, hmill, hcx⟩ := countAdjunct_undefer s
  unfold saveTask at hu
  dsimp only at hu
  generalize countAdjunct (s.mapCx (·.undefer)) = v at hu hcur hmill hcx
  split at hu
  · cases hu
  · rename_i t hw
    have hmem := writeAreas_memoryOnly hw
    have htask : v.cx.task = some h := by rw [hcx]; exact ht
    rw [htask] at hu
    dsimp only at hu
    obtain rfl := Except.ok.inj hu
    have htcur : t.cur = s.cur := by rw [hmem, hcur]
    have hoff (f : Context → Context) : ((park t t.cur).mapCx f).ctxAt s.cur = f t.cx := by
      rw [State.ctxAt_mapCx, if_pos (show s.cur = (park t t.cur).cur from htcur.symm)]; rfl
    refine ⟨?_, cocoonLength (cocoonAreas v v.cur kind pc dump), t.cx, ?_⟩
    · rw [weightChange_strsOnly]
      show t.mill.saved ++ _ = _
      have hsaved : v.cx.savedAs v.cur h (kind == 1) dump = s.cx.savedAs s.cur h (kind == 1) dump := by
        rw [hcx, hcur]; rfl
      rw [show t.mill = v.mill by rw [hmem], hmill, hsaved]
    · rw [weightChange_ctxAt]
      exact hoff fun y => y.taskOff.reportSave (cocoonLength (cocoonAreas v v.cur kind pc dump)) kind

theorem Context.taskOff_freed (x : Context) (len kind : Nat) : Freed (x.taskOff.reportSave len kind) :=
  ⟨rfl, rfl, Context.releaseTo_zero x, rfl, rfl, rfl, rfl, fun k _ => Context.slot_of_replicate rfl k⟩

theorem finishSave_ok {s u : State} {h : HeldTask} {r : Rec} (ht : s.cx.task = some h)
    (hr : s.rcd h.launch h.rcd = some r)
    (hu : saveTask s 1 (r.saveBase.toNat + s.cur * 2 ^ 20) s.cx.pc none = .ok u) : finishSave s = u := by
  have hrcd : s.rcd s.cx.launchNo ((s.cx.task.map (·.rcd)).getD 0) = some r := by
    unfold Context.launchNo
    rw [ht]; exact hr
  unfold finishSave
  -- `saveTask` is kept opaque: the match on it must not be evaluated.
  obtain ⟨save, e⟩ : ∃ f, f = saveTask := exists_eq
  rw [← e] at hu ⊢
  dsimp only [-Nat.reducePow]
  rw [hrcd]
  dsimp only [-Nat.reducePow]
  rw [hu]

theorem exec_wholeSaveDone {s u : State} {c : Nat} {h : HeldTask} {r : Rec} (hc : c < 768)
    (hready : saveReady s c = true) (ht : (s.ctxAt c).task = some h) (hr : s.rcd h.launch h.rcd = some r)
    (hu : saveTask { s with cur := c } 1 (r.saveBase.toNat + c * 2 ^ 20) (s.ctxAt c).pc none = .ok u) :
    exec (.wholeSaveDone c) s = .next (settleMill { u with cur := s.cur }) := by
  have hin : ctxInRange c = true := by simpa [ctxInRange] using hc
  show execWholeSaveDone c s = _
  unfold execWholeSaveDone
  rw [hin, if_neg (by decide), if_pos hready]
  unfold State.within
  rw [finishSave_ok (s := { s with cur := c }) ht hr hu]

/-! ### A task that is ended -/

/-- A task is ended: its writes on their way stay, and what it held back is discarded. -/
theorem endNow_ends (c : Nat) (s : State) :
    let x := s.ctxAt c
    let y := (endNow c s).ctxAt c
    y.ended = true ∧ y.held = [] ∧ y.pend = x.pend ∧ y.task = x.task ∧ y.chans = x.chans ∧
      (endNow c s).mill = s.mill := by
  intro x y
  have hw := withdraw_grantsOnly c s
  generalize hv : withdraw c s = v at hw
  have hvx : v.ctxAt c = { x with recv := (v.ctxAt c).recv } := hw.slots c
  have hy : y = ((endNow c s).ctxAt c) := rfl
  have hmill : (endNow c s).mill = s.mill := by
    unfold endNow
    dsimp only
    rw [weightChange_strsOnly, hv]
    exact hw.mill
  unfold endNow at hy
  dsimp only at hy
  rw [weightChange_ctxAt, State.ctxAt_setCtx_self, hv, hvx] at hy
  rw [hy]
  exact ⟨rfl, rfl, rfl, rfl, rfl, hmill⟩

/-- A task not yet ended is ended, and its context is free at once where its accesses are performed. -/
theorem endTaskOf_ends {s : State} {c : Nat} (hend : (s.ctxAt c).ended = false) :
    let x := s.ctxAt c
    let t := endTaskOf c s
    (x.pend = [] → x.channelsRest = true → Freed (t.ctxAt c)) ∧
    (x.pend ≠ [] → (t.ctxAt c).ended = true ∧ (t.ctxAt c).held = [] ∧ (t.ctxAt c).pend = x.pend ∧
      (t.ctxAt c).task = x.task) ∧
    ∀ k, HasEnding s k → HasEnding t k := by
  intro x t
  obtain ⟨hended, hheld, hpend, htask, hchans, hmill⟩ := endNow_ends c s
  have ht : t = if drained ((endNow c s).ctxAt c) then settleMill (capsAfter (releaseAll (endNow c s) c) c) else endNow c s := by
    show endTaskOf c s = _
    unfold endTaskOf leaveEnded
    rw [hend, if_neg Bool.false_ne_true, hended, Bool.true_and]
  have hrest : ((endNow c s).ctxAt c).channelsRest = x.channelsRest := by unfold Context.channelsRest; rw [hchans]
  refine ⟨fun hp hr => ?_, fun hp => ?_, fun k hk => ?_⟩
  · have hdrained : drained ((endNow c s).ctxAt c) = true := by
      unfold drained
      rw [hpend, hrest, hp, hr]; rfl
    rw [ht, if_pos hdrained]
    refine settleMill_freed ?_
    rw [capsAfter_ctxAt]
    exact (releaseAll_letsGo _ _).freed
  · have hdrained : ¬ drained ((endNow c s).ctxAt c) = true := by
      unfold drained
      have hno : x.pend.isEmpty = false := by simpa using hp
      rw [hpend, hno]; exact Bool.false_ne_true
    rw [ht, if_neg hdrained]
    exact ⟨hended, hheld, hpend, htask⟩
  · have hk' : HasEnding (endNow c s) k := ⟨hmill ▸ hk.1, hk.2⟩
    rw [ht]
    split
    · refine settleMill_hasEnding ⟨?_, hk.2⟩
      rw [capsAfter_mill, releaseAll_mill, (withdraw_grantsOnly c _).mill]
      exact hk'.1
    · exact hk'

theorem exec_taskEndByMill {s : State} {c : Nat} {h : HeldTask} {l : Launch} (hc : c < 768)
    (ht : (s.ctxAt c).task = some h) (hl : s.launch h.launch = some l) (hend : l.failed ≠ none ∨ l.tearing = true) :
    exec (.taskEndByMill c) s = .next (endTaskOf c s) := by
  have hin : ctxInRange c = true := by simpa [ctxInRange] using hc
  have hno : (s.ctxAt c).launchNo = h.launch := by unfold Context.launchNo; rw [ht]; rfl
  have hlive : l.live = false := by
    unfold Launch.live
    rcases hend with hf | ht
    · obtain ⟨d, hd⟩ := Option.ne_none_iff_exists'.1 hf
      rw [hd]; rfl
    · rw [ht]; simp
  have hending : s.ending (s.ctxAt c).launchNo = true := by
    unfold State.ending
    rw [hno, hl]
    exact congrArg not hlive
  show execTaskEndByMill c s = _
  unfold execTaskEndByMill
  dsimp only
  rw [hin, if_neg (by decide), ht, hending, Bool.or_true]; rfl

theorem exec_taskEndedByRuntime {s : State} {c : Nat} {h : HeldTask} (hc : c < 768) (ht : (s.ctxAt c).task = some h)
    (hstop : (s.ctxAt c).stopped = true ∨ (s.ctxAt c).sup = true) :
    exec (.taskEndedByRuntime c) s = .next (endTaskOf c (s.failLaunch h.launch 0x0E)) := by
  have hin : ctxInRange c = true := by simpa [ctxInRange] using hc
  have hno : (s.ctxAt c).launchNo = h.launch := by unfold Context.launchNo; rw [ht]; rfl
  have hor : ((s.ctxAt c).stopped || (s.ctxAt c).sup) = true := by simpa using hstop
  show execTaskEndedByRuntime c s = _
  unfold execTaskEndedByRuntime
  dsimp only
  rw [hin, if_neg (by decide), hno, ht, hor]; rfl

/-- The launch of a task that the runtime ends has failed, if it was not torn down. -/
theorem failLaunch_ending {s : State} {l : Launch} {n : Nat} (hl : s.launch n = some l) (cause : Nat) :
    ∃ k, HasEnding (s.failLaunch n cause) k ∧ k.num = n ∧
      k.failed = if l.failed = none ∧ l.tearing = false then some cause else l.failed := by
  have hmem : l ∈ s.mill.launches := List.mem_of_find?_eq_some hl
  obtain rfl := State.launch_num hl
  by_cases hover : (l.failed.isSome || l.tearing) = true
  · refine ⟨l, failLaunch_hasEnding ⟨hmem, hover⟩ _ _, rfl, (if_neg ?_).symm⟩
    rintro ⟨hf, ht⟩
    rw [hf, ht] at hover
    exact Bool.false_ne_true hover
  · have hlive : l.failed = none ∧ l.tearing = false := by simpa using hover
    refine ⟨{ l with failed := some cause }, ⟨List.mem_map.2 ⟨l, hmem, ?_⟩, rfl⟩, rfl, (if_pos hlive).symm⟩
    dsimp only
    rw [if_pos (beq_self_eq_true _), if_neg hover]

end Sys2Proof.Machine
end

section
/-! PROOF. O50: tasks are saved and ended. -/

namespace Sys2Proof

open Sys2Proof.Machine Sys2Proof.Spec

/-- Settles O50: the stop by what a save's start leaves of a victim, the save by what a written cocoon leaves, and the two ends
of a task by one lemma of `endTaskOf`. -/
theorem tasksAreSavedAndEnded : Obligations.TasksAreSavedAndEnded := by
  intro s c hc x
  refine ⟨fun n hn ht hstart hsup hstop hsave hend hq hqueue hflows hwhere => ?stops,
    fun h r u hsave hsup hstop hq hqueue hp hrest hflows ht hlive hr hu => ?saved, fun h l ht hend hl => ⟨?ended, ?runtime⟩⟩
  case stops =>
    have hdue := saveDue_of_victim hn ht hstart hsup hstop hsave hend hq hqueue hwhere
    obtain ⟨hs, hpc, hcvy, hwait, hheld, hpend, hforced, hregs⟩ := startSave_ctxAt c s
    exact ⟨_, exec_preemptwinExpiry hc hdue hflows, hs, hpc, hcvy, hwait, hheld, hpend, hforced, hregs, startSave_mem c s⟩
  case saved =>
    have hno : x.launchNo = h.launch := by unfold Context.launchNo; rw [ht]; rfl
    have hready : saveReady s c = true := by
      unfold saveReady
      dsimp only
      rw [show (s.ctxAt c).launchNo = h.launch from hno, hlive, hsave, hsup, hstop, hq, hqueue, hp, hrest, hflows]; rfl
    obtain ⟨hsaved, len, y, hfree⟩ := saveTask_ok hu ht
    have hfree' : ({ u with cur := s.cur } : State).ctxAt c = y.taskOff.reportSave len 1 := hfree
    have hsettled := settleMill_ctxAt { u with cur := s.cur } c
    refine ⟨_, exec_wholeSaveDone hc hready ht hr hu, settleMill_mem _, settleMill_freed ?_, ?_,
      (settleMill_saved _).trans hsaved⟩
    · rw [hfree']; exact Context.taskOff_freed y len 1
    · unfold SettledFrom at hsettled
      rw [hsettled, hfree']; rfl
  case ended =>
    intro hover
    obtain ⟨hfree, hstays, -⟩ := endTaskOf_ends (s := s) (c := c) hend
    exact ⟨_, exec_taskEndByMill hc ht hl hover, endTaskOf_mem c s, hfree, hstays⟩
  case runtime =>
    intro hstop
    obtain ⟨k, hk, hnum, hfailed⟩ := failLaunch_ending hl 0x0E
    obtain ⟨hfree, -, hkeeps⟩ := endTaskOf_ends (s := s.failLaunch h.launch 0x0E) (c := c) hend
    exact ⟨_, exec_taskEndedByRuntime hc ht hstop, endTaskOf_mem c _, ⟨k, (hkeeps k hk).1, hnum, hfailed⟩, hfree⟩

end Sys2Proof
end

section
/-! SUPPORT. What a strip boundary leaves, and lanes let go of and taken (R73, R77, R78). -/

namespace Sys2Proof.Machine

open Sys2Proof.Spec

/-! ### The tile at a boundary -/

theorem copyBands_nil (src dst : Tab Word) : copyBands [] src dst = dst := by
  simp [copyBands, ofBands, notOfBands]

/-- The tile of a context whose accumulators are committed. -/
theorem commitAccumulators_tileAt (s : State) (n : Nat) :
    (commitAccumulators s s.cur).tileAt n =
      if n = tileOf s.cur then
        { s.tileAt n with
          committed := copyBands ((s.tileAt n).bandsOf (.ctx s.cur)) (s.tileAt n).working (s.tileAt n).committed }
      else s.tileAt n := by
  unfold commitAccumulators
  dsimp only
  by_cases hn : n = tileOf s.cur
  · subst hn
    rw [if_pos rfl]
    split
    · rename_i h
      rw [List.isEmpty_iff.1 h, copyBands_nil]
    · rw [State.tileAt_setTile, if_pos rfl]
  · rw [if_neg hn]
    split
    · rfl
    · rw [State.tileAt_setTile, if_neg hn]

theorem freeReleased_slotsFreed (u : Tile) (c : Nat) : SlotsFreed u (u.freeReleased c) c := by
  intro f
  have h := tabGet_map (d := Slot.reset) (f := fun k : Slot =>
    if k.holder = some (.ctx c) && k.released then { k with holder := none, released := false } else k) rfl u.slots f
  refine h.trans ?_
  simp only [Bool.and_eq_true, decide_eq_true_eq]
  rfl

/-- What the boundary alone leaves, before its instruction's own effect: the strip opened anew, the held writes committed, the
released slots free, and the accumulators committed where the instruction commits them. -/
structure Opened (commits : Bool) (s t : State) : Prop where
  rest : t = { s with ctxs := t.ctxs, tiles := t.tiles }
  others : ∀ c, c ≠ s.cur → t.ctxAt c = s.ctxAt c
  tiles : ∀ n, n ≠ tileOf s.cur → t.tileAt n = s.tileAt n
  slots : SlotsFreed (s.tileAt (tileOf s.cur)) (t.tileAt (tileOf s.cur)) s.cur
  bands : commits = true → KeepsBands s t
  cx : t.cx = { s.cx with pend := s.cx.pend ++ s.cx.held, held := [], strip := s.cx.strip.opened, ckpt := t.cx.ckpt }

theorem boundary_opened (b : Bool) (s : State) : Opened b s (boundary b s) := by
  have hcommit : ∃ v : State, v = { s with tiles := v.tiles } ∧
      (∀ n, n ≠ tileOf s.cur → v.tileAt n = s.tileAt n) ∧
      (v.tileAt (tileOf s.cur)).slots = (s.tileAt (tileOf s.cur)).slots ∧ (b = true → KeepsBands s v) ∧
      boundary b s = (v.setTile (tileOf v.cur) ((v.tileAt (tileOf v.cur)).freeReleased v.cur)).mapCx fun x =>
        let x := x.commitStores
        { x with strip := x.strip.opened, ckpt := { x with loops := x.loopsAtStart }.checkpoint x.convoyStart } := by
    cases b with
    | false => exact ⟨s, rfl, fun _ _ => rfl, rfl, fun h => Bool.noConfusion h, rfl⟩
    | true =>
      have htile := commitAccumulators_tileAt s
      refine ⟨commitAccumulators s s.cur, ?_, fun n hn => (htile n).trans (if_neg hn), ?_, fun _ => ?_, rfl⟩
      · rw [commitAccumulators_rest]
      · rw [htile, if_pos rfl]
      · unfold KeepsBands
        rw [htile, if_pos rfl]
        exact ⟨rfl, rfl, rfl⟩
  obtain ⟨v, hv, htiles, hslots, hbands, heq⟩ := hcommit
  have hcur : v.cur = s.cur := by rw [hv]
  rw [heq]
  have hctx (c : Nat) : v.ctxAt c = s.ctxAt c := by rw [hv]; rfl
  have hother (n : Nat) (t : Tile) (f : Context → Context) (m : Nat) :
      ((v.setTile n t).mapCx f).tileAt m = if m = n then t else v.tileAt m := State.tileAt_setTile v n m t
  refine ⟨?_, fun c hc => ?_, fun n hn => ?_, ?_, fun hb => ?_, ?_⟩
  · rw [hv]; rfl
  · rw [State.ctxAt_mapCx]
    exact (if_neg (by rwa [← hcur] at hc)).trans (hctx c)
  · rw [hother, hcur, if_neg hn, htiles n hn]
  · rw [hother, hcur, if_pos rfl]
    have h := freeReleased_slotsFreed (v.tileAt (tileOf s.cur)) s.cur
    intro f
    have hslot : (v.tileAt (tileOf s.cur)).slot f = (s.tileAt (tileOf s.cur)).slot f := by unfold Tile.slot; rw [hslots]
    rw [h f, hslot]
  · obtain ⟨h1, h2, h3⟩ := hbands hb
    unfold KeepsBands
    rw [hother, hcur, if_pos rfl]
    exact ⟨h1, h2, h3⟩
  · rw [State.cx_mapCx]
    show _ = _
    have hcx : (v.setTile (tileOf v.cur) ((v.tileAt (tileOf v.cur)).freeReleased v.cur)).cx = s.cx := by
      show v.ctxAt v.cur = s.ctxAt s.cur
      rw [hcur, hctx]
    rw [hcx]
    rfl

/-! ### A boundary instruction that retires -/

/-- A context whose boundary instruction retires: the checkpoint resumes after it. -/
def Context.opens (x : Context) : Context :=
  let y := x.retire
  { y with strip := { y.strip with unopened := false, pinned := 0 }, ckpt := y.checkpoint y.pc }

theorem Context.opens_rest (x : Context) : x.opens = { x with
    pc := x.nextPc, cvy := none, wait := none, notice := x.retire.notice
    strip := { x.strip with unopened := false, pinned := 0 }, ckpt := x.opens.ckpt } := by
  unfold Context.opens
  dsimp only
  rw [Context.retire_eq, Context.retire_pc]

theorem retireBoundary_hasCx (f : Context → Context) (s : State) : HasCx s (retireBoundary f s) (f s.cx).opens :=
  s.mapCx_hasCx _

/-- The boundary and a change of the context leave a fresh strip, resuming after the instruction. -/
theorem Opened.retires {s u t : State} {x : Context} (hu : Opened true s u) (h : HasCx u t x.opens)
    (hpend : x.pend = s.cx.pend ++ s.cx.held) (hheld : x.held = []) (hstrip : x.strip = s.cx.strip.opened) :
    BoundaryOnly s t ∧ KeepsBands s t := by
  have hcur : u.cur = s.cur := by rw [hu.rest]
  have htile (n : Nat) : t.tileAt n = u.tileAt n := by unfold State.tileAt; rw [h.tiles]
  have hx := x.opens_rest
  refine ⟨⟨?_, fun c hc => ?_, fun n hn => ?_, ?_, ?_, ?_, ?_, ?_⟩, ?_⟩
  · rw [h.1, hu.rest]
  · rw [h.2.1 c (by rwa [hcur]), hu.others c hc]
  · rw [htile, hu.tiles n hn]
  · rw [htile]; exact hu.slots
  · rw [h.cx_eq, hx]; exact hpend
  · rw [h.cx_eq, hx]; exact hheld
  · rw [h.cx_eq, hx, hstrip]; rfl
  · rw [h.cx_eq]; rfl
  · unfold KeepsBands
    rw [htile]
    exact hu.bands rfl

/-! ### Lanes let go of -/

theorem Context.releaseTo_lanes (x : Context) (n : Nat) : (x.releaseTo n).lanes = min x.lanes n := by
  unfold Context.releaseTo
  split
  · rename_i h
    exact (Nat.min_eq_right h.le).symm
  · rename_i h
    exact (Nat.min_eq_left (not_lt.1 h)).symm

theorem tabGet_filter {α : Type} (d : α) (p : Nat → Bool) (t : Tab α) {i : Nat} (hi : p i = true) :
    tabGet d (t.filter fun e => p e.1) i = tabGet d t i := by
  induction t with
  | nil => rfl
  | cons e t ih =>
    obtain ⟨k, v⟩ := e
    by_cases hk : p k = true
    · rw [List.filter_cons_of_pos (by exact hk)]
      simp only [tabGet, ih]
    · rw [List.filter_cons_of_neg (by exact hk), ih]
      have hne : i ≠ k := by rintro rfl; exact hk hi
      simp [tabGet, hne]

/-- The rows of the lanes that stay are as before. -/
theorem Context.releaseTo_vrow (x : Context) (n m : Nat) {row : Nat} (h32 : row < 32) (hrow : row < 2 * n) :
    (x.releaseTo n).vrow m row = x.vrow m row := by
  unfold Context.releaseTo
  split
  · unfold Context.vrow
    dsimp only
    have hkey : decide ((m * 32 + row) % 32 < 2 * n) = true := decide_eq_true (by omega)
    rw [if_pos hrow, if_pos (by omega), tabGet_filter deadRow (fun k => decide (k % 32 < 2 * n)) x.vregs hkey]
  · rfl

end Sys2Proof.Machine
end

section
/-! PROOF. VSHAPE (R73, R75 to R78, R302, R386). -/

namespace Sys2Proof.Machine

open Sys2Proof.Spec

/-! ### What a grant leaves -/

theorem Context.granted_rest (x : Context) (r : ShapeReq) (rows cols : Nat) (ill : Bool) :
    x.granted r rows cols ill = { x with
      regs := (x.granted r rows cols ill).regs, vrows := rows, vcols := cols, vtype := r.vtype ill, vsElem := 0
      vsMember := 0 } := by
  unfold Context.granted
  rw [Context.setReg_rest]

theorem Context.granted_reg (x : Context) (r : ShapeReq) (rows cols : Nat) (ill : Bool) (n : BitVec 5) :
    (x.granted r rows cols ill).reg n =
      if n = 0 then 0 else if n = r.d then .ofNat 64 (cols * 2 ^ 32 + rows) else x.reg n := by
  show (x.setReg r.d _).reg n = _
  rw [Context.reg_setReg]
  by_cases h0 : n = 0
  · subst h0
    rw [if_pos rfl, if_neg (by rintro ⟨h, hd⟩; exact hd h.symm)]; rfl
  · rw [if_neg h0]
    by_cases hd : n = r.d
    · rw [if_pos hd, if_pos ⟨hd, hd ▸ h0⟩]
    · rw [if_neg hd, if_neg (by tauto)]

section
variable {s u v : State} (hu : Opened true s u) (hv : HasCx u v v.cx)

include hu in
theorem Opened.places (x : Context) (hpc : x.pc = u.cx.pc) (hcvy : x.cvy = u.cx.cvy) : x.nextPc = s.cx.nextPc := by
  unfold Context.nextPc
  rw [hpc, hcvy, hu.cx]

include hu hv in
/-- A grant at a boundary: y is the context with the lanes that it is to have, before its shape and register. -/
theorem grants_of {f : Context → Context} {y : Context} {r : ShapeReq} {L rows cols : Nat} {ill : Bool}
    (hf : f v.cx = y.granted r rows cols ill)
    (hy : y = { u.cx with lanes := L, vregs := y.vregs, notice := y.notice })
    (hrow : ∀ n row, row < 32 → row < 2 * s.cx.lanes → row < 2 * L → y.vrow n row = s.cx.vrow n row) :
    let x := s.cx
    let t := retireBoundary f v
    BoundaryOnly s t ∧ KeepsBands s t ∧ t.cx.lanes = L ∧ t.cx.vrows = rows ∧ t.cx.vcols = cols ∧
      t.cx.vtype = r.vtype ill ∧ t.cx.pc = x.nextPc ∧
      (∀ n, t.cx.reg n = if n = 0 then 0 else if n = r.d then .ofNat 64 (cols * 2 ^ 32 + rows) else x.reg n) ∧
      (∀ n row, row < 32 → row < 2 * x.lanes → row < 2 * L → t.cx.vrow n row = x.vrow n row) ∧
      t.cx = { x with
        regs := t.cx.regs, lanes := L, vrows := rows, vcols := cols, vtype := t.cx.vtype, vregs := t.cx.vregs, vsElem := 0
        vsMember := 0, pend := t.cx.pend, held := [], strip := .reset, ckpt := t.cx.ckpt, pc := t.cx.pc, cvy := none
        wait := none, notice := t.cx.notice } := by
  intro x t
  have ht : HasCx u t (f v.cx).opens := hv.trans (retireBoundary_hasCx f v)
  rw [hf] at ht
  have hg := y.granted_rest r rows cols ill
  have hreg := y.granted_reg r rows cols ill
  have hz : ∀ n row, (y.granted r rows cols ill).vrow n row = y.vrow n row := fun n row => by rw [hg]; rfl
  have hnext : (y.granted r rows cols ill).nextPc = x.nextPc := hu.places _ (by rw [hg, hy]) (by rw [hg, hy])
  have hyreg : ∀ n, y.reg n = x.reg n := fun n => by
    unfold Context.reg
    rw [hy, hu.cx]
  have hcx := ht.cx_eq
  rw [Context.opens_rest, hnext] at hcx
  obtain ⟨hbound, hbands⟩ := hu.retires ht (by rw [hg, hy, hu.cx]) (by rw [hg, hy, hu.cx]) (by rw [hg, hy, hu.cx])
  refine ⟨hbound, hbands, ?_, ?_, ?_, ?_, ?_, fun n => ?_, fun n row h32 hx hL => ?_, ?_⟩
  · rw [hcx, hg, hy]
  · rw [hcx, hg]
  · rw [hcx, hg]
  · rw [hcx, hg]
  · rw [hcx]
  · rw [hcx]
    exact (hreg n).trans (by rw [hyreg])
  · rw [hcx]
    exact (hz n row).trans (hrow n row h32 hx hL)
  · rw [hcx, hg, hy, hu.cx]
    rfl

end

/-! ### The lanes of a grant -/

/-- The context lets go of the lanes beyond its cap; a notice that names no eviction has been met (R77, R226). -/
def capLanes (s : State) : State :=
  s.mapCx fun x =>
    let x := x.releaseTo x.cap.toNat
    { x with notice := if x.evict then x.notice else none }

theorem grantShape_eq (i : Instr) (r : ShapeReq) (s : State) :
    grantShape i r s =
      if r.bad || r.rows = 0 || r.cols = 0 then retireBoundary (fun x => x.granted r 0 0 r.bad) (capLanes s)
      else takeLanes i r ((capLanes s).cx.wanted r) (capLanes s) := rfl

theorem capLanes_hasCx (s : State) : HasCx s (capLanes s) (capLanes s).cx :=
  (State.cx_mapCx s _).symm ▸ s.mapCx_hasCx _

theorem capLanes_cx (s : State) : (capLanes s).cx = { s.cx with
    lanes := min s.cx.lanes s.cx.cap.toNat, vregs := (capLanes s).cx.vregs, notice := (capLanes s).cx.notice } := by
  have h : (capLanes s).cx = _ := State.cx_mapCx s _
  rw [h, ← Context.releaseTo_lanes]
  dsimp only
  rw [Context.releaseTo_rest]

theorem capLanes_vrow (s : State) (n : Nat) {row : Nat} (h32 : row < 32) (hrow : row < 2 * s.cx.cap.toNat) :
    (capLanes s).cx.vrow n row = s.cx.vrow n row := by
  have h : (capLanes s).cx = _ := State.cx_mapCx s _
  rw [h]
  exact Context.releaseTo_vrow s.cx s.cx.cap.toNat n h32 hrow

/-- Lanes taken or let go of: the rows of those that both have are as before. -/
theorem Context.vrow_lanes (x : Context) (held n m : Nat) {row : Nat} (h32 : row < 32) (hx : row < 2 * x.lanes)
    (hheld : row < 2 * held) (hn : row < 2 * n) : ({ x with lanes := held }.releaseTo n).vrow m row = x.vrow m row := by
  rw [Context.releaseTo_vrow _ n m h32 hn]
  unfold Context.vrow
  dsimp only
  rw [if_pos hx, if_pos hheld]

/-- The lanes that VSHAPE holds when it is granted, for the rows wanted (R77). -/
def heldLanes (s : State) (want : Nat) : Nat :=
  max s.cx.lanes (min ((want + 1) / 2) (s.cx.lanes + s.freeLanes s.cur))

theorem takeLanes_waits {i : Instr} {r : ShapeReq} {want : Nat} {s : State} (h : heldLanes s want = 0) :
    takeLanes i r want s = tellWait (s.waitIn .lanes i [(want, 0)]) s.cur 1 := if_pos h

/-- The context of a grant before its shape: it holds the lanes that it needs. -/
def Context.withLanes (x : Context) (held need : Nat) : Context := { x with lanes := held }.releaseTo need

/-- The context of a grant for the rows wanted. -/
def Context.grantOf (x : Context) (r : ShapeReq) (held want : Nat) : Context :=
  let y := x.withLanes held ((want + 1) / 2)
  y.granted r (min want (2 * y.lanes)) (min r.cols (2048 / ewidth r.etype.toNat)) false

theorem takeLanes_grants {i : Instr} {r : ShapeReq} {want : Nat} {s : State} (h : heldLanes s want ≠ 0) :
    takeLanes i r want s = retireBoundary (fun x => x.grantOf r (heldLanes s want) want) s := if_neg h

theorem Context.withLanes_rest (x : Context) (held need : Nat) : x.withLanes held need = { x with
    lanes := min held need, vregs := (x.withLanes held need).vregs } := by
  unfold Context.withLanes
  rw [Context.releaseTo_rest, Context.releaseTo_lanes]

/-! ### A wait for lanes (R77, R227) -/

/-- Lanes that the mill sees where nothing of the core is on its way to it. -/
theorem lanesSeen_of_notLags {s : State} {c : Nat} (h : s.coreLags (coreOf c) = false) : lanesSeen s c = (s.ctxAt c).lanes := by
  have hnone : seenCore (coreOf c) s.mill.links = none := seenCore_none fun a b p q hm => by
    have hall := List.any_eq_false.1 h _ hm
    exact hall (beq_self_eq_true _)
  unfold lanesSeen
  rw [hnone]

/-- What a wait for lanes tells the mill: late, behind what is on the core's crossing, or at once, by the sibling's cap. -/
theorem tellWait_tells (s : State) (c : Nat) :
    let t := tellWait s c 1
    let o := siblingOf c
    t.cur = s.cur ∧ t.ctxAt c = s.ctxAt c ∧ t.mem = s.mem ∧
      (if s.coreLags (coreOf c) = true then t.ctxAt o = s.ctxAt o ∧ t.mill.links = s.mill.links ++ [.wait c 1]
      else (t.ctxAt o).cap.toNat = min (s.ctxAt o).cap.toNat (max 1 ((s.ctxAt o).lanes - 1))) := by
  intro t o
  by_cases hlags : s.coreLags (coreOf c) = true
  · have ht : t = s.sendMill (.wait c 1) := if_pos hlags
    rw [if_pos hlags, ht]
    exact ⟨rfl, rfl, rfl, rfl, rfl⟩
  · have ht : t = lowerCap s c 1 := if_neg hlags
    have hseen : lanesSeen s o = (s.ctxAt o).lanes :=
      lanesSeen_of_notLags (by rw [coreOf_siblingOf]; simpa using hlags)
    rw [if_neg hlags, ht]
    unfold lowerCap
    dsimp only
    rw [hseen]
    have hcap := (s.ctxAt o).cap.isLt
    split
    · rename_i hlow
      have hlow : max 1 ((s.ctxAt o).lanes - 1) < (s.ctxAt o).cap.toNat := hlow
      refine ⟨rfl, ?_, rfl, ?_⟩
      · rw [State.ctxAt_setCtx, if_neg (siblingOf_ne c)]
      · rw [State.ctxAt_setCtx_self, BitVec.toNat_ofNat, Nat.mod_eq_of_lt (by omega), Nat.min_eq_right hlow.le]
    · rename_i hlow
      exact ⟨rfl, rfl, rfl, (Nat.min_eq_left (not_lt.1 hlow)).symm⟩

/-! ### VSHAPE goes on from its boundary -/

section
variable {s : State} {d a b e : BitVec 5} {g : BitVec 2} {ta ix : BitVec 1}

theorem exec_vshape (hl : s.cx.leaves = false) : exec (.vshape d a b e g ta ix) s =
    .next (grantShape (.vshape d a b e g ta ix) (shapeReq d a b e g ta ix s.cx) (boundary true s)) := by
  have hreq : shapeReq d a b e g ta ix (boundary true s).cx = shapeReq d a b e g ta ix s.cx := by
    rw [(boundary_opened true s).cx]; rfl
  show execVshape d a b e g ta ix s = _
  unfold execVshape atBoundary
  dsimp only
  rw [hl, if_neg Bool.false_ne_true, hreq]

end

/-- The lanes that a context keeps under its cap. -/
def keptLanes (x : Context) : Nat := min x.lanes x.cap.toNat

/-- A machine at a boundary of VSHAPE whose context has let go of the lanes beyond its cap. -/
structure Capped (s u v : State) : Prop where
  opened : Opened true s u
  has : HasCx u v v.cx
  cx : v.cx = { u.cx with lanes := keptLanes s.cx, vregs := v.cx.vregs, notice := v.cx.notice }
  rows : ∀ n row, row < 32 → row < 2 * s.cx.cap.toNat → v.cx.vrow n row = s.cx.vrow n row

theorem capLanes_capped {s u : State} (hu : Opened true s u) : Capped s u (capLanes u) where
  opened := hu
  has := capLanes_hasCx u
  cx := by
    have h := capLanes_cx u
    rw [show min u.cx.lanes u.cx.cap.toNat = keptLanes s.cx by rw [hu.cx]; rfl] at h
    exact h
  rows n row h32 hrow := by
    rw [capLanes_vrow u n h32 (by rw [hu.cx]; exact hrow), hu.cx]; rfl

section
variable {s u v : State} (h : Capped s u v)
include h

theorem Capped.cur : v.cur = s.cur := by rw [h.has.cur, h.opened.rest]
theorem Capped.mem : v.mem = s.mem := by rw [h.has.mem, h.opened.rest]
theorem Capped.mill : v.mill = s.mill := by rw [h.has.mill, h.opened.rest]

theorem Capped.others (c : Nat) (hc : c ≠ s.cur) : v.ctxAt c = s.ctxAt c := by
  rw [h.has.2.1 c (by rwa [h.opened.rest]), h.opened.others c hc]

theorem Capped.lanes : v.cx.lanes = keptLanes s.cx := by rw [h.cx]

theorem Capped.wanted (r : ShapeReq) : v.cx.wanted r = s.cx.wanted r := by
  unfold Context.wanted
  rw [h.cx, h.opened.cx]

theorem Capped.heldLanes (want : Nat) : heldLanes v want = max (keptLanes s.cx)
    (min ((want + 1) / 2) (keptLanes s.cx + (16 - keptLanes s.cx - (s.ctxAt (siblingOf s.cur)).lanes))) := by
  unfold Machine.heldLanes State.freeLanes
  rw [show v.ctxAt v.cur = v.cx from rfl, h.lanes, h.cur, h.others _ (siblingOf_ne s.cur).symm]

/-- A grant keeps the rows of the lanes that it keeps. -/
theorem Capped.grant_vrow {held need : Nat} (hneed : need ≤ s.cx.cap.toNat) (n : Nat) {row : Nat} (h32 : row < 32)
    (hx : row < 2 * s.cx.lanes) (hrow : row < 2 * min held need) :
    (v.cx.withLanes held need).vrow n row = s.cx.vrow n row := by
  have hkept : row < 2 * keptLanes s.cx := by
    have : row < 2 * need := by omega
    unfold keptLanes
    omega
  exact (v.cx.vrow_lanes held need n h32 (by rwa [h.lanes]) (by omega) (by omega)).trans (h.rows n row h32 (by omega))

/-- The lanes of a grant, before its shape. -/
theorem Capped.withLanes (held need : Nat) : v.cx.withLanes held need = { u.cx with
    lanes := min held need, vregs := (v.cx.withLanes held need).vregs, notice := (v.cx.withLanes held need).notice } := by
  rw [v.cx.withLanes_rest, h.cx]

/-- A VSHAPE that can hold no lane waits for the rows that it wants, with its boundary made. -/
theorem Capped.waits {i : Instr} {r : ShapeReq} {want : Nat} (h0 : Machine.heldLanes v want = 0) :
    ∃ t, takeLanes i r want v = t ∧ WaitsIn t s.cur .lanes i [(want, 0)] ∧ t.cur = s.cur ∧
      t.cx.held = [] ∧ t.cx.pend = s.cx.pend ++ s.cx.held ∧ t.cx.lanes = 0 ∧ t.cx.regs = s.cx.regs ∧ t.cx.pc = s.cx.pc ∧
      t.mem = s.mem ∧
      (if s.coreLags (coreOf s.cur) = true then
        t.ctxAt (siblingOf s.cur) = s.ctxAt (siblingOf s.cur) ∧ t.mill.links = s.mill.links ++ [.wait s.cur 1]
      else (t.ctxAt (siblingOf s.cur)).cap.toNat =
        min (s.ctxAt (siblingOf s.cur)).cap.toNat (max 1 ((s.ctxAt (siblingOf s.cur)).lanes - 1))) := by
  have hw : HasCx v (v.waitIn .lanes i [(want, 0)]) _ := v.mapCx_hasCx _
  have htake : takeLanes i r want v = tellWait (v.waitIn .lanes i [(want, 0)]) s.cur 1 := by
    rw [takeLanes_waits h0, h.cur]
  obtain ⟨hcur, hself, hmem, htold⟩ := tellWait_tells (v.waitIn .lanes i [(want, 0)]) s.cur
  have hlags : (v.waitIn .lanes i [(want, 0)]).coreLags (coreOf s.cur) = s.coreLags (coreOf s.cur) := by
    unfold State.coreLags; rw [hw.mill, h.mill]
  rw [hw.2.1 _ (by rw [h.cur]; exact (siblingOf_ne s.cur).symm), h.others _ (siblingOf_ne s.cur).symm, hw.mill, h.mill,
    hlags] at htold
  rw [hw.cur, h.cur] at hcur
  generalize tellWait (v.waitIn .lanes i [(want, 0)]) s.cur 1 = t at htake hcur hself hmem htold
  have hcx : t.cx = { v.cx with wait := some { kind := .lanes, instr := i, marks := [(want, 0)], place := none } } := by
    show t.ctxAt t.cur = _
    rw [hcur, hself, ← hw.cx_eq, ← h.cur]; rfl
  have hlanes0 : v.cx.lanes = 0 := by
    have : v.cx.lanes ≤ Machine.heldLanes v want := le_max_left _ _
    omega
  refine ⟨t, htake, ?_, hcur, ?_, ?_, ?_, ?_, ?_, hmem.trans (hw.mem.trans h.mem), htold⟩
  · show (t.ctxAt s.cur).wait = _
    rw [← hcur, show t.ctxAt t.cur = t.cx from rfl, hcx]
  · rw [hcx, h.cx, h.opened.cx]
  · rw [hcx, h.cx, h.opened.cx]
  · rw [hcx]; exact hlanes0
  · rw [hcx, h.cx, h.opened.cx]
  · rw [hcx, h.cx, h.opened.cx]

end

theorem vshapeGrantsWhatFits : VshapeGrantsWhatFits := by
  intro s d a b e g ta ix x i rows cols bad kept want need held grants hl
  have hexec := exec_vshape (d := d) (a := a) (b := b) (e := e) (g := g) (ta := ta) (ix := ix) hl
  have hcap := capLanes_capped (boundary_opened true s)
  rw [grantShape_eq] at hexec
  generalize capLanes (boundary true s) = v at hexec hcap
  have hheld : heldLanes v want = held := hcap.heldLanes want
  rw [hcap.wanted, show x.wanted (shapeReq d a b e g ta ix x) = want from rfl] at hexec
  refine ⟨fun hbad => ?bad, fun hgood hr hc => ?good⟩
  case bad =>
    have hif : (bad || decide (rows = 0) || decide (cols = 0)) = true := by simpa [or_assoc] using hbad
    exact ⟨_, hexec.trans (congrArg _ (if_pos hif)),
      grants_of hcap.opened hcap.has (y := v.cx) (r := shapeReq d a b e g ta ix x)
        (f := fun z => z.granted (shapeReq d a b e g ta ix x) 0 0 bad) rfl hcap.cx fun n row h32 _ hrow =>
          hcap.rows n row h32 (lt_of_lt_of_le hrow (Nat.mul_le_mul_left 2 (min_le_right _ _)))⟩
  case good =>
    have hif : ¬ (bad || decide (rows = 0) || decide (cols = 0)) = true := by simp [hgood, hr, hc]
    have hexec' := hexec.trans (congrArg _ (if_neg hif))
    refine ⟨fun h0 => ?grants, fun h0 => ?waits⟩
    case grants =>
      rw [takeLanes_grants (by rwa [hheld]), hheld] at hexec'
      have hlanes : (v.cx.withLanes held need).lanes = min held need := by rw [v.cx.withLanes_rest]
      have hf : v.cx.grantOf (shapeReq d a b e g ta ix x) held want =
          (v.cx.withLanes held need).granted (shapeReq d a b e g ta ix x) (min want (2 * min held need))
            (min cols (2048 / ewidth e.toNat)) false := by
        rw [← hlanes]; rfl
      have hneed : need ≤ x.cap.toNat := by
        show (min rows (min 32 (2 * x.cap.toNat)) + 1) / 2 ≤ _
        omega
      exact ⟨_, hexec', grants_of hcap.opened hcap.has (f := fun z => z.grantOf (shapeReq d a b e g ta ix x) held want) hf
        (hcap.withLanes held need) fun n row h32 hx hrow => hcap.grant_vrow hneed n h32 hx hrow⟩
    case waits =>
      obtain ⟨t, ht, hpost⟩ := hcap.waits (i := i) (r := shapeReq d a b e g ta ix x) (hheld.trans h0)
      exact ⟨t, hexec'.trans (congrArg _ ht), hpost⟩

end Sys2Proof.Machine
end

section
/-! PROOF. VREL, and boundaries at which a task leaves (R41, R226, R387). -/

namespace Sys2Proof.Machine

open Sys2Proof.Spec

/-- What a VREL tells the mill: late, behind what is on the core's crossing, or at once, by the sibling's cap. -/
theorem tellRel_tells (s : State) (c : Nat) :
    let t := tellRel s c
    let o := siblingOf c
    t = { s with ctxs := t.ctxs, mill := { s.mill with links := t.mill.links } } ∧ (∀ n, n ≠ o → t.ctxAt n = s.ctxAt n) ∧
      (if s.coreLags (coreOf c) = true then t.ctxAt o = s.ctxAt o ∧ t.mill.links = s.mill.links ++ [.vrel c]
      else t.mill.links = s.mill.links ∧ ∀ y, s.ctxAt o = y →
        t.ctxAt o = if y.capWaited then { y with cap := 16, capWaited := false } else y) := by
  intro t o
  by_cases hlags : s.coreLags (coreOf c) = true
  · have ht : t = s.sendMill (.vrel c) := if_pos hlags
    rw [if_pos hlags, ht]
    exact ⟨rfl, fun _ _ => rfl, rfl, rfl⟩
  · have ht : t = restoreCap s c := if_neg hlags
    rw [if_neg hlags, ht]
    unfold restoreCap
    dsimp only
    by_cases hw : (s.ctxAt o).capWaited = true
    · rw [if_pos hw]
      refine ⟨rfl, fun n hn => by rw [State.ctxAt_setCtx, if_neg hn], rfl, ?_⟩
      rintro y rfl
      rw [State.ctxAt_setCtx_self, if_pos hw]
    · rw [if_neg hw]
      refine ⟨rfl, fun _ _ => rfl, rfl, ?_⟩
      rintro y rfl
      rw [if_neg hw]

/-- The context of a VREL: no lane, a zero shape and an illegal type. -/
def Context.letLanesGo (x : Context) : Context :=
  { x.releaseTo 0 with vrows := 0, vcols := 0, vtype := { x.vtype with ill := true } }

theorem exec_vrel {s : State} (hl : s.cx.leaves = false) : exec .vrel s =
    .next (retireBoundary (·.letLanesGo) (tellRel (boundary true s) (boundary true s).cur)) := by
  show execVrel s = _
  unfold execVrel atBoundary
  dsimp only
  rw [hl, if_neg Bool.false_ne_true]; rfl

theorem Context.letLanesGo_rest (x : Context) : x.letLanesGo = { x with
    lanes := 0, vrows := 0, vcols := 0, vtype := { x.vtype with ill := true }, vregs := x.letLanesGo.vregs } := by
  unfold Context.letLanesGo
  rw [Context.releaseTo_rest, Context.releaseTo_zero]

theorem deadRow_toNat : deadRow.toNat = 2 ^ 2048 - 1 := by
  unfold deadRow
  generalize 2048 = w
  exact BitVec.toNat_allOnes

theorem Context.vrow_of_noLanes {x : Context} (h : x.lanes = 0) (n row : Nat) : x.vrow n row = 2 ^ 2048 - 1 := by
  refine Eq.trans ?_ deadRow_toNat
  unfold Context.vrow
  exact if_neg (by omega)

/-- What VREL leaves of its context. -/
theorem letLanesGo_opens {s u : State} (hu : Opened true s u) {y : Context} (hy : y = u.cx.letLanesGo.opens) :
    let x := s.cx
    y.lanes = 0 ∧ y.vrows = 0 ∧ y.vcols = 0 ∧ y.vtype = { x.vtype with ill := true } ∧ WentTo x y x.nextPc ∧
      y.pend = x.pend ++ x.held ∧ y.ckpt = y.checkpoint x.nextPc ∧
      y = { x with
        lanes := 0, vrows := 0, vcols := 0, vtype := y.vtype, vregs := y.vregs, pend := y.pend, held := []
        strip := .reset, ckpt := y.ckpt, pc := y.pc, cvy := none, wait := none, notice := y.notice } := by
  intro x
  have hz := u.cx.letLanesGo_rest
  have hnext : u.cx.letLanesGo.nextPc = x.nextPc := hu.places _ (by rw [hz]) (by rw [hz])
  have hnotice : u.cx.letLanesGo.retire.notice = noticeAfter x := by
    rw [Context.retire_notice, hz, hu.cx]; rfl
  have hckpt : y.ckpt = y.checkpoint y.pc := by rw [hy]; rfl
  rw [Context.opens_rest, hnext, hnotice, hz, hu.cx] at hy
  have hpc : y.pc = x.nextPc := by rw [hy]
  rw [hpc] at hckpt
  refine ⟨by rw [hy], by rw [hy], by rw [hy], by rw [hy], ⟨hpc, by rw [hy], by rw [hy], by rw [hy]⟩, by rw [hy], hckpt, ?_⟩
  rw [hy]; rfl

theorem vrel_releases {s : State} (hl : s.cx.leaves = false) :
    let x := s.cx
    ∃ t, exec .vrel s = .next t ∧ t.cx.lanes = 0 ∧ t.cx.vrows = 0 ∧ t.cx.vcols = 0 ∧
      t.cx.vtype = { x.vtype with ill := true } ∧ WentTo x t.cx x.nextPc ∧ (∀ n row, t.cx.vrow n row = 2 ^ 2048 - 1) ∧
      t.cx.pend = x.pend ++ x.held ∧ KeepsBands s t ∧ SlotsFreed (s.tileAt (tileOf s.cur)) (t.tileAt (tileOf s.cur)) s.cur ∧
      t = { s with ctxs := t.ctxs, tiles := t.tiles, mill := { s.mill with links := t.mill.links } } ∧
      (∀ c, c ≠ s.cur → c ≠ siblingOf s.cur → t.ctxAt c = s.ctxAt c) ∧
      (if s.coreLags (coreOf s.cur) = true then
        t.ctxAt (siblingOf s.cur) = s.ctxAt (siblingOf s.cur) ∧ t.mill.links = s.mill.links ++ [.vrel s.cur]
      else t.mill.links = s.mill.links ∧ ∀ y, s.ctxAt (siblingOf s.cur) = y →
        t.ctxAt (siblingOf s.cur) = if y.capWaited then { y with cap := 16, capWaited := false } else y) ∧
      t.cx.ckpt = t.cx.checkpoint x.nextPc ∧
      t.cx = { x with
        lanes := 0, vrows := 0, vcols := 0, vtype := t.cx.vtype, vregs := t.cx.vregs, pend := t.cx.pend, held := []
        strip := .reset, ckpt := t.cx.ckpt, pc := t.cx.pc, cvy := none, wait := none, notice := t.cx.notice } := by
  intro x
  have hexec := exec_vrel hl
  have hu := boundary_opened true s
  generalize boundary true s = u at hexec hu
  have hucur : u.cur = s.cur := by rw [hu.rest]
  obtain ⟨hrest, hothers, htold⟩ := tellRel_tells u u.cur
  generalize tellRel u u.cur = w at hexec hrest hothers htold
  have hwcur : w.cur = u.cur := by rw [hrest]
  have hwcx : w.cx = u.cx := by
    show w.ctxAt w.cur = u.ctxAt u.cur
    rw [hwcur, hothers _ (siblingOf_ne u.cur)]
  have ht := retireBoundary_hasCx (·.letLanesGo) w
  rw [hwcx] at ht
  generalize retireBoundary (·.letLanesGo) w = t at hexec ht
  obtain ⟨hlanes, hvrows, hvcols, hvtype, hwent, hpend, hckpt, hcx⟩ := letLanesGo_opens hu ht.cx_eq
  have htile (n : Nat) : t.tileAt n = u.tileAt n := by
    unfold State.tileAt
    rw [ht.tiles, hrest]
  have hsib : t.ctxAt (siblingOf s.cur) = w.ctxAt (siblingOf s.cur) :=
    ht.2.1 _ (by rw [hwcur, hucur]; exact (siblingOf_ne s.cur).symm)
  have husib : u.ctxAt (siblingOf s.cur) = s.ctxAt (siblingOf s.cur) := hu.others _ (siblingOf_ne s.cur).symm
  have humill : u.mill = s.mill := by rw [hu.rest]
  have hlags : u.coreLags (coreOf u.cur) = s.coreLags (coreOf s.cur) := by
    unfold State.coreLags
    rw [humill, hucur]
  rw [hlags, hucur, humill, husib, ← hsib, ← ht.mill] at htold
  refine ⟨t, hexec, hlanes, hvrows, hvcols, hvtype, hwent, Context.vrow_of_noLanes hlanes, hpend, ?_, ?_, ?_,
    fun c hc ho => ?_, htold, hckpt, hcx⟩
  · unfold KeepsBands
    rw [htile]
    exact hu.bands rfl
  · rw [htile]; exact hu.slots
  · rw [ht.1, hrest, hu.rest]
  · rw [ht.2.1 c (by rwa [hwcur, hucur]), hothers c (by rwa [hucur]), hu.others c hc]

/-! ### A task leaves at a boundary (R226) -/

theorem atBoundary_leaves {s : State} (b : Bool) (k : State → State) (hl : s.cx.leaves = true) :
    ∃ t, atBoundary b k s = t ∧ t.cx.saving = true ∧ t.cx.pc = s.cx.convoyStart ∧ t.cx.cvy = none ∧ t.cx.held = [] ∧
      t.cx.pend = s.cx.pend ++ s.cx.held ∧ t.cx.lanes = s.cx.lanes ∧ t.cx.mgCount = s.cx.mgCount ∧
      t.cx.regs = s.cx.regs ∧ t.mem = s.mem := by
  have ht : atBoundary b k s = stopForSave (forceCommit (boundary b s)) := if_pos hl
  have hcx := stopForSave_cx (forceCommit (boundary b s))
  rw [forceCommit_cx, (boundary_opened b s).cx] at hcx
  have hmem : (stopForSave (forceCommit (boundary b s))).mem = s.mem :=
    (forceCommit_mem (boundary b s)).trans (boundary_mem b s)
  generalize stopForSave (forceCommit (boundary b s)) = t at ht hcx hmem
  refine ⟨t, ht, ?_, ?_, ?_, ?_, ?_, ?_, ?_, ?_, hmem⟩ <;> rw [hcx]
  · rfl
  · exact List.append_nil _

theorem vrelReleasesEveryLane : VrelReleasesEveryLane := by
  intro s
  refine ⟨vrel_releases, fun hl d a b e g u v c i hi => ?_⟩
  have hleaves : ∃ bc k, exec i s = .next (atBoundary bc k s) := by
    rcases List.mem_append.1 hi with hi | hi
    · simp only [List.mem_cons, List.not_mem_nil, or_false] at hi
      rcases hi with rfl | rfl | rfl
      · exact ⟨true, _, rfl⟩
      · exact ⟨true, _, rfl⟩
      · exact ⟨false, _, rfl⟩
    · by_cases hm : s.cx.mgCount = 0
      · rw [if_pos hm] at hi
        obtain rfl := List.mem_singleton.1 hi
        exact ⟨true, attach d c.toNat, if_neg (not_not.2 hm)⟩
      · rw [if_neg hm] at hi
        cases hi
  obtain ⟨bc, k, hexec⟩ := hleaves
  obtain ⟨t, ht, hpost⟩ := atBoundary_leaves bc k hl
  exact ⟨t, hexec.trans (congrArg _ ht), hpost⟩

end Sys2Proof.Machine
end

section
/-! PROOF. O14: VSHAPE and VREL are boundaries. -/

namespace Sys2Proof

open Sys2Proof.Machine Sys2Proof.Spec

/-- Settles O14: what the boundary leaves, and then what each of the two makes of its context's lanes. -/
theorem vshapeAndVrelAreBoundaries : Obligations.VshapeAndVrelAreBoundaries :=
  ⟨vshapeGrantsWhatFits, vrelReleasesEveryLane⟩

end Sys2Proof
end

section
/-! SUPPORT. Accesses that change of the contexts only reads performed early, and members that retire. -/

namespace Sys2Proof.Machine

open Sys2Proof.Spec

/-! ### Reads performed early (log entry 68) -/

/-- A context but for its reads performed early. -/
def EarlyFrom (x y : Context) : Prop := y = { x with early := y.early }

theorem EarlyFrom.refl (x : Context) : EarlyFrom x x := rfl

theorem EarlyFrom.trans {x y z : Context} (h : EarlyFrom x y) (g : EarlyFrom y z) : EarlyFrom x z := by
  unfold EarlyFrom at *; rw [g, h]

theorem setCtx_early (s : State) (c n : Nat) {x : Context} (h : EarlyFrom (s.ctxAt c) x) :
    EarlyFrom (s.ctxAt n) ((s.setCtx c x).ctxAt n) := by
  rw [State.ctxAt_setCtx]
  split
  · rename_i hn
    rw [hn]; exact h
  · exact .refl _

theorem dropEarly_early (s : State) (c strm loc n m : Nat) :
    EarlyFrom (s.ctxAt m) ((s.dropEarly c strm loc n).ctxAt m) := by
  unfold State.dropEarly
  split
  · exact .refl _
  · exact setCtx_early s c m rfl

theorem dropBytes_early (s : State) (c loc n m : Nat) : EarlyFrom (s.ctxAt m) ((s.dropBytes c loc n).ctxAt m) := by
  unfold State.dropBytes; dsimp only
  split
  · exact .refl _
  · exact setCtx_early s c m rfl

theorem dropEarly_rest (s : State) (c strm loc n : Nat) :
    s.dropEarly c strm loc n = { s with ctxs := (s.dropEarly c strm loc n).ctxs } := by
  unfold State.dropEarly; split <;> rfl

theorem dropBytes_rest (s : State) (c loc n : Nat) :
    s.dropBytes c loc n = { s with ctxs := (s.dropBytes c loc n).ctxs } := by
  unfold State.dropBytes; dsimp only; split <;> rfl

/-- A state but for what a write takes from the reads performed early. -/
def dropFor (s : State) (c : Nat) (w : Write) : State :=
  if w.loose then s.dropBytes c w.loc w.bytes.length else s.dropEarly c w.strm w.loc w.bytes.length

theorem performWrite_eq (s : State) (c : Nat) (w : Write) : performWrite s c w =
    performAt (keepStale (countWrite (dropFor s c w) ((dropFor s c w).ctxAt c).launchNo w) w) w := rfl

theorem dropFor_rest (s : State) (c : Nat) (w : Write) : dropFor s c w = { s with ctxs := (dropFor s c w).ctxs } := by
  unfold dropFor
  split
  · exact dropBytes_rest ..
  · exact dropEarly_rest ..

theorem dropFor_early (s : State) (c : Nat) (w : Write) (m : Nat) : EarlyFrom (s.ctxAt m) ((dropFor s c w).ctxAt m) := by
  unfold dropFor
  split
  · exact dropBytes_early ..
  · exact dropEarly_early ..

theorem dropFor_launchNo (s : State) (c : Nat) (w : Write) (m : Nat) :
    ((dropFor s c w).ctxAt m).launchNo = (s.ctxAt m).launchNo := by
  have h := dropFor_early s c w m
  unfold EarlyFrom at h
  rw [h]; rfl

/-- A write that is performed changes of each context only its reads performed early. -/
theorem performWrite_early (s : State) (c : Nat) (w : Write) (m : Nat) :
    EarlyFrom (s.ctxAt m) ((performWrite s c w).ctxAt m) := by
  have h : (performWrite s c w).ctxAt m = (dropFor s c w).ctxAt m := by
    unfold State.ctxAt
    rw [(performWrite_keeps s c w).1]; rfl
  rw [h]
  exact dropFor_early s c w m

theorem performWrite_cur (s : State) (c : Nat) (w : Write) : (performWrite s c w).cur = s.cur := by
  rw [performWrite_eq, performAt_memoryOnly]
  show (keepStale _ w).cur = _
  rw [keepStale_rest]
  show (countWrite _ _ w).cur = _
  rw [(countWrite_millWork _ _ w).rest, dropFor_rest]

/-- A write that does not count for a replay changes no launch and no pool (R250). -/
theorem countWrite_uncounted {s : State} {n : Nat} {w : Write}
    (h : w.cls = .uncounted ∨ ∀ l, s.launch n = some l → l.replayable = false) : countWrite s n w = s := by
  unfold countWrite
  split
  · rfl
  · rename_i l hl
    split
    · rfl
    · rename_i hrep
      rcases h with hc | hr
      · rw [hc]
      · rw [hr l hl] at hrep
        exact absurd rfl hrep

/-- The memory after a write that does not count. -/
theorem performWrite_uncounted {s : State} {c : Nat} {w : Write} (h : Uncounted s c w.cls) :
    (performWrite s c w).mem = putWrite s.keys s.mem w ∧ (performWrite s c w).mill = s.mill := by
  have hcount : countWrite (dropFor s c w) ((dropFor s c w).ctxAt c).launchNo w = dropFor s c w := by
    rw [dropFor_launchNo]
    refine countWrite_uncounted (h.imp_right fun hl l hlaunch => hl l ?_)
    rw [dropFor_rest] at hlaunch
    exact hlaunch
  rw [performWrite_eq, hcount, performAt_memoryOnly]
  refine ⟨?_, ?_⟩
  · show putWrite (keepStale _ w).keys (keepStale _ w).mem w = _
    rw [keepStale_rest, dropFor_rest]
  · show (keepStale _ w).mill = _
    rw [keepStale_rest, dropFor_rest]

/-! ### Translated accesses -/

theorem touch_rest (s : State) (a : Acc) (k : AccKind) (p : Place) :
    touch s a k p = { s with
      mem := (touch s a k p).mem, tlb := (touch s a k p).tlb, plain := (touch s a k p).plain } := by
  unfold touch; split <;> rfl

/-- Translations leave marks in the page table and the translation hardware alone. -/
theorem translateAll_rest (k : AccKind) (vas : List Word) (s : State) :
    (translateAll k vas s).2 = { s with
      mem := (translateAll k vas s).2.mem, tlb := (translateAll k vas s).2.tlb
      plain := (translateAll k vas s).2.plain } := by
  induction vas generalizing s with
  | nil => rfl
  | cons va vas ih =>
    unfold translateAll
    dsimp only
    rw [ih]
    split
    · rw [touch_rest]
    · rfl

theorem failures_of_ok {α : Type} {es : List (α × Except Nat Place)} (h : ∀ e ∈ es, ∃ r, e.2 = .ok r) : failures es = [] := by
  unfold failures
  refine List.filterMap_eq_nil_iff.2 fun e he => ?_
  obtain ⟨r, hr⟩ := h e he
  rw [hr]

/-! ### Members that retire (R82, R115) -/

theorem Context.retireMember_rest (x : Context) : x.retireMember = { x with
    pc := x.retireMember.pc, cvy := x.retireMember.cvy, wait := x.retireMember.wait, notice := x.retireMember.notice
    vsElem := x.retireMember.vsElem, vsMember := x.retireMember.vsMember } := by
  unfold Context.retireMember
  split
  · split
    · rfl
    · rw [Context.goto_eq]
  · rw [Context.goto_eq]

/-- What a member's retirement looks at. -/
def SameMember (x z : Context) : Prop :=
  z.pc = x.pc ∧ z.cvy = x.cvy ∧ z.sup = x.sup ∧ z.notice = x.notice ∧ z.wait = x.wait ∧ z.vsElem = x.vsElem ∧
    z.vsMember = x.vsMember

theorem goto_wentTo {x z : Context} (h : SameMember x z) (pc : Word) : WentTo x (z.goto pc) pc := by
  obtain ⟨-, -, hsup, hnotice, -⟩ := h
  refine ⟨z.goto_pc pc, z.goto_cvy pc, z.goto_wait pc, ?_⟩
  rw [Context.notice_goto, hsup, hnotice]; rfl

theorem retireMember_chainsOn {x z : Context} (h : SameMember x z) : ChainsOn x z.retireMember := by
  have hgo := goto_wentTo h
  obtain ⟨hpc, hcvy, -, hnotice, hwait, he, hm⟩ := h
  unfold ChainsOn Context.retireMember
  rw [hcvy]
  cases x.cvy with
  | none => exact hpc ▸ ⟨hgo _, rfl, rfl⟩
  | some v =>
    dsimp only
    split
    · exact ⟨hpc, rfl, hwait, hnotice, he, hm⟩
    · exact ⟨hgo _, rfl, rfl⟩

end Sys2Proof.Machine
end

section
/-! PROOF. VCAPP (R42 to R44, R113, R181, R183, R188, R375). -/

namespace Sys2Proof.Machine

open Sys2Proof.Spec

/-! ### The append's items -/

theorem filterMap_of_isSome {α β : Type} {f : α → Option β} {l : List α} (h : ∀ a ∈ l, (f a).isSome = true) :
    (l.filterMap f).length = l.length ∧ ∀ i : Nat, (l.filterMap f)[i]? = l[i]?.bind f := by
  induction l with
  | nil => exact ⟨rfl, fun _ => rfl⟩
  | cons a l ih =>
    obtain ⟨b, hb⟩ := Option.isSome_iff_exists.1 (h a List.mem_cons_self)
    obtain ⟨hlen, hget⟩ := ih fun c hc => h c (List.mem_cons_of_mem a hc)
    rw [List.filterMap_cons_some hb]
    refine ⟨by rw [List.length_cons, hlen, List.length_cons], fun i => ?_⟩
    cases i with
    | zero => exact hb.symm
    | succ i => exact hget i

/-- The writes of items whose places all translate: one an item, in element order. -/
theorem itemWrites_ok {s : State} {k : Queue} {v : Option (BitVec 5)} {g t : Nat} {ps : List (Nat × Nat × Nat)}
    {places : List Place}
    (h : ∀ j < ps.length, ∃ r, places[j]? = some r ∧
      resolve s (s.cx.acc s.cur) .store (k.base + (t + j) * k.size) = .ok r) :
    (itemWrites s k v g t ps).length = ps.length ∧
      ∀ j (hj : j < ps.length) r, places[j]? = some r →
        (itemWrites s k v g t ps)[j]? = some (r.write g (itemBytes s.cx v k.size ps[j])) := by
  unfold itemWrites
  obtain ⟨hlen, hget⟩ := filterMap_of_isSome (l := ps.zipIdx) (f := fun e : (Nat × Nat × Nat) × Nat =>
      match resolve s (s.cx.acc s.cur) .store (k.base + (t + e.2) * k.size) with
      | .ok p => some (p.write g (itemBytes s.cx v k.size e.1))
      | .error _ => none) fun e he => by
    obtain ⟨r, -, hr⟩ := h e.2 (List.snd_lt_of_mem_zipIdx he)
    rw [hr]; rfl
  refine ⟨hlen.trans List.length_zipIdx, fun j hj r hr => (hget j).trans ?_⟩
  obtain ⟨r', hr', hres⟩ := h j hj
  obtain rfl : r' = r := Option.some.inj (hr'.symm.trans hr)
  rw [List.getElem?_zipIdx, List.getElem?_eq_getElem hj]
  simp only [Option.map_some, Option.bind_some, Nat.zero_add, hres]

theorem foldl_postWrite_hasCx (ws : List Write) (s : State) :
    HasCx s (ws.foldl postWrite s) { s.cx with pend := s.cx.pend ++ ws } := by
  induction ws generalizing s with
  | nil =>
    rw [List.append_nil]
    exact .refl s
  | cons w ws ih =>
    have h := (s.mapCx_hasCx fun x => { x with pend := x.pend ++ [w] }).trans (ih (postWrite s w))
    have hpost : (postWrite s w).cx = { s.cx with pend := s.cx.pend ++ [w] } := State.cx_mapCx s _
    rw [hpost] at h
    rw [List.append_cons]
    exact h

theorem crossed_of_owed {bs : List Byte} {t t' : Nat} {items : List Write}
    (h : bytesVal ((bs.drop 20).take 4) ≠ 0 ∧ t / bytesVal ((bs.drop 20).take 4) < t' / bytesVal ((bs.drop 20).take 4) ∧
      bytesVal ((bs.drop 26).take 2) % 2 = 1 ∧ bytesVal ((bs.drop 24).take 2) < 768) :
    crossed bs t t' items =
      some { target := bytesVal ((bs.drop 24).take 2), tail := .ofNat 64 t', items := items } := by
  unfold crossed
  exact if_pos (by simpa [and_assoc] using h)

theorem crossed_of_not_owed {bs : List Byte} {t t' : Nat} {items : List Write}
    (h : ¬ (bytesVal ((bs.drop 20).take 4) ≠ 0 ∧
      t / bytesVal ((bs.drop 20).take 4) < t' / bytesVal ((bs.drop 20).take 4) ∧
      bytesVal ((bs.drop 26).take 2) % 2 = 1 ∧ bytesVal ((bs.drop 24).take 2) < 768)) :
    crossed bs t t' items = none := by
  unfold crossed
  exact if_neg (by simpa [and_assoc] using h)

/-! ### A VCAPP that may read its descriptor -/

theorem readsPoison_of_none {s : State} (h : s.poison = []) (x : Context) (p : Place) (n : Nat) :
    readsPoison s x p n = false := by
  unfold readsPoison State.poisoned
  rw [h]; rfl

/-- A context that has read its descriptor, and translated its queue. -/
structure QueueRead (s t : State) : Prop where
  rest : t = { s with ctxs := t.ctxs, mem := t.mem, tlb := t.tlb, plain := t.plain }
  early : EarlyFrom s.cx t.cx

theorem touchQueue_read (g : Nat) (va : Word) (s : State) : QueueRead s (touchQueue g va s) := by
  unfold touchQueue
  split
  · exact ⟨rfl, .refl _⟩
  · split
    · exact ⟨rfl, .refl _⟩
    · rename_i p _
      refine ⟨?_, ?_⟩
      · rw [dropEarly_rest, touch_rest]
      · have hcur : ((touch s (s.cx.acc s.cur) .load p).dropEarly s.cur g p.loc 32).cur = s.cur := by
          rw [dropEarly_rest, touch_rest]
        have h := dropEarly_early (touch s (s.cx.acc s.cur) .load p) s.cur g p.loc 32 s.cur
        rw [show (touch s (s.cx.acc s.cur) .load p).ctxAt s.cur = s.cx by rw [touch_rest]; rfl] at h
        show EarlyFrom s.cx (State.ctxAt _ (State.cur _))
        rw [hcur]
        exact h

theorem QueueRead.translated {s t : State} (h : QueueRead s t) (k : AccKind) (vas : List Word) :
    QueueRead s (translateAll k vas t).2 := by
  refine ⟨?_, ?_⟩
  · rw [translateAll_rest, h.rest]
  · have hcx : (translateAll k vas t).2.cx = t.cx := by rw [translateAll_rest]; rfl
    rw [hcx]
    exact h.early

section
variable {s : State} {va : Word} {p : Place} {bs : List Byte} {g : Nat}

theorem readQueue_resolves (h : readQueue s va = .ok (p, bs)) : resolve s (s.cx.acc s.cur) .load va.toNat = .ok p := by
  unfold readQueue at h
  split at h
  · rename_i q hq
    rw [hq, (Prod.mk.inj (Except.ok.inj h)).1]
  · cases h

theorem queueReadable_eq (h : readQueue s va = .ok (p, bs)) (hva : va.toNat % 32 = 0) :
    queueReadable g va s = mayRead s s.cur g p 32 := by
  unfold queueReadable
  rw [readQueue_resolves h]
  simp [hva]

end

section
variable {s : State} {a : BitVec 5} {i : Instr} {v : Option (BitVec 5)} {m : BitVec 1} {g : BitVec 3} {p : Place} {bs : List Byte}
  (halign : (s.cx.src a).toNat % 32 = 0) (hread : readQueue s (s.cx.src a) = .ok (p, bs))
include halign hread

theorem cappAct_stays (hmay : mayRead s s.cur g.toNat p 32 = false) : cappAct i v a m g s = s := by
  have hq : queueReadable g.toNat (s.cx.src a) s = false := (queueReadable_eq hread halign).trans hmay
  unfold cappAct
  dsimp only
  rw [if_neg (not_not.2 halign), hq]; rfl

/-- A VCAPP whose accesses all translate goes on to its append. -/
theorem cappAct_appends (hpoison : s.poison = []) (hmay : mayRead s s.cur g.toNat p 32 = true)
    (hbase : (queueOf bs).base % (queueOf bs).size = 0) {d1 d2 : List (Except Nat Place) × State}
    (hd1 : translateAll .atomic [s.cx.src a] (touchQueue g.toNat (s.cx.src a) s) = d1)
    (hd2 : translateAll .store (queueOf bs).pages d1.2 = d2) (hok : ∀ e ∈ d1.1 ++ d2.1, ∃ r, e = .ok r) :
    cappAct i v a m g s = appendActive (queueOf bs) v g.toNat p (s.cx.activeFrom (m == 1) 0) d2.2 := by
  have hq : queueReadable g.toNat (s.cx.src a) s = true := (queueReadable_eq hread halign).trans hmay
  have hnone : failures ([s.cx.src a].zip d1.1 ++ (queueOf bs).pages.zip d2.1) = [] := failures_of_ok fun e he => by
    rcases List.mem_append.1 he with he | he
    · exact hok e.2 (List.mem_append_left _ (List.of_mem_zip he).2)
    · exact hok e.2 (List.mem_append_right _ (List.of_mem_zip he).2)
  unfold cappAct
  dsimp only
  rw [if_neg (not_not.2 halign), hq, hread]
  dsimp only
  rw [readsPoison_of_none hpoison, Bool.false_and, if_neg Bool.false_ne_true, Bool.not_true, if_neg Bool.false_ne_true,
    if_neg (not_not.2 hbase), hd1, hd2, hnone]
  rfl

end

/-! ### The append -/

/-- A context whose strip has been committed by force after its descriptor was read. -/
structure AppendReady (s t : State) : Prop where
  cur : t.cur = s.cur
  poison : t.poison = s.poison
  mill : t.mill = s.mill
  cx : t.cx = { s.cx with
    early := t.cx.early, held := [], pend := s.cx.pend ++ s.cx.held, strip := t.cx.strip, ckpt := t.cx.ckpt }
  forced : t.cx.strip.forced = true

theorem QueueRead.commits {s u : State} (h : QueueRead s u) : AppendReady s (forceCommit u) where
  cur := by rw [forceCommit_cur, h.rest]
  poison := by rw [forceCommit_rest, h.rest]
  mill := by rw [forceCommit_mill, h.rest]
  cx := by
    have he := h.early
    unfold EarlyFrom at he
    rw [forceCommit_cx, he]
  forced := by rw [forceCommit_cx]

theorem appendActive_none {k : Queue} {v : Option (BitVec 5)} {g : Nat} {p : Place} {s u : State} (h : QueueRead s u) :
    ∃ t, appendActive k v g p [] u = t ∧ t.mem = u.mem ∧ ChainsOn s.cx t.cx ∧ t.cx.regs = s.cx.regs ∧ t.cx.fp = s.cx.fp ∧
      t.cx.pend = s.cx.pend ∧ t.cx.held = s.cx.held ∧ t.cx.vregs = s.cx.vregs ∧ t.cx.appends = s.cx.appends := by
  have he := h.early
  unfold EarlyFrom at he
  have hcx : (appendActive k v g p [] u).cx = u.cx.retireMember := State.cx_mapCx u _
  have hchain : ChainsOn s.cx u.cx.retireMember := retireMember_chainsOn (by rw [he]; exact ⟨rfl, rfl, rfl, rfl, rfl, rfl, rfl⟩)
  refine ⟨_, rfl, rfl, hcx ▸ hchain, ?_, ?_, ?_, ?_, ?_, ?_⟩ <;> rw [hcx, Context.retireMember_rest, he]

section
variable {k : Queue} {v : Option (BitVec 5)} {g : Nat} {p : Place} {ps : List (Nat × Nat × Nat)} {s u : State}

/-- An append with active elements commits the strip, and then waits or is made. -/
theorem appendActive_some (hps : ps ≠ []) (hr : AppendReady s (forceCommit u)) (hpoison : s.poison = []) :
    appendActive k v g p ps u =
      if mayAtomic (forceCommit u) g 4 (tailPlace p) then append k v g p ps (forceCommit u) else forceCommit u := by
  have hno : ps.isEmpty = false := by simpa using hps
  unfold appendActive
  dsimp only
  rw [hno, if_neg Bool.false_ne_true, readsPoison_of_none (hr.poison.trans hpoison), if_neg Bool.false_ne_true]

variable {w : State} (hr : AppendReady s w)
include hr

theorem AppendReady.sameMember {z : Context} (hz : SameMember w.cx z) : SameMember s.cx z := by
  obtain ⟨hpc, hcvy, hsup, hnotice, hwait, he, hm⟩ := hz
  rw [hr.cx] at hpc hcvy hsup hnotice hwait he hm
  exact ⟨hpc, hcvy, hsup, hnotice, hwait, he, hm⟩

/-- A queue without room gets nothing. -/
theorem append_full (hfull : k.capacity < bytesVal (((queueBytes w p).drop 16).take 4) + ps.length) :
    ∃ t, append k v g p ps w = t ∧ t.mem = w.mem ∧ t.cx.held = [] ∧ t.cx.pend = s.cx.pend ++ s.cx.held ∧
      t.cx.appends = s.cx.appends ∧ t.cx.regs = s.cx.regs ∧ ChainsOn s.cx t.cx ∧
      t.cx.fp = { s.cx.fp with flags := s.cx.fp.flags ||| flagSAT } := by
  have ht : append k v g p ps w = w.mapCx fun x => (x.orFlags flagSAT).retireMember := if_pos hfull
  have hcx : (append k v g p ps w).cx = (w.cx.orFlags flagSAT).retireMember := by rw [ht, State.cx_mapCx]
  have hchain : ChainsOn s.cx (w.cx.orFlags flagSAT).retireMember :=
    retireMember_chainsOn (hr.sameMember ⟨rfl, rfl, rfl, rfl, rfl, rfl, rfl⟩)
  have hor : w.cx.orFlags flagSAT = { w.cx with fp := { w.cx.fp with flags := w.cx.fp.flags ||| flagSAT } } := rfl
  refine ⟨_, rfl, by rw [ht]; rfl, ?_, ?_, ?_, ?_, hcx ▸ hchain, ?_⟩ <;>
    rw [hcx, Context.retireMember_rest, hor, hr.cx]

/-- The state of an append whose tail has risen. -/
def tailRaised (w : State) (p : Place) (g new : Nat) : State := performWrite w w.cur ((tailPlace p).write g (valBytes 4 new))

omit hr in
theorem append_fits {t : Nat} (ht : bytesVal (((queueBytes w p).drop 16).take 4) = t) (hfits : t + ps.length ≤ k.capacity) :
    let r := tailRaised w p g (t + ps.length)
    let items := itemWrites r k v g t ps
    append k v g p ps w = (items.foldl postWrite r).mapCx fun x =>
      { x with appends := x.appends ++ (crossed (queueBytes w p) t (t + ps.length) items).toList }.retireMember := by
  subst ht
  exact if_neg (not_lt.2 hfits)

/-- The context of an append whose tail has risen. -/
theorem AppendReady.tailRaised_cx (new : Nat) : (tailRaised w p g new).cx = { s.cx with
    early := (tailRaised w p g new).cx.early, held := [], pend := s.cx.pend ++ s.cx.held
    strip := w.cx.strip, ckpt := w.cx.ckpt } := by
  have h := performWrite_early w w.cur ((tailPlace p).write g (valBytes 4 new)) w.cur
  have hcx : (tailRaised w p g new).cx = (performWrite w w.cur ((tailPlace p).write g (valBytes 4 new))).ctxAt w.cur := by
    show State.ctxAt _ (State.cur _) = _
    rw [tailRaised, performWrite_cur]
  unfold EarlyFrom at h
  rw [← hcx, show w.ctxAt w.cur = w.cx from rfl] at h
  rw [h, hr.cx]

/-- The tail has risen and the items are posted behind it. -/
theorem append_posts {t : Nat} (ht : bytesVal (((queueBytes w p).drop 16).take 4) = t)
    (hfits : t + ps.length ≤ k.capacity) {places : List Place}
    (hplaces : ∀ j < ps.length, ∃ r, places[j]? = some r ∧
      resolve (tailRaised w p g (t + ps.length)) (s.cx.acc s.cur) .store (k.base + (t + j) * k.size) = .ok r) :
    ∃ u ws, append k v g p ps w = u ∧ u.mem = (tailRaised w p g (t + ps.length)).mem ∧
      u.mill = (tailRaised w p g (t + ps.length)).mill ∧
      u.cx.pend = s.cx.pend ++ s.cx.held ++ ws ∧ u.cx.held = [] ∧ u.cx.strip.forced = true ∧ ChainsOn s.cx u.cx ∧
      ws.length = ps.length ∧
      (∀ j (h : j < ps.length) r, places[j]? = some r → ws[j]? = some (r.write g (itemBytes s.cx v k.size ps[j]))) ∧
      u.cx.appends = s.cx.appends ++ (crossed (queueBytes w p) t (t + ps.length) ws).toList ∧
      u.cx.regs = s.cx.regs ∧ u.cx.conds = s.cx.conds ∧ u.cx.fp = s.cx.fp ∧ u.cx.vregs = s.cx.vregs := by
  have happend := append_fits (v := v) (g := g) ht hfits
  have hrcx := hr.tailRaised_cx (p := p) (g := g) (t + ps.length)
  have hrcur : (tailRaised w p g (t + ps.length)).cur = s.cur := (performWrite_cur _ _ _).trans hr.cur
  generalize tailRaised w p g (t + ps.length) = r at happend hrcx hrcur hplaces ⊢
  have hacc : r.cx.acc r.cur = s.cx.acc s.cur := by rw [hrcur, hrcx]; rfl
  rw [← hacc] at hplaces
  obtain ⟨hlen, hitems⟩ := itemWrites_ok (v := v) (g := g) hplaces
  have hbytes : ∀ e, itemBytes r.cx v k.size e = itemBytes s.cx v k.size e := fun e => by rw [hrcx]; rfl
  simp only [hbytes] at hitems
  dsimp only at happend
  generalize itemWrites r k v g t ps = ws at happend hlen hitems
  have hpost := foldl_postWrite_hasCx ws r
  generalize ws.foldl postWrite r = q at happend hpost
  have hcx := State.cx_mapCx q fun x =>
    { x with appends := x.appends ++ (crossed (queueBytes w p) t (t + ps.length) ws).toList }.retireMember
  rw [← happend, hpost.cx_eq] at hcx
  have hmem : (append k v g p ps w).mem = r.mem := by rw [happend]; exact hpost.mem
  have hmill : (append k v g p ps w).mill = r.mill := by rw [happend]; exact hpost.mill
  generalize append k v g p ps w = u at hcx hmem hmill
  have hchain : ChainsOn s.cx u.cx := by
    rw [hcx]
    exact retireMember_chainsOn (by rw [hrcx]; exact ⟨rfl, rfl, rfl, rfl, rfl, rfl, rfl⟩)
  rw [Context.retireMember_rest, hrcx] at hcx
  refine ⟨u, ws, rfl, hmem, hmill, ?_, ?_, ?_, hchain, hlen, hitems, ?_, ?_, ?_, ?_, ?_⟩ <;> rw [hcx]
  exact hr.forced

end

end Sys2Proof.Machine
end

section
/-! PROOF. O27: VCAPP appends. -/

namespace Sys2Proof.Machine

open Sys2Proof.Spec

/-- A VCAPP that passes its issue checks, in either form. -/
theorem exec_vcapp {s : State} {k : BitVec 1} {d a : BitVec 5} {m q : BitVec 1} {g : BitVec 3} {v : Option (BitVec 5)}
    {i : Instr} (hi : (i, v) ∈ [(.vcappIdx k a m q g, none), (.vcappVal k d a m q g, some d)])
    (hcheck : cappCheck i v a s = none) : exec i s = .next (cappAct i v a m g s) := by
  have hword : exec i s = vectorWord (cappCheck i v a s) (cappAct i v a m g) s := by
    rcases List.mem_cons.1 hi with h | h
    · obtain ⟨rfl, rfl⟩ := Prod.mk.inj h; rfl
    · obtain ⟨rfl, rfl⟩ := Prod.mk.inj (List.mem_singleton.1 h); rfl
  rw [hword]
  unfold vectorWord
  rw [hcheck, ite_self]

/-- The memory of an append whose tail lies in plain text and does not count for a replay. -/
theorem tailRaised_uncounted {s w : State} {p : Place} (hr : AppendReady s w) (g new : Nat) (henc : p.enc = false)
    (hu : Uncounted s s.cur p.cls) : (tailRaised w p g new).mem = memWriteN w.mem (p.loc + 16) (valBytes 4 new) := by
  have hu' : Uncounted w w.cur ((tailPlace p).write g (valBytes 4 new)).cls := by
    refine hu.imp_right fun hl l hlaunch => hl l ?_
    have hno : (w.ctxAt w.cur).launchNo = (s.ctxAt s.cur).launchNo := by
      show w.cx.launchNo = s.cx.launchNo
      rw [hr.cx]; rfl
    rw [hno] at hlaunch
    unfold State.launch at hlaunch ⊢
    rwa [hr.mill] at hlaunch
  refine (performWrite_uncounted hu').1.trans ?_
  show (if p.enc then _ else memWriteN w.mem (p.loc + 16) (valBytes 4 new)) = _
  rw [henc]; rfl

/-- The item of an element as R43 has it. -/
theorem itemBytes_eq (x : Context) (v : Option (BitVec 5)) (size : Nat) (e : Nat × Nat × Nat) :
    itemBytes x v size e = valBytes size (match v with
      | none => e.1
      | some d => x.elem d.toNat x.width e.2.1 e.2.2) := by
  cases v <;> rfl

end Sys2Proof.Machine

namespace Sys2Proof

open Sys2Proof.Machine Sys2Proof.Spec

/-- Settles O27: a VCAPP by what its read of the descriptor leaves, and its append by whether the atomic may be made and the queue
has room. -/
theorem vcappAppends : Obligations.VcappAppends := by
  intro s k d a m q g v i hi hcheck hpoison p bs halign hread x field base capacity size items d1 d2 s1 now old new s2 free
  have hexec := exec_vcapp hi hcheck
  refine ⟨fun hmay => by rw [hexec, cappAct_stays halign hread hmay], fun hmay hbase hok => ?_⟩
  rw [cappAct_appends halign hread hpoison hmay hbase (d1 := d1) (d2 := d2) rfl rfl hok] at hexec
  have hq : QueueRead s d2.2 := ((touchQueue_read g.toNat (x.src a) s).translated .atomic [x.src a]).translated .store _
  have hr : AppendReady s s1 := hq.commits
  refine ⟨fun hnone => ?none, fun hsome hbusy => ?busy, fun hsome hfree hfull => ?full,
    fun hsome hfree hfits places hplaces hlen => ?fits⟩
  case none =>
    rw [show x.activeFrom (m == 1) 0 = [] from hnone] at hexec
    obtain ⟨t, ht, hpost⟩ := appendActive_none (k := queueOf bs) (v := v) (g := g.toNat) (p := p) hq
    exact ⟨t, hexec.trans (congrArg _ ht), hpost⟩
  case busy =>
    rw [appendActive_some hsome hr hpoison] at hexec
    replace hexec := hexec.trans (congrArg _ (if_neg hbusy))
    refine ⟨s1, hexec, rfl, ?_, ?_, ?_, ?_, ?_, ?_⟩ <;> rw [hr.cx]
  case full =>
    rw [appendActive_some hsome hr hpoison] at hexec
    replace hexec := hexec.trans (congrArg _ (if_pos hfree))
    obtain ⟨t, ht, hpost⟩ := append_full (k := queueOf bs) (v := v) (g := g.toNat) (ps := items) hr hfull
    exact ⟨t, hexec.trans (congrArg _ ht), hpost⟩
  case fits =>
    rw [appendActive_some hsome hr hpoison] at hexec
    replace hexec := hexec.trans (congrArg _ (if_pos hfree))
    have hs2 : tailRaised s1 p g.toNat new = s2 := by
      unfold tailRaised
      rw [hr.cur]; rfl
    obtain ⟨t, ws, ht, hmem, hmill, hpend, hheld, hforced, hchain, hlen, hws, happends, hregs, hconds, hfp, hvregs⟩ :=
      append_posts (k := queueOf bs) (v := v) (g := g.toNat) (p := p) (ps := items) hr rfl hfits (places := places)
        (by rw [hs2]; exact hplaces)
    rw [hs2] at hmem hmill
    refine ⟨t, ws, hexec.trans (congrArg _ ht), hmem, hmill, fun henc hu => ?_, hpend, hheld, hforced, hchain, hlen,
      fun j hj r hr => (hws j hj r hr).trans (by rw [itemBytes_eq]; rfl), ⟨fun howed => ?_, fun hnot => ?_⟩, hregs, hconds,
      hfp, hvregs⟩
    · rw [hmem, ← hs2]
      exact tailRaised_uncounted hr g.toNat new henc hu
    · rw [happends, crossed_of_owed howed]; rfl
    · rw [happends, crossed_of_not_owed hnot]; exact List.append_nil _

end Sys2Proof
end

section
/-! SUPPORT. Writes that count for replay, as the shadow pool's directory decides (R250 to R252). -/

namespace Sys2Proof.Machine

open Sys2Proof.Spec

/-! ### The shadow pool (R251, R252) -/

/-- Entry i of a shadow pool's directory names a page. -/
def Launch.names (l : Launch) (d : State) (page i : Nat) : Bool :=
  bitOf (dirEntry d l i) 0 && dirEntry d l i / 2 ^ 26 % 2 ^ 28 == page / 2 ^ 16 % 2 ^ 28

/-- The launch is no longer replayable. -/
def State.endReplay (s : State) (n : Nat) : State := s.mapLaunch n fun l => { l with replayable := false }

/-- A page's first write takes slot i of a shadow pool, whose directory has been read. -/
def takeSlot (d : State) (l : Launch) (page key i : Nat) : State :=
  match slotPlace d l i with
  | none => d.endReplay l.num
  | some dst =>
    (writeBlock (copyPage (touch d l.acc .store dst) page dst.loc) l.acc none (l.pool.toNat + 8 * i)
      (valBytes 8 (dirWord key page))).getD d

/-- A launch's state once its directory has been read, for a write to a page. -/
def lookUp (d : State) (l : Launch) (page key : Nat) : State :=
  if (List.range l.slotCount).any (l.names d page) then d
  else match (List.range l.slotCount).find? fun i => !bitOf (dirEntry d l i) 0 with
    | none => d.endReplay l.num
    | some i => takeSlot d l page key i

theorem shadowCopy_eq (s : State) (l : Launch) (loc key : Nat) : shadowCopy s l loc key =
    lookUp (touchBlock s l.acc .load none l.pool.toNat (8 * l.slotCount)) l (loc / 2 ^ 16 * 2 ^ 16) key := by
  unfold shadowCopy lookUp
  dsimp only [-Nat.reducePow]
  generalize touchBlock s l.acc .load none l.pool.toNat (8 * l.slotCount) = d
  generalize loc / 2 ^ 16 * 2 ^ 16 = page
  rw [List.any_map, List.find?_map]
  refine if_congr Iff.rfl rfl ?_
  simp only [Function.comp_def]
  cases (List.range l.slotCount).find? fun i => !bitOf (dirEntry d l i) 0 <;> rfl

/-! ### Contexts beside it -/

/-- A state with other contexts. -/
def State.withCtxs (s : State) (cs : Tab Context) : State := { s with ctxs := cs }

section
variable (s : State) (cs : Tab Context) (l : Launch)

theorem resolveBlock_withCtxs (a : Acc) (k : AccKind) (key : Option Nat) (ps : List (Nat × List Byte)) :
    resolveBlock (s.withCtxs cs) a k key ps = resolveBlock s a k key ps := resolveBlock_beside s cs s.strs s.mill a k key ps

theorem touch_withCtxs (a : Acc) (k : AccKind) (p : Place) :
    touch (s.withCtxs cs) a k p = (touch s a k p).withCtxs cs := by unfold touch; split <;> rfl

theorem foldl_withCtxs {α : Type} {f : State → α → State} (hf : ∀ s e, f (s.withCtxs cs) e = (f s e).withCtxs cs)
    (es : List α) (s : State) : es.foldl f (s.withCtxs cs) = (es.foldl f s).withCtxs cs := by
  induction es generalizing s with
  | nil => rfl
  | cons e es ih => rw [List.foldl_cons, List.foldl_cons, hf, ih]

theorem touchBlock_withCtxs (a : Acc) (k : AccKind) (key : Option Nat) (va n : Nat) :
    touchBlock (s.withCtxs cs) a k key va n = (touchBlock s a k key va n).withCtxs cs := by
  unfold touchBlock
  rw [resolveBlock_withCtxs]
  split
  · rfl
  · exact foldl_withCtxs cs (fun t e => touch_withCtxs t cs a k e.1) _ s

theorem writeBlock_withCtxs (a : Acc) (key : Option Nat) (va : Nat) (bs : List Byte) :
    writeBlock (s.withCtxs cs) a key va bs = (writeBlock s a key va bs).map (·.withCtxs cs) := by
  unfold writeBlock
  rw [resolveBlock_withCtxs]
  split
  · rfl
  · exact congrArg some (foldl_withCtxs cs (fun t e => by rw [touch_withCtxs]; rfl) _ s)

theorem dirEntry_withCtxs (i : Nat) : dirEntry (s.withCtxs cs) l i = dirEntry s l i := by
  unfold dirEntry readBlock
  rw [resolveBlock_withCtxs]; rfl

theorem copyPage_withCtxs (src dst : Nat) : copyPage (s.withCtxs cs) src dst = (copyPage s src dst).withCtxs cs := by
  unfold copyPage
  generalize 2 ^ 16 = n
  rfl

theorem takeSlot_withCtxs (page key i : Nat) :
    takeSlot (s.withCtxs cs) l page key i = (takeSlot s l page key i).withCtxs cs := by
  unfold takeSlot
  rw [show slotPlace (s.withCtxs cs) l i = slotPlace s l i from rfl]
  split
  · rfl
  · rw [touch_withCtxs, copyPage_withCtxs, writeBlock_withCtxs, Option.getD_map]

theorem lookUp_withCtxs (page key : Nat) : lookUp (s.withCtxs cs) l page key = (lookUp s l page key).withCtxs cs := by
  unfold lookUp Launch.names
  simp only [dirEntry_withCtxs, takeSlot_withCtxs]
  split
  · rfl
  · split <;> rfl

/-- What a write means for replay does not look at contexts. -/
theorem countWrite_withCtxs (n : Nat) (w : Write) : countWrite (s.withCtxs cs) n w = (countWrite s n w).withCtxs cs := by
  unfold countWrite
  rw [show (s.withCtxs cs).launch n = s.launch n from rfl]
  split
  · rfl
  · split
    · rfl
    · split
      · rfl
      · rw [shadowCopy_eq, shadowCopy_eq, touchBlock_withCtxs, lookUp_withCtxs]
      · rfl

end

/-- Nothing differs but launches and what an access changes of the memory. -/
def CountOnly (s t : State) : Prop := t = { s with
  mill := t.mill, mem := t.mem, tlb := t.tlb, poison := t.poison, plain := t.plain }

theorem CountOnly.trans {s t u : State} (h : CountOnly s t) (g : CountOnly t u) : CountOnly s u := by
  unfold CountOnly at *; rw [g, h]

theorem MemoryOnly.countOnly {s t : State} (h : MemoryOnly s t) : CountOnly s t := by
  unfold MemoryOnly at h
  unfold CountOnly; rw [h]

theorem takeSlot_countOnly (d : State) (l : Launch) (page key i : Nat) : CountOnly d (takeSlot d l page key i) := by
  unfold takeSlot
  split
  · rfl
  · rename_i dst _
    have hc := (touch_memoryOnly d l.acc .store dst).trans (copyPage_memoryOnly _ page dst.loc)
    cases hw : writeBlock (copyPage (touch d l.acc .store dst) page dst.loc) l.acc none (l.pool.toNat + 8 * i)
        (valBytes 8 (dirWord key page)) with
    | none => rfl
    | some t => exact (hc.trans (writeBlock_memoryOnly hw)).countOnly

theorem lookUp_countOnly (d : State) (l : Launch) (page key : Nat) : CountOnly d (lookUp d l page key) := by
  unfold lookUp
  split
  · rfl
  · split
    · rfl
    · exact takeSlot_countOnly ..

theorem countWrite_countOnly (s : State) (n : Nat) (w : Write) : CountOnly s (countWrite s n w) := by
  unfold countWrite
  split
  · rfl
  · split
    · rfl
    · split
      · rfl
      · rw [shadowCopy_eq]
        exact (touchBlock_memoryOnly ..).countOnly.trans (lookUp_countOnly ..)
      · rfl

end Sys2Proof.Machine
end

section
/-! PROOF. The writes of a launch that may be replayed (R250 to R252). -/

namespace Sys2Proof.Machine

open Sys2Proof.Spec

section
variable {d : State} {l : Launch} {page key : Nat}

theorem bitOf_zero_iff (v : Nat) : bitOf v 0 = true ↔ v % 2 = 1 := by simp [bitOf]

theorem Launch.names_iff (i : Nat) : l.names d page i = true ↔
    dirEntry d l i % 2 = 1 ∧ dirEntry d l i / 2 ^ 26 % 2 ^ 28 = page / 2 ^ 16 % 2 ^ 28 := by
  unfold Launch.names
  rw [Bool.and_eq_true, bitOf_zero_iff, beq_iff_eq]

theorem lookUp_named (h : ∃ i < l.slotCount, l.names d page i = true) : lookUp d l page key = d := by
  obtain ⟨i, hi, hn⟩ := h
  exact if_pos (List.any_eq_true.2 ⟨i, List.mem_range.2 hi, hn⟩)

theorem not_any_names (h : ∀ i < l.slotCount, ¬ l.names d page i = true) :
    ¬ (List.range l.slotCount).any (l.names d page) = true := fun ha => by
  obtain ⟨i, hi, hn⟩ := List.any_eq_true.1 ha
  exact h i (List.mem_range.1 hi) hn

theorem lookUp_full (h : ∀ i < l.slotCount, ¬ l.names d page i = true) (hodd : ∀ i < l.slotCount, dirEntry d l i % 2 = 1) :
    lookUp d l page key = d.endReplay l.num := by
  have hnone : (List.range l.slotCount).find? (fun i => !bitOf (dirEntry d l i) 0) = none :=
    List.find?_eq_none.2 fun i hi => by
      rw [(bitOf_zero_iff _).2 (hodd i (List.mem_range.1 hi))]
      exact Bool.false_ne_true
  refine (if_neg (not_any_names h)).trans ?_
  rw [hnone]

theorem lookUp_free {i : Nat} (hi : i < l.slotCount) (h : ∀ i < l.slotCount, ¬ l.names d page i = true)
    (hodd : ∀ j < i, dirEntry d l j % 2 = 1) (heven : dirEntry d l i % 2 = 0) :
    lookUp d l page key = takeSlot d l page key i := by
  have hsome : (List.range l.slotCount).find? (fun i => !bitOf (dirEntry d l i) 0) = some i := by
    refine List.find?_range_eq_some.2 ⟨?_, List.mem_range.2 hi, fun j hj => ?_⟩
    · simp [bitOf, heven]
    · rw [(bitOf_zero_iff _).2 (hodd j hj)]; rfl
  refine (if_neg (not_any_names h)).trans ?_
  rw [hsome]

theorem takeSlot_writes {i : Nat} {p : Place} {v : State}
    (hp : resolve d l.acc .store (l.pool.toNat + (i + 1) * 2 ^ 16) = .ok p)
    (hw : writeBlock (copyPage (touch d l.acc .store p) page p.loc) l.acc none (l.pool.toNat + 8 * i)
      (valBytes 8 (dirWord key page)) = some v) : takeSlot d l page key i = v := by
  have hslot : slotPlace d l i = some p := by
    unfold slotPlace
    rw [hp]
  unfold takeSlot
  rw [hslot]
  dsimp only
  rw [hw]; rfl

end

theorem memReadN_getElem (m : List Host.Cell) (a : Nat) {n k : Nat} (h : k < (memReadN m a n).length) :
    (memReadN m a n)[k] = memRead m (a + k) := by
  induction n generalizing a k with
  | zero => exact absurd h (Nat.not_lt_zero k)
  | succ n ih =>
    cases k with
    | zero => rfl
    | succ k => exact (ih (a + 1) (Nat.lt_of_succ_lt_succ h)).trans (by rw [Nat.add_assoc, Nat.add_comm 1 k])

theorem copyPage_rest (s : State) (src dst : Nat) :
    copyPage s src dst = { s with mem := (copyPage s src dst).mem, poison := (copyPage s src dst).poison } := by
  unfold copyPage
  generalize 2 ^ 16 = n
  rfl

theorem copyPage_mem (s : State) (src dst : Nat) :
    (copyPage s src dst).mem = memWriteN s.mem dst (memReadN s.mem src 65536) := by
  rw [← (by norm_num : (2 : Nat) ^ 16 = 65536)]
  unfold copyPage
  generalize 2 ^ 16 = n
  rfl

/-- The copy of a page reads as the page did, and nothing else changes. -/
theorem copyPage_memRead {s : State} (h : Memory.wf s.mem = true) (src dst : Nat) :
    (∀ k < 65536, memRead (copyPage s src dst).mem (dst + k) = memRead s.mem (src + k)) ∧
      ∀ a, ¬ (dst ≤ a ∧ a < dst + 65536) → memRead (copyPage s src dst).mem a = memRead s.mem a := by
  rw [copyPage_mem]
  generalize 65536 = n
  refine ⟨fun k hk => ?_, fun a ha => ?_⟩
  · have hlen : k < (memReadN s.mem src n).length := by rwa [memReadN_length]
    rw [memRead_memWriteN_of_inside h dst _ k hlen, memReadN_getElem]
  · refine memRead_memWriteN_of_outside h dst a _ ?_
    rw [memReadN_length]
    omega

theorem countWrite_replayable {s : State} {n : Nat} {w : Write} {l : Launch} (hl : s.launch n = some l)
    (hrep : l.replayable = true) : countWrite s n w = match w.cls with
      | .uncounted => s
      | .versioned => shadowCopy s l w.loc w.key
      | .unversioned => s.endReplay n := by
  unfold countWrite
  rw [hl]
  dsimp only
  rw [hrep]
  exact if_neg Bool.false_ne_true

theorem countWrite_versioned {s : State} {n : Nat} {w : Write} {l : Launch} (hl : s.launch n = some l)
    (hrep : l.replayable = true) (hcls : w.cls = .versioned) : countWrite s n w =
      lookUp (touchBlock s l.acc .load none l.pool.toNat (8 * l.slotCount)) l (w.loc / 2 ^ 16 * 2 ^ 16) w.key := by
  rw [countWrite_replayable hl hrep, hcls]
  exact shadowCopy_eq ..

theorem writesOfALaunchAreCounted : WritesOfALaunchAreCounted := by
  intro s n w ends
  refine ⟨fun hnone => countWrite_uncounted (.inr fun l hl => ?_), fun l hl h => countWrite_uncounted ?_,
    fun l hl hrep => ⟨fun hcls => ⟨?_, ?_, rfl⟩, fun hcls => ?_⟩⟩
  · rw [hnone] at hl; cases hl
  · refine h.symm.imp_right fun hr m hm => ?_
    rw [hl] at hm
    exact Option.some.inj hm ▸ hr
  · rw [countWrite_replayable hl hrep, hcls]; rfl
  · exact (s.launch_mapLaunch n (f := fun l => { l with replayable := false }) fun _ => rfl).trans (congrArg _ hl)
  · intro page slots s1 entry named
    have hnum : l.num = n := State.launch_num hl
    have hcount : countWrite s n w = lookUp s1 l page w.key := countWrite_versioned hl hrep hcls
    rw [hcount]
    have hnamed (i : Nat) : l.names s1 page i = true ↔ named i := l.names_iff i
    refine ⟨fun ⟨i, hi, h⟩ => lookUp_named ⟨i, hi, (hnamed i).2 h⟩, fun h => ?_, fun i hi hno hodd heven p hp => ?_⟩
    · rw [lookUp_full (fun i hi g => (h i hi).1 ((hnamed i).1 g)) fun i hi => (h i hi).2, hnum]; rfl
    · intro s2 copied
      rw [lookUp_free hi (fun i hi g => hno i hi ((hnamed i).1 g)) hodd heven]
      exact ⟨fun v hv => takeSlot_writes hp hv, copyPage_rest .., fun hwf => copyPage_memRead hwf page p.loc⟩

end Sys2Proof.Machine
end

section
/-! PROOF. Committed writes are performed, and appends notify (R44, R181 to R183, R361). -/

namespace Sys2Proof.Machine

open Sys2Proof.Spec

/-! ### A write performed -/

/-- What a write takes from the reads performed early is of its own context. -/
theorem dropFor_setCtx (s : State) (c : Nat) (x : Context) (w : Write) : ∃ early : List EarlyRead,
    (∀ e ∈ early, e ∈ x.early) ∧ dropFor (s.setCtx c x) c w = s.setCtx c { x with early := early } := by
  have hset (y : Context) : (s.setCtx c x).setCtx c y = s.setCtx c y :=
    congrArg (fun t => { s with ctxs := t }) (tabSet_tabSet s.ctxs c x y)
  unfold dropFor State.dropBytes State.dropEarly Context.dropEarly
  dsimp only
  rw [State.ctxAt_setCtx_self]
  split
  · split
    · exact ⟨x.early, fun _ => id, rfl⟩
    · exact ⟨_, fun e he => List.mem_of_mem_filter he, hset _⟩
  · split
    · exact ⟨x.early, fun _ => id, rfl⟩
    · exact ⟨_, fun e he => List.mem_of_mem_filter he, hset _⟩

theorem keepWord_keeps (t : Tab (List CodeWord)) (loc : Nat) (w : CodeWord) (n : Nat) {o : CodeWord}
    (h : o ∈ tabGet [] t n) : o ∈ tabGet [] (keepWord t loc w) n := by
  unfold keepWord
  dsimp only
  split
  · exact h
  · rw [tabGet_tabSet]
    split
    · rename_i hn
      exact List.mem_cons_of_mem w (hn ▸ h)
    · exact h

theorem foldl_keepWord_keeps {f : Nat → Nat × CodeWord} (is : List Nat) (t : Tab (List CodeWord)) (n : Nat) {o : CodeWord}
    (h : o ∈ tabGet [] t n) : o ∈ tabGet [] (is.foldl (fun t i => keepWord t (f i).1 (f i).2) t) n := by
  induction is generalizing t with
  | nil => exact h
  | cons i is ih => exact ih _ (keepWord_keeps t _ _ n h)

theorem keepStale_keeps (s : State) (w : Write) (n : Nat) {o : CodeWord} (h : o ∈ tabGet [] s.stale n) :
    o ∈ tabGet [] (keepStale s w).stale n := by
  unfold keepStale
  split
  · exact h
  · dsimp only
    exact foldl_keepWord_keeps (f := fun i => (_, _)) _ _ n h

theorem keepStale_clean {s : State} {w : Write} (h : w.dirties s.node = false) : keepStale s w = s :=
  if_pos (by rw [h]; rfl)

/-- The state after a committed write of a context, counted in `u`, is performed, with what is left of its context. -/
def performed (u : State) (c : Nat) (y : Context) (w : Write) : State := performAt (keepStale (u.setCtx c y) w) w

/-- A committed write that is performed is counted first, and takes from its context itself and reads performed early. -/
theorem performIdx_eq {s : State} {c n : Nat} {w : Write} (hw : (s.ctxAt c).pend[n]? = some w) : ∃ early : List EarlyRead,
    (∀ e ∈ early, e ∈ (s.ctxAt c).early) ∧ performIdx s c n = performed (countWrite s (s.ctxAt c).launchNo w) c
      { s.ctxAt c with pend := (s.ctxAt c).pend.eraseIdx n, early := early } w := by
  obtain ⟨early, hmem, hdrop⟩ := dropFor_setCtx s c { s.ctxAt c with pend := (s.ctxAt c).pend.eraseIdx n } w
  refine ⟨early, hmem, ?_⟩
  have hctxs := (countWrite_keeps s (s.ctxAt c).launchNo w).1
  unfold performIdx performed
  rw [hw]
  dsimp only
  rw [performWrite_eq, hdrop, State.ctxAt_setCtx_self]
  generalize hy : { s.ctxAt c with pend := (s.ctxAt c).pend.eraseIdx n, early := early } = y
  have hno : y.launchNo = (s.ctxAt c).launchNo := by rw [← hy]; rfl
  rw [hno, show s.setCtx c y = s.withCtxs (tabSet s.ctxs c y) from rfl, countWrite_withCtxs]
  unfold State.setCtx
  rw [hctxs]; rfl

section
variable {s u : State} {c : Nat} {y : Context} {w : Write}

theorem performed_rest (h : CountOnly s u) : performed u c y w = { s.setCtx c y with
    mem := (performed u c y w).mem, mill := (performed u c y w).mill, tlb := (performed u c y w).tlb
    poison := (performed u c y w).poison, plain := (performed u c y w).plain, stale := (performed u c y w).stale } := by
  unfold CountOnly at h
  unfold performed
  rw [performAt_memoryOnly, keepStale_rest, h]; rfl

theorem performed_mem (u : State) (c : Nat) (y : Context) (w : Write) : (performed u c y w).mem = putWrite u.keys u.mem w := by
  show putWrite (keepStale _ w).keys (keepStale _ w).mem w = _
  rw [keepStale_rest]; rfl

theorem performed_mill (u : State) (c : Nat) (y : Context) (w : Write) : (performed u c y w).mill = u.mill := by
  show (keepStale _ w).mill = _
  rw [keepStale_rest]; rfl

theorem performed_tlb (u : State) (c : Nat) (y : Context) (w : Write) : (performed u c y w).tlb = u.tlb := by
  show (keepStale _ w).tlb = _
  rw [keepStale_rest]; rfl

theorem performed_ctxAt (u : State) (c : Nat) (y : Context) (w : Write) : (performed u c y w).ctxAt c = y := by
  show (keepStale _ w).ctxAt c = _
  rw [keepStale_rest]
  exact State.ctxAt_setCtx_self u c y

end

theorem putWrite_memRead (keys : Tab (BitVec 512)) {m : List Host.Cell} {w : Write} (h : Memory.wf m = true)
    (henc : w.enc = false) (hnib : w.nib = none) :
    (∀ k < w.bytes.length, memRead (putWrite keys m w) (w.loc + k) = w.bytes.getD k 0) ∧
      ∀ a, ¬ (w.loc ≤ a ∧ a < w.loc + w.bytes.length) → memRead (putWrite keys m w) a = memRead m a := by
  have hput : putWrite keys m w = memWriteN m w.loc w.bytes := by
    unfold putWrite putBytes
    rw [henc, hnib]; rfl
  rw [hput]
  refine ⟨fun k hk => ?_, fun a ha => memRead_memWriteN_of_outside h _ _ _ (by omega)⟩
  rw [memRead_memWriteN_of_inside h _ _ _ hk, List.getD_eq_getElem?_getD, List.getElem?_eq_getElem hk]; rfl

theorem exec_writePerform {s : State} {c n : Nat} (hc : c < 768) (hmay : mayPerform s c n = true) :
    ∀ i ∈ [Instr.bufferedWritePerform c n, .unheldWritePerform c n], exec i s = .next (performIdx s c n) := by
  have hrange : ctxInRange c = true := decide_eq_true hc
  have h : execBufferedWritePerform c n s = .next (performIdx s c n) := by
    unfold execBufferedWritePerform
    rw [hrange, hmay]; rfl
  intro i hi
  rcases List.mem_cons.1 hi with rfl | hi
  · exact h
  · rw [List.mem_singleton.1 hi]
    exact h

/-! ### The notification of a VCAPP -/

theorem exec_vcappThresholdNotify {s : State} {c n : Nat} {app : Append} (hc : c < 768)
    (happ : (s.ctxAt c).appends[n]? = some app) (hwaits : app.waits (s.ctxAt c) = false) (hne : app.target ≠ c) :
    exec (.vcappThresholdNotify c n) s = .next
      ((s.setCtx c { s.ctxAt c with appends := (s.ctxAt c).appends.eraseIdx n }).setCtx app.target
        ((s.ctxAt app.target).raise 0x02 app.tail)) := by
  have hrange : ctxInRange c = true := decide_eq_true hc
  show execVcappThresholdNotify c n s = _
  unfold execVcappThresholdNotify
  rw [hrange]
  dsimp only
  rw [happ]
  dsimp only
  rw [hwaits, State.ctxAt_setCtx, if_neg hne]; rfl

theorem writesArePerformed : WritesArePerformed := by
  intro s c hc x
  refine ⟨fun n w hw hmay i hi => ?_, fun n app happ hwaits hne => ?_⟩
  · intro u
    obtain ⟨early, hearly, hperf⟩ := performIdx_eq hw
    have hu : CountOnly s u := countWrite_countOnly s x.launchNo w
    have hstale : u.stale = s.stale := by rw [hu]
    have hkeys : u.keys = s.keys := by rw [hu]
    have hnode : u.node = s.node := by rw [hu]; rfl
    generalize hy : { x with pend := x.pend.eraseIdx n, early := early } = y at hperf
    have hcx := performed_ctxAt u c y w
    have hpend : y.pend = x.pend.eraseIdx n := by rw [← hy]
    have hye : y.early = early := by rw [← hy]
    have hmem : (performed u c y w).mem = putWrite s.keys u.mem w := by rw [performed_mem, hkeys]
    refine ⟨performed u c y w, (exec_writePerform hc hmay i hi).trans (congrArg _ hperf), hmem, performed_mill u c y w,
      by rw [hcx, hpend], by rw [hcx, hye]; exact hearly, ?_, fun loc o ho => ?_, fun hclean => ?_, fun hun => ?_⟩
    · rw [hcx, hye, hy]
      exact performed_rest hu
    · exact keepStale_keeps (u.setCtx c y) w loc (by rw [State.setCtx_stale, hstale]; exact ho)
    · show (keepStale (u.setCtx c y) w).stale = _
      rw [keepStale_clean (hnode ▸ hclean), State.setCtx_stale, hstale]
    · have hsame : u = s := countWrite_uncounted hun
      rw [hsame] at hmem ⊢
      refine ⟨hmem, performed_mill s c y w, performed_tlb s c y w, fun hwf henc hnib => ?_⟩
      rw [hmem]
      exact putWrite_memRead s.keys hwf henc hnib
  · refine ⟨_, exec_vcappThresholdNotify hc happ hwaits hne, ?_, ?_, rfl, fun d hd ht => ?_⟩
    · rw [State.ctxAt_setCtx, if_neg hne.symm, State.ctxAt_setCtx_self]
    · rw [State.ctxAt_setCtx_self]
      exact ⟨rfl, rfl⟩
    · rw [State.ctxAt_setCtx, if_neg ht, State.ctxAt_setCtx, if_neg hd]

end Sys2Proof.Machine
end

section
/-! PROOF. Copy commands start and complete (R153, R179, R187, R188, R190, R210, R211). -/

namespace Sys2Proof.Machine

open Sys2Proof.Spec

/-! ### A command starts -/

theorem copyRuns_of {s : State} {c : Nat} {m : CopyCmd} (hmig : s.migration = none)
    (h : (s.fab.undealt = 0 ∧ s.planesDead = false) ∨ m.carried s c = true) : copyRuns s c m = true := by
  unfold copyRuns State.busOpen State.flows
  rw [hmig]
  rcases h with ⟨hu, hd⟩ | h
  · simp [hu, hd]
  · simp [h]

theorem CopyChan.cmd_id {ch : CopyChan} {id : BitVec 32} {m : CopyCmd} (h : ch.cmd id = some m) : m.id = id := by
  simpa using List.find?_some h

/-- What an event leaves of its context, where it changes other parts of the machine first. -/
theorem mapCx_ctxAt {s u : State} {c : Nat} (hcur : u.cur = c) (hctxs : u.ctxs = s.ctxs) (f : Context → Context) :
    (u.mapCx f).ctxAt c = f (s.ctxAt c) := by
  rw [State.ctxAt_mapCx, if_pos hcur.symm]
  unfold State.cx State.ctxAt
  rw [hcur, hctxs]

section
variable {s : State} {c k : Nat} {id : BitVec 32} {m : CopyCmd} (hc : c < 768) (hk : k < 4)
  (hm : ((s.ctxAt c).chan k).cmd id = some m) (hmig : s.migration = none)
  (hruns : (s.fab.undealt = 0 ∧ s.planesDead = false) ∨ m.carried s c = true)
include hc hk hm hmig hruns

theorem exec_copyCommandStart (hmay : mayStart ((s.ctxAt c).chan k) m = true) :
    exec (.copyCommandStart c k id) s = .next (s.within c (startCommand k m)) := by
  have hrange : (ctxInRange c && decide (k < 4)) = true := by
    rw [decide_eq_true hk, Bool.and_true]; exact decide_eq_true hc
  show execCopyCommandStart c k id s = _
  unfold execCopyCommandStart
  rw [hrange]
  dsimp only
  rw [hm]
  dsimp only
  rw [hmay, copyRuns_of hmig hruns]; rfl

theorem exec_copyCommandComplete {pages : List TlbEntry} {got : Tab (List Byte × Bool)} {put : List Nat}
    (hst : m.st = .started pages got put) (hmay : mayComplete s c k m pages = true) :
    exec (.copyCommandComplete c k id) s = .next (s.within c (completeCommand k m pages got put)) := by
  have hrange : (ctxInRange c && decide (k < 4)) = true := by
    rw [decide_eq_true hk, Bool.and_true]; exact decide_eq_true hc
  show execCopyCommandComplete c k id s = _
  unfold execCopyCommandComplete
  rw [hrange, hm]
  dsimp only
  rw [hst]
  dsimp only
  rw [hmay, copyRuns_of hmig hruns]; rfl

end

theorem copyFailures_of_ok {s : State} {a : Acc} {m : CopyCmd} (h : ∀ e ∈ m.addrs,
    (∃ p, resolve s a .load e.1.toNat = .ok p) ∧ ∃ p, resolve s a .store e.2.toNat = .ok p) : copyFailures s a m = [] := by
  refine List.flatMap_eq_nil_iff.2 fun e he => ?_
  obtain ⟨⟨p, hp⟩, q, hq⟩ := h e he
  rw [hp, hq]; rfl

theorem touchCopy_memoryOnly (a : Acc) (es : List (Word × Word)) (s : State) : MemoryOnly s (touchCopy a es s).2 := by
  induction es generalizing s with
  | nil => exact .refl s
  | cons e es ih =>
    unfold touchCopy
    dsimp only
    refine MemoryOnly.trans ?_ (ih _)
    split
    · split
      · exact .refl s
      · exact touch_memoryOnly ..
    · split
      · exact touch_memoryOnly ..
      · exact (touch_memoryOnly ..).trans (touch_memoryOnly ..)

theorem startCommand_none {s : State} {k : Nat} {m : CopyCmd} (h : lowestFault (copyFailures s (m.acc s.cur) m) = none) :
    startCommand k m s = (touchCopy (m.acc s.cur) m.addrs s).2.mapCx fun x => x.setChan k
      ((x.chan k).setCmd m.id (.started (touchCopy (m.acc s.cur) m.addrs s).1 [] [])) := by
  unfold startCommand
  dsimp only
  rw [h]

theorem startCommand_some {s : State} {k : Nat} {m : CopyCmd} {f : Nat × Bool × Nat}
    (h : lowestFault (copyFailures s (m.acc s.cur) m) = some f) :
    startCommand k m s = s.mapCx fun x => { x.setChan k ((x.chan k).stop m.id f) with wake := true } := by
  unfold startCommand
  dsimp only
  rw [h]

/-! ### What a command writes -/

theorem keptPlace_memoryOnly {s t : State} (h : MemoryOnly s t) (a : Acc) (pages : List TlbEntry) (va : Nat) :
    keptPlace t a pages va = keptPlace s a pages va := by
  unfold MemoryOnly at h
  rw [h]; rfl

theorem uncounted_memoryOnly {s t : State} (h : MemoryOnly s t) {c : Nat} {cls : WriteClass} (hu : Uncounted s c cls) :
    Uncounted t c cls := by
  unfold MemoryOnly at h
  rw [h]; exact hu

theorem copyTouch_memoryOnly (s : State) (a : Acc) (pages : List TlbEntry) (va : Word) :
    MemoryOnly s (copyTouch s a pages va) := by
  unfold copyTouch; split <;> rfl

theorem copyWrite_countOnly (c k : Nat) (a : Acc) (pages : List TlbEntry) (s : State) (e : Word × List Byte × Bool) :
    CountOnly s (copyWrite c k a pages s e) := by
  unfold copyWrite
  split
  · rfl
  · rename_i p _
    dsimp only
    have h := (countWrite_countOnly s (s.ctxAt c).launchNo (p.write (8 + k) e.2.1)).trans
      (performAt_memoryOnly _ (p.write (8 + k) e.2.1)).countOnly
    split
    · exact h.trans rfl
    · exact h

/-- An element that does not count for a replay is written. -/
theorem copyWrite_uncounted {s : State} {c k : Nat} {a : Acc} {pages : List TlbEntry} {va : Word} {p : Place}
    (hp : keptPlace s a pages va.toNat = some p) (hu : Uncounted s c p.cls) (bs : List Byte) (b : Bool) :
    MemoryOnly s (copyWrite c k a pages s (va, bs, b)) ∧
      (copyWrite c k a pages s (va, bs, b)).mem = putBytes s.keys s.mem p.loc p.key p.enc bs := by
  have hcount : countWrite s (s.ctxAt c).launchNo (p.write (8 + k) bs) = s := countWrite_uncounted hu
  unfold copyWrite
  rw [hp]
  dsimp only
  rw [hcount]
  split <;> exact ⟨rfl, rfl⟩

/-- The bytes of element j of a command, between its places. -/
def copyBytes (s : State) (esz : Nat) (got : Tab (List Byte × Bool)) (j : Nat) (q : Place × Place) : List Byte :=
  match tabFind got j with
  | some d => d.1
  | none => fetchBytes s.keys s.mem q.1.loc q.1.key q.1.enc esz

/-- Memory after elements of a command, with their numbers, are written. -/
def putItems (s : State) (esz : Nat) (got : Tab (List Byte × Bool)) (m : List Host.Cell)
    (es : List ((Place × Place) × Nat)) : List Host.Cell :=
  es.foldl (fun m e => putBytes s.keys m e.1.2.loc e.1.2.key e.1.2.enc (copyBytes s esz got e.2 e.1)) m

/-- What a command has still to write of one element, with its number. -/
def restOf (s : State) (a : Acc) (pages : List TlbEntry) (c : CopyCmd) (got : Tab (List Byte × Bool)) (put : List Nat)
    (e : (Word × Word) × Nat) : Option (Word × List Byte × Bool) :=
  if put.contains e.2 then none
  else ((tabFind got e.2).or (copyData s a pages c e.1.1)).map fun d => (e.1.2, d.1, d.2)

section
variable {s : State} {c k : Nat} {a : Acc} {pages : List TlbEntry} {m : CopyCmd} {got : Tab (List Byte × Bool)} {put : List Nat}

theorem restOf_eq {e : (Word × Word) × Nat} {q : Place × Place} (hq : keptPlace s a pages e.1.1.toNat = some q.1) :
    (e.2 ∈ put → restOf s a pages m got put e = none) ∧
      (e.2 ∉ put → ∃ b, restOf s a pages m got put e = some (e.1.2, copyBytes s m.esz got e.2 q, b)) := by
  unfold restOf copyBytes copyData
  refine ⟨fun h => if_pos (List.contains_iff_mem.2 h), fun h => ?_⟩
  rw [if_neg (mt List.contains_iff_mem.1 h), hq]
  cases tabFind got e.2 with
  | none => exact ⟨_, rfl⟩
  | some d => exact ⟨d.2, rfl⟩

/-- Elements none of which counts for a replay are written in element order. -/
theorem foldl_copyWrite_uncounted {as : List (Word × Word)} {is : List (Place × Place)} (hlen : is.length = as.length)
    (hkept : ∀ (j : Nat) e q, as[j]? = some e → is[j]? = some q →
      keptPlace s a pages e.1.toNat = some q.1 ∧ keptPlace s a pages e.2.toNat = some q.2)
    (hun : ∀ q ∈ is, Uncounted s c q.2.cls) (n : Nat) {u : State} (hu : MemoryOnly s u) :
    let t := ((as.zipIdx n).filterMap (restOf s a pages m got put)).foldl (copyWrite c k a pages) u
    MemoryOnly s t ∧ t.mem = putItems s m.esz got u.mem ((is.zipIdx n).filter fun e => !put.contains e.2) := by
  induction as generalizing is n u with
  | nil =>
    obtain rfl := List.eq_nil_of_length_eq_zero hlen
    exact ⟨hu, rfl⟩
  | cons e as ih =>
    cases is with
    | nil => cases hlen
    | cons q is =>
      obtain ⟨hsrc, hdst⟩ := hkept 0 e q rfl rfl
      have ih' := @ih is (Nat.succ.inj hlen) (fun j e q => hkept (j + 1) e q)
        (fun q hq => hun q (List.mem_cons_of_mem _ hq)) (n + 1)
      obtain ⟨hin, hout⟩ := restOf_eq (m := m) (got := got) (put := put) (e := (e, n)) (q := q) hsrc
      rw [List.zipIdx_cons, List.zipIdx_cons]
      by_cases h : n ∈ put
      · rw [List.filterMap_cons_none (hin h), List.filter_cons_of_neg (by simpa using h)]
        exact ih' hu
      · obtain ⟨b, hb⟩ := hout h
        rw [List.filterMap_cons_some hb, List.filter_cons_of_pos (by simpa using h)]
        obtain ⟨hmo, hmem⟩ := copyWrite_uncounted (k := k) ((keptPlace_memoryOnly hu a pages _).trans hdst)
          (uncounted_memoryOnly hu (hun q List.mem_cons_self)) (copyBytes s m.esz got n q) b
        obtain ⟨hr, hrm⟩ := ih' (hu.trans hmo)
        refine ⟨hr, hrm.trans ?_⟩
        rw [hmem, show u.keys = s.keys by rw [hu]]; rfl

end

end Sys2Proof.Machine
end

section
/-! PROOF. What a copy leaves in memory, and its commands (R187, R188, R190). -/

namespace Sys2Proof.Machine

open Sys2Proof.Spec

/-! ### Blocks written one after another -/

/-- Memory after blocks of bytes are written at their addresses, in order. -/
def writeAll (m : List Host.Cell) (es : List (Nat × List Byte)) : List Host.Cell :=
  es.foldl (fun m e => memWriteN m e.1 e.2) m

theorem memReadN_eq {m : List Host.Cell} {a : Nat} {bs : List Byte}
    (h : ∀ i (hi : i < bs.length), memRead m (a + i) = bs[i]) : memReadN m a bs.length = bs :=
  List.ext_getElem (memReadN_length m a bs.length) fun i hi hi' => (memReadN_getElem m a hi).trans (h i hi')

theorem writeAll_outside {es : List (Nat × List Byte)} {m : List Host.Cell} (hwf : Memory.wf m = true) {b : Nat}
    (h : ∀ e ∈ es, ¬ (e.1 ≤ b ∧ b < e.1 + e.2.length)) : memRead (writeAll m es) b = memRead m b := by
  induction es generalizing m with
  | nil => rfl
  | cons e es ih =>
    have he := h e List.mem_cons_self
    exact (ih (memWriteN_wf hwf _ _) fun d hd => h d (List.mem_cons_of_mem e hd)).trans
      (memRead_memWriteN_of_outside hwf _ _ _ (by omega))

/-- A block reads as it was written where no later one shares a byte with it. -/
theorem writeAll_inside {es : List (Nat × List Byte)} {m : List Host.Cell} (hwf : Memory.wf m = true) {j : Nat}
    {e : Nat × List Byte} (hj : es[j]? = some e)
    (h : ∀ (i : Nat) d, j < i → es[i]? = some d → e.1 + e.2.length ≤ d.1 ∨ d.1 + d.2.length ≤ e.1) :
    memReadN (writeAll m es) e.1 e.2.length = e.2 := by
  induction es generalizing m j with
  | nil => cases hj
  | cons d es ih =>
    have hwf' : Memory.wf (memWriteN m d.1 d.2) = true := memWriteN_wf hwf _ _
    cases j with
    | zero =>
      obtain rfl : d = e := Option.some.inj hj
      refine memReadN_eq fun i hi => ?_
      refine (writeAll_outside hwf' fun r hr => ?_).trans (memRead_memWriteN_of_inside hwf _ _ i hi)
      obtain ⟨n, hn, hget⟩ := List.mem_iff_getElem.1 hr
      have := h (n + 1) r n.succ_pos (by rw [List.getElem?_cons_succ, List.getElem?_eq_getElem hn, hget])
      omega
    | succ j => exact ih hwf' hj fun i r hi hr => h (i + 1) r (Nat.succ_lt_succ hi) hr

theorem length_map_take_drop_le (l : List Nat) (k n : Nat) : (((l.drop k).take n).map (BitVec.ofNat 8)).length ≤ n := by
  rw [List.length_map, List.length_take]
  exact Nat.min_le_left ..

theorem fetchBytes_length_le (keys : Tab (BitVec 512)) (m : List Host.Cell) (loc key : Nat) (enc : Bool) (n : Nat) :
    (fetchBytes keys m loc key enc n).length ≤ n := by
  unfold fetchBytes
  split
  · exact length_map_take_drop_le ..
  · rw [memReadN_length]

/-! ### What a copy of plain memory leaves -/

section
variable {s : State} {esz : Nat} {items : List (Place × Place)}

theorem putItems_plain (henc : ∀ q ∈ items, q.2.enc = false) (m : List Host.Cell) : putItems s esz [] m items.zipIdx =
    writeAll m (items.zipIdx.map fun e => (e.1.2.loc, copyBytes s esz [] e.2 e.1)) := by
  unfold putItems writeAll
  rw [List.foldl_map]
  refine List.foldl_ext _ _ m fun m e he => ?_
  rw [henc e.1 (List.fst_mem_of_mem_zipIdx he)]; rfl

theorem putItems_memRead {m : List Host.Cell} (hwf : Memory.wf m = true) (henc : ∀ q ∈ items, q.2.enc = false) :
    (∀ (j : Nat) q, items[j]? = some q →
      (∀ (h : Nat) r, j < h → items[h]? = some r → q.2.loc + esz ≤ r.2.loc ∨ r.2.loc + esz ≤ q.2.loc) →
      memReadN (putItems s esz [] m items.zipIdx) q.2.loc (copyBytes s esz [] j q).length = copyBytes s esz [] j q) ∧
    ∀ b, (∀ q ∈ items, ¬ (q.2.loc ≤ b ∧ b < q.2.loc + esz)) →
      memRead (putItems s esz [] m items.zipIdx) b = memRead m b := by
  have hlen (j : Nat) (q : Place × Place) : (copyBytes s esz [] j q).length ≤ esz := fetchBytes_length_le ..
  have hget (j : Nat) : (items.zipIdx.map fun e => (e.1.2.loc, copyBytes s esz [] e.2 e.1))[j]? =
      items[j]?.map fun q => (q.2.loc, copyBytes s esz [] j q) := by
    rw [List.getElem?_map, List.getElem?_zipIdx, Option.map_map, Nat.zero_add]; rfl
  rw [putItems_plain henc]
  refine ⟨fun j q hj hlater => ?_, fun b hb => writeAll_outside hwf fun e he => ?_⟩
  · refine writeAll_inside hwf (j := j) (e := (q.2.loc, copyBytes s esz [] j q)) (by rw [hget, hj]; rfl) fun i d hi hd => ?_
    rw [hget] at hd
    obtain ⟨r, hr, rfl⟩ := Option.map_eq_some_iff.1 hd
    have hq := hlen j q
    have hd := hlen i r
    exact (hlater i r hi hr).imp (Nat.le_trans (Nat.add_le_add_left hq _)) (Nat.le_trans (Nat.add_le_add_left hd _))
  · obtain ⟨f, hf, rfl⟩ := List.mem_map.1 he
    have := hb f.1 (List.fst_mem_of_mem_zipIdx hf)
    have hf := hlen f.2 f.1
    dsimp only
    omega

end

/-! ### A command's events -/

/-- What an event leaves of its context, where it ends with a change of it. -/
theorem within_ctxAt {s u : State} {c : Nat} {g : State → State} {f : Context → Context}
    (hg : g { s with cur := c } = u.mapCx f) (hcur : u.cur = c) (hctxs : u.ctxs = s.ctxs) :
    (s.within c g).ctxAt c = f (s.ctxAt c) := by
  have h : (s.within c g).ctxAt c = (g { s with cur := c }).ctxAt c := rfl
  rw [h, hg, mapCx_ctxAt hcur hctxs]

theorem within_startCommand_none {s : State} {c k : Nat} {m : CopyCmd}
    (h : lowestFault (copyFailures { s with cur := c } (m.acc c) m) = none) :
    ∃ pages, (s.within c (startCommand k m)).ctxAt c =
      (s.ctxAt c).setChan k (((s.ctxAt c).chan k).setCmd m.id (.started pages [] [])) := by
  have hmo := touchCopy_memoryOnly (m.acc c) m.addrs { s with cur := c }
  exact ⟨_, within_ctxAt (startCommand_none (s := { s with cur := c }) h) (by rw [hmo]) hmo.ctxs⟩

theorem within_startCommand_some {s : State} {c k : Nat} {m : CopyCmd} {f : Nat × Bool × Nat}
    (h : lowestFault (copyFailures { s with cur := c } (m.acc c) m) = some f) : s.within c (startCommand k m) =
      s.setCtx c { (s.ctxAt c).setChan k (((s.ctxAt c).chan k).stop m.id f) with wake := true } := by
  unfold State.within
  rw [startCommand_some (s := { s with cur := c }) h]; rfl

/-- The state of a command that completes, once its elements are written. -/
def copied (s : State) (c k : Nat) (m : CopyCmd) (pages : List TlbEntry) (got : Tab (List Byte × Bool)) (put : List Nat) :
    State :=
  (copyRest s (m.acc c) pages m got put).foldl (copyWrite c k (m.acc c) pages)
    (m.addrs.zipIdx.foldl (fun v e => if (tabFind got e.2).isSome then v else copyTouch v (m.acc c) pages e.1.1) s)

section
variable (s : State) (c k : Nat) (m : CopyCmd) (pages : List TlbEntry) (got : Tab (List Byte × Bool)) (put : List Nat)

theorem copyTouches_memoryOnly (a : Acc) : MemoryOnly s
    (m.addrs.zipIdx.foldl (fun v e => if (tabFind got e.2).isSome then v else copyTouch v a pages e.1.1) s) :=
  foldl_keeps (MemoryOnly s) _ (fun v e h => by
    split
    · exact h
    · exact h.trans (copyTouch_memoryOnly ..)) _ _ (.refl s)

theorem copied_countOnly : CountOnly s (copied s c k m pages got put) :=
  foldl_keeps (CountOnly s) _ (fun _ _ h => h.trans (copyWrite_countOnly ..)) _ _
    (copyTouches_memoryOnly s m pages got (m.acc c)).countOnly

/-- A channel that a command of it has completed on. -/
def Context.completes (x : Context) (k : Nat) (m : CopyCmd) : Context :=
  (x.setChan k ((x.chan k).setCmd m.id .completed)).advance k

theorem completeCommand_eq : completeCommand k m pages got put s = (copied s s.cur k m pages got put).mapCx (·.completes k m) :=
  rfl

theorem within_completeCommand :
    (s.within c (completeCommand k m pages got put)).ctxAt c = (s.ctxAt c).completes k m := by
  have h := copied_countOnly { s with cur := c } c k m pages got put
  have hg := completeCommand_eq { s with cur := c } k m pages got put
  refine within_ctxAt hg ?_ ?_ <;> rw [h]

variable {s c k m pages got put}

/-- Copies none of whose elements counts for a replay leave the elements in memory and the mill as it was. -/
theorem copied_uncounted {items : List (Place × Place)} (hlen : items.length = m.addrs.length)
    (hkept : ∀ (j : Nat) e q, m.addrs[j]? = some e → items[j]? = some q →
      keptPlace s (m.acc c) pages e.1.toNat = some q.1 ∧ keptPlace s (m.acc c) pages e.2.toNat = some q.2)
    (hun : ∀ q ∈ items, Uncounted s c q.2.cls) :
    (copied s c k m pages got put).mill = s.mill ∧ (copied s c k m pages got put).mem =
      putItems s m.esz got s.mem (items.zipIdx.filter fun e => !put.contains e.2) := by
  have hmo := copyTouches_memoryOnly s m pages got (m.acc c)
  obtain ⟨hrest, hmem⟩ := foldl_copyWrite_uncounted (k := k) (got := got) (put := put) (m := m) hlen hkept hun 0 hmo
  refine ⟨hrest.mill, hmem.trans (congrArg (putItems s m.esz got · _) ?_)⟩
  exact foldl_keeps (fun v : State => v.mem = s.mem) _ (fun v e h => by
    split
    · exact h
    · exact (copyTouch_mem ..).trans h) _ _ rfl

end

theorem copiesArePerformed : CopiesArePerformed := by
  intro s c hc x s' k id cmd hk hcmd hmig hruns a
  obtain rfl : cmd.id = id := CopyChan.cmd_id hcmd
  refine ⟨fun hmay => ?_, fun pages got put hst hmay => ?_⟩
  · have hexec := exec_copyCommandStart hc hk hcmd hmig hruns hmay
    refine ⟨fun hok => ?_, fun va side cause hfault => ?_⟩
    · obtain ⟨pages, ht⟩ := within_startCommand_none (k := k) (by rw [copyFailures_of_ok hok]; rfl)
      refine ⟨_, pages, hexec, ?_, ?_⟩
      · rw [ht, Context.chan_setChan, if_pos ⟨rfl, hk⟩]
      · rw [ht]; rfl
    · rw [within_startCommand_some hfault] at hexec
      refine ⟨_, hexec, ?_, ?_, ?_⟩
      · rw [State.ctxAt_setCtx_self]
      · rw [State.ctxAt_setCtx_self]
        exact (Context.chan_setChan ..).trans (if_pos ⟨rfl, hk⟩)
      · rw [State.ctxAt_setCtx_self]
  · intro rest v u
    have hcx := within_completeCommand s c k cmd pages got put
    unfold Context.completes at hcx
    refine ⟨_, exec_copyCommandComplete hc hk hcmd hmig hruns hst hmay, ?_, rfl, rfl, ?_, ?_,
      fun items hlen hkept hun => ?_⟩
    · rw [hcx, Context.advance_rest]; rfl
    · rw [hcx, Context.advance_chan _ hk, if_pos rfl, CopyChan.advanced_cmds, Context.chan_setChan, if_pos ⟨rfl, hk⟩]; rfl
    · rw [hcx, Context.advance_chan _ hk, if_pos rfl, CopyChan.advanced_next, Context.chan_setChan, if_pos ⟨rfl, hk⟩]; rfl
    · obtain ⟨hmill, hmem⟩ := copied_uncounted (s := s') (k := k) (got := got) (put := put) hlen hkept hun
      refine ⟨hmill, hmem, fun hwf henc hgot hput => ?_⟩
      subst hgot hput
      have hall : (items.zipIdx.filter fun e => !([] : List Nat).contains e.2) = items.zipIdx :=
        List.filter_eq_self.2 fun _ _ => rfl
      rw [hall] at hmem
      have hread := putItems_memRead (s := s') (esz := cmd.esz) hwf henc
      rw [← hmem] at hread
      exact hread

end Sys2Proof.Machine
end

section
/-! PROOF. Grant requests and messages arrive (R200, R206, R207). -/

namespace Sys2Proof.Machine

open Sys2Proof.Spec

/-! ### A request served -/

theorem Context.slot_setSlot_self (x : Context) {n : Nat} (hn : n < 4) (k : RecvSlot) : (x.setSlot n k).slot n = k := by
  unfold Context.slot Context.setSlot
  simp [hn]

section
variable {x : Context} {r : GrantReq}

theorem Context.holdsTask_iff : x.holdsTask = true ↔ x.task ≠ none ∧ x.start = none := by
  unfold Context.holdsTask
  rw [Bool.and_eq_true, Option.isSome_iff_ne_none, Option.isNone_iff_eq_none]

/-- The request comes from supervisor level, or from the task's own ASID. -/
theorem known_iff : (r.sup || x.space.asid == r.asid) = true ↔ r.sup = true ∨ x.space.asid = r.asid := by
  rw [Bool.or_eq_true, beq_iff_eq]

theorem judge_grant (hh : x.holdsTask = true) (hk : (r.sup || x.space.asid == r.asid) = true) (he : x.slot r.tag = .empty) :
    judge x r = .grant := by
  unfold judge
  rw [hh, hk]
  exact if_pos he

theorem judge_refuse (hh : x.holdsTask = true) (hk : ¬ (r.sup || x.space.asid == r.asid) = true) :
    judge x r = .refuse := by
  unfold judge
  rw [hh, eq_false_of_ne_true hk]; rfl

theorem judge_hold (h : x.holdsTask = false ∨ (r.sup || x.space.asid == r.asid) = true ∧ x.slot r.tag ≠ .empty) :
    judge x r = .hold := by
  unfold judge
  rcases h with hh | ⟨hk, he⟩
  · rw [hh]; rfl
  · rw [hk]
    cases x.holdsTask
    · rfl
    · exact if_neg he

end

/-- A request that waits alone. -/
theorem serveWaiting_single {s : State} {r : GrantReq} (h : s.fab.waiting = [r]) : serveWaiting s =
    { (serve s r).2 with fab := { (serve s r).2.fab with waiting := if (serve s r).1 then [] else [r] } } := by
  unfold serveWaiting
  rw [h]; rfl

section
variable {s : State} {r : GrantReq}

theorem serve_hold (h : judge (s.ctxAt r.dst) r = .hold) : serve s r = (false, s) := by
  unfold serve
  dsimp only
  rw [h]

theorem serve_refuse (h : judge (s.ctxAt r.dst) r = .refuse) : serve s r = (true, s.reply r false) := by
  unfold serve
  dsimp only
  rw [h]

theorem serve_grant (h : judge (s.ctxAt r.dst) r = .grant) : serve s r =
    (true, (s.setCtx r.dst ((s.ctxAt r.dst).setSlot r.tag (.reserved r.node r.sender))).reply r true) := by
  unfold serve
  dsimp only
  rw [h]

end

theorem State.reply_true (s : State) (r : GrantReq) :
    s.reply r true = { s with fab := { s.fab with replies := s.fab.replies ++ [(r, true)] } } := by
  unfold State.reply
  rw [Bool.or_true]; rfl

theorem State.reply_false (s : State) (r : GrantReq) : s.reply r false = { s with fab := { s.fab with
    replies := if r.node = s.node then s.fab.replies ++ [(r, false)] else s.fab.replies } } := by
  unfold State.reply
  by_cases h : r.node = s.node <;> simp [h]

/-- The machine whose n-th request has come to its destination, where no other waits. -/
def requestArrived (s : State) (n : Nat) (r : GrantReq) : State :=
  { s with fab := { s.fab with requests := s.fab.requests.eraseIdx n, waiting := [r] } }

theorem exec_grantRequest {s : State} {n : Nat} {r : GrantReq} (hmig : s.migration = none) (hdead : s.planesDead = false)
    (hund : s.fab.undealt = 0) (hr : s.fab.requests[n]? = some r) (hnode : r.dstNode = s.node) (hwait : s.fab.waiting = [])
    (hord : ∀ e ∈ s.fab.requests.take n, e.ordered s r = false) :
    exec (.grantRequest n) s = .next (serveWaiting (requestArrived s n r)) := by
  have hflows : s.flows = true := by unfold State.flows; rw [hund, hmig]; rfl
  have hpass : (s.fab.requests.take n).any (·.ordered s r) = false := List.any_eq_false.2 fun e he => by
    rw [hord e he]; exact Bool.false_ne_true
  show execGrantRequest n s = _
  unfold execGrantRequest requestArrived
  rw [hr]
  dsimp only
  rw [hflows, hdead, hpass, hwait]
  exact if_neg (by simp [hnode])

theorem exec_messageArrival {s : State} {c tag : Nat} {f : Flight} (hc : c < 768) (htag : tag < 4)
    (hmig : s.migration = none) (hdead : s.planesDead = false) (hf : nextArrival s c tag = some f)
    (hslot : (s.ctxAt c).slot tag = .reserved f.msg.node f.msg.sender) : exec (.messageArrival c tag) s =
      .next ({ s with fab := { s.fab with flights := s.fab.flights.erase f } }.setCtx c
        (((s.ctxAt c).setSlot tag (.full f.msg)).raise 0x03
          (.ofNat 64 (tag + f.msg.node * 4 + f.msg.sender * 2 ^ 12)))) := by
  have hrange : (ctxInRange c && decide (tag < 4)) = true := by
    rw [decide_eq_true htag, Bool.and_true]; exact decide_eq_true hc
  show execMessageArrival c tag s = _
  unfold execMessageArrival
  rw [hrange, hf]
  dsimp only
  rw [hmig, hdead]
  exact if_pos hslot

theorem messagesAreGrantedAndArrive : MessagesAreGrantedAndArrive := by
  intro s hmig hdead
  refine ⟨fun n r hund hr hnode htag hwait hord => ?_, fun c tag f hc htag hf hslot => ?_⟩
  · intro y holds known fab
    have hexec := exec_grantRequest hmig hdead hund hr hnode hwait hord
    rw [serveWaiting_single rfl] at hexec
    have hy : (requestArrived s n r).ctxAt r.dst = y := rfl
    have hholds : y.holdsTask = true ↔ holds := Context.holdsTask_iff
    have hknown : (r.sup || y.space.asid == r.asid) = true ↔ known := known_iff
    have hfab : fab = { s.fab with requests := s.fab.requests.eraseIdx n, waiting := [] } := by rw [← hwait]
    refine ⟨fun hh hk he => ?_, fun hh hk => ?_, fun h => ?_⟩
    · rw [serve_grant (hy ▸ judge_grant (hholds.2 hh) (hknown.2 hk) he), State.reply_true] at hexec
      refine ⟨_, hexec, by rw [hfab]; rfl, ?_, fun d hd => ?_, rfl⟩
      · exact (congrArg (Context.slot · r.tag) (State.ctxAt_setCtx_self ..)).trans (Context.slot_setSlot_self _ htag _)
      · exact (State.ctxAt_setCtx ..).trans (if_neg hd)
    · rw [serve_refuse (hy ▸ judge_refuse (hholds.2 hh) (mt hknown.1 hk)), State.reply_false] at hexec
      rw [hfab]
      exact hexec
    · have hhold : judge y r = .hold := judge_hold (h.imp (fun hn => eq_false_of_ne_true (mt hholds.1 hn)) fun ⟨hk, he⟩ =>
        ⟨hknown.2 hk, he⟩)
      rw [serve_hold (hy ▸ hhold)] at hexec
      exact hexec
  · refine ⟨_, exec_messageArrival hc htag hmig hdead hf hslot, ?_, rfl, ?_, rfl, fun d hd => ?_⟩
    · rw [State.ctxAt_setCtx_self]
      exact Context.slot_setSlot_self _ htag _
    · rw [State.ctxAt_setCtx_self]
      exact ⟨rfl, rfl⟩
    · exact (State.ctxAt_setCtx ..).trans (if_neg hd)

end Sys2Proof.Machine

namespace Sys2Proof

open Sys2Proof.Machine Sys2Proof.Spec

/-- Settles O46: a write is counted beside its context and then performed, a copy writes its elements in order, and a request
or a message meets its slot. -/
theorem writesCopiesAndMessagesArePerformed : Obligations.WritesCopiesAndMessagesArePerformed :=
  ⟨writesArePerformed, writesOfALaunchAreCounted, copiesArePerformed, messagesAreGrantedAndArrive⟩

end Sys2Proof
end

section
/-! SUPPORT. Words that change their own context and retire, and the blocks of a code word (R67, R267). -/

namespace Sys2Proof.Machine

open Sys2Proof.Spec

theorem HasCx.onlyCx {s t : State} {x : Context} (h : HasCx s t x) : OnlyCx s t :=
  ⟨h.1, h.2.1, fun _ => by rw [h.mem]⟩

/-- A scalar-class word changes its context with f, and retires. -/
theorem retires_of_retireWith {s : State} {i : Instr} {f : Context → Context} (h : exec i s = .next (s.retireWith f))
    (hf : SamePlace s.cx (f s.cx)) :
    ∃ t, exec i s = .next t ∧ OnlyCx s t ∧ WentTo s.cx t.cx s.cx.nextPc ∧
      t.cx = { f s.cx with pc := t.cx.pc, cvy := none, wait := none, notice := t.cx.notice } := by
  refine ⟨_, h, (s.mapCx_hasCx _).onlyCx, ?_⟩
  rw [State.cx_retireWith]
  exact ⟨hf.retired, (f s.cx).retire_eq⟩

/-! ### The lines of a range (R267) -/

/-- The first block that does not translate as a read raises its trap. -/
theorem blockLines_append_error {s : State} {a : Acc} {pre post : List Nat} {va cause : Nat}
    (hpre : ∀ b ∈ pre, ∃ p, resolve s a .load b = .ok p) (hva : resolve s a .load va = .error cause) :
    blockLines s a (pre ++ va :: post) = .error (.issue cause (.ofNat 64 va)) := by
  induction pre with
  | nil => simp [blockLines, hva]
  | cons b pre ih =>
    obtain ⟨⟨p, hp⟩, hrest⟩ := List.forall_mem_cons.1 hpre
    simp [blockLines, hp, ih hrest]

/-- Where every block translates as a read, a DCWB has the lines of their places. -/
theorem blockLines_ok {s : State} {a : Acc} {blocks : List Nat} (h : ∀ va ∈ blocks, ∃ p, resolve s a .load va = .ok p) :
    ∃ lines, blockLines s a blocks = .ok lines ∧
      ∀ l, l ∈ lines ↔ ∃ va ∈ blocks, ∃ p, resolve s a .load va = .ok p ∧ p.loc / 64 = l := by
  induction blocks with
  | nil => exact ⟨[], rfl, by simp⟩
  | cons va blocks ih =>
    obtain ⟨⟨p, hp⟩, hrest⟩ := List.forall_mem_cons.1 h
    obtain ⟨lines, hlines, hmem⟩ := ih hrest
    refine ⟨p.loc / 64 :: lines, by simp [blockLines, hp, hlines], fun l => ?_⟩
    simp [hmem, hp, eq_comm]

theorem mem_codeLines {s : State} {a : Acc} {blocks : List Nat} {l : Nat} :
    l ∈ codeLines s a blocks ↔ ∃ va ∈ blocks, ∃ p, resolve s a .fetch va = .ok p ∧ isLocalPlace p.loc = false ∧
      l = p.loc / 64 := by
  unfold codeLines
  rw [List.mem_filterMap]
  refine exists_congr fun va => and_congr_right fun _ => ?_
  cases resolve s a .fetch va with
  | error e => simp
  | ok p =>
    dsimp only
    simp only [Except.ok.injEq, exists_eq_left']
    split
    case isTrue hlocal => simp [hlocal]
    case isFalse hlocal => simp [hlocal, eq_comm]

/-! ### The strip committed by a DCWB (R81, R267) -/

theorem forceCommit_samePlace (s : State) : SamePlace s.cx (forceCommit s).cx := by
  rw [forceCommit_cx]; exact ⟨rfl, rfl, rfl, rfl⟩

theorem linesDone_iff {x : Context} {lines : List Nat} :
    linesDone x lines = true ↔ ∀ w ∈ x.pend, w.loc / 64 ∉ lines := by
  simp [linesDone]

/-- With its writes performed a DCWB retires, the homes of its lines holding what was stored. -/
theorem waitLines_done {s : State} {i : Instr} {lines : List Nat} (h : linesDone s.cx lines = true) :
    waitLines i lines s = (cleanLines s lines).mapCx (·.retire) := if_pos h

/-- With a plane live and a write to its lines under way a DCWB waits. -/
theorem waitLines_waits {s : State} {i : Instr} {lines : List Nat} (h : linesDone s.cx lines = false)
    (hlive : s.planesDead = false) : waitLines i lines s = s.waitIn .dcwb i (lines.map fun l => (l, 0)) := by
  unfold waitLines linesStuck
  rw [h, hlive]
  rfl

theorem mem_cleanLines {s : State} {lines : List Nat} {e : Nat × List CodeWord} :
    e ∈ (cleanLines s lines).stale ↔ e ∈ s.stale ∧ e.1 / 64 ∉ lines := by
  simp [cleanLines]

end Sys2Proof.Machine
end

section
/-! PROOF. PREF, NOP, ADJ, FETCHB and WAIT (R56, R267, R311, R355, R388). -/

namespace Sys2Proof.Machine

open Sys2Proof.Spec

theorem UserInt.calls_iff {u : UserInt} : u.calls = true ↔ u.pend &&& u.en ≠ 0 := bne_iff_ne

theorem exec_wait_calls {s : State} (h : s.cx.ui.calls = true) :
    exec .wait s = .next (s.retireWith fun x => { x with rewaits := none }) := if_pos h

/-- With no cause pending and enabled WAIT stalls, and what woke the context before no longer counts. -/
theorem exec_wait_stalls {s : State} (h : s.cx.ui.calls = false) :
    exec .wait s = .next (s.setCx { s.cx with
      wake := false, rewaits := none, wait := some { kind := .wake, instr := .wait, marks := [], place := none } }) := by
  show execWait s = _
  unfold execWait State.waitIn
  rw [h, State.mapCx_mapCx]
  rfl

theorem hintsPoliciesAndWait : HintsPoliciesAndWait := by
  intro s r n p x only
  have hcalls : x.ui.calls = true ↔ x.ui.pend &&& x.ui.en ≠ 0 := UserInt.calls_iff
  refine ⟨retires_of_retireWith rfl (.refl x), retires_of_retireWith rfl (.refl x),
    retires_of_retireWith (f := fun x => { x with cpol := p }) rfl (.refl x),
    retires_of_retireWith (f := fun x => { x with fetched := [] }) rfl (.refl x),
    fun h => retires_of_retireWith (exec_wait_calls (hcalls.2 h)) (.refl x),
    fun h => exec_wait_stalls (eq_false_of_ne_true fun hc => hcalls.1 hc h)⟩

end Sys2Proof.Machine
end

section
/-! PROOF. DCWB and IINV (R81, R210, R267; log entries 14, 46, 61). -/

namespace Sys2Proof.Machine

open Sys2Proof.Spec

section

variable {s : State} {r : BitVec 5} {n : BitVec 12}

theorem exec_dcwb_fails {t : Trap} (h : blockLines s (s.cx.acc s.cur) (codeBlocks (s.cx.reg r) n) = .error t) :
    exec (.dcwb r n) s = .next (takeTrap s t) := by
  show execDcwb r n s = _
  unfold execDcwb
  rw [h]

theorem exec_dcwb_commits {lines : List Nat}
    (h : blockLines s (s.cx.acc s.cur) (codeBlocks (s.cx.reg r) n) = .ok lines) :
    exec (.dcwb r n) s = .next (waitLines (.dcwb r n) lines (forceCommit s)) := by
  show execDcwb r n s = _
  unfold execDcwb
  rw [h]

theorem exec_iinv_planeless (h : s.planesDead = true) : exec (.iinv r n) s = .next (takeTrap s (.issue 0x14 0)) := if_pos h

theorem exec_iinv_waits (h : s.planesDead = false) :
    exec (.iinv r n) s = .next (s.waitIn .iinv (.iinv r n)
      ((codeLines s (s.cx.acc s.cur) (codeBlocks (s.cx.reg r) n)).map fun l => (l, 0))) := by
  show execIinv r n s = _
  unfold execIinv
  rw [h]
  rfl

/-- The trap of the first block of a DCWB that does not translate. -/
theorem dcwb_traps {va cause : Nat} (hva : va ∈ codeBlocks (s.cx.reg r) n)
    (he : resolve s (s.cx.acc s.cur) .load va = .error cause)
    (hpre : ∀ b ∈ (codeBlocks (s.cx.reg r) n).take ((codeBlocks (s.cx.reg r) n).idxOf va),
      ∃ p, resolve s (s.cx.acc s.cur) .load b = .ok p) :
    exec (.dcwb r n) s = .next (takeTrap s (trapOf cause (.ofNat 64 va))) := by
  refine exec_dcwb_fails ?_
  have hk := List.idxOf_lt_length_of_mem hva
  rw [← List.take_append_drop ((codeBlocks (s.cx.reg r) n).idxOf va) (codeBlocks (s.cx.reg r) n),
    List.drop_eq_getElem_cons hk, List.getElem_idxOf hk]
  exact blockLines_append_error hpre he

end

/-- What a DCWB that retires leaves: the strip committed as a forced one, and no replaced word of its lines at their homes. -/
theorem dcwb_retires (s : State) (lines : List Nat) : let x := s.cx
    let t := (cleanLines (forceCommit s) lines).mapCx (·.retire)
    WentTo x t.cx x.nextPc ∧ t.mem = s.mem ∧ t.cx.held = [] ∧ t.cx.pend = x.pend ++ x.held ∧ t.cx.strip.forced = true ∧
      (∀ e, e ∈ t.stale ↔ e ∈ s.stale ∧ e.1 / 64 ∉ lines) ∧
      t.cx = { x with pend := t.cx.pend, held := [], strip := t.cx.strip, ckpt := t.cx.ckpt, pc := t.cx.pc, cvy := none
                      wait := none, notice := t.cx.notice } := by
  intro x t
  have hcx : t.cx = (forceCommit s).cx.retire := State.cx_mapCx _ _
  have hstale : (forceCommit s).stale = s.stale := by rw [forceCommit_rest]
  refine ⟨hcx ▸ (forceCommit_samePlace s).retired, forceCommit_mem s, ?_, ?_, ?_, fun e => hstale ▸ mem_cleanLines, ?_⟩
  all_goals rw [hcx]
  · rw [Context.retire_held, forceCommit_cx]
  · rw [Context.retire_pend, forceCommit_cx]
  · rw [Context.retire_strip, forceCommit_cx]
  · rw [Context.retire_eq, forceCommit_cx]

theorem codeMaintenance : CodeMaintenance := by
  intro s r n x blocks place
  refine ⟨fun va cause hva he hpre => dcwb_traps hva he (hpre _ rfl), fun hplaces => ?dcwb, exec_iinv_planeless,
    fun hlive => ?iinv⟩
  case dcwb =>
    intro writesTo
    obtain ⟨lines, hok, hlines⟩ := blockLines_ok hplaces
    have hexec := exec_dcwb_commits hok
    have hwrites (w : Write) : writesTo w ↔ w.loc / 64 ∈ lines := by
      rw [hlines]
      simp only [writesTo, place, eq_comm]
    have hpend : (forceCommit s).cx.pend = x.pend ++ x.held := by rw [forceCommit_cx]
    have hdone : linesDone (forceCommit s).cx lines = true ↔ ∀ w ∈ x.pend ++ x.held, ¬ writesTo w := by
      rw [linesDone_iff, hpend]
      simp only [hwrites]
    refine ⟨fun hno => ?_, fun hlive ⟨w, hw, hto⟩ => ?_⟩
    · rw [waitLines_done (hdone.2 hno)] at hexec
      obtain ⟨hwent, hmem, hheld, hpend, hforced, hstale, hcx⟩ := dcwb_retires s lines
      refine ⟨_, hexec, hwent, hmem, hheld, hpend, hforced, fun e => ?_, hcx⟩
      rw [hstale, hlines]
      push Not
      rfl
    · have hnot : linesDone (forceCommit s).cx lines = false :=
        eq_false_of_ne_true fun hd => hdone.1 hd w hw hto
      rw [waitLines_waits hnot (by rwa [forceCommit_planesDead])] at hexec
      refine ⟨_, hexec, ?_⟩
      unfold State.waitIn
      rw [State.cx_mapCx, forceCommit_cx]
      exact ⟨⟨_, rfl, rfl, rfl⟩, rfl, rfl, forceCommit_mem s⟩
  case iinv =>
    refine ⟨_, _, exec_iinv_waits hlive, (s.mapCx_hasCx _).onlyCx, State.cx_mapCx _ _, fun l => ?_⟩
    rw [List.mem_map]
    constructor
    · rintro ⟨line, hline, rfl⟩
      exact ⟨rfl, mem_codeLines.1 hline⟩
    · rintro ⟨hzero, hline⟩
      exact ⟨l.1, mem_codeLines.2 hline, Prod.ext rfl hzero.symm⟩

end Sys2Proof.Machine

namespace Sys2Proof

open Sys2Proof.Machine Sys2Proof.Spec

/-- Settles O38: the words that only retire by what they change of their context, DCWB and IINV by the lines of their blocks. -/
theorem hintsPoliciesAndCodeMaintenance : Obligations.HintsPoliciesAndCodeMaintenance :=
  ⟨hintsPoliciesAndWait, codeMaintenance⟩

end Sys2Proof
end

section
/-! PROOF. ERET (R57, R210, R220, R223, R237, R325). -/

namespace Sys2Proof.Machine

/-! ### What the reload of a dump leaves (R160, R223) -/

theorem MemoryOnly.cur {s t : State} (h : MemoryOnly s t) : t.cur = s.cur := by rw [h]

theorem MemoryOnly.ctxAt {s t : State} (h : MemoryOnly s t) (c : Nat) : t.ctxAt c = s.ctxAt c := by rw [h]; rfl

theorem MemoryOnly.launch {s t : State} (h : MemoryOnly s t) (n : Nat) : t.launch n = s.launch n := by rw [h]; rfl

theorem touchDump_memoryOnly (s : State) : MemoryOnly s (touchDump s) := by
  unfold touchDump
  dsimp only
  split
  · exact .refl s
  · exact (touchBlock_keeps ..).1

theorem leaveTrap_ctxAt (s : State) (dump : List Convoy) {c : Nat} (hc : c ≠ s.cur) :
    (leaveTrap s dump).ctxAt c = s.ctxAt c := by
  unfold leaveTrap
  rw [State.ctxAt_mapCx, if_neg hc]

/-- Without a cocoon ERET changes its context alone. -/
theorem leaveTrap_nil {s : State} (hc : s.cx.trap.cocoon = false) : let x := s.cx
    leaveTrap s [] = s.setCx { x with
      trap := { x.trap with inh := false }, sup := x.trap.pp, pc := x.trap.epc
      cpol := if x.trap.pp then x.cpol else x.trap.pol, cvy := none, queue := [], redump := [], wait := none } := by
  intro x
  have htrap : ({ x.trap with inh := false, cocoon := false } : TrapRegs) = { x.trap with inh := false } :=
    congrArg (fun b => { x.trap with inh := false, cocoon := b }) hc.symm
  rw [← htrap]
  rfl

/-! ### A cocoon that is no dump (R220; log entry 58) -/

theorem badDump_mem (s : State) : (badDump s).mem = s.mem := rfl

theorem badDump_cx (s : State) : (badDump s).cx = { s.cx with stopped := true } := doubleTrap_cx _

/-- The launch of a bad dump fails, where it is live. -/
theorem badDump_launch {s : State} {n : Nat} {l : Launch} (hn : s.cx.launchNo = n) (hl : s.launch n = some l)
    (hf : l.failed = none) (ht : l.tearing = false) :
    (badDump s).launch n = some { l with failed := some 0x0E } := by
  show (s.failLaunch s.cx.launchNo 0x0E).launch n = _
  unfold State.failLaunch
  rw [hn, State.launch_mapLaunch s _ (fun l => by split <;> rfl), hl, Option.map_some, hf, ht]
  rfl

/-! ### The ways of ERET -/

section

variable {s : State}

theorem exec_eret_user (hs : s.cx.sup = false) : exec .eret s = .next (takeTrap s (privilegeTrap .eret)) := by
  show execEret s = _
  simp [execEret, hs]

variable (hs : s.cx.sup = true)
include hs

theorem exec_eret_freed (ht : s.cx.trap.task = false) : exec .eret s = .next (freeContext s) := by
  show execEret s = _
  simp [execEret, hs, ht]

variable (ht : s.cx.trap.task = true)
include ht

theorem exec_eret_plain (hc : s.cx.trap.cocoon = false) : exec .eret s = .next (leaveTrap s []) := by
  show execEret s = _
  simp [execEret, hs, ht, hc]

variable (hc : s.cx.trap.cocoon = true)
include hc

theorem exec_eret_planeless (hd : s.planesDead = true) (hl : dumpLeavesTile s = true) :
    exec .eret s = .next (takeTrap s (.issue 0x14 0)) := by
  show execEret s = _
  simp [execEret, hs, ht, hc, hd, hl]

variable (hd : s.planesDead = false ∨ dumpLeavesTile s = false)
include hd

theorem exec_eret_reloads {vs : List Convoy} (hr : reloadDump s = some vs) :
    exec .eret s = .next (leaveTrap (touchDump s) vs) := by
  have hd' : (s.planesDead && dumpLeavesTile s) = false := (Bool.and_eq_false_iff ..).2 hd
  show execEret s = _
  simp [execEret, hs, ht, hc, hd', hr]

theorem exec_eret_fails (hr : reloadDump s = none) : exec .eret s = .next (badDump (touchDump s)) := by
  have hd' : (s.planesDead && dumpLeavesTile s) = false := (Bool.and_eq_false_iff ..).2 hd
  show execEret s = _
  simp [execEret, hs, ht, hc, hd', hr]

end

end Sys2Proof.Machine

namespace Sys2Proof

open Sys2Proof.Machine Sys2Proof.Spec

/-- Settles O41, by the way that ERET takes: a trap, the context freed, the return without a dump, and the return with one that
can be reloaded or cannot. -/
theorem eretReturns : Obligations.EretReturns := by
  intro s x
  refine ⟨exec_eret_user, exec_eret_freed,
    fun hs ht hc => (exec_eret_plain hs ht hc).trans (congrArg Host.Outcome.next (leaveTrap_nil hc)), exec_eret_planeless,
    fun hs ht hc hd => ⟨fun vs hr => ?reloads, fun hr => ?fails⟩⟩
  case reloads =>
    have htouch := touchDump_memoryOnly s
    refine ⟨_, exec_eret_reloads hs ht hc hd hr, leaveTrap_mem _ _, ?_⟩
    generalize touchDump s = u at htouch
    have hcx := leaveTrap_cx u vs
    rw [htouch.cx] at hcx
    exact ⟨congrArg Context.cvy hcx, congrArg Context.queue hcx, by rw [hcx],
      fun c hne => (leaveTrap_ctxAt u vs (htouch.cur ▸ hne)).trans (htouch.ctxAt c)⟩
  case fails =>
    have htouch := touchDump_memoryOnly s
    refine ⟨_, exec_eret_fails hs ht hc hd hr, badDump_mem _, by rw [badDump_cx, htouch.cx], fun l hl hf hte => ?_⟩
    exact badDump_launch (congrArg Context.launchNo htouch.cx) ((htouch.launch _).trans hl) hf hte

end Sys2Proof
end

section
/-! SUPPORT. What MFS does (R83, R84, R353): where it traps, and how it writes its register and retires. -/

namespace Sys2Proof.Machine

open Sys2Proof.Spec

/-! ### Access (R83, R84) -/

/-- Every register but the privileged ones is read at both levels. -/
theorem regFault_read : ∀ n ∈ writableNumbers ++ readableNumbers ++ counterNumbers, ∀ sup,
    regFault (regAccess n) sup false = none := by decide

theorem regFault_read_priv : ∀ n ∈ privilegedNumbers, regFault (regAccess n) true false = none := by decide

theorem exec_mfs_fault {s : State} {r : BitVec 5} {n c : Nat} (hn : n < 4096)
    (h : regFault (regAccess n) s.cx.sup false = some c) :
    exec (.mfs r (.ofNat 12 n)) s =
      .next (takeTrap s (trapOf c (.ofNat 64 ((encodeNat (.mfs r (.ofNat 12 n))).getD 0)))) := by
  show execMfs r (.ofNat 12 n) s = _
  unfold execMfs
  rw [toNat_number hn, h]
  rfl

theorem exec_mfs_next {s u : State} {r : BitVec 5} {n : Nat} {v : Word} (hn : n < 4096)
    (h : regFault (regAccess n) s.cx.sup false = none) (hr : readState s n = (v, u)) :
    exec (.mfs r (.ofNat 12 n)) s = .next (u.retireWith (·.setReg r v)) := by
  show execMfs r (.ofNat 12 n) s = _
  unfold execMfs
  rw [toNat_number hn, h]
  dsimp only
  rw [hr]

/-! ### A register written by a word that retires -/

theorem Context.setReg_samePlace (x : Context) (r : BitVec 5) (v : Word) : SamePlace x (x.setReg r v) :=
  ⟨x.setReg_pc r v, x.setReg_cvy r v, x.setReg_sup r v, x.setReg_notice r v⟩

/-- Every other register keeps its value, and s0 reads as zero. -/
theorem Context.reg_setReg_retire (x : Context) (r q : BitVec 5) (v : Word) :
    (x.setReg r v).retire.reg q = if q = 0 then 0 else if q = r then v else x.reg q := by
  rw [Context.reg_retire, Context.reg_setReg]
  by_cases hq : q = 0
  · subst hq
    rw [if_pos rfl, if_neg (fun h => h.2 h.1.symm), Context.reg_zero]
  · rw [if_neg hq]
    exact if_congr (and_iff_left_of_imp fun h => h ▸ hq) rfl rfl

theorem Context.setReg_retire_eq (x : Context) (r : BitVec 5) (v : Word) :
    (x.setReg r v).retire = { x with
      regs := (x.setReg r v).retire.regs, pc := (x.setReg r v).retire.pc, cvy := none, wait := none
      notice := (x.setReg r v).retire.notice } := by
  refine (Context.retire_eq _).trans ?_
  rw [Context.retire_regs]
  apply Context.eq_of_fields <;> simp

/-- A reading that changes nothing of the machine. -/
theorem mfs_writesReg {s : State} {r : BitVec 5} {n : Nat} {v : Word} (hn : n < 4096)
    (h : regFault (regAccess n) s.cx.sup false = none) (hr : readState s n = (v, s)) :
    WritesReg s (.mfs r (.ofNat 12 n)) r v := by
  refine ⟨_, exec_mfs_next hn h hr, (s.mapCx_hasCx _).onlyCx, ?_⟩
  rw [State.cx_retireWith]
  exact ⟨fun q => s.cx.reg_setReg_retire r q v, (s.cx.setReg_samePlace r v).retired, s.cx.setReg_retire_eq r v⟩

end Sys2Proof.Machine
end

section
/-! PROOF. What MFS reads of registers that software can foresee (R75, R76, R82 to R85, R127, R151, R161, R183, R192, R202,
R215, R224, R236, R242, R290, R353). -/

namespace Sys2Proof.Machine

open Sys2Proof.Spec

theorem readState_task {n : Nat} (h : 0x20 ≤ n) (h' : n < 0x50) (s : State) : readState s n = (s.cx.readTask n, s) := by
  unfold readState
  dsimp only
  rw [if_neg (by omega), if_pos h']

/-! ### Channels of copies (R183, R192) -/

section

variable {c : Nat} (hc : c < 4) (s : State)
include hc

theorem readState_done : readState s (0x20 + c) = ((s.cx.chan c).done.setWidth 64, s) := by
  rw [readState_task (by omega) (by omega)]
  unfold Context.readTask
  rw [if_pos (by omega), Nat.add_sub_cancel_left]

theorem readState_next : readState s (0x24 + c) = ((s.cx.chan c).next.setWidth 64, s) := by
  rw [readState_task (by omega) (by omega)]
  unfold Context.readTask
  rw [if_neg (by omega), if_pos (by omega), Nat.add_sub_cancel_left]

theorem readState_fault : readState s (0x28 + c) = ((s.cx.chan c).fltWord, s) := by
  rw [readState_task (by omega) (by omega)]
  unfold Context.readTask
  rw [if_neg (by omega), if_neg (by omega), if_pos (by omega), Nat.add_sub_cancel_left]

end

/-! ### Event sources (R290) -/

theorem readState_evsel {n : Nat} (hn : n < 8) (s : State) :
    readState s (0x200 + n) = (((s.coreAt (coreOf s.cur)).evsel.toList.getD n 0).setWidth 64, s) := by
  have hread (k : Core) : k.read (0x200 + n) = (k.evsel.toList.getD n 0).setWidth 64 := by
    unfold Core.read
    split
    · omega
    · omega
    · omega
    · rw [if_pos (by omega), Nat.add_sub_cancel_left]
  unfold readState
  simp only [hread]
  rw [if_neg (by omega), if_neg (by omega), if_neg (by omega), if_neg (by omega), if_neg (by omega), if_neg (by omega),
    if_neg (by omega), if_neg (by omega), if_neg (by omega), if_neg (by simp; omega), if_neg (by omega), if_pos (by omega)]

/-! ### PLANEMAP (R202) -/

theorem setWidth_low (m : BitVec 128) : m.setWidth 64 = BitVec.ofNat 64 (m.toNat % 2 ^ 64) :=
  BitVec.eq_of_toNat_eq (by simp)

theorem setWidth_high (m : BitVec 128) : (m >>> 64).setWidth 64 = BitVec.ofNat 64 (m.toNat / 2 ^ 64) :=
  BitVec.eq_of_toNat_eq (by simp [Nat.shiftRight_eq_div_pow])

theorem mfsReadsEveryRegister : MfsReadsEveryRegister := by
  intro s r
  dsimp only
  have hread {n : Nat} {v : Word} (e : readState s n = (v, s) := by rfl)
      (hn : n ∈ writableNumbers ++ readableNumbers ++ counterNumbers := by decide) (hlt : n < 4096 := by decide) :
      WritesReg s (.mfs r (.ofNat 12 n)) r v := mfs_writesReg hlt (regFault_read n hn _) e
  have hpriv (hs : s.cx.sup = true) {n : Nat} {v : Word} (e : readState s n = (v, s) := by rfl)
      (hn : n ∈ privilegedNumbers := by decide) (hlt : n < 4096 := by decide) :
      WritesReg s (.mfs r (.ofNat 12 n)) r v := mfs_writesReg hlt (by rw [hs]; exact regFault_read_priv n hn) e
  -- The model has a field's weight on the right of its product, the statement on the left.
  have hfields {n a b : Nat} (e : readState s n = (regWord a, s)) (h : a = b) : readState s n = (.ofNat 64 b, s) := h ▸ e
  refine ⟨⟨hread (hfields rfl (by omega)), hread, hread, hread (hfields rfl (by omega)), hread, hread,
      hread (hfields rfl (by omega)), hread, hread, hread, hread (hfields rfl (by omega)), hread, hread, hread,
      hread (hfields rfl (by omega)), hread, hread⟩,
    fun c hc => ⟨hread (readState_done hc s) ?done (by omega), hread (readState_next hc s) ?next (by omega),
      hread (hfields (readState_fault hc s) (by omega)) ?fault (by omega)⟩,
    ⟨hread, hread, hread, hread, hread (hfields rfl (by omega)), hread, hread (hfields rfl (by omega)), hread, hread, hread,
      hread, hread, hread (Prod.ext (setWidth_low _) rfl), hread (Prod.ext (setWidth_high _) rfl)⟩,
    fun n hn => hread (readState_evsel hn s) ?evsel (by omega),
    fun hs => ⟨hpriv hs, hpriv hs, hpriv hs, hpriv hs, hpriv hs (hfields rfl (by omega)), hpriv hs, hpriv hs, hpriv hs,
      hpriv hs (hfields rfl (by omega)), hpriv hs (hfields rfl (by omega)), hpriv hs, hpriv hs, hpriv hs,
      hpriv hs (hfields rfl (by omega))⟩,
    fun hs n hn => ?privileged, fun n hn => ?unassigned⟩
  case done => interval_cases c <;> decide
  case next => interval_cases c <;> decide
  case fault => interval_cases c <;> decide
  case evsel => interval_cases n <;> decide
  case privileged =>
    exact exec_mfs_fault (lt_of_mem_numbers n (by simp [hn])) (by rw [regAccess_of_privileged n hn, hs]; rfl)
  case unassigned => exact exec_mfs_fault hn.1 (by rw [regAccess_of_unassigned hn]; rfl)

end Sys2Proof.Machine
end

section
/-! SUPPORT. Policies and adjunct issue of a tile (R51, R57, R59, R60). -/

namespace Sys2Proof.Machine

/-- Every context of a tile whose task has started permits a kind of adjunct by its policy (R51, R57). -/
def PolicyPermits (s : State) (tile b : Nat) : Prop :=
  ∀ i < 8, (s.ctxAt (tile * 8 + i)).task ≠ none → (s.ctxAt (tile * 8 + i)).start = none →
    (s.ctxAt (tile * 8 + i)).cpol.getLsbD b = true

theorem Context.policy_getLsbD (x : Context) {b : Nat} (hb : b < 2) :
    x.policy.getLsbD b = true ↔ (x.start = none → x.cpol.getLsbD b = true) := by
  unfold Context.policy
  cases x.start with
  | none => simp
  | some _ =>
    have hthree : (3 : BitVec 2).getLsbD b = true := by interval_cases b <;> rfl
    simpa using hthree

/-- A bit of the AND over the contexts that hold a task. -/
theorem foldl_policy_getLsbD (b : Nat) (xs : List Context) (p : BitVec 2) :
    (xs.foldl (fun p x => if x.task.isSome then p &&& x.policy else p) p).getLsbD b = true ↔
      p.getLsbD b = true ∧ ∀ x ∈ xs, x.task ≠ none → x.policy.getLsbD b = true := by
  induction xs generalizing p with
  | nil => simp
  | cons x xs ih =>
    rw [List.foldl_cons, ih, List.forall_mem_cons]
    cases x.task <;> simp [and_assoc]

theorem tilePolicy_getLsbD (s : State) (tile : Nat) {b : Nat} (hb : b < 2) :
    (tilePolicy s tile).getLsbD b = true ↔ PolicyPermits s tile b := by
  have hthree : (3 : BitVec 2).getLsbD b = true := by interval_cases b <;> rfl
  unfold tilePolicy PolicyPermits
  rw [foldl_policy_getLsbD, and_iff_right hthree]
  simp [Context.policy_getLsbD _ hb]

/-- The bits of a tile's policy as a number. -/
theorem tilePolicy_bit (s : State) (tile : Nat) {b : Nat} (hb : b < 2) :
    (tilePolicy s tile).toNat / 2 ^ b % 2 = 1 ↔ PolicyPermits s tile b := by
  rw [← tilePolicy_getLsbD s tile hb, BitVec.getLsbD, Nat.testBit_eq_decide_div_mod_eq, decide_eq_true_iff]

/-- A tile's policy permits some adjunct where it permits one of the two kinds. -/
theorem tilePolicy_ne_zero (s : State) (tile : Nat) :
    tilePolicy s tile ≠ 0 ↔ PolicyPermits s tile 0 ∨ PolicyPermits s tile 1 := by
  have hbits (p : BitVec 2) : p ≠ 0 ↔ p.getLsbD 0 = true ∨ p.getLsbD 1 = true := by revert p; decide
  rw [hbits, tilePolicy_getLsbD s tile (by decide), tilePolicy_getLsbD s tile (by decide)]

theorem adjKinds_getLsbD (s : State) (tile : Nat) {b : Nat} (hb : b < 2) :
    (adjKinds s tile).getLsbD b = true ↔
      (s.strAt (tile / 4)).adjreq.getLsbD (tile % 4) = true ∧ PolicyPermits s tile b := by
  unfold adjKinds
  rw [← tilePolicy_getLsbD s tile hb]
  split
  case isTrue h => simp [h]
  case isFalse h => simp [h]

/-- A sum of powers of two, one for each of the first four numbers that a test picks. -/
theorem sum_two_pow_eq (f : Nat → Bool) :
    ((List.range 4).filter f).foldl (fun m p => m + 2 ^ p) 0 =
      (f 0).toNat + 2 * (f 1).toNat + 4 * (f 2).toNat + 8 * (f 3).toNat := by
  rw [List.foldl_filter, show List.range 4 = [0, 1, 2, 3] from rfl]
  simp only [List.foldl_cons, List.foldl_nil]
  cases f 0 <;> cases f 1 <;> cases f 2 <;> cases f 3 <;> rfl

/-- Such a sum has four bits, and those of the numbers that were picked. -/
theorem sum_two_pow_bits (f : Nat → Bool) :
    ((List.range 4).filter f).foldl (fun m p => m + 2 ^ p) 0 < 16 ∧ ∀ p < 4,
      (((List.range 4).filter f).foldl (fun m p => m + 2 ^ p) 0 / 2 ^ p % 2 = 1 ↔ f p = true) := by
  have h0 := (f 0).toNat_lt
  have h1 := (f 1).toNat_lt
  have h2 := (f 2).toNat_lt
  have h3 := (f 3).toNat_lt
  rw [sum_two_pow_eq]
  refine ⟨by omega, fun p hp => ?_⟩
  have hbit : f p = true ↔ (f p).toNat = 1 := by cases f p <;> decide
  rw [hbit]
  interval_cases p <;> omega

/-- A tile of a string runs adjunct where a request is latched and its policy permits some (R51, R59). -/
theorem adjRun_bits (s : State) (n : Nat) :
    adjRun s n < 16 ∧ ∀ p < 4, (adjRun s n / 2 ^ p % 2 = 1 ↔
      (s.strAt n).adjreq.getLsbD p = true ∧ (PolicyPermits s (n * 4 + p) 0 ∨ PolicyPermits s (n * 4 + p) 1)) := by
  obtain ⟨hlt, hbits⟩ := sum_two_pow_bits fun p => (s.strAt n).adjreq.getLsbD p && tilePolicy s (n * 4 + p) != 0
  refine ⟨hlt, fun p hp => (hbits p hp).trans ?_⟩
  rw [Bool.and_eq_true, bne_iff_ne, tilePolicy_ne_zero]

end Sys2Proof.Machine
end

section
/-! SUPPORT. Readings that the physical world settles: what they leave alone, and what is certain of their values (R18, R50,
R54, R58 to R61, R290, R398). -/

namespace Sys2Proof.Machine

open Sys2Proof.Spec

/-! ### What such a reading leaves alone -/

/-- Nothing of the machine differs but clocks, counters of cores, the free values drawn, and of the contexts the adjunct counts
of the current one. -/
structure OnlyCounts (s u : State) : Prop where
  rest : u = { s with ctxs := u.ctxs, cores := u.cores, strs := u.strs, tick := u.tick }
  others : ∀ c, c ≠ s.cur → u.ctxAt c = s.ctxAt c
  cx : u.cx = { s.cx with adjV := u.cx.adjV, adjM := u.cx.adjM }

theorem OnlyCounts.refl (s : State) : OnlyCounts s s := ⟨rfl, fun _ _ => rfl, rfl⟩

theorem OnlyCounts.draw (s : State) : OnlyCounts s s.draw.2 := ⟨rfl, fun _ _ => rfl, rfl⟩

theorem countCycles_onlyCounts (s : State) : OnlyCounts s (countCycles s) := ⟨rfl, fun _ _ => rfl, rfl⟩

theorem countAdjunct_onlyCounts (s : State) : OnlyCounts s (countAdjunct s) where
  rest := rfl
  others c hc := (State.ctxAt_mapCx ..).trans (if_neg hc)
  cx := by
    unfold countAdjunct
    rw [State.cx_mapCx]
    rfl

theorem adjunctRuns_onlyCounts (s : State) : OnlyCounts s (adjunctRuns s.cur s) := by
  unfold adjunctRuns
  split
  · exact countAdjunct_onlyCounts s
  · exact .refl s

theorem countCore_onlyCounts (s : State) (core n : Nat) : OnlyCounts s (countCore s core n) := by
  unfold countCore
  dsimp only
  split
  · exact .refl s
  · split <;> exact ⟨rfl, fun _ _ => rfl, rfl⟩

/-- MFS of such a register: its value is in the register, and the word has retired. -/
theorem mfs_onlyCounts {s u : State} {r : BitVec 5} {n : Nat} {v : Word} (hn : n < 4096)
    (h : regFault (regAccess n) s.cx.sup false = none) (hr : readState s n = (v, u)) (hu : OnlyCounts s u) :
    let x := s.cx
    let t := u.retireWith (·.setReg r v)
    exec (.mfs r (.ofNat 12 n)) s = .next t ∧ Retired x t.cx ∧
      (∀ q, t.cx.reg q = if q = 0 then 0 else if q = r then v else x.reg q) ∧
      t = { s with ctxs := t.ctxs, cores := t.cores, strs := t.strs, tick := t.tick } ∧
      (∀ c, c ≠ s.cur → t.ctxAt c = s.ctxAt c) ∧
      t.cx = { x with regs := t.cx.regs, adjV := t.cx.adjV, adjM := t.cx.adjM, pc := t.cx.pc, cvy := none, wait := none
                      notice := t.cx.notice } := by
  intro x t
  obtain ⟨hrest, hothers, hcx⟩ := hu
  have hcur : u.cur = s.cur := by rw [hrest]
  refine ⟨exec_mfs_next hn h hr, ?_, fun q => ?_, ?_, fun c hc => ?_, ?_⟩
  · rw [State.cx_retireWith, hcx]
    exact (Context.setReg_samePlace { x with adjV := u.cx.adjV, adjM := u.cx.adjM } r v).retired
  · rw [State.cx_retireWith, Context.reg_setReg_retire, hcx]
    rfl
  · show { u with ctxs := t.ctxs } = _
    rw [hrest]
    rfl
  · exact ((u.ctxAt_retireWith _ c).trans (if_neg (hcur ▸ hc))).trans (hothers c hc)
  · rw [State.cx_retireWith, hcx]
    apply Context.eq_of_fields <;> simp [x]

/-! ### Demands and steps (R50, R54, R58) -/

/-- A demand lies in −512 to 512, as a 16-bit number. -/
theorem freeDemand_range (w k : Nat) : freeDemand w k < 2 ^ 16 ∧ (freeDemand w k ≤ 512 ∨ 65024 ≤ freeDemand w k) := by
  unfold freeDemand
  omega

theorem Str.effective_le {g : Str} (h : g.step ≤ 2) : g.effective ≤ 2 := by
  unfold Str.effective
  omega

/-- The fields of STRIMB (R58). -/
theorem strimb_fields {a b c e : Nat} (ha : a < 2 ^ 16) (hb : b < 2 ^ 16) (hc : c < 2 ^ 16) (he : e ≤ 2) :
    let v := (BitVec.ofNat 64 (a + b * 2 ^ 16 + c * 2 ^ 32 + e * 2 ^ 48)).toNat
    v / 2 ^ 0 % 2 ^ 16 = a ∧ v / 2 ^ 16 % 2 ^ 16 = b ∧ v / 2 ^ 32 % 2 ^ 16 = c ∧ v / 2 ^ 48 = e := by
  intro v
  have hv : v = a + b * 2 ^ 16 + c * 2 ^ 32 + e * 2 ^ 48 :=
    (BitVec.toNat_ofNat _ 64).trans (Nat.mod_eq_of_lt (by omega))
  omega

theorem readState_strimb {s : State} (hstep : (s.strAt (strOf s.cur)).step ≤ 2) :
    ∃ v, readState s 0x50 = (v, s.draw.2) ∧
      (∀ k < 3, v.toNat / 2 ^ (16 * k) % 2 ^ 16 ≤ 512 ∨ 65024 ≤ v.toNat / 2 ^ (16 * k) % 2 ^ 16) ∧
      v.toNat / 2 ^ 48 = (s.strAt (strOf s.cur)).effective := by
  have hd (k : Nat) := freeDemand_range s.draw.1.toNat k
  obtain ⟨h0, h1, h2, he⟩ := strimb_fields (hd 0).1 (hd 1).1 (hd 2).1 (Str.effective_le hstep)
  refine ⟨_, rfl, fun k hk => ?_, he⟩
  interval_cases k
  · exact h0.symm ▸ (hd 0).2
  · exact h1.symm ▸ (hd 1).2
  · exact h2.symm ▸ (hd 2).2

/-! ### STRSTAT (R59) -/

/-- The fields of STRSTAT (R59). -/
theorem strstat_fields {e c req run hot floor pos pol cpol n : Nat} (he : e ≤ 2) (hc : c ≤ 2) (hreq : req < 16)
    (hrun : run < 16) (hhot : hot < 8) (hfloor : floor < 2) (hpos : pos < 4) (hpol : pol < 4) (hcpol : cpol < 4)
    (hn : n < 24) :
    let v := (BitVec.ofNat 64 (e + c * 4 + req * 2 ^ 4 + run * 2 ^ 8 + hot * 2 ^ 12 + floor * 2 ^ 15 + pos * 2 ^ 16
      + pol * 2 ^ 18 + cpol * 2 ^ 20 + n * 2 ^ 24)).toNat
    v % 4 = e ∧ v / 4 % 4 = c ∧ v / 2 ^ 4 % 16 = req ∧ (∀ p < 4, v / 2 ^ (8 + p) % 2 = run / 2 ^ p % 2) ∧
      v / 2 ^ 15 % 2 = floor ∧ v / 2 ^ 16 % 4 = pos ∧ (∀ b < 2, v / 2 ^ (18 + b) % 2 = pol / 2 ^ b % 2) ∧
      v / 2 ^ 20 % 4 = cpol ∧ v / 2 ^ 22 % 4 = 0 ∧ v / 2 ^ 24 = n := by
  intro v
  have hv : v = e + c * 4 + req * 2 ^ 4 + run * 2 ^ 8 + hot * 2 ^ 12 + floor * 2 ^ 15 + pos * 2 ^ 16
      + pol * 2 ^ 18 + cpol * 2 ^ 20 + n * 2 ^ 24 :=
    (BitVec.toNat_ofNat _ 64).trans (Nat.mod_eq_of_lt (by omega))
  refine ⟨by omega, by omega, by omega, fun p hp => ?_, by omega, by omega, fun b hb => ?_, by omega, by omega, by omega⟩
  · interval_cases p <;> omega
  · interval_cases b <;> omega

/-- What STRSTAT reads: which nodes are over is left open (R59, R61). -/
theorem readState_strstat {s : State} (hcur : s.cur < 768) (hstep : (s.strAt (strOf s.cur)).step ≤ 2) :
    let g := s.strAt (strOf s.cur)
    let n := strOf s.cur
    let tile := tileOf s.cur
    ∃ v, readState s 0x52 = (v, s.draw.2) ∧ v.toNat % 4 = g.effective ∧ v.toNat / 4 % 4 = min g.cap 2 ∧
      v.toNat / 2 ^ 4 % 16 = g.adjreq.toNat ∧
      (∀ p < 4, v.toNat / 2 ^ (8 + p) % 2 = 1 ↔
        g.adjreq.getLsbD p = true ∧ (PolicyPermits s (n * 4 + p) 0 ∨ PolicyPermits s (n * 4 + p) 1)) ∧
      (v.toNat / 2 ^ 15 % 2 = 1 ↔ g.floor = true) ∧ v.toNat / 2 ^ 16 % 4 = tile % 4 ∧
      (v.toNat / 2 ^ 18 % 2 = 1 ↔ PolicyPermits s tile 0) ∧ (v.toNat / 2 ^ 19 % 2 = 1 ↔ PolicyPermits s tile 1) ∧
      v.toNat / 2 ^ 20 % 4 = s.cx.cpol.toNat ∧ v.toNat / 2 ^ 22 % 4 = 0 ∧ v.toNat / 2 ^ 24 = n := by
  intro g n tile
  obtain ⟨hrunlt, hrun⟩ := adjRun_bits s n
  have hn : n < 24 := Nat.div_lt_of_lt_mul hcur
  obtain ⟨heff, hcap, hreq, hruns, hfloor, hpos, hpol, hcpol, hzero, hnum⟩ :=
    strstat_fields (Str.effective_le hstep) (min_le_right g.cap 2) g.adjreq.isLt hrunlt
      (Nat.mod_lt s.draw.1.toNat (by decide : 0 < 8)) g.floor.toNat_lt (Nat.mod_lt tile (by decide : 0 < 4))
      (tilePolicy s tile).isLt s.cx.cpol.isLt hn
  have hfloorbit : g.floor = true ↔ g.floor.toNat = 1 := by cases g.floor <;> decide
  refine ⟨_, rfl, heff, hcap, hreq, fun p hp => ?_, ?_, hpos, ?_, ?_, hcpol, hzero, hnum⟩
  · rw [← hrun p hp]
    exact Eq.congr_left (hruns p hp)
  · exact (Eq.congr_left hfloor).trans hfloorbit.symm
  · exact (Eq.congr_left (hpol 0 (by decide))).trans (tilePolicy_bit s tile (by decide))
  · exact (Eq.congr_left (hpol 1 (by decide))).trans (tilePolicy_bit s tile (by decide))

/-! ### ADJCNT (R60) -/

/-- Two counts side by side. -/
theorem toNat_pair (a b : BitVec 32) :
    (a.setWidth 64 ||| (b.setWidth 64 <<< 32)).toNat = a.toNat + 2 ^ 32 * b.toNat := by
  have ha := a.isLt
  have hb := b.isLt
  rw [BitVec.toNat_or, BitVec.toNat_shiftLeft, BitVec.toNat_setWidth, BitVec.toNat_setWidth, Nat.shiftLeft_eq,
    Nat.mod_eq_of_lt (by omega), Nat.mod_eq_of_lt (by omega), Nat.mod_eq_of_lt (by omega), Nat.mul_comm, Nat.or_comm,
    ← Nat.two_pow_add_eq_or_of_lt ha, Nat.add_comm]

/-- A task's adjunct counts up to now; a context without a task has none (R60). -/
theorem adjunctRuns_eq (s : State) :
    adjunctRuns s.cur s = if s.cx.task.isSome then countAdjunct s else s := rfl

theorem countAdjunct_adjV {s : State} (h : (adjKinds s (tileOf s.cur)).getLsbD 1 = false) :
    (countAdjunct s).cx.adjV = s.cx.adjV := by
  unfold countAdjunct
  rw [State.cx_mapCx]
  dsimp only
  rw [h]
  rfl

theorem countAdjunct_adjM {s : State} (h : (adjKinds s (tileOf s.cur)).getLsbD 0 = false) :
    (countAdjunct s).cx.adjM = s.cx.adjM := by
  unfold countAdjunct
  rw [State.cx_mapCx]
  dsimp only
  rw [h]
  rfl

/-- The value and the counts of ADJCNT: a count stands while the context has no task or no adjunct of its kind runs. -/
theorem readState_adjcnt (s : State) :
    let g := s.strAt (strOf s.cur)
    let tile := tileOf s.cur
    ∃ v u, readState s 0x51 = (v, u) ∧ OnlyCounts s u ∧ v.toNat = u.cx.adjV.toNat + 2 ^ 32 * u.cx.adjM.toNat ∧
      (s.cx.task = none ∨ ¬ (g.adjreq.getLsbD (tile % 4) = true ∧ PolicyPermits s tile 1) → u.cx.adjV = s.cx.adjV) ∧
      (s.cx.task = none ∨ ¬ (g.adjreq.getLsbD (tile % 4) = true ∧ PolicyPermits s tile 0) → u.cx.adjM = s.cx.adjM) := by
  intro g tile
  have hstr : tile / 4 = strOf s.cur := Nat.div_div_eq_div_mul ..
  have hkinds {b : Nat} (hb : b < 2) (h : ¬ (g.adjreq.getLsbD (tile % 4) = true ∧ PolicyPermits s tile b)) :
      (adjKinds s tile).getLsbD b = false := by
    refine eq_false_of_ne_true fun hk => h ?_
    rwa [adjKinds_getLsbD s tile hb, hstr] at hk
  refine ⟨_, _, rfl, adjunctRuns_onlyCounts s, toNat_pair .., fun h => ?_, fun h => ?_⟩
  all_goals
    rw [adjunctRuns_eq]
    cases ht : s.cx.task with
    | none => rfl
    | some _ => ?_
  · exact countAdjunct_adjV (hkinds (by decide) (h.resolve_left (by simp [ht])))
  · exact countAdjunct_adjM (hkinds (by decide) (h.resolve_left (by simp [ht])))

/-! ### CYCLE (R18) -/

theorem countCycles_strAt (s : State) :
    ((countCycles s).strAt (strOf s.cur)).clock = (s.strAt (strOf s.cur)).clock + s.draw.1.toNat % 2 ^ 63 :=
  congrArg Str.clock (State.strAt_setStr_self ..)

theorem State.cycles_toNat (s : State) :
    s.cycles.toNat = ((s.coreAt (coreOf s.cur)).cycle0.toNat + (s.strAt (strOf s.cur)).clock) % 2 ^ 64 := by
  simp [State.cycles]

/-! ### Event counters (R290, R398) -/

theorem Core.read_evcnt (k : Core) (n : Nat) : k.read (0x208 + n) = k.evcnt.toList.getD n 0 := by
  unfold Core.read
  split
  · omega
  · omega
  · omega
  · rw [if_neg (by omega), Nat.add_sub_cancel_left]

theorem readState_evcnt (s : State) (n : Nat) :
    readState s (0x208 + n) =
      (((countCore s (coreOf s.cur) n).coreAt (coreOf s.cur)).evcnt.toList.getD n 0, countCore s (coreOf s.cur) n) := by
  unfold readState
  dsimp only
  rw [if_neg (by omega), if_neg (by omega), if_neg (by omega), if_neg (by omega), if_neg (by omega), if_neg (by omega),
    if_neg (by omega), if_neg (by omega), if_neg (by omega), if_neg (by simp; omega), if_neg (by omega), if_neg (by omega),
    Nat.add_sub_cancel_left, Core.read_evcnt]

/-- A counter of traps or of user interrupts has counted them exactly. -/
theorem countCore_exact {s : State} {core n : Nat} (hn : n < 8)
    (hc : coreCounts ((s.coreAt core).evsel.toList.getD n 0) = true)
    (he : countsExactly ((s.coreAt core).evsel.toList.getD n 0) = true) :
    let now := tallyOf s core ((s.coreAt core).evsel.toList.getD n 0)
    let k := (countCore s core n).coreAt core
    k.evcnt.toList.getD n 0 = (s.coreAt core).evcnt.toList.getD n 0 +
        .ofNat 64 (now - (s.coreAt core).seen.toList.getD n 0) ∧
      k.seen.toList.getD n 0 = now := by
  intro now k
  have hk : k = { s.coreAt core with
      evcnt := (s.coreAt core).evcnt.setIfInBounds n ((s.coreAt core).evcnt.toList.getD n 0 +
        .ofNat 64 (now - (s.coreAt core).seen.toList.getD n 0))
      seen := (s.coreAt core).seen.setIfInBounds n now } := by
    show (countCore s core n).coreAt core = _
    unfold countCore
    dsimp only
    rw [hc, he]
    exact State.coreAt_setCore_self ..
  rw [hk]
  simp [hn]

end Sys2Proof.Machine
end

section
/-! PROOF. O42: what MFS reads. -/

namespace Sys2Proof.Machine

open Sys2Proof.Spec

theorem coreCounts_iff (sel : BitVec 10) :
    coreCounts sel = true ↔ sel.getLsbD 8 = true ∧ 1 ≤ sel.toNat % 256 ∧ sel.toNat % 256 ≤ 9 := by
  simp [coreCounts, and_assoc]

theorem countsExactly_iff (sel : BitVec 10) :
    countsExactly sel = true ↔ sel.toNat % 256 = 7 ∨ sel.toNat % 256 = 8 := by
  simp [countsExactly]

theorem physicalReadings : PhysicalReadings := by
  intro s r hcur x tile g core reads permits
  have hreads {n : Nat} {p : Nat → State → Prop} {v : Word} {u : State} (hr : readState s n = (v, u)) (hu : OnlyCounts s u)
      (hp : p v.toNat (u.retireWith (·.setReg r v))) (hn : n < 4096 := by decide)
      (hm : n ∈ writableNumbers ++ readableNumbers ++ counterNumbers := by decide) : reads n p := by
    obtain ⟨hexec, hret, hregs, hrest, hothers, hcx⟩ := mfs_onlyCounts (r := r) hn (regFault_read n hm _) hr hu
    exact ⟨_, v, hexec, hret, hp, hregs, hrest, hothers, hcx⟩
  clear_value reads
  refine ⟨fun hstep => ⟨?strimb, ?strstat⟩, ?adjcnt, ?cycle, fun n hn => ?evcnt⟩
  case strimb =>
    obtain ⟨v, hr, hdemands, heff⟩ := readState_strimb hstep
    exact hreads hr (.draw s) ⟨hdemands, heff⟩
  case strstat =>
    obtain ⟨v, hr, hfields⟩ := readState_strstat hcur hstep
    exact hreads hr (.draw s) hfields
  case adjcnt =>
    obtain ⟨v, u, hr, hu, hv, hV, hM⟩ := readState_adjcnt s
    refine hreads hr hu ?_
    rw [State.cx_retireWith, Context.retire_adjV, Context.retire_adjM, Context.setReg_adjV, Context.setReg_adjM]
    exact ⟨hv, hV, hM⟩
  case cycle =>
    refine hreads rfl (countCycles_onlyCounts s) ⟨?_, (countCycles s).cycles_toNat⟩
    exact (countCycles_strAt s).symm ▸ Nat.le_add_right _ _
  case evcnt =>
    intro sel old source counts count
    refine hreads (readState_evcnt s n) (countCore_onlyCounts s _ n) ⟨fun hno => ?_, fun hc he => ?_⟩ (by omega)
      (by interval_cases n <;> decide)
    · rw [countCore_of_not_counts (eq_false_of_ne_true (mt (coreCounts_iff sel).1 hno))]
    · intro now
      obtain ⟨hcnt, hseen⟩ := countCore_exact hn ((coreCounts_iff sel).2 hc) ((countsExactly_iff sel).2 he)
      refine ⟨?_, hseen⟩
      rw [hcnt, BitVec.toNat_add, BitVec.toNat_ofNat, Nat.add_mod_mod]
      rfl

end Sys2Proof.Machine

namespace Sys2Proof

open Sys2Proof.Machine Sys2Proof.Spec

/-- Settles O42: the registers that software can foresee by what the state holds, the others by what their readings leave
certain. -/
theorem mfsReadsItsRegister : Obligations.MfsReadsItsRegister := ⟨mfsReadsEveryRegister, physicalReadings⟩

end Sys2Proof
end

section
/-! SUPPORT. Shapes of at most 32 rows (R73, R76): what a change of the state keeps of them, and what the shared operations
keep. -/

namespace Sys2Proof.Spec

/-! Many short lemmas: they are elaborated in turn, since as tasks of their own they outgrow the limit on threads. -/

set_option Elab.async false

open Sys2Proof.Machine

/-- The shape of a context, and that of its strip checkpoint, fit the 32 rows of 16 lanes. -/
def Fits (x : Context) : Prop := x.vrows ≤ 32 ∧ x.ckpt.vrows ≤ 32

/-- Where the machine goes on, a property holds of its state. -/
def Answers (P : State → Prop) : Host.Outcome State Fault Refusal → Prop
  | .next t => P t
  | _ => True

theorem Answers.of_next {P : State → Prop} {o : Host.Outcome State Fault Refusal} (h : Answers P o) {t : State}
    (e : o = .next t) : P t := by subst e; exact h

theorem rows_ite {c : Prop} [Decidable c] {s t : State} (hs : Rows32 s) (ht : Rows32 t) : Rows32 (if c then s else t) := by
  split <;> assumption

theorem answers_ite {P : State → Prop} {c : Prop} [Decidable c] {a b : Host.Outcome State Fault Refusal} (ha : Answers P a)
    (hb : Answers P b) : Answers P (if c then a else b) := by split <;> assumption

/-- A change that writes neither shape. -/
theorem Fits.same {x y : Context} (h : Fits x) (hr : y.vrows = x.vrows) (hc : y.ckpt = x.ckpt) : Fits y :=
  ⟨hr ▸ h.1, hc ▸ h.2⟩

@[simp] theorem fits_countConvoy (x : Context) : Fits x.countConvoy ↔ Fits x := by
  simp [Fits]

@[simp] theorem fits_goto (x : Context) (pc : Word) : Fits (x.goto pc) ↔ Fits x := by simp [Fits]

@[simp] theorem fits_retire (x : Context) : Fits x.retire ↔ Fits x := by simp [Fits]

@[simp] theorem fits_retireMember (x : Context) : Fits x.retireMember ↔ Fits x := by
  unfold Context.retireMember
  split
  · rename_i v _
    split
    · rfl
    · exact fits_goto x v.next
  · exact fits_goto x (x.pc + 4)

@[simp] theorem fits_setReg (x : Context) (r : BitVec 5) (v : Word) : Fits (x.setReg r v) ↔ Fits x := by simp [Fits]

@[simp] theorem fits_setCond (x : Context) (n : BitVec 3) (v : Bool) : Fits (x.setCond n v) ↔ Fits x := by simp [Fits]

theorem fits_stopQueue {x : Context} (h : Fits x) : Fits x.stopQueue := by
  have hf (y : Context) (hy : Fits y) (f : Option QueueFault) : Fits (match f with
      | some f => { y with vsElem := BitVec.ofNat 17 f.elem, vsMember := BitVec.ofNat 2 f.cvy.idx, qfault := none }
      | none => y) := by cases f <;> exact hy
  unfold Context.stopQueue
  extract_lets y z
  have hy : Fits y := by
    dsimp only [y]
    split
    · split <;> exact h
    · exact h
  exact hf z hy z.qfault

namespace Rows32

protected theorem of_ctxs {s t : State} (h : Rows32 s) (e : t.ctxs = s.ctxs) : Rows32 t := by
  intro c
  rw [show t.ctxAt c = s.ctxAt c by unfold State.ctxAt; rw [e]]
  exact h c

section
variable {s : State} (h : Rows32 s)
include h

protected theorem setCtx (c : Nat) {x : Context} (hx : Fits x) : Rows32 (s.setCtx c x) := fun n => by
  rw [State.ctxAt_setCtx]
  split
  · exact hx
  · exact h n

/-- A change of one context that writes neither of its shapes. -/
protected theorem setSame (c : Nat) {x : Context} (hr : x.vrows = (s.ctxAt c).vrows := by rfl)
    (hc : x.ckpt = (s.ctxAt c).ckpt := by rfl) : Rows32 (s.setCtx c x) := h.setCtx c (Fits.same (h c) hr hc)

protected theorem mapSame {f : Context → Context} (hr : (f s.cx).vrows = s.cx.vrows := by rfl)
    (hc : (f s.cx).ckpt = s.cx.ckpt := by rfl) : Rows32 (s.mapCx f) := h.setSame s.cur hr hc

protected theorem mapCx {f : Context → Context} (hf : Fits s.cx → Fits (f s.cx)) : Rows32 (s.mapCx f) :=
  h.setCtx s.cur (hf (h s.cur))

protected theorem retireWith {f : Context → Context} (hf : Fits s.cx → Fits (f s.cx)) : Rows32 (s.retireWith f) :=
  h.mapCx fun hx => (fits_retire _).2 (hf hx)

protected theorem retires : Rows32 (s.mapCx (·.retire)) := h.mapCx (fits_retire _).2

protected theorem retiresMember : Rows32 (s.mapCx (·.retireMember)) := h.mapCx (fits_retireMember _).2

protected theorem within {f : State → State} (hf : ∀ t, Rows32 t → Rows32 (f t)) (c : Nat) : Rows32 (s.within c f) :=
  hf { s with cur := c } h

protected theorem memoryOnly {t : State} (k : MemoryOnly s t) : Rows32 t := h.of_ctxs k.ctxs

protected theorem commitAccumulators (c : Nat) : Rows32 (commitAccumulators s c) := by
  rw [commitAccumulators_rest]; exact h

protected theorem forceCommit : Rows32 (forceCommit s) :=
  (h.commitAccumulators s.cur).mapCx fun hx => ⟨hx.1, hx.1⟩

protected theorem holdWrite (w : Write) : Rows32 (holdWrite s w) := by
  unfold holdWrite
  have hs : Rows32 (if 131072 < s.cx.heldBytes + w.bytes.length then forceCommit s else s) := rows_ite h.forceCommit h
  exact rows_ite (Rows32.forceCommit (hs.mapSame)) (hs.mapSame)

protected theorem holdStore (p : Place) (strm sz : Nat) (v : Word) : Rows32 (holdStore s p strm sz v) := h.holdWrite _

protected theorem postWrite (w : Write) : Rows32 (postWrite s w) := h.mapSame

protected theorem allocate (regs : List Nat) : Rows32 (allocate s regs) :=
  Rows32.mapSame (rows_ite h.forceCommit h)

/-! ### Accesses -/

protected theorem touch (a : Acc) (k : AccKind) (p : Place) : Rows32 (touch s a k p) :=
  h.memoryOnly (touch_memoryOnly s a k p)

protected theorem touchBlock (a : Acc) (k : AccKind) (key : Option Nat) (va n : Nat) :
    Rows32 (touchBlock s a k key va n) := h.memoryOnly (touchBlock_keeps s a k key va n).1

protected theorem writeBlock {t : State} {a : Acc} {key : Option Nat} {va : Nat} {bs : List Byte}
    (e : writeBlock s a key va bs = some t) : Rows32 t := h.memoryOnly (writeBlock_keeps e).1

protected theorem dropEarly (c strm loc n : Nat) : Rows32 (s.dropEarly c strm loc n) := by
  unfold State.dropEarly
  exact rows_ite h (h.setSame c)

protected theorem dropBytes (c loc n : Nat) : Rows32 (s.dropBytes c loc n) := by
  unfold State.dropBytes
  exact rows_ite h (h.setSame c)

protected theorem countWrite (n : Nat) (w : Write) : Rows32 (countWrite s n w) := h.of_ctxs (countWrite_keeps s n w).1

protected theorem performWrite (c : Nat) (w : Write) : Rows32 (performWrite s c w) :=
  Rows32.of_ctxs (rows_ite (h.dropBytes c _ _) (h.dropEarly c _ _ _)) (performWrite_keeps s c w).1

protected theorem performIdx (c i : Nat) : Rows32 (performIdx s c i) := by
  unfold performIdx
  split
  · exact h
  · exact (h.setSame c).performWrite c _

/-! ### Traps and errors -/

protected theorem doubleTrap : Rows32 (doubleTrap s) := h.mapSame

protected theorem takeTrapAt (t : Trap) (epc : Word) (rcd : List Byte) (dump : List Convoy) :
    Rows32 (takeTrapAt s t epc rcd dump) := by
  obtain ⟨u, hu, -, -, e | ⟨-, e⟩⟩ := takeTrapAt_cases s t epc rcd dump <;> rw [e]
  · exact (h.memoryOnly hu).doubleTrap
  · exact (h.memoryOnly hu).mapSame

protected theorem takeTrap (t : Trap) : Rows32 (takeTrap s t) := by
  unfold takeTrap
  refine Rows32.takeTrapAt ?_ t _ _ _
  split
  · exact h.setSame s.cur
  · exact h

protected theorem raiseQueued (cause : Nat) (tval : Word) (word : BitVec 32) (elem : Nat)
    (index : Option (List Row2048)) (rcd : List Byte) : Rows32 (raiseQueued s cause tval word elem index rcd) := h.mapSame

protected theorem takeQueuedTrap (cause : Nat) (tval : Word) (rcd : List Byte) :
    Rows32 (takeQueuedTrap s cause tval rcd) := by
  have hy : Rows32 (s.setCx s.cx.stopQueue) := h.setCtx s.cur (fits_stopQueue (h s.cur))
  unfold takeQueuedTrap
  exact rows_ite (Rows32.doubleTrap (Rows32.setCtx (hy.takeTrapAt _ _ _ _) _ (Fits.same (h s.cur) rfl rfl))) (hy.takeTrapAt _ _ _ _)

protected theorem takeQueued (f : QueueFault) : Rows32 (takeQueued s f) := h.takeQueuedTrap _ _ _

protected theorem leaveTrap (dump : List Convoy) : Rows32 (leaveTrap s dump) := h.mapSame

protected theorem tellMill (n : Nat) : Rows32 (tellMill s n) := h

protected theorem unpinnable (cause : Nat) (tval : Word) (queued : Bool) : Rows32 (unpinnable s cause tval queued) := by
  have ht := h.tellMill s.cx.launchNo
  unfold unpinnable
  exact rows_ite ht (rows_ite (ht.takeQueuedTrap _ _ _) (ht.takeTrap _))

protected theorem unpinnableAt (cause : Nat) (tval : Word) (word : BitVec 32) (elem : Nat)
    (index : Option (List Row2048)) : Rows32 (unpinnableAt s cause tval word elem index) := by
  have ht := h.tellMill s.cx.launchNo
  unfold unpinnableAt
  exact rows_ite (ht.raiseQueued _ _ _ _ _ _) ht

/-- What its change keeps, a read of scale bytes keeps (R257). -/
protected theorem consumeScales (word : BitVec 32) (scales : List Nat) {go : Nat → State → State}
    (hgo : ∀ n t, Rows32 t → Rows32 (go n t)) : Rows32 (consumeScales word scales go s) := by
  have ht := h.unpinnableAt 0x10 s.cx.convoyStart word 0 none
  unfold consumeScales
  exact rows_ite (hgo _ _ h) (rows_ite ht (hgo _ _ ht))

/-- What its change keeps, a scalar read keeps (R245, R249). -/
protected theorem consume (strm : Nat) (p : Place) (n : Nat) {f : State → Nat → State}
    (hf : ∀ t v, Rows32 t → Rows32 (f t v)) : Rows32 (consume s strm p n f) := by
  have ht := h.unpinnable 0x10 s.cx.convoyStart false
  unfold consume
  exact rows_ite (rows_ite ht (hf _ _ ht)) (hf _ _ (h.dropEarly _ _ _ _))

/-! ### The waits of order_before (R185) -/

protected theorem deliver (k : Nat) : Rows32 (deliver s k) := Rows32.takeTrap (h.mapSame) _

protected theorem waitIn (k : WaitKind) (i : Instr) (ms : List (Nat × BitVec 32)) : Rows32 (s.waitIn k i ms) := h.mapSame

protected theorem joinChannels (ks : List Nat) : Rows32 (joinChannels ks s).after := by
  induction ks generalizing s with
  | nil => exact h
  | cons k ks ih =>
    unfold joinChannels; dsimp only
    split
    · exact h.deliver k
    · generalize CopyChan.join _ = ch
      have ht : Rows32 (s.mapCx (·.setChan k ch)) := h.mapSame
      split
      · exact ih ht
      · split
        · exact ht.takeTrap _
        · exact ht

section
variable {q : Pending} (hq : ∀ t, Rows32 t → Rows32 (q.k t))
include hq

protected theorem settle (i : Instr) : Rows32 (q.settle i s) := by
  unfold Pending.settle
  exact rows_ite (h.takeTrap _) (rows_ite (hq _ (h.mapSame)) (h.mapSame))

protected theorem goFrom (i : Instr) (ks : List Nat) : Rows32 (q.goFrom i ks s) := by
  have hj := h.joinChannels ks
  unfold Pending.goFrom
  split <;> rename_i e <;> rw [e] at hj
  · exact hj
  · exact Rows32.mapCx hj id
  · exact Rows32.settle hj hq i

protected theorem orderBefore (i : Instr) : Rows32 (orderBefore q i s) := by
  unfold orderBefore
  exact rows_ite (h.takeTrap _) (h.forceCommit.goFrom hq i _)

protected theorem goOn (i : Instr) (ms : List (Nat × BitVec 32)) : Rows32 (q.goOn i ms s) := by
  have ht : Rows32 (s.mapCx fun x => { x with wait := none }) := h.mapSame
  unfold Pending.goOn; dsimp only
  split
  · exact ht.settle hq i
  · exact rows_ite (ht.deliver _) (rows_ite (ht.goFrom hq i _) (ht.takeTrap _))

end

protected theorem readEarly (c strm va n : Nat) : Rows32 (readEarly c strm va n s) := by
  unfold readEarly; dsimp only
  split
  · exact h
  · exact rows_ite ((h.touch _ _ _).setCtx c (Fits.same (h c) rfl rfl)) h

end
end Rows32

end Sys2Proof.Spec
end

section
/-! SUPPORT. The scalar unit, the engines, messages and strip boundaries keep shapes of at most 32 rows (R73, R76). -/

namespace Sys2Proof.Spec

set_option Elab.async false

open Sys2Proof.Machine

/-! ### Changes of a context that leave its shape (R75, R183, R194, R206) -/

theorem fits_advance (x : Context) (k : Nat) : Fits (x.advance k) ↔ Fits x := by rw [Context.advance_rest]; rfl

theorem fits_enqueued (x : Context) (r : CopyReq) : Fits (x.enqueued r) ↔ Fits x := by rw [Context.enqueued_rest]; rfl

theorem fits_writeShape (x : Context) (n : Nat) (v : Word) : Fits (x.writeShape n v) ↔ Fits x := by
  unfold Context.writeShape; split <;> rfl

theorem fits_writeTask (x : Context) (n : Nat) (v : Word) : Fits (x.writeTask n v) ↔ Fits x := by
  unfold Context.writeTask; split <;> rfl

theorem fits_writePriv (x : Context) (n : Nat) (v : Word) : Fits (x.writePriv n v) ↔ Fits x := by
  unfold Context.writePriv
  split
  case h_10 => split <;> rfl
  all_goals rfl

theorem fits_setVrow (x : Context) (n row v : Nat) : Fits (x.setVrow n row v) ↔ Fits x := by
  unfold Context.setVrow; split <;> rfl

/-- What each step of a run over a list keeps of a context's shape, the run keeps. -/
theorem fits_foldl {α : Type} {f : Context → α → Context} (hf : ∀ x a, Fits x → Fits (f x a)) (l : List α) {x : Context}
    (h : Fits x) : Fits (l.foldl f x) := foldl_keeps Fits f hf l x h

theorem fits_setVrows {α : Type} (n row v : α → Nat) (l : List α) {x : Context} (h : Fits x) :
    Fits (l.foldl (fun y a => y.setVrow (n a) (row a) (v a)) x) :=
  fits_foldl (fun y _ hy => (fits_setVrow y _ _ _).2 hy) l h

theorem fits_receive {x : Context} (h : Fits x) (v : Nat) (m : Message) : Fits (x.receive v m) := by
  unfold Context.receive
  extract_lets y z
  have hy : Fits y := fits_setVrows (fun _ => v) id _ _ h
  have hz : Fits z := by
    dsimp only [z]
    split
    · exact fits_setVrows (fun _ => v) id (fun _ => 0) _ hy
    · exact hy
  split
  · exact h
  · split
    · refine fits_foldl (fun w b hw => ?_) _ hz
      split
      · exact hw
      · split <;> exact hw
    · exact hz

theorem fits_setSlot (x : Context) (t : Nat) (k : RecvSlot) : Fits (x.setSlot t k) ↔ Fits x := Iff.rfl

theorem fits_swapShadow (x : Context) : Fits x.swapShadow ↔ Fits x := by
  unfold Context.swapShadow Fits; rfl

/-- A register that a call or a jump names goes to the place, and no shape changes. -/
theorem fits_jump (x : Context) (t : Word) : Fits (x.jump t) ↔ Fits x := fits_goto x t

theorem fits_releaseTo (x : Context) (n : Nat) : Fits (x.releaseTo n) ↔ Fits x := by
  rw [Context.releaseTo_rest]; rfl

/-- A grant of at most 32 rows (R76, R77). -/
theorem Fits.granted {x : Context} (h : Fits x) (r : ShapeReq) {rows : Nat} (hr : rows ≤ 32) (cols : Nat) (ill : Bool) :
    Fits (x.granted r rows cols ill) := ⟨hr, ((fits_setReg x r.d _).2 h).2⟩

theorem Fits.grantOf {x : Context} (h : Fits x) (r : ShapeReq) (held : Nat) {want : Nat} (hw : want ≤ 32) :
    Fits (x.grantOf r held want) :=
  Fits.granted (x := x.withLanes held ((want + 1) / 2)) ((fits_releaseTo _ _).2 h) r (min_le_of_left_le hw) _ _

namespace Rows32

section
variable {s : State} (h : Rows32 s)
include h

/-! ### State registers (R83, R84) -/

protected theorem setCore (n : Nat) (k : Core) : Rows32 (s.setCore n k) := h

protected theorem countCore (core n : Nat) : Rows32 (countCore s core n) := by
  unfold countCore
  exact rows_ite h (rows_ite h h)

protected theorem adjunctRuns (c : Nat) : Rows32 (adjunctRuns c s) := by
  unfold adjunctRuns
  exact rows_ite (h.within (fun t ht => Rows32.mapSame (s := t.draw.2) ht) c) h

omit h in
/-- A pair whose state keeps the shapes, by the case that it takes. -/
theorem snd_ite {α : Type} {c : Prop} [Decidable c] {a b : α × State} (ha : Rows32 a.2) (hb : Rows32 b.2) :
    Rows32 (if c then a else b).2 := by split <;> assumption

protected theorem readState (n : Nat) : Rows32 (readState s n).2 := by
  unfold readState
  refine snd_ite h (snd_ite h (snd_ite h (snd_ite (h.adjunctRuns s.cur) ?_)))
  refine snd_ite h (snd_ite h (snd_ite h (snd_ite h (snd_ite h ?_))))
  exact snd_ite h (snd_ite h (snd_ite h (h.countCore _ _)))

protected theorem writeCore (core n : Nat) (v : Word) : Rows32 (writeCore s core n v) := by
  unfold writeCore
  have ht : Rows32 (if 0x200 ≤ n && n < 0x208 then countCore s core (n - 0x200) else s) :=
    rows_ite (h.countCore _ _) h
  exact rows_ite ht ht

protected theorem writeState (n : Nat) (v : Word) : Rows32 (writeState s n v) := by
  unfold writeState
  exact rows_ite (h.mapCx (fits_writeShape _ _ _).2) (rows_ite (h.mapCx (fits_writeTask _ _ _).2)
    (rows_ite (h.writeCore _ _ _) (h.mapCx (fits_writePriv _ _ _).2)))

protected theorem execMfs (r : BitVec 5) (n : BitVec 12) : Answers Rows32 (execMfs r n s) := by
  unfold execMfs
  split
  · exact h.takeTrap _
  · exact (h.readState _).retireWith (fits_setReg _ _ _).2

protected theorem execMts (r : BitVec 5) (n : BitVec 12) : Answers Rows32 (execMts r n s) := by
  unfold execMts
  split
  · exact h.takeTrap _
  · exact (h.writeState _ _).retires

/-! ### Scalar accesses -/

protected theorem loadScalar (d : BitVec 5) (va : Word) (strm sz : Nat) (z : Bool) {f : Context → Context}
    (hf : ∀ x, Fits x → Fits (f x)) : Rows32 (loadScalar d va strm sz z f s) := by
  unfold loadScalar
  split
  · exact h.takeTrap _
  · exact rows_ite h ((h.touch _ _ _).consume _ _ _ fun _ _ ht =>
      ht.retireWith fun hx => (fits_setReg _ _ _).2 (hf _ hx))

protected theorem storeScalar (va : Word) (strm sz : Nat) (v : Word) : Rows32 (storeScalar va strm sz v s) := by
  unfold storeScalar
  split
  · exact h.takeTrap _
  · exact ((h.touch _ _ _).holdStore _ _ _ _).retires

protected theorem releaseStore (b : BitVec 5) (sz : Nat) (p : Place) : Rows32 (releaseStore b sz p s) := by
  unfold releaseStore
  exact rows_ite (h.takeTrap _) (h.postWrite _).retires

protected theorem performAtomic (op : AtomicOp) (d b : BitVec 5) (sz : Nat) (p : Place) :
    Rows32 (performAtomic op d b sz p s) := by
  unfold performAtomic
  refine rows_ite (h.takeTrap _) (h.consume _ _ _ fun t old ht => Rows32.retireWith ?_ (fits_setReg _ _ _).2)
  split
  · exact ht
  · exact ht.performWrite _ _

protected theorem execStRel (a b : BitVec 5) (p : BitVec 3) (u : BitVec 2) : Answers Rows32 (execStRel a b p u s) := by
  unfold execStRel
  split
  · exact h.takeTrap _
  · exact (h.touch _ _ _).orderBefore (q := releaseRest _ _ _ _) (fun _ ht => ht.releaseStore _ _ _) _

protected theorem atomicScalar (op : AtomicOp) (i : Instr) (d a b : BitVec 5) (p : BitVec 3) (u : BitVec 1) :
    Answers Rows32 (atomicScalar op i d a b p u s) := by
  unfold atomicScalar
  split
  · exact h.takeTrap _
  · exact (h.touch _ _ _).orderBefore (q := atomicRest _ _ _ _ _ _) (fun _ ht => ht.performAtomic _ _ _ _ _) _

/-! ### Transfers of control -/

protected theorem jumps (f : Context → Word) : Rows32 (s.mapCx fun x => x.jump (f x)) := h.mapCx (fits_jump _ _).2

protected theorem pushAndGo (target : Context → Word) : Rows32 (pushAndGo target s) := by
  unfold pushAndGo
  split
  · exact h.takeTrap _
  · rename_i t e
    have ht : Rows32 t := by
      unfold spillOldest at e; dsimp only at e
      split at e
      · cases e; exact h
      · split at e
        · cases e
        · cases e; exact ((h.touch _ _ _).holdStore _ _ _ _).mapSame
    exact ht.mapCx fun hx => Fits.same ((fits_goto t.cx (target t.cx)).2 hx) rfl rfl

protected theorem returnTo (t : Word) (r : RetStore) : Rows32 (returnTo t r s) := by
  unfold returnTo
  exact rows_ite (h.takeTrap _) (h.mapCx (fits_jump _ t).2)

protected theorem execRet : Answers Rows32 (execRet s) := by
  unfold execRet; dsimp only
  split
  · exact h.returnTo _ _
  · refine answers_ite (h.takeTrap _) ?_
    split
    · exact h.takeTrap _
    · exact answers_ite h ((h.touch _ _ _).consume _ _ _ fun _ _ ht => ht.returnTo _ _)

protected theorem execLoop (a : BitVec 5) (n l : BitVec 10) : Answers Rows32 (execLoop a n l s) := by
  unfold execLoop
  exact answers_ite (h.mapCx (fits_goto _ _).2) (answers_ite (h.takeTrap _) (h.retireWith fun hx => Fits.same hx rfl rfl))

/-! ### Copy channels (R187 to R190) -/

protected theorem enterChannel (i : Instr) (r : CopyReq) : Rows32 (enterChannel i r s) := by
  unfold enterChannel
  refine rows_ite (h.deliver _) (rows_ite (Rows32.waitIn (h.mapSame) _ _ _) ?_)
  rw [enqueue_eq]
  exact Rows32.mapCx (h.mapSame) fun hx => (fits_retire _).2 ((fits_enqueued _ _).2 hx)

protected theorem execXcopy (d a b : BitVec 5) (c : BitVec 2) (n : BitVec 1) (l : BitVec 5) :
    Answers Rows32 (execXcopy d a b c n l s) := by
  unfold execXcopy; dsimp only
  split
  · exact h.takeTrap _
  · split
    · exact h.takeTrap _
    · exact answers_ite (h.takeTrap _) (Rows32.enterChannel (h.forceCommit.mapSame) _ _)

protected theorem execXcopyEnqueue (c : Nat) : Answers Rows32 (execXcopyEnqueue c s) := by
  unfold execXcopyEnqueue
  refine answers_ite trivial (answers_ite h ?_)
  split
  · refine answers_ite (h.within (fun t ht => ht.takeTrap _) c) (answers_ite h (h.within (fun t ht => ?_) c))
    exact Rows32.enterChannel (ht.mapSame) _ _
  · exact h

protected theorem waitId (i : Instr) (k : Nat) (id : BitVec 32) : Rows32 (waitId i k id s) := by
  unfold waitId
  have ht (ch : CopyChan) : Rows32 (s.mapCx (·.setChan k ch)) := h.mapSame
  exact rows_ite (h.deliver k) (rows_ite ((ht _).mapCx fun hx => (fits_retire _).2 hx) (rows_ite ((ht _).takeTrap _) ((ht _).waitIn _ _ _)))

protected theorem execXwaitRetire (c : Nat) : Answers Rows32 (execXwaitRetire c s) := by
  unfold execXwaitRetire
  refine answers_ite trivial (answers_ite h ?_)
  split
  · refine answers_ite h (answers_ite (h.within (fun t ht => Rows32.deliver (ht.mapSame) _) c) ?_)
    refine answers_ite (h.within (fun t ht => ht.retireWith (f := ({ · with early := [] })) (Fits.same · rfl rfl)) c) ?_
    exact answers_ite (h.within (fun t ht => ht.takeTrap _) c) h
  · exact h

protected theorem execFence (m : BitVec 13) (p : BitVec 3) : Answers Rows32 (execFence m p s) := by
  unfold execFence
  exact answers_ite h.retires (h.orderBefore (q := .plain _ (·.mapCx _)) (fun _ ht => ht.retires) _)

/-! ### Commands run (R188, R190) -/

protected theorem touchCopy (a : Acc) (es : List (Word × Word)) : Rows32 (touchCopy a es s).2 := by
  induction es generalizing s with
  | nil => exact h
  | cons e es ih =>
    unfold touchCopy; dsimp only
    refine ih ?_
    split <;> split
    · exact h
    · exact h.touch _ _ _
    · exact h.touch _ _ _
    · exact Rows32.touch (h.touch _ _ _) _ _ _

protected theorem startCommand (k : Nat) (c : CopyCmd) : Rows32 (startCommand k c s) := by
  unfold startCommand; dsimp only
  split
  · exact h.mapSame
  · exact (h.touchCopy _ _).mapSame

protected theorem copyTouch (a : Acc) (pages : List TlbEntry) (va : Word) : Rows32 (copyTouch s a pages va) := by
  unfold copyTouch; split <;> exact h

protected theorem copyWrite (ctx k : Nat) (a : Acc) (pages : List TlbEntry) (e : Word × List Byte × Bool) :
    Rows32 (copyWrite ctx k a pages s e) := by
  unfold copyWrite
  split
  · exact h
  · have ht (w : Write) : Rows32 (performAt (countWrite s (s.ctxAt ctx).launchNo w) w) := h.countWrite _ w
    exact rows_ite (ht _) (ht _)

omit h in
/-- What each step of a run over a list keeps, the run keeps. -/
protected theorem foldl {α : Type} {f : State → α → State} (hf : ∀ t a, Rows32 t → Rows32 (f t a)) (l : List α) {s : State}
    (h : Rows32 s) : Rows32 (l.foldl f s) := foldl_keeps Rows32 f hf l s h

protected theorem completeCommand (k : Nat) (c : CopyCmd) (pages : List TlbEntry) (got : Tab (List Byte × Bool))
    (put : List Nat) : Rows32 (completeCommand k c pages got put s) := by
  unfold completeCommand
  refine Rows32.mapCx (Rows32.foldl (fun t e ht => ht.copyWrite _ _ _ _ e) _ ?_) fun hx => (fits_advance _ _).2 hx
  exact Rows32.foldl (fun t e ht => rows_ite ht (ht.copyTouch _ _ _)) _ h

protected theorem execCopyCommandStart (ctx chan : Nat) (id : BitVec 32) :
    Answers Rows32 (execCopyCommandStart ctx chan id s) := by
  unfold execCopyCommandStart
  refine answers_ite trivial ?_
  dsimp only
  split
  · exact answers_ite (h.within (fun t ht => ht.startCommand _ _) ctx) h
  · exact h

protected theorem execCopyCommandComplete (ctx chan : Nat) (id : BitVec 32) :
    Answers Rows32 (execCopyCommandComplete ctx chan id s) := by
  unfold execCopyCommandComplete
  refine answers_ite trivial ?_
  split
  · split
    · exact answers_ite (h.within (fun t ht => ht.completeCommand _ _ _ _ _) ctx) h
    · exact h
  · exact h

protected theorem copyElement (k : Nat) (id : BitVec 32) (m : Nat) : Rows32 (copyElement k id m s) := by
  unfold copyElement; dsimp only
  split
  · exact h
  · split
    · split
      · split
        · exact h
        · exact (h.copyTouch _ _ _).mapSame
      · exact rows_ite ((h.copyWrite _ _ _ _ _).mapSame) h
    · exact h

protected theorem execVcappThresholdNotify (c n : Nat) : Answers Rows32 (execVcappThresholdNotify c n s) := by
  unfold execVcappThresholdNotify
  refine answers_ite trivial ?_
  dsimp only
  split
  · exact h
  · have ht (as : List Append) : Rows32 (s.setCtx c { s.ctxAt c with appends := as }) := h.setSame c
    exact answers_ite h ((ht _).setSame _)

/-! ### Grants (R206) -/

protected theorem serve (r : GrantReq) : Rows32 (serve s r).2 := by
  have hr {t : State} (ht : Rows32 t) (ok : Bool) : Rows32 (t.reply r ok) := by
    unfold State.reply; split <;> exact ht
  unfold serve; dsimp only
  split
  · exact h
  · exact hr h _
  · exact hr (h.setSame r.dst) _

protected theorem serveAll (rs : List GrantReq) : Rows32 (serveAll rs s).2 := by
  induction rs generalizing s with
  | nil => exact h
  | cons r rs ih => exact ih (h.serve r)

protected theorem serveWaiting : Rows32 (serveWaiting s) := h.serveAll s.fab.waiting

protected theorem returnGrant (r : GrantReq) : Rows32 (returnGrant s r) := by
  unfold returnGrant
  exact rows_ite (h.setSame r.dst) (rows_ite h h)

protected theorem withdrawAll (mine : GrantReq → Bool) : Rows32 (withdrawAll mine s) := by
  refine Rows32.serveWaiting (Rows32.foldl (fun t e ht => ht.returnGrant e.1) _ ?_)
  exact h

protected theorem withdraw (c : Nat) : Rows32 (withdraw c s) := h.withdrawAll _

protected theorem dropReturned (c : Nat) : Rows32 (dropReturned c s) := by
  unfold dropReturned
  refine Rows32.foldl (fun t r ht => ?_) _ h
  exact rows_ite (ht.setSame c) ht

protected theorem consumeSlot (v : BitVec 5) (t : Nat) (m : Message) : Rows32 (consumeSlot v t m s) :=
  Rows32.serveWaiting ((h.allocate _).retireWith fun hx => (fits_setSlot _ _ _).2 (fits_receive hx _ _))

/-! ### Messages and user interrupts (R192 to R195 engines, R204 to R208) -/

protected theorem execSend (v a : BitVec 5) (t : BitVec 2) : Answers Rows32 (execSend v a t s) := by
  unfold execSend; dsimp only
  split
  · exact h.takeTrap _
  · refine answers_ite (h.takeTrap _) (answers_ite (h.takeTrap _) ?_)
    have ht : Rows32 ((forceCommit s).mapCx (·.capture [v.toNat])) := h.forceCommit.mapSame
    exact Rows32.waitIn (s := { (forceCommit s).mapCx (·.capture [v.toNat]) with fab := _ }) ht _ _ _

protected theorem execGrantRequest (n : Nat) : Answers Rows32 (execGrantRequest n s) := by
  unfold execGrantRequest
  split
  · exact h
  · exact answers_ite h (Rows32.serveWaiting (s := { s with fab := _ }) h)

protected theorem sendMessage (v a : BitVec 5) (t : BitVec 2) : Rows32 (sendMessage v a t s) :=
  Rows32.retires (s := { s with fab := _ }) h

protected theorem execGrantReply (c : Nat) (granted : Bool) : Answers Rows32 (execGrantReply c granted s) := by
  unfold execGrantReply
  refine answers_ite trivial (answers_ite h ?_)
  split
  · refine answers_ite (h.within (fun t ht => (ht.withdraw c).takeTrap _) c) ?_
    split
    · refine answers_ite h ?_
      show Rows32 (State.within _ c _)
      refine Rows32.within (by exact h) (fun t ht => ?_) c
      exact rows_ite (ht.sendMessage _ _ _) (ht.takeTrap _)
    · exact h
  · exact h

protected theorem execMessageArrival (c tag : Nat) : Answers Rows32 (execMessageArrival c tag s) := by
  unfold execMessageArrival
  refine answers_ite trivial ?_
  split
  · exact h
  · exact answers_ite h (answers_ite (Rows32.setSame (s := { s with fab := _ }) h c) h)

protected theorem execRecv (v : BitVec 5) (t : BitVec 2) : Answers Rows32 (execRecv v t s) := by
  unfold execRecv; dsimp only
  split
  · exact h.takeTrap _
  · refine answers_ite (h.takeTrap _) ?_
    split
    · exact h.forceCommit.consumeSlot _ _ _
    · exact h.forceCommit.waitIn _ _ _

protected theorem execRecvSlotFull (c : Nat) : Answers Rows32 (execRecvSlotFull c s) := by
  unfold execRecvSlotFull
  refine answers_ite trivial (answers_ite h ?_)
  split
  · split
    · exact answers_ite (h.within (fun t ht => ht.consumeSlot _ _ _) c) h
    · exact answers_ite (h.within (fun t ht => ht.takeTrap _) c) h
  · exact h

protected theorem takeInterrupt (c : Nat) : Rows32 (takeInterrupt c s) :=
  h.mapCx fun hx => (fits_swapShadow _).2 (Fits.same hx rfl rfl)

protected theorem execUserInterruptTake (c : Nat) : Answers Rows32 (execUserInterruptTake c s) := by
  unfold execUserInterruptTake
  refine answers_ite trivial ?_
  split
  · exact h
  · exact answers_ite (h.within (fun t ht => (ht.withdraw c).takeInterrupt _) c) h

protected theorem execUiret : Answers Rows32 (execUiret s) := by
  unfold execUiret
  exact answers_ite (h.takeTrap _) (h.mapCx fun hx => Fits.same ((fits_goto _ s.cx.ui.epc).2 ((fits_swapShadow _).2 hx)) rfl rfl)

/-! ### Code maintenance and WAIT (R267, R268, R388) -/

protected theorem waitLines (i : Instr) (lines : List Nat) : Rows32 (waitLines i lines s) := by
  unfold waitLines
  exact rows_ite (Rows32.retires (s := cleanLines s lines) h) (rows_ite (h.takeTrap _) (h.waitIn _ _ _))

protected theorem execDcwb (r : BitVec 5) (n : BitVec 12) : Answers Rows32 (execDcwb r n s) := by
  unfold execDcwb
  split
  · exact h.takeTrap _
  · exact h.forceCommit.waitLines _ _

protected theorem execDcwbComplete (c : Nat) : Answers Rows32 (execDcwbComplete c s) := by
  unfold execDcwbComplete
  refine answers_ite trivial ?_
  split
  · exact answers_ite (h.within (fun t ht => ht.waitLines _ _) c) h
  · exact h

protected theorem execIinv (r : BitVec 5) (n : BitVec 12) : Answers Rows32 (execIinv r n s) := by
  unfold execIinv
  exact answers_ite (h.takeTrap _) (h.waitIn _ _ _)

protected theorem execIinvComplete (c : Nat) : Answers Rows32 (execIinvComplete c s) := by
  unfold execIinvComplete
  refine answers_ite trivial ?_
  split
  · refine answers_ite h (answers_ite (h.within (fun t ht => ht.takeTrap _) c) (h.within (fun t ht => ?_) c))
    exact Rows32.retires (s := dropCode t _) ht
  · exact h

protected theorem execWait : Answers Rows32 (execWait s) :=
  answers_ite (h.retireWith fun hx => Fits.same hx rfl rfl) (Rows32.waitIn (h.mapSame) _ _ _)

protected theorem execWaitWake (c : Nat) : Answers Rows32 (execWaitWake c s) := by
  unfold execWaitWake
  refine answers_ite trivial (answers_ite h ?_)
  split
  · exact answers_ite (h.within (fun t ht => ht.retires) c) h
  · exact h

/-! ### Strip boundaries, VSHAPE and VREL (R76 to R78) -/

protected theorem boundary (b : Bool) : Rows32 (boundary b s) := by
  have ht : Rows32 (if b then commitAccumulators s s.cur else s) := rows_ite (h.commitAccumulators s.cur) h
  unfold boundary
  exact Rows32.mapCx (s := State.setTile _ _ _) ht fun hx => ⟨hx.1, hx.1⟩

protected theorem retireBoundary {f : Context → Context} (hf : Fits s.cx → Fits (f s.cx)) : Rows32 (retireBoundary f s) :=
  h.mapCx fun hx =>
    have hy := ((fits_retire _).2 (hf hx)).1
    ⟨hy, hy⟩

/-- At a strip boundary the shapes are as the instruction leaves them (R78). -/
protected theorem atBoundary (b : Bool) {k : State → State} (hk : ∀ t, Rows32 t → Rows32 (k t)) :
    Rows32 (atBoundary b k s) := by
  unfold atBoundary
  exact rows_ite (Rows32.mapCx (h.boundary b).forceCommit fun hx => Fits.same hx rfl rfl) (hk _ (h.boundary b))

protected theorem lowerCap (c short : Nat) : Rows32 (lowerCap s c short) := by
  unfold lowerCap
  exact rows_ite (h.setSame _) h

protected theorem restoreCap (c : Nat) : Rows32 (restoreCap s c) := by
  unfold restoreCap
  exact rows_ite (h.setSame _) h

protected theorem tellWait (c short : Nat) : Rows32 (tellWait s c short) := by
  unfold tellWait
  exact rows_ite h (h.lowerCap _ _)

protected theorem tellRel (c : Nat) : Rows32 (tellRel s c) := by
  unfold tellRel
  exact rows_ite h (h.restoreCap _)

protected theorem takeLanes (i : Instr) (r : ShapeReq) {want : Nat} (hw : want ≤ 32) : Rows32 (takeLanes i r want s) := by
  by_cases hl : heldLanes s want = 0
  · rw [takeLanes_waits hl]
    exact (h.waitIn _ _ _).tellWait _ _
  · rw [takeLanes_grants hl]
    exact h.retireBoundary fun hx => hx.grantOf r _ hw

protected theorem grantShape (i : Instr) (r : ShapeReq) : Rows32 (grantShape i r s) := by
  unfold grantShape
  extract_lets t
  have ht : Rows32 t := h.mapCx (fits_releaseTo _ _).2
  refine rows_ite (ht.retireBoundary fun hx => hx.granted r (Nat.zero_le _) _ _) (ht.takeLanes i r ?_)
  exact (min_le_right _ _).trans (min_le_left _ _)

protected theorem execVshape (d a b e : BitVec 5) (g : BitVec 2) (t x : BitVec 1) :
    Answers Rows32 (execVshape d a b e g t x s) := h.atBoundary true fun _ ht => ht.grantShape _ _

protected theorem execVrel : Answers Rows32 (execVrel s) :=
  h.atBoundary true fun t ht => (ht.tellRel t.cur).retireBoundary fun hx =>
    ⟨Nat.zero_le _, ((fits_releaseTo _ 0).2 hx).2⟩

end
end Rows32

end Sys2Proof.Spec
end

section
/-! SUPPORT. Vector words, vector memory and the matrix unit keep shapes of at most 32 rows (R73, R76). -/

namespace Sys2Proof.Spec

set_option Elab.async false

open Sys2Proof.Machine

/-! ### Destinations (R93, R110, R111) -/

theorem fits_tailRows {x : Context} (h : Fits x) (vd : Nat) : Fits (x.tailRows vd) := by
  unfold Context.tailRows
  split
  · exact fits_foldl (fun y k hy => fits_setVrows (fun _ => vd + k) id (fun _ => 0) _ hy) _ h
  · exact h

theorem Fits.withFp {x : Context} (h : Fits x) (fp : FpRegs) : Fits { x with fp := fp } := h

theorem Fits.orFlags {x : Context} (h : Fits x) (fl : Flags) : Fits (x.orFlags fl) := h

theorem fits_elementwise {σ : Type} {x : Context} (h : Fits x) (d : Dest) (f : σ → Nat → Nat → Nat → Nat × σ) (st : σ) :
    Fits (x.elementwise d f st).1 := by
  unfold Context.elementwise
  split
  · exact h
  · extract_lets out y
    have hy : Fits y := 
      fits_setVrows (fun e : Nat × Nat => d.vd + e.1 / x.vrows) (fun e => e.1 % x.vrows) (fun e => e.2) out.1 h
    show Fits (if _ then _ else _)
    split
    · exact fits_tailRows hy _
    · exact hy

theorem fits_maskwise {σ : Type} {x : Context} (h : Fits x) (vd : Nat) (m q : Bool) (start : Nat)
    (f : σ → Nat → Nat → Nat → Bool × σ) (st : σ) : Fits (x.maskwise vd m q start f st).1 := by
  unfold Context.maskwise
  split
  · exact h
  · extract_lets old out
    generalize List.range 32 = rows
    exact fits_setVrows (fun _ => vd) id (fun row => out.1 / 2 ^ (2048 * row) % 2 ^ 2048) rows h

theorem fits_putScales {x : Context} (h : Fits x) (vd : Nat) (vals : List Nat) : Fits (x.putScales vd vals) := by
  unfold Context.putScales
  split
  · exact h
  · refine fits_foldl (fun y b hy => ?_) _ h
    split
    · exact hy
    · split <;> exact hy

theorem fits_putElem (x : Context) (base n v : Nat) : Fits (x.putElem base n v) ↔ Fits x := fits_setVrow x _ _ _

theorem fits_putResults {x : Context} (h : Fits x) (vd : Nat) (vals : List Nat) : Fits (x.putResults vd vals) :=
  fits_tailRows (fits_setVrows _ _ _ _ h) vd

namespace Rows32

section
variable {s : State} (h : Rows32 s)
include h

protected theorem checkerDraw (n : Nat) : Rows32 (checkerDraw s n) := by
  unfold checkerDraw; split <;> exact h

protected theorem writeUpTo (start stop w : Nat) (vd : BitVec 5) (m q : BitVec 1) (rounds : Bool)
    (f : Context → Nat → Nat → Nat → Nat → Nat × Flags) : Rows32 (writeUpTo start stop w vd m q rounds f s) := by
  have ha := h.allocate (s.cx.groupRegs vd.toNat)
  unfold writeUpTo
  extract_lets t x d out
  have hx : Fits out.1 := fits_elementwise (ha t.cur) d _ _
  exact Rows32.setCtx ha t.cur (hx.withFp (x.fp.after out.2))

protected theorem writeElements (start w : Nat) (vd : BitVec 5) (m q : BitVec 1) (rounds : Bool)
    (f : Context → Nat → Nat → Nat → Nat → Nat × Flags) : Rows32 (writeElements start w vd m q rounds f s) :=
  h.writeUpTo _ _ _ _ _ _ _ _

protected theorem elementwiseOp (vd : BitVec 5) (m q : BitVec 1) (rounds : Bool)
    (f : Context → Nat → Nat → Nat → Nat → Nat × Flags) : Rows32 (elementwiseOp vd m q rounds f s) := by
  unfold elementwiseOp
  exact rows_ite h.retiresMember ((h.writeElements _ _ _ _ _ _ _).checkerDraw _).retiresMember

protected theorem maskOp (vd : BitVec 5) (m q : BitVec 1) (f : Context → Nat → Nat → Bool × Flags) :
    Rows32 (maskOp vd m q f s) := by
  have ha := h.allocate [vd.toNat]
  unfold maskOp
  extract_lets start t x out
  exact rows_ite h.retiresMember
    (ha.setCtx _ ((fits_retireMember _).2 (Fits.orFlags (fits_maskwise (ha _) _ _ _ _ _ _) _)))

protected theorem copyScales (a d : BitVec 5) (x : Context) : Rows32 (copyScales a d x s) := by
  unfold copyScales
  exact rows_ite (h.mapCx fun hy => fits_putScales hy _ _) h

protected theorem reduceAct (whole : Bool) (d a : BitVec 5) (m : BitVec 1) (o : BitVec 3) :
    Rows32 (reduceAct whole d a m o s) := by
  have ha := h.allocate (s.cx.groupRegs d.toNat)
  unfold reduceAct
  extract_lets t x fn rows v w out u
  have hu : Rows32 u := ha.setCtx _ (Fits.withFp (fits_putResults (ha _) _ _) _)
  exact rows_ite h.retiresMember (hu.checkerDraw _).retiresMember

protected theorem scanAct (d a : BitVec 5) (m q : BitVec 1) (o : BitVec 3) : Rows32 (scanAct d a m q o s) := by
  unfold scanAct
  exact rows_ite h.retiresMember
    (Rows32.retiresMember (Rows32.checkerDraw (Rows32.mapSame (h.writeElements _ _ _ _ _ _ _)) _))

protected theorem moveAct (start : Nat) (d : BitVec 5) (m q : BitVec 1) (f : Context → Nat → Nat → Nat → Nat)
    {after : State → State} (ha : ∀ t, Rows32 t → Rows32 (after t)) : Rows32 (moveAct start d m q f after s) := by
  unfold moveAct
  exact rows_ite h.retiresMember (Rows32.retiresMember (ha _ (h.writeElements _ _ _ _ _ _ _)))

protected theorem convAct (d : BitVec 5) (m q : BitVec 1) (t : BitVec 5) (rounds : Bool)
    (f : Context → Nat → Nat → Nat → Nat → Nat × Flags) {after : State → State} (ha : ∀ t, Rows32 t → Rows32 (after t)) :
    Rows32 (convAct d m q t rounds f after s) := by
  unfold convAct
  exact rows_ite h.retiresMember
    (Rows32.retiresMember (Rows32.checkerDraw (ha _ (h.writeElements _ _ _ _ _ _ _)) _))

/-! ### The matrix unit -/

protected theorem setMyTile (t : Tile) : Rows32 (s.setMyTile t) := h

protected theorem multiply (d f : Nat) (n : BitVec 2) (free : Nat) : Rows32 (multiply d f n free s) := by
  unfold multiply
  exact Rows32.retiresMember (Rows32.checkerDraw (Rows32.mapSame (h.setMyTile _)) _)

protected theorem mldbAct (a b : BitVec 5) : Rows32 (mldbAct a b s) := by
  unfold mldbAct
  exact Rows32.retiresMember (Rows32.setMyTile (rows_ite h.forceCommit h) _)

protected theorem mdrainAct (d b : BitVec 5) (n : BitVec 2) : Rows32 (mdrainAct d b n s) := by
  unfold mdrainAct
  exact rows_ite h.retiresMember (h.writeElements _ _ _ _ _ _ _).retiresMember

/-! ### Elements read and held (R373, R383) -/

protected theorem retireAll (stop : Nat) : Rows32 (retireAll stop s) := by
  unfold retireAll
  exact rows_ite h.retiresMember h

protected theorem readElem (g : Nat) (half : Tab Nat) (e : VElem) (p : Place) : Rows32 (readElem g half s e p).2.2 := by
  unfold readElem; dsimp only
  split
  · exact h
  · split
    · split
      · exact h
      · exact h.dropBytes _ _ _
    · exact h.dropBytes _ _ _

protected theorem readFrom (g : Nat) (es : List (VElem × Place)) (half : Tab Nat) : Rows32 (readFrom g es half s).2 := by
  induction es generalizing half s with
  | nil => exact h
  | cons e es ih => exact ih (h.readElem _ _ _ _) _

protected theorem dropAll (g n : Nat) (ps : List Place) : Rows32 (s.dropAll g n ps) :=
  Rows32.foldl (fun t p ht => ht.dropEarly t.cur g p.loc n) ps h

protected theorem loadElems (start : Nat) (d : BitVec 5) (m q : BitVec 1) (g stop : Nat) (es : List (VElem × Place))
    (sc : List (Word × Place)) : Rows32 (loadElems start d m q g stop es sc s) := by
  unfold loadElems
  extract_lets r b u t v
  have hu : Rows32 u := (Rows32.dropAll (h.readFrom _ _ _) _ _ _).dropAll _ _ _
  have ht : Rows32 t := rows_ite (hu.allocate _) (hu.writeUpTo _ _ _ _ _ _ _ _)
  have hv : Rows32 v := rows_ite (ht.mapCx fun hx => fits_putScales hx _ _) ht
  exact hv.retireAll _

protected theorem holdElems (d : BitVec 5) (g stop : Nat) (es : List (VElem × Place)) (sc : List (Word × Place))
    (free : Nat) : Rows32 (holdElems d g stop es sc free s) := by
  unfold holdElems
  exact Rows32.retireAll (Rows32.foldl (fun t w ht => ht.holdWrite w) _ (rows_ite h.forceCommit h)) _

protected theorem storeElems (i : Instr) (d : BitVec 5) (g stop : Nat) (es : List (VElem × Place))
    (sc : List (Word × Place)) : Rows32 (storeElems i d g stop es sc s) :=
  h.consumeScales _ _ fun _ _ ht => ht.holdElems _ _ _ _ _ _

protected theorem amoElem (op : VAmo) (d : BitVec 5) (g : Nat) (e : VElem) (p : Place) :
    Rows32 (amoElem op d g e p s).2 := by
  have hd : Rows32 (if s.poisoned p.loc then s.draw.2 else s) := rows_ite h h
  unfold amoElem; dsimp only
  generalize (if s.poisoned p.loc then s.draw.2 else s) = t at *
  split
  · exact hd
  · exact hd.performWrite _ _

protected theorem amoElems (op : VAmo) (d : BitVec 5) (g : Nat) (es : List (VElem × Place)) :
    Rows32 (amoElems op d g es s).2 := by
  induction es generalizing s with
  | nil => exact h
  | cons e es ih => exact ih (h.amoElem op d g e.1 e.2)

protected theorem amoAct (op : VAmo) (start : Nat) (d : BitVec 5) (m q : BitVec 1) (g stop : Nat)
    (es : List (VElem × Place)) (sc : List (Word × Place)) : Rows32 (amoAct op start d m q g stop es sc s) := by
  unfold amoAct
  exact Rows32.retireAll (Rows32.writeUpTo (h.amoElems _ _ _ _) _ _ _ _ _ _ _ _) _

/-! ### Vector memory (R164 to R169, R218) -/

protected theorem vectorWord (check : Option Trap) {act : State → State} (ha : Rows32 (act s)) :
    Answers Rows32 (vectorWord check act s) := by
  unfold vectorWord
  split
  · exact h.takeTrap _
  · exact ha

protected theorem translateAll (k : AccKind) (vas : List Word) : Rows32 (translateAll k vas s).2 := by
  induction vas generalizing s with
  | nil => exact h
  | cons va vas ih =>
    unfold translateAll; dsimp only
    refine ih ?_
    split
    · exact h.touch _ _ _
    · exact h

protected theorem translate (k : VMem) (ak : AccKind) (es : List VElem) : Rows32 (k.translate ak es s).after :=
  h.translateAll _ _

protected theorem memFault (i : Instr) (k : VMem) (cause : Nat) (tval : Word) (elem : Nat) (rcd : List Byte) :
    Rows32 (memFault s i k cause tval elem rcd) := h.raiseQueued _ _ _ _ _ _

protected theorem goOnPoisoned (met : Bool) : Rows32 (goOnPoisoned met s) := by
  unfold goOnPoisoned
  exact rows_ite (h.tellMill _) h

end
end Rows32

/-- A vector memory member whose parts keep the shapes. -/
structure KeepsRows (v : VAct) : Prop where
  prep : ∀ t, Rows32 t → Rows32 (v.prep t)
  act : ∀ stop es sc t, Rows32 t → Rows32 (v.act stop es sc t)

theorem keepsRows_loadAct (start : Nat) (d : BitVec 5) (m q : BitVec 1) (g : Nat) : KeepsRows (loadAct start d m q g) :=
  ⟨fun _ ht => ht, fun stop es sc _ ht => ht.loadElems start d m q g stop es sc⟩

theorem keepsRows_storeAct (i : Instr) (d : BitVec 5) (g : Nat) : KeepsRows (storeAct i d g) :=
  ⟨fun _ ht => ht, fun stop es sc _ ht => ht.storeElems i d g stop es sc⟩

theorem keepsRows_vamoAct (op : VAmo) (start : Nat) (d : BitVec 5) (m q : BitVec 1) (g : Nat) :
    KeepsRows (vamoAct op start d m q g) := by
  unfold vamoAct
  constructor <;> dsimp only
  · exact fun _ ht => ht.forceCommit
  · exact fun stop es sc _ ht => ht.amoAct op start d m q g stop es sc

namespace KeepsRows

section
variable {v : VAct} (hv : KeepsRows v) {s : State} (h : Rows32 s)
include hv h

protected theorem perform (stop : Nat) (es : List (VElem × Place)) : Rows32 (v.perform stop es s) :=
  hv.act _ _ _ _ (h.goOnPoisoned _)

protected theorem indexed (i : Instr) (k : VMem) (kind : Nat) {t : Translated} (ht : Rows32 t.after) :
    Rows32 (v.indexed i k kind t s) := by
  have hu := hv.prep _ ht
  unfold VAct.indexed
  refine rows_ite (hv.prep _ h) ?_
  split
  · exact (hv.perform hu _ _).mapSame
  · dsimp only
    split
    · exact (hv.perform hu _ _).unpinnableAt _ _ _ _ _
    · exact (hv.perform hu _ _).memFault _ _ _ _ _ _
    · exact hv.perform hu _ _

protected theorem whole (i : Instr) (k : VMem) {t : Translated} (ht : Rows32 t.after) : Rows32 (v.whole i k t s) := by
  unfold VAct.whole; dsimp only
  split
  · exact ht.memFault _ _ _ _ _ _
  · exact rows_ite (ht.unpinnableAt _ _ _ _ _) (rows_ite h (hv.act _ _ _ _ (ht.goOnPoisoned _)))

/-- What a vector memory word does once its issue checks have passed. -/
protected theorem vmemAct (mode : VMode) (ak : AccKind) (kind : Nat) (i : Instr) (a b : BitVec 5) (m : BitVec 1) :
    Rows32 (vmemAct mode ak kind i a b m v s) := by
  unfold Machine.vmemAct
  refine rows_ite h.retiresMember ?_
  dsimp only
  split
  · exact h.memFault _ _ _ _ _ _
  · have hc : Rows32 (if mode = .index then s.mapCx fun x => x.capture (x.groupRegs b.toNat) else s) :=
      rows_ite h.mapSame h
    exact rows_ite (hv.indexed hc _ _ _ (hc.translate _ _ _)) (hv.whole hc _ _ (hc.translate _ _ _))

end
end KeepsRows

namespace Rows32

section
variable {s : State} (h : Rows32 s)
include h

/-! ### VCAPP (R42 to R44, R375) -/

protected theorem touchQueue (g : Nat) (va : Word) : Rows32 (touchQueue g va s) := by
  unfold touchQueue
  split
  · exact h
  · split
    · exact h
    · exact Rows32.dropEarly (h.touch _ _ _) _ _ _ _

protected theorem append (k : Queue) (v : Option (BitVec 5)) (g : Nat) (p : Place) (ps : List (Nat × Nat × Nat)) :
    Rows32 (append k v g p ps s) := by
  unfold append
  refine rows_ite (h.mapCx fun hx => (fits_retireMember _).2 (Fits.same hx rfl rfl)) ?_
  refine Rows32.mapCx (Rows32.foldl (fun t w ht => ht.postWrite w) _ (h.performWrite _ _)) fun hx => ?_
  exact (fits_retireMember _).2 (Fits.same hx rfl rfl)

protected theorem appendActive (k : Queue) (v : Option (BitVec 5)) (g : Nat) (p : Place) (ps : List (Nat × Nat × Nat)) :
    Rows32 (appendActive k v g p ps s) := by
  have hf := h.forceCommit
  unfold appendActive
  refine rows_ite h.retiresMember (rows_ite (rows_ite (Rows32.append ?_ _ _ _ _ _) (hf.append _ _ _ _ _)) hf)
  exact hf.goOnPoisoned true

protected theorem cappAct (i : Instr) (v : Option (BitVec 5)) (a : BitVec 5) (m : BitVec 1) (g : BitVec 3) :
    Rows32 (cappAct i v a m g s) := by
  unfold cappAct
  refine rows_ite (h.memFault _ _ _ _ _ _) (rows_ite h ?_)
  dsimp only
  split
  · exact h.memFault _ _ _ _ _ _
  · have hq := h.touchQueue g.toNat (s.cx.src a)
    refine rows_ite (hq.unpinnableAt _ _ _ _ _) (rows_ite (hq.memFault _ _ _ _ _ _) ?_)
    have ht (vas was : List Word) := (hq.translateAll .atomic vas).translateAll .store was
    split
    · exact (ht _ _).memFault _ _ _ _ _ _
    · exact (ht _ _).appendActive _ _ _ _ _

/-! ### Vector words -/

protected theorem vecArith (fn : VFn) (i : Instr) (d a : BitVec 5) (k : Second) (m q : BitVec 1) :
    Answers Rows32 (vecArith fn i d a k m q s) := h.vectorWord _ (h.elementwiseOp _ _ _ _ _)

protected theorem vecCompare (i : Instr) (d a : BitVec 5) (k : Second) (m q : BitVec 1) (r : BitVec 3) :
    Answers Rows32 (vecCompare i d a k m q r s) := h.vectorWord _ (h.maskOp _ _ _ _)

protected theorem maskLogic (op : Bool → Bool → Bool) (i : Instr) (d a b : BitVec 5) (m q : BitVec 1) :
    Answers Rows32 (maskLogic op i d a b m q s) := h.vectorWord _ (h.maskOp _ _ _ _)

protected theorem move (check : Option Trap) (start : Nat) (d : BitVec 5) (m q : BitVec 1)
    (f : Context → Nat → Nat → Nat → Nat) : Answers Rows32 (vectorWord check (moveAct start d m q f id) s) :=
  h.vectorWord _ (h.moveAct _ _ _ _ _ fun _ ht => ht)

protected theorem moveScales (check : Option Trap) (start : Nat) (d a : BitVec 5) (m q : BitVec 1) (x : Context)
    (f : Context → Nat → Nat → Nat → Nat) :
    Answers Rows32 (vectorWord check (moveAct start d m q f (copyScales a d x)) s) :=
  h.vectorWord _ (h.moveAct _ _ _ _ _ fun _ ht => ht.copyScales _ _ _)

protected theorem vecLoad (mode : VMode) (i : Instr) (d a b : BitVec 5) (m q : BitVec 1) (g : BitVec 3)
    (check : Option Trap) : Answers Rows32 (vecLoad mode i d a b m q g check s) :=
  h.vectorWord _ ((keepsRows_loadAct _ _ _ _ _).vmemAct h _ _ _ _ _ _ _)

protected theorem vecStore (mode : VMode) (i : Instr) (d a b : BitVec 5) (m : BitVec 1) (g : BitVec 3)
    (check : Option Trap) : Answers Rows32 (vecStore mode i d a b m g check s) :=
  h.vectorWord _ ((keepsRows_storeAct _ _ _).vmemAct h _ _ _ _ _ _ _)

protected theorem vecAmo (op : VAmo) (i : Instr) (d a b : BitVec 5) (m q : BitVec 1) (g : BitVec 3) :
    Answers Rows32 (vecAmo op i d a b m q g s) :=
  h.vectorWord _ ((keepsRows_vamoAct _ _ _ _ _ _).vmemAct h _ _ _ _ _ _ _)

protected theorem maskToReg (f : List (Nat × Nat × Nat) → Word) (i : Instr) (d a : BitVec 5) (m : BitVec 1) :
    Answers Rows32 (maskToReg f i d a m s) :=
  h.vectorWord _ (h.mapCx fun hx => (fits_retireMember _).2 ((fits_setReg _ _ _).2 hx))

protected theorem maskToCond (f : Nat → Nat → Bool) (i : Instr) (c : BitVec 3) (a : BitVec 5) (m : BitVec 1) :
    Answers Rows32 (maskToCond f i c a m s) :=
  h.vectorWord _ (h.mapCx fun hx => (fits_retireMember _).2 ((fits_setCond _ _ _).2 hx))

protected theorem execVext (k : BitVec 1) (d a b : BitVec 5) : Answers Rows32 (execVext k d a b s) :=
  h.vectorWord _ (h.mapCx fun hx => (fits_retireMember _).2 ((fits_setReg _ _ _).2 hx))

protected theorem execVins (k : BitVec 1) (d a b : BitVec 5) : Answers Rows32 (execVins k d a b s) :=
  h.vectorWord _ ((h.allocate _).mapCx fun hx => (fits_retireMember _).2 ((fits_putElem _ _ _ _).2 hx))

protected theorem execVcvt (k : BitVec 1) (d a : BitVec 5) (m q : BitVec 1) (t : BitVec 5) :
    Answers Rows32 (execVcvt k d a m q t s) := h.vectorWord _ (h.convAct _ _ _ _ _ _ fun _ ht => ht)

protected theorem execVbq (k : BitVec 1) (d a : BitVec 5) (m q : BitVec 1) (t : BitVec 5) :
    Answers Rows32 (execVbq k d a m q t s) :=
  h.vectorWord _ (h.convAct _ _ _ _ _ _ fun _ ht => ht.mapCx fun hx => Fits.same (fits_putScales hx _ _) rfl rfl)

protected theorem execVbdq (k : BitVec 1) (d a : BitVec 5) (m q : BitVec 1) (t : BitVec 5) :
    Answers Rows32 (execVbdq k d a m q t s) :=
  h.vectorWord _ (h.consumeScales _ _ fun _ _ hu => hu.convAct _ _ _ _ _ _ fun _ ht => ht)

/-! ### Words of the matrix unit -/

protected theorem execMatt (d : BitVec 5) (c : BitVec 3) : Answers Rows32 (execMatt d c s) := by
  unfold execMatt
  refine answers_ite (h.takeTrap _) (h.atBoundary true fun t ht => ?_)
  exact Rows32.retireBoundary (ht.setMyTile _) fun hx => Fits.same ((fits_setReg _ d _).2 hx) rfl rfl

protected theorem execMdet : Answers Rows32 (execMdet s) :=
  h.atBoundary false fun _ ht => Rows32.retireBoundary (ht.setMyTile _) fun hx => Fits.same hx rfl rfl

protected theorem execMclaim (d : BitVec 5) : Answers Rows32 (execMclaim d s) := by
  unfold execMclaim
  split
  · exact h.retireWith (fits_setReg _ _ _).2
  · exact Rows32.retireWith (h.setMyTile _) fun hx => Fits.same ((fits_setReg _ d _).2 hx) rfl rfl

protected theorem execMrel (a : BitVec 5) : Answers Rows32 (execMrel a s) := by
  unfold execMrel
  exact answers_ite (h.takeTrap _) (h.setMyTile _).retires

protected theorem execMma (k : BitVec 1) (d a : BitVec 5) (n : BitVec 2) : Answers Rows32 (execMma k d a n s) := by
  refine h.vectorWord _ ?_
  unfold mmaAct
  exact rows_ite h.retiresMember (h.consumeScales _ _ fun _ _ ht => ht.multiply _ _ _ _)

protected theorem execMzero (k : BitVec 1) (n : BitVec 2) : Answers Rows32 (execMzero k n s) := by
  unfold execMzero
  exact h.vectorWord _ (h.setMyTile _).retiresMember

end
end Rows32

end Sys2Proof.Spec
end

section
/-! SUPPORT. Fetching, cocoons, tasks and the system words keep shapes of at most 32 rows (R73, R76, R238). -/

namespace Sys2Proof.Spec

set_option Elab.async false

open Sys2Proof.Machine

/-! ### What a cocoon reinstates (R230 to R232, R238) -/

theorem fits_loadHeader {x : Context} (h : Fits x) (b : List Byte) : Fits (x.loadHeader b) :=
  ⟨min_le_right _ _, h.2⟩

theorem fits_loadScalars {x : Context} (h : Fits x) (b : List Byte) : Fits (x.loadScalars b) := by
  unfold Context.loadScalars
  exact Fits.same h rfl rfl

theorem fits_loadState {x : Context} (h : Fits x) (b : List Byte) : Fits (x.loadState b) := by
  unfold Context.loadState
  extract_lets w mask y z
  have hy : Fits y := fits_foldl (fun u e hu => (fits_writeShape u e.2 (w e.1)).2 hu) _ h
  have hz : Fits z := fits_foldl (fun u e hu => (fits_writeTask u e.2 (w e.1)).2 hu) _ hy
  clear_value z
  exact Fits.same hz rfl rfl

theorem fits_reinstate {x : Context} (h : Fits x) (c : Nat) (r : CocoonRead) : Fits (x.reinstate c r) := by
  unfold Context.reinstate
  extract_lets b y codes
  have hy : Fits y := fits_loadState (fits_loadScalars (fits_loadHeader h b) _) _
  clear_value y
  exact Fits.same hy rfl rfl

theorem fits_begin (x : Context) (c : Nat) (t : HeldTask) (i : StartInfo) : Fits (x.begin c t i) :=
  ⟨Nat.zero_le _, Nat.zero_le _⟩

theorem fits_noteCopies (vs : List Word) {x : Context} (h : Fits x) : Fits (vs.foldl (fun y v => y.raise 0x01 v) x) :=
  fits_foldl (f := fun y v => y.raise 0x01 v) (fun _ _ hy => Fits.same hy rfl rfl) vs h

theorem fits_undefer {x : Context} (h : Fits x) : Fits x.undefer := by
  unfold Context.undefer
  split
  · exact h
  · exact fits_noteCopies _ (Fits.same h rfl rfl)

theorem fits_taskOff {x : Context} (h : Fits x) : Fits x.taskOff := by
  unfold Context.taskOff
  exact Fits.same ((fits_releaseTo x 0).2 h) rfl rfl

theorem fits_reportSave {x : Context} (h : Fits x) (len kind : Nat) : Fits (x.reportSave len kind) := h

namespace Rows32

section
variable {s : State} (h : Rows32 s)
include h

/-! ### Code words and framing (R292, R294) -/

protected theorem keepCode (c : Nat) (p : Place) (w : BitVec 32) : Rows32 (keepCode s c p w) := by
  unfold keepCode; dsimp only
  exact rows_ite (Rows32.setCore (h.setSame c) _ _) (h.setSame c)

protected theorem memberTag (i : Instr) : Rows32 (memberTag i s) := by
  unfold memberTag; split
  · exact h
  · exact h

protected theorem beforeMembers {t : State} {a : Word} {ws : List (BitVec 32)} (e : beforeMembers s a ws = .ok t) :
    Rows32 t := by
  unfold beforeMembers at e; dsimp only at e
  repeat' split at e
  all_goals cases e
  exact h.setSame s.cur

protected theorem passChecks {t : State} {a : Word} {ws : List (BitVec 32)} (e : passChecks s a ws = .ok t) :
    Rows32 t := by
  unfold passChecks at e
  split at e
  · cases e
  · rename_i hb
    split at e <;> cases e
    exact h.beforeMembers hb

protected theorem fetchWord {va : Word} {r : State × BitVec 32} (e : fetchWord s va = .ok r) : Rows32 r.1 := by
  unfold fetchWord at e; dsimp only at e
  split at e <;> cases e
  exact (h.touch _ _ _).keepCode _ _ _

protected theorem frameFrom (a : Word) (fuel n : Nat) (ws : List (BitVec 32)) : Rows32 (frameFrom a fuel n s ws).1 := by
  induction fuel generalizing s n ws with
  | zero => exact h
  | succ fuel ih =>
    unfold frameFrom; dsimp only
    split
    · exact h
    · rename_i t w e
      have ht : Rows32 t := h.fetchWord e
      split
      · exact ht
      · split
        · exact ht
        · split
          · exact ih ht _ _
          · exact ht

protected theorem memberReads (i : Instr) : Rows32 (memberReads i s) := by
  unfold memberReads
  split
  · exact rows_ite h (h.touchQueue _ _)
  · exact rows_ite h (h.touchQueue _ _)
  · exact h

protected theorem checksRead (ws : List (BitVec 32)) : Rows32 (checksRead ws s) := by
  induction ws generalizing s with
  | nil => exact h
  | cons w ws ih =>
    unfold checksRead; dsimp only
    split
    · exact ih h
    · have hr := h.memberReads
      split
      · exact hr _
      · exact ih ((hr _).memberTag _).mapSame

protected theorem withChecks (t : State) (ws : List (BitVec 32)) : Rows32 (withChecks s t ws) :=
  Rows32.of_ctxs (s := s.mapCx fun x => { x with early := (checksRead ws t).cx.early }) h.mapSame rfl

protected theorem withReads (a : Word) (ws : List (BitVec 32)) : Rows32 (withReads s a ws) := by
  unfold withReads
  split
  · exact h
  · exact h.withChecks _ _

protected theorem fetchConvoy : Rows32 (fetchConvoy s) := by
  have hf := h.frameFrom s.cx.pc 4 0 []
  unfold fetchConvoy; dsimp only
  split <;> rename_i e <;> rw [e] at hf
  · exact hf.takeTrap _
  · refine rows_ite hf ?_
    split
    · exact (hf.withReads _ _).takeTrap _
    · rename_i e
      exact hf.passChecks e

protected theorem prefetch (c va : Nat) : Rows32 (prefetch c va s) := by
  unfold prefetch; dsimp only
  split
  · exact h
  · exact rows_ite ((h.touch _ _ _).keepCode _ _ _) h

protected theorem execConvoyFetch (c : Nat) : Answers Rows32 (execConvoyFetch c s) := by
  unfold execConvoyFetch
  exact answers_ite trivial (answers_ite (h.within (fun _ ht => ht.fetchConvoy) c) h)

/-! ### Cocoons (R229 to R239) -/

protected theorem weightChange (c w : Nat) : Rows32 (weightChange s c w) := by
  unfold weightChange
  exact rows_ite h h

protected theorem loadCocoon (c : Nat) (r : CocoonRead) (pc : Word) : Rows32 (loadCocoon s c r pc) := by
  unfold loadCocoon
  extract_lets x y st z
  have hx : Fits x := fits_reinstate (h c) c r
  clear_value x
  have hy : Fits y := Fits.same hx rfl rfl
  clear_value y
  have hz : Fits z := ⟨hy.1, hy.1⟩
  have hr : Rows32 (rebind (s.setCtx c z) c r.header) := Rows32.of_ctxs (h.setCtx c hz) rfl
  exact hr.dropReturned c

protected theorem performAt (w : Write) : Rows32 (performAt s w) := h.of_ctxs rfl

protected theorem writeAreas {t : State} {a : Acc} {key va : Nat} {areas : List (Nat × List Byte)}
    (e : writeAreas s a key va areas = .ok t) : Rows32 t := by
  unfold writeAreas at e
  split at e <;> cases e
  exact Rows32.foldl (fun t e (ht : Rows32 t) => (ht.touch a .store e.1).performAt _) _ h

protected theorem touchCocoon (a : Acc) (key va : Nat) (b : List Byte) : Rows32 (touchCocoon s a key va b) :=
  Rows32.foldl (fun _ _ hb => hb.touchBlock _ _ _ _ _) _ (h.touchBlock _ _ _ _ _)

protected theorem touchDump : Rows32 (touchDump s) := by
  unfold touchDump; dsimp only
  split
  · exact h
  · exact h.touchBlock _ _ _ _ _

/-! ### Tasks (R32, R40, R208, R362) -/

protected theorem execTaskStart (c : Nat) : Answers Rows32 (execTaskStart c s) := by
  unfold execTaskStart
  refine answers_ite trivial ?_
  dsimp only
  split
  · split
    · exact answers_ite (h.setCtx c (fits_begin _ _ _ _)).serveWaiting h
    · exact h
  · exact h

protected theorem settleTables : Rows32 (settleTables s) := by
  unfold settleTables
  split
  · exact h
  · exact rows_ite h h

protected theorem dropEntries (out : TlbEntry → Bool) : Rows32 (dropEntries s out) :=
  Rows32.settleTables (s := { s with tlb := _ }) h

protected theorem releaseAll (c : Nat) : Rows32 (releaseAll s c) := by
  have hw := h.withdraw c
  unfold releaseAll
  extract_lets t u free v w x
  have hx : Fits x := (fits_releaseTo _ 0).2 (hw c)
  exact Rows32.setCtx (s := w) hw c ⟨Nat.zero_le _, hx.2⟩

protected theorem endTask : Rows32 (endTask s) := by
  have ht := h.retires.releaseAll s.cur
  unfold endTask; dsimp only
  split
  · exact ht
  · exact ht

protected theorem tendChannels (ks : List Nat) : Rows32 (tendChannels ks s).1 := by
  induction ks generalizing s with
  | nil => exact h
  | cons k ks ih =>
    unfold tendChannels; dsimp only
    split
    · exact h.deliver k
    · exact ih (rows_ite h.mapSame h)

protected theorem waitTend : Rows32 (waitTend s) := by
  unfold waitTend
  split
  · exact h.deliver _
  · exact rows_ite h.endTask (rows_ite (h.takeTrap _) (h.waitIn _ _ _))

protected theorem execTend : Answers Rows32 (execTend s) := by
  have ht := h.forceCommit.tendChannels [0, 1, 2, 3]
  unfold execTend
  exact answers_ite (h.takeTrap _) (rows_ite ht.waitTend ht)

protected theorem execTendWaitEnd (c : Nat) : Answers Rows32 (execTendWaitEnd c s) := by
  unfold execTendWaitEnd
  refine answers_ite trivial ?_
  split
  · exact answers_ite (h.within (fun _ ht => ht.waitTend) c) h
  · exact h

protected theorem askMill (i : Instr) (a : Word) : Rows32 (askMill i a s) := by
  unfold askMill
  exact rows_ite (h.takeTrap _) (h.orderBefore (q := .plain _ (·.waitIn _ _ _)) (fun _ ht => ht.waitIn _ _ _) _)

/-! ### TRAP, ERET and TLBINV (R175, R221 to R223) -/

protected theorem freeContext : Rows32 (freeContext s) := h.mapCx fun hx => ⟨hx.1, hx.2⟩

protected theorem badDump : Rows32 (badDump s) := Rows32.doubleTrap (s := s.failLaunch _ _) h

protected theorem execEret : Answers Rows32 (execEret s) := by
  have hd := h.touchDump
  unfold execEret
  refine answers_ite (h.takeTrap _) (answers_ite h.freeContext (answers_ite (h.leaveTrap _) ?_))
  refine answers_ite (h.takeTrap _) ?_
  split
  · exact hd.leaveTrap _
  · exact hd.badDump

protected theorem execQueuedTrap (c : Nat) : Answers Rows32 (execQueuedTrap c s) := by
  unfold execQueuedTrap
  refine answers_ite trivial ?_
  split
  · exact answers_ite h (h.within (fun _ ht => ht.takeQueued _) c)
  · exact h

protected theorem execTlbinv (r : BitVec 5) (k : BitVec 2) : Answers Rows32 (execTlbinv r k s) := by
  unfold execTlbinv
  exact answers_ite (h.takeTrap _) (h.orderBefore (q := .plain _ (·.waitIn _ _ _)) (fun _ ht => ht.waitIn _ _ _) _)

protected theorem execTlbinvComplete (c : Nat) : Answers Rows32 (execTlbinvComplete c s) := by
  unfold execTlbinvComplete
  refine answers_ite trivial ?_
  split
  · refine answers_ite h (answers_ite (h.within (fun _ ht => ht.takeTrap _) c) (answers_ite h ?_))
    exact h.within (fun _ ht => (ht.dropEntries _).retires) c
  · exact h

/-! ### CSAVE and CLOAD (R237, R238) -/

protected theorem countAdjunct : Rows32 (countAdjunct s) := Rows32.mapSame (s := s.draw.2) h

protected theorem again : Rows32 s.again := h.mapSame

protected theorem saveTask {t : State} {kind va : Nat} {pc : Word} {dump : Option SavedDump}
    (e : saveTask s kind va pc dump = .ok t) : Rows32 t := by
  have hc : Rows32 (countAdjunct (s.mapCx (·.undefer))) := Rows32.countAdjunct (h.mapCx fits_undefer)
  unfold saveTask at e
  generalize countAdjunct (s.mapCx (·.undefer)) = u at e hc
  dsimp only at e
  split at e
  · cases e
  · rename_i v hv
    have hw (len kind : Nat) : Rows32 ((park v v.cur).mapCx fun y => y.taskOff.reportSave len kind) := by
      have hp : Rows32 (park v v.cur) := Rows32.of_ctxs (hc.writeAreas hv) rfl
      exact hp.mapCx fun hx => fits_reportSave (fits_taskOff hx) _ _
    cases e
    split
    · exact hw _ _
    · refine Rows32.weightChange ?_ _ _
      exact hw _ _

protected theorem saveNow (va : Word) (dump : Option SavedDump) : Rows32 (saveNow va dump s) := by
  have hf := h.forceCommit
  unfold saveNow; dsimp only
  refine rows_ite (h.takeTrap _) (rows_ite hf.again ?_)
  split
  · exact h.takeTrap _
  · rename_i e
    exact (hf.saveTask e).retires

protected theorem execCsave (r : BitVec 5) : Answers Rows32 (execCsave r s) := by
  unfold execCsave; dsimp only
  refine answers_ite (h.takeTrap _) (answers_ite (h.takeTrap _) (answers_ite (h.takeTrap _) ?_))
  split
  · exact h.takeTrap _
  · split
    · exact h.takeTrap _
    · exact answers_ite (h.takeTrap _) ((rows_ite h.touchDump h).saveNow _ _)

protected theorem placeDump {t : State} {r : CocoonRead} (e : placeDump s r = .ok t) : Rows32 t := by
  unfold placeDump at e; dsimp only at e
  split at e
  · cases e; exact h
  · split at e
    · cases e
    · rename_i hu
      cases e
      exact (h.writeAreas hu).mapSame

protected theorem adoptTask {t : State} {r : CocoonRead} {next : Word} (e : adoptTask r next s = .ok t) :
    Rows32 t := by
  have hl (r : CocoonRead) (pc : Word) : Rows32 (loadCocoon (dropSaved s r) s.cur r pc) :=
    Rows32.loadCocoon (s := dropSaved s r) h _ _ _
  unfold adoptTask at e; dsimp only at e
  split at e
  · cases e
  · rename_i hu
    cases e
    exact Rows32.serveWaiting (Rows32.weightChange (Rows32.placeDump (Rows32.mapCx (hl _ _) fun hx => hx) hu) _ _)

protected theorem loadNow (r : BitVec 5) (va : Word) (b : List Byte) : Rows32 (loadNow r va b s) := by
  unfold loadNow; dsimp only
  split
  · exact (h.touchCocoon _ _ _ _).takeTrap _
  · refine rows_ite ((h.waitIn _ _ _).tellWait _ _) ?_
    split
    · exact h.takeTrap _
    · rename_i e
      exact (h.touchCocoon _ _ _ _).adoptTask e

protected theorem loadFrom (r : BitVec 5) : Rows32 (loadFrom r s) := by
  unfold loadFrom; dsimp only
  split
  · exact h.takeTrap _
  · have hb := h.touchBlock (s.cx.saverAcc s.cur) .load (some s.cx.space.ckey.toNat) (s.cx.reg r).toNat 256
    split
    · exact hb.takeTrap _
    · exact rows_ite (hb.takeTrap _) (rows_ite (h.takeTrap _) (hb.loadNow _ _ _))

protected theorem execCload (r : BitVec 5) : Answers Rows32 (execCload r s) := by
  unfold execCload
  exact answers_ite (h.takeTrap _) (answers_ite (h.takeTrap _) (answers_ite (h.takeTrap _) (h.loadFrom r)))

protected theorem execCloadLaneGrant (c : Nat) : Answers Rows32 (execCloadLaneGrant c s) := by
  unfold execCloadLaneGrant
  refine answers_ite trivial ?_
  split
  · exact answers_ite (h.within (fun _ ht => Rows32.loadFrom ht.mapSame _) c) h
  · exact h

end
end Rows32

end Sys2Proof.Spec
end

section
/-! SUPPORT. The mill and its launches keep shapes of at most 32 rows (R73, R76). -/

namespace Sys2Proof.Spec

set_option Elab.async false

open Sys2Proof.Machine

theorem fits_raise {x : Context} (h : Fits x) (cause : Nat) (v : Word) : Fits (x.raise cause v) := Fits.same h rfl rfl

theorem Fits.settled {x y : Context} (h : Fits x) (e : SettledFrom x y) : Fits y := by
  unfold SettledFrom at e
  rw [e]
  exact Fits.same h rfl rfl

namespace Rows32

section
variable {s : State} (h : Rows32 s)
include h

/-! ### What the mill tells and hears (R46) -/

protected theorem putPort (port : Nat) (f : MsiPort → MsiPort × List Nat) : Rows32 (s.putPort port f) := h

protected theorem msix (port v : Nat) : Rows32 (s.msix port v) := h

protected theorem msixTo (m v : Nat) : Rows32 (s.msixTo m v) := by
  unfold State.msixTo
  exact rows_ite h h

protected theorem mapRec (n : Nat) (va : Word) (f : Rec → Rec) : Rows32 (s.mapRec n va f) := h

protected theorem mapLaunch (n : Nat) (f : Launch → Launch) : Rows32 (s.mapLaunch n f) := h

protected theorem failLaunch (n c : Nat) : Rows32 (s.failLaunch n c) := h

protected theorem failInCycle (n c : Nat) : Rows32 (s.failInCycle n c) := h

protected theorem millHears (p : MillPart) : Rows32 (millHears p s) := by
  unfold millHears hearMsg
  split
  · exact h
  · rename_i m _
    have hm : Rows32 { s with mill := { s.mill with links := s.mill.links.erase m } } := h
    split
    · exact hm.lowerCap _ _
    · exact hm.restoreCap _
    all_goals exact hm

protected theorem capsAfter (c : Nat) : Rows32 (capsAfter s c) := by
  have hr := h.restoreCap c
  unfold capsAfter; dsimp only
  split
  · exact rows_ite (hr.setSame _) hr
  · exact hr

protected theorem markDispatch (c : Nat) : Rows32 (markDispatch s c) := by
  unfold markDispatch; dsimp only
  split
  · exact h.setSame _
  · exact h

protected theorem settleMill : Rows32 (settleMill s) := fun c => Fits.settled (h c) (settleMill_ctxAt s c)

protected theorem keepCauses (b : State) : Rows32 (keepCauses b s) := by
  unfold keepCauses
  exact Rows32.foldl (fun t l ht => rows_ite (ht.mapLaunch _ _) ht) _ h

protected theorem giveNotice (l : Launch) (r : Rec) (c : Nat) (e : Bool) : Rows32 (giveNotice s l r c e) := by
  unfold giveNotice
  extract_lets x cap old y
  have hy : Fits y := Fits.same (h c) rfl rfl
  exact h.setCtx c (fits_raise hy _ _)

/-! ### Records (R28 to R30, R38) -/

protected theorem writeField (l : Launch) (va : Word) (off v : Nat) : Rows32 (writeField s l va off v) := by
  unfold writeField
  split
  · rename_i e
    exact h.writeBlock e
  · exact h.failInCycle _ _

protected theorem makeReady (n : Nat) (va : Word) : Rows32 (makeReady s n va) := by
  unfold makeReady; dsimp only
  split
  · exact h
  · split
    · exact h.failInCycle _ _
    · rename_i l _ _ b _
      have ht : Rows32 (touchRecord s l va.toNat b) := (h.touchBlock _ _ _ _ _).touchBlock _ _ _ _ _
      split
      · exact ht.failInCycle _ _
      · have hf := (ht.writeField l va 0x40 0).writeField l va 0x50 0
        exact rows_ite hf hf

protected theorem decrement {l : Launch} {va : Word} {r : Nat × State} (e : decrement s l va = some r) : Rows32 r.2 := by
  unfold decrement at e; dsimp only at e
  split at e
  · cases e
  · rename_i p _
    have ht := h.touch l.acc .atomic p
    split at e <;> cases e
    · exact ht
    · exact (ht.countWrite _ _).performAt _

/-! ### What the mill does (R28, R30, R38, R40) -/

protected theorem actRoot (l : Launch) (va : Word) : Rows32 (actRoot s l va).2 := by
  unfold actRoot
  split
  · exact h
  · split <;> exact h

protected theorem actSpawn (l : Launch) (va : Word) : Rows32 (actSpawn s l va).2 := by
  unfold actSpawn
  split
  · exact h
  · split
    · exact h
    · split
      · exact h
      · exact h.touchBlock _ _ _ _ _

protected theorem actSignal (l : Launch) (va : Word) : Rows32 (actSignal s l va).2 := by
  unfold actSignal
  split
  · exact h
  · split
    · rename_i e
      have ht := h.decrement e
      split
      · exact ht
      · split <;> exact ht
    · exact h

protected theorem actComplete (l : Launch) (va : Word) : Rows32 (actComplete s l va).2 := by
  unfold actComplete; dsimp only
  split
  · exact h
  · split
    · exact h
    · split
      · exact h
      · split
        · exact h
        · dsimp only
          exact Rows32.touchBlock (by exact h) _ _ _ _ _

protected theorem millAct (a : MillAct) : Rows32 (millAct a s).2 := by
  unfold millAct
  split
  · exact h
  · split
    · split
      · exact h.actRoot _ _
      · exact h
    · exact h.actSpawn _ _
    · exact h.actSignal _ _
    · dsimp only
      exact h.makeReady _ _
    · exact h.actComplete _ _
    · exact h.msixTo _ _

protected theorem runActs (fuel : Nat) (acts : List MillAct) : Rows32 (runActs fuel acts s) := by
  induction fuel generalizing s acts with
  | zero => exact h
  | succ fuel ih =>
    cases acts with
    | nil => exact h
    | cons a rest => exact ih (h.millAct a) _

protected theorem runEvent (acts : List MillAct) : Rows32 (runEvent acts s) := by
  unfold runEvent
  exact (h.runActs _ _).keepCauses s

protected theorem millEvent (acts : List MillAct) : Rows32 (millEvent acts s) := by
  unfold millEvent
  exact (h.runEvent _).settleMill

protected theorem acceptRequest (c : Nat) (act : Nat → Word → MillAct) (va : Word) : Rows32 (acceptRequest c act va s) :=
  (h.within (fun _ ht => ht.retires) c).millEvent _

protected theorem execSpawnRequest (c : Nat) : Answers Rows32 (execSpawnRequest c s) := by
  unfold execSpawnRequest
  refine answers_ite trivial ?_
  split
  · exact h.acceptRequest _ _ _
  · exact h

protected theorem execSignalRequest (c : Nat) : Answers Rows32 (execSignalRequest c s) := by
  unfold execSignalRequest
  refine answers_ite trivial ?_
  split
  · exact h.acceptRequest _ _ _
  · exact h

/-! ### Retirements (R36, R38) -/

protected theorem retireIteration (k : HeldTask) : Rows32 (retireIteration s k) := by
  unfold retireIteration
  split
  · rename_i l r _ _
    have hw := (h.writeField l r.addr 0x40 (r.retired + 1)).mapRec l.num r.addr
      fun r => { r with retired := r.retired + 1 }
    exact (rows_ite (hw.runActs _ _) hw).keepCauses s
  · exact h

protected theorem retireEnd (e : EndMsg) : Rows32 (retireEnd s e) := by
  have hs : Rows32 { s with mill := { s.mill with ends := s.mill.ends.erase e } } := h
  exact (((hs.weightChange _ _).capsAfter _).retireIteration _).settleMill

protected theorem execTendRetirement : Answers Rows32 (execTendRetirement s) := by
  unfold execTendRetirement
  split
  · exact h
  · exact h.retireEnd _

protected theorem endArrives (c : Nat) : Rows32 (endArrives c s) := by
  unfold endArrives
  split
  · exact h.retireEnd _
  · exact h

/-! ### A dispatch pick (R30, R34 to R36, R225, R230) -/

protected theorem dispatch (l : Launch) (r : Rec) (c : Nat) : Rows32 (dispatch s l r c) := by
  unfold dispatch
  split
  · exact h.failLaunch _ _
  · rename_i e
    have ht := h.writeBlock e
    refine Rows32.weightChange (Rows32.markDispatch ?_ c) _ _
    exact ht.setSame c

protected theorem restoreTask (t : SavedTask) (l : Launch) (r : Rec) : Rows32 (restoreTask s t l r) := by
  have hb {u : State} (hu : Rows32 u) := hu.touchBlock
  have hc {u : State} (hu : Rows32 u) := hu.touchCocoon
  have hl {u : State} (hu : Rows32 u) := hu.loadCocoon
  -- Every function it calls becomes a variable before its body is simplified: the kernel would evaluate them.
  obtain ⟨restored, e⟩ : ∃ f, f = restoreTask := exists_eq
  obtain ⟨read, er⟩ : ∃ f, f = readBlock := exists_eq
  obtain ⟨readAll, ea⟩ : ∃ f, f = readCocoon := exists_eq
  obtain ⟨touched, eb⟩ : ∃ f, f = touchBlock := exists_eq
  obtain ⟨touchedAll, ec⟩ : ∃ f, f = touchCocoon := exists_eq
  obtain ⟨loaded, el⟩ : ∃ f, f = loadCocoon := exists_eq
  rw [← e]
  delta restoreTask at e
  rw [← er, ← ea, ← eb, ← ec, ← el] at e
  rw [← eb] at hb
  rw [← ec] at hc
  rw [← el] at hl
  rw [e]
  clear e er ea eb ec el
  dsimp only [-Nat.reducePow]
  split
  · exact h.failLaunch _ _
  · have hb := @hb s h
    refine rows_ite (hb _ _ _ _ _) ?_
    split
    · exact hc (hb _ _ _ _ _) _ _ _ _
    · refine Rows32.serveWaiting (Rows32.weightChange ?_ _ _)
      exact Rows32.setSame (hl (hc (hb _ _ _ _ _) _ _ _ _) _ _ _) _

protected theorem pick : Rows32 (pick s) := by
  have hr (t : SavedTask) (l : Launch) (r : Rec) := h.restoreTask t l r
  unfold pick
  obtain ⟨restored, e⟩ : ∃ f, f = restoreTask := exists_eq
  rw [← e] at hr ⊢
  extract_lets u v
  have hu : Rows32 u := by
    dsimp only [u]
    split
    · exact hr _ _ _
    · exact h
  have hv : Rows32 v := by
    dsimp only [v]
    split
    · exact hu.giveNotice _ _ _ _
    · exact hu
  split
  · exact hv.dispatch _ _ _
  · exact hv

protected theorem execDispatchPick : Answers Rows32 (execDispatchPick s) := by
  unfold execDispatchPick
  exact answers_ite h.pick.settleMill h

end
end Rows32

end Sys2Proof.Spec
end

section
/-! SUPPORT. Waits, saves, the ends of tasks, launches, errors, planes and migration keep shapes of at most 32 rows
(R73, R76, R246). -/

namespace Sys2Proof.Spec

set_option Elab.async false

open Sys2Proof.Machine

/-- A rewound context has the shape of its checkpoint (R246, R248). -/
theorem fits_rewound {x : Context} (h : Fits x) : Fits x.rewound := by
  unfold Context.rewound
  extract_lets k y ui
  have hy : y.ckpt = x.ckpt := by
    dsimp only [y]
    unfold Context.restoreScalars Context.swapShadow
    split <;> rfl
  clear_value y ui
  exact ⟨h.2, hy ▸ h.2⟩

/-- What a change of every context keeps, and the context that the table does not list has, holds after the change. -/
theorem tabGet_map_keeps {α : Type} {d : α} {P : α → Prop} {f : α → α} (hd : P d) (hf : ∀ x, P x → P (f x)) (t : Tab α)
    (i : Nat) (h : P (tabGet d t i)) : P (tabGet d (t.map fun e => (e.1, f e.2)) i) := by
  induction t with
  | nil => exact hd
  | cons e t ih =>
    obtain ⟨k, v⟩ := e
    simp only [List.map_cons, tabGet] at h ⊢
    by_cases hk : i = k
    · rw [if_pos hk] at h ⊢; exact hf v h
    · rw [if_neg hk] at h ⊢; exact ih h

namespace Rows32

/-! ### Waits (R77, R185, R186) and performed writes (R181, R182, R189) -/

/-- The rest of an instruction that waits in order_before keeps the shapes. -/
protected theorem pendingOf {i : Instr} {p : Option Place} {q : Pending} (e : pendingOf i p = some q) (t : State)
    (ht : Rows32 t) : Rows32 (q.k t) := by
  have hatomic (op : AtomicOp) (d b : BitVec 5) (n : BitVec 3) (u : BitVec 1)
      (e : p.map (atomicRest op d b n u) = some q) : Rows32 (q.k t) := by
    obtain ⟨place, -, rfl⟩ := Option.map_eq_some_iff.1 e
    exact ht.performAtomic _ _ _ _ _
  unfold pendingOf at e; dsimp only at e
  split at e
  · cases e; exact ht.retires
  · obtain ⟨place, -, rfl⟩ := Option.map_eq_some_iff.1 e
    exact ht.releaseStore _ _ _
  iterate 11
    · exact hatomic _ _ _ _ _ e
  iterate 3
    · cases e; exact ht.waitIn _ _ _
  · cases e

section
variable {s : State} (h : Rows32 s)
include h

protected theorem fenceOn : Rows32 (fenceOn s) := by
  unfold fenceOn
  split
  · split
    · rename_i e
      exact h.goOn (Rows32.pendingOf e) _ _
    · exact h
  · exact h

protected theorem execFenceWaitEnd (c : Nat) : Answers Rows32 (execFenceWaitEnd c s) := by
  unfold execFenceWaitEnd
  exact answers_ite trivial (answers_ite (h.within (fun _ ht => ht.fenceOn) c) h)

protected theorem execBufferedWritePerform (c n : Nat) : Answers Rows32 (execBufferedWritePerform c n s) := by
  unfold execBufferedWritePerform
  exact answers_ite trivial (rows_ite (h.performIdx _ _) h)

protected theorem execUnheldWritePerform (c n : Nat) : Answers Rows32 (execUnheldWritePerform c n s) := by
  unfold execUnheldWritePerform
  exact answers_ite trivial (rows_ite (h.performIdx _ _) h)

protected theorem lanesOn : Rows32 (lanesOn s) := by
  unfold lanesOn
  split
  · exact Rows32.takeLanes h.mapSame _ _ (min_le_right _ _)
  · exact h

protected theorem execVshapeLaneGrant (c : Nat) : Answers Rows32 (execVshapeLaneGrant c s) := by
  unfold execVshapeLaneGrant
  exact answers_ite trivial (answers_ite (h.within (fun _ ht => ht.lanesOn) c) h)

/-! ### Saves and the ends of tasks (R26, R226, R229) -/

protected theorem stopForSave : Rows32 (stopForSave s) := h.mapSame

protected theorem startSave (c : Nat) : Rows32 (startSave c s) :=
  h.within (fun _ ht => (ht.withdraw c).forceCommit.stopForSave) c

protected theorem execPreemptwinExpiry (c : Nat) : Answers Rows32 (execPreemptwinExpiry c s) := by
  unfold execPreemptwinExpiry
  exact answers_ite trivial (rows_ite (h.startSave c) h)

protected theorem failSave : Rows32 (failSave s) := h.mapSame

protected theorem finishSave : Rows32 (finishSave s) := by
  have hw {va : Nat} {pc : Word} {t : State} (e : saveTask s 1 va pc none = .ok t) := h.saveTask e
  unfold finishSave
  obtain ⟨saved, e⟩ : ∃ f, f = saveTask := exists_eq
  rw [← e] at hw ⊢
  extract_lets x
  split
  · exact h.failSave
  · split
    · exact h.failSave
    · rename_i e
      exact hw e

protected theorem execWholeSaveDone (c : Nat) : Answers Rows32 (execWholeSaveDone c s) := by
  unfold execWholeSaveDone
  exact answers_ite trivial (rows_ite (h.within (fun _ ht => ht.finishSave) c).settleMill h)

protected theorem endNow (c : Nat) : Rows32 (endNow c s) :=
  Rows32.weightChange ((h.withdraw c).setSame c) _ _

protected theorem leaveEnded (c : Nat) : Rows32 (leaveEnded c s) := by
  unfold leaveEnded
  exact rows_ite ((h.releaseAll c).capsAfter c).settleMill h

protected theorem endTaskOf (c : Nat) : Rows32 (endTaskOf c s) := by
  unfold endTaskOf
  exact (rows_ite h (h.endNow c)).leaveEnded c

protected theorem execTaskEndByMill (c : Nat) : Answers Rows32 (execTaskEndByMill c s) := by
  unfold execTaskEndByMill
  exact answers_ite trivial (answers_ite (h.endTaskOf c) h)

protected theorem execTaskEndedByRuntime (c : Nat) : Answers Rows32 (execTaskEndedByRuntime c s) := by
  unfold execTaskEndedByRuntime
  exact answers_ite trivial (answers_ite ((h.failLaunch _ _).endTaskOf c) h)

/-! ### Launches (R31 to R34, R248, R252) -/

protected theorem unpark (t : SavedTask) : Rows32 (unpark s t) := h

protected theorem dropWork (n : Nat) : Rows32 (dropWork s n) := by
  unfold dropWork
  exact Rows32.foldl (fun t k ht => ht.unpark k) _ h

protected theorem clearDirectory (l : Launch) : Rows32 (clearDirectory s l) := by
  unfold clearDirectory
  split
  · cases e : writeBlock s l.acc none l.pool.toNat (zeros (8 * l.slotCount)) with
    | none => exact h
    | some t => exact h.writeBlock e
  · exact h

protected theorem reject (m : Nat) (v : Word) : Rows32 (reject m v s) :=
  Rows32.msixTo (by exact h) _ _

protected theorem readLaunch (l : Launch) (va : Nat) (b : List Byte) : Rows32 (readLaunch s l va b).2 :=
  ((h.touchBlock _ _ _ _ _).touchBlock _ _ _ _ _).touchBlock _ _ _ _ _

protected theorem addLaunch (l : Launch) : Rows32 (addLaunch s l) := h

protected theorem acceptValue (m : Nat) (v : Word) : Rows32 (acceptValue m v s).2 := by
  unfold acceptValue
  split
  · exact h.reject _ _
  · dsimp only [-Nat.reducePow]
    split
    · exact h.reject _ _
    · split
      · exact (h.touchBlock _ _ _ _ _).reject _ _
      · split
        · exact (h.readLaunch _ _ _).addLaunch _
        · exact ((h.readLaunch _ _ _).addLaunch _).clearDirectory _

omit h in
protected theorem takeValue (r : List MillAct × State) (m : Nat) (h : Rows32 r.2) : Rows32 (takeValue r m).2 := by
  unfold takeValue
  split
  · exact h
  · exact Rows32.acceptValue (by exact h) m _

protected theorem execLaunchAccept : Answers Rows32 (execLaunchAccept s) := by
  unfold execLaunchAccept
  refine answers_ite h (Rows32.millEvent ?_ _)
  exact foldl_keeps (fun r : List MillAct × State => Rows32 r.2) takeValue Rows32.takeValue _ _ h

protected theorem completeLaunch (l : Launch) : Rows32 (completeLaunch s l) := by
  have hc := (h.clearDirectory l).dropWork l.num
  unfold completeLaunch; dsimp only
  split
  · exact Rows32.reject (by exact hc) _ _
  · rename_i e
    have ht := Rows32.writeBlock (by exact hc) e
    exact rows_ite (ht.msixTo _ _) ht

protected theorem execCompletionWordWrite (n : Nat) : Answers Rows32 (execCompletionWordWrite n s) := by
  unfold execCompletionWordWrite
  split
  · exact h
  · exact answers_ite (h.completeLaunch _).settleMill h

/-! ### Replay (R251 to R253) -/

protected theorem restorePage (l : Launch) (i : Nat) : Rows32 (restorePage l s i) := by
  unfold restorePage; dsimp only [-Nat.reducePow]
  refine rows_ite h ?_
  split
  · exact h
  · exact Rows32.of_ctxs (h.touch l.acc .load _) rfl

protected theorem rerun (l : Launch) : Rows32 (rerun s l) := by
  have hp := Rows32.foldl (f := restorePage l) (fun t i ht => ht.restorePage l i) (List.range l.slotCount)
    ((h.dropWork l.num).touchBlock l.acc .load none l.pool.toNat (8 * l.slotCount))
  have hm := hp.mapLaunch l.num fun l => { l with tearing := false, replays := l.replays + 1 }
  unfold rerun; dsimp only
  split
  · exact (hm.clearDirectory l).failLaunch _ _
  · rename_i e
    exact ((hm.writeBlock e).clearDirectory l).runEvent _

protected theorem execReplayRerun (n : Nat) : Answers Rows32 (execReplayRerun n s) := by
  unfold execReplayRerun
  split
  · exact h
  · exact answers_ite (h.rerun _).settleMill h

/-! ### Errors (R240 to R246) -/

protected theorem rewind : Rows32 (rewind s) := Rows32.mapCx (s := s.setTile _ _) h fits_rewound

protected theorem pinnedError (cause : Nat) (tval : Word) (queued : Bool) : Rows32 (pinnedError cause tval queued s) := by
  unfold pinnedError
  exact rows_ite h.rewind (Rows32.unpinnable h.mapSame _ _ _)

protected theorem breaksOff {f : State → State} (hf : ∀ t, Rows32 t → Rows32 (f t)) : Rows32 (breaksOff f s) := by
  unfold breaksOff
  exact rows_ite ((hf _ h).withdraw _) (hf _ h)

protected theorem mismatch : Rows32 (mismatch s) := Rows32.pinnedError (s := s.draw.2) h _ _ _

protected theorem execCheckerMismatch (c : Nat) : Answers Rows32 (execCheckerMismatch c s) := by
  unfold execCheckerMismatch
  exact answers_ite trivial
    (answers_ite (h.within (fun _ ht => ht.breaksOff fun _ hu => hu.mismatch) c) h)

protected theorem execUncorrectableError (c : Nat) (pinned scalarLoad named : Bool) :
    Answers Rows32 (execUncorrectableError c pinned scalarLoad named s) := by
  unfold execUncorrectableError
  refine answers_ite trivial (answers_ite h (h.within (fun t ht => ht.breaksOff fun u hu => ?_) c))
  exact rows_ite (hu.pinnedError _ _ _) (hu.unpinnable _ _ _)

protected theorem execPatrolVisit (line : Nat) (corrected uncorrectable : Bool) :
    Answers Rows32 (execPatrolVisit line corrected uncorrectable s) := by
  unfold execPatrolVisit
  exact answers_ite trivial (rows_ite h h)

/-! ### Strings, planes and the fabric (R48 to R53, R208 to R212) -/

protected theorem setStr (n : Nat) (t : Str) : Rows32 (s.setStr n t) := h

protected theorem execAdjunctRequest (n node : Nat) (under : Bool) :
    Answers Rows32 (execAdjunctRequest n node under s) := by
  unfold execAdjunctRequest
  exact answers_ite trivial (answers_ite (h.setStr _ _) h)

protected theorem execThrottleDown (n : Nat) : Answers Rows32 (execThrottleDown n s) := by
  unfold execThrottleDown
  exact answers_ite trivial (answers_ite (h.setStr _ _) h)

protected theorem execThrottleUp (n : Nat) : Answers Rows32 (execThrottleUp n s) := by
  unfold execThrottleUp
  exact answers_ite trivial (answers_ite (h.setStr _ _) h)

protected theorem execStringFloor (n : Nat) : Answers Rows32 (execStringFloor n s) := by
  unfold execStringFloor
  refine answers_ite trivial (answers_ite h (rows_ite ?_ ?_))
  · exact h
  · exact h

protected theorem bootEnds : Rows32 (bootEnds s) := by
  unfold bootEnds
  exact rows_ite h h

protected theorem startCycles (n : Nat) : Rows32 (startCycles n s) := by
  unfold startCycles
  exact Rows32.foldl (fun t i ht => Rows32.setCore (s := t.draw.2) ht _ _) _ h

protected theorem execStringPowered (n : Nat) : Answers Rows32 (execStringPowered n s) := by
  unfold execStringPowered
  exact answers_ite trivial (answers_ite ((h.setStr _ _).startCycles _).bootEnds h)

protected theorem execStringUnpowered (n : Nat) : Answers Rows32 (execStringUnpowered n s) := by
  unfold execStringUnpowered
  exact answers_ite trivial (answers_ite (h.setStr _ _) h)

protected theorem planeDeath (k : Nat) : Rows32 (planeDeath k s) := by
  unfold planeDeath
  exact rows_ite h h

protected theorem execFlitRetransmit (p : Nat) : Answers Rows32 (execFlitRetransmit p s) := by
  unfold execFlitRetransmit
  exact answers_ite trivial h

protected theorem execPortDown (p : Nat) : Answers Rows32 (execPortDown p s) := by
  unfold execPortDown
  exact answers_ite trivial (answers_ite h (Rows32.planeDeath (by exact h) _))

protected theorem execMeshUncorrectableError (d k : Nat) : Answers Rows32 (execMeshUncorrectableError d k s) := by
  unfold execMeshUncorrectableError
  exact answers_ite trivial (h.planeDeath k)

protected theorem execPlaneDeathLearned (k : Nat) : Answers Rows32 (execPlaneDeathLearned k s) := by
  unfold execPlaneDeathLearned
  exact answers_ite trivial (h.planeDeath k)

protected theorem execMoultRemap : Answers Rows32 (execMoultRemap s) := by
  unfold execMoultRemap
  exact answers_ite h h

/-! ### Page migration (R173, R174) -/

protected theorem execPageMigration (c : Nat) (va : BitVec 64) (dest frame : Nat) :
    Answers Rows32 (execPageMigration c va dest frame s) := by
  unfold execPageMigration
  refine answers_ite trivial ?_
  split
  · exact h
  · exact h

/-- A move of a page changes what is under way in every context, and no shape. -/
protected theorem mapCtxs {f : Context → Context} (hx : ∀ x, Fits x → Fits (f x)) :
    Rows32 { s with ctxs := s.ctxs.map fun e => (e.1, f e.2) } := fun c => by
  exact tabGet_map_keeps (P := Fits) ⟨Nat.zero_le _, Nat.zero_le _⟩ hx s.ctxs c (h c)

protected theorem finishMove (m : Migration) : Rows32 (finishMove s m) := by
  unfold finishMove
  extract_lets mem pte ctxs inPage cores t
  have ht : Rows32 t := Rows32.of_ctxs (h.mapCtxs (f := m.context s.node) fun x hx => Fits.same hx rfl rfl) rfl
  exact ht.dropEntries _

protected theorem execMigrationDone : Answers Rows32 (execMigrationDone s) := by
  unfold execMigrationDone
  split
  · exact h
  · exact h.finishMove _

end
end Rows32

end Sys2Proof.Spec
end

section
/-! SUPPORT. What the host and the peers do keeps shapes of at most 32 rows (R73, R76). -/

namespace Sys2Proof.Spec

set_option Elab.async false

open Sys2Proof.Machine

namespace Rows32

/-- Module reset leaves no lane of a context with rows (R76, R281). -/
protected theorem resetModule (s : State) : Rows32 (resetModule s) := fun _ => ⟨Nat.zero_le _, Nat.zero_le _⟩

section
variable {s : State} (h : Rows32 s)
include h

/-! ### Register writes (R155, R270 to R288) -/

protected theorem rejected : Rows32 s.rejected := h

protected theorem mapHost (f : HostBlk → HostBlk) : Rows32 (s.mapHost f) := h

protected theorem renumber (n : BitVec 10) : Rows32 (renumber s n) := Rows32.of_ctxs h rfl

/-- A write that the owner alone may make keeps what its change keeps. -/
protected theorem guarded (m : Nat) {f : State → State} (hf : ∀ t, Rows32 t → Rows32 (f t)) : Rows32 (guarded m f s) := by
  unfold guarded
  exact rows_ite (hf s h) h.rejected

protected theorem hostReach {m off : Nat} {write : Bool} {mv : Move} {refused : State → State}
    {k : State → Host.Outcome State Fault Refusal} (hr : Rows32 (refused s)) (hk : Answers Rows32 (k s)) :
    Answers Rows32 (hostReach m off write mv refused k s) := by
  unfold hostReach
  exact answers_ite trivial (answers_ite h (answers_ite hr hk))

/-- A write of a whole register that the owner alone may make. -/
protected theorem hostWrites (m off : Nat) (v : Word) {k : State → State} (hk : Rows32 (k s)) :
    Answers Rows32 (hostWrites m off v (fun t => .next (k t)) s) := by
  unfold hostWrites
  exact h.hostReach h hk

protected theorem setSlot (slot : Nat) (v : Option (BitVec 512)) : Rows32 (setSlot slot v s) := by
  unfold setSlot
  split
  · exact h
  · exact h

protected theorem writeModule (m off bytes : Nat) (v : Word) : Rows32 (writeModule m off bytes v s) := by
  have hg (f : HostBlk → HostBlk) : Rows32 (guarded m (·.mapHost f) s) := h.guarded m fun _ ht => ht.mapHost f
  unfold writeModule; dsimp only
  split
  · exact h.mapHost _
  iterate 5
    · exact hg _
  exact rows_ite (hg _) (rows_ite (hg _) h)

protected theorem writeBoot (m off bytes : Nat) (v : Word) : Rows32 (writeBoot m off bytes v s) := by
  have hg (f : HostBlk → HostBlk) : Rows32 (guarded m (fun s => if s.host.qgo then s.rejected else s.mapHost f) s) :=
    h.guarded m fun _ ht => rows_ite ht.rejected (ht.mapHost f)
  unfold writeBoot; dsimp only
  exact rows_ite (hg _) (rows_ite (hg _) (rows_ite (hg _) h))

protected theorem writeFabric (m off bytes : Nat) (v : Word) : Rows32 (writeFabric m off bytes v s) := by
  have hg {f : State → State} (hf : ∀ t, Rows32 t → Rows32 (f t)) :
      Rows32 (guarded m (fun s => if s.host.accepted then s.rejected else f s) s) :=
    h.guarded m fun t ht => rows_ite ht.rejected (hf t ht)
  unfold writeFabric; dsimp only
  split
  · exact hg fun t ht => ht.renumber _
  · exact hg fun t ht => ht.mapHost _
  · exact h

protected theorem writeTable (m off bytes : Nat) (v : Word) : Rows32 (writeTable m off bytes v s) :=
  h.guarded m fun t ht => Rows32.settleTables (by exact ht)

protected theorem writeHold (d : Nat) (w : Word) : Rows32 (writeHold d w s) := by
  unfold writeHold
  exact Rows32.foldl (fun t k ht => ht.setStr _ _) _ h

protected theorem writeDie (m off bytes : Nat) (v : Word) : Rows32 (writeDie m off bytes v s) := by
  unfold writeDie; dsimp only
  exact rows_ite (h.guarded m fun _ ht => ht.writeHold _ _) h

protected theorem countDie (d i : Nat) : Rows32 (countDie s d i) := by
  unfold countDie
  exact rows_ite h h

protected theorem countStr (n i : Nat) : Rows32 (countStr s n i) := by
  unfold countStr
  exact rows_ite h h

protected theorem writeCounters (off bytes : Nat) (v : Word) : Rows32 (writeCounters off bytes v s) := by
  unfold writeCounters
  refine rows_ite (rows_ite ?_ h) (rows_ite ?_ (rows_ite ?_ h))
  · exact h.countCore _ _
  · exact h.countDie _ _
  · exact h.countStr _ _

protected theorem writeReg (m off bytes : Nat) (v : Word) : Rows32 (writeReg m off bytes v s) := by
  unfold writeReg
  refine rows_ite (h.writeModule _ _ _ _) (rows_ite (h.writeBoot _ _ _ _) (rows_ite (h.writeFabric _ _ _ _) ?_))
  exact rows_ite (h.writeTable _ _ _ _) (rows_ite (h.writeDie _ _ _ _) (h.writeCounters _ _ _))

protected theorem execRegisterWrite (m off bytes : Nat) (v : BitVec 64) :
    Answers Rows32 (execRegisterWrite m off bytes v s) := by
  unfold execRegisterWrite
  exact h.hostReach h (rows_ite (h.writeReg _ _ _ _) h)

protected theorem execLaunchWrite (m bytes : Nat) (v : BitVec 64) : Answers Rows32 (execLaunchWrite m bytes v s) := by
  unfold execLaunchWrite
  refine h.hostReach h (rows_ite h (rows_ite ?_ ?_))
  · exact h
  · exact h

protected theorem execSemaRead (m : Nat) : Answers Rows32 (execSemaRead m s) := by
  unfold execSemaRead
  exact h.hostReach h (h.mapHost _)

protected theorem execSemaWrite (m : Nat) (v : BitVec 64) : Answers Rows32 (execSemaWrite m v s) := by
  unfold execSemaWrite
  exact h.hostWrites _ _ _ (rows_ite (h.mapHost _) h.rejected)

protected theorem execPcieLinkDown (p : Nat) : Answers Rows32 (execPcieLinkDown p s) := by
  unfold execPcieLinkDown
  exact answers_ite trivial (rows_ite (h.mapHost _) h)

protected theorem execKeycmdLoad (m n : Nat) : Answers Rows32 (execKeycmdLoad m n s) := by
  unfold execKeycmdLoad
  exact answers_ite trivial (h.hostWrites _ _ _ (h.guarded m fun _ ht => rows_ite ht (ht.setSlot _ _)))

protected theorem execKeycmdEmpty (m n : Nat) : Answers Rows32 (execKeycmdEmpty m n s) := by
  unfold execKeycmdEmpty
  exact answers_ite trivial (h.hostWrites _ _ _ (h.guarded m fun _ ht => rows_ite ht (ht.setSlot _ _)))

protected theorem execAtflushGo (m : Nat) : Answers Rows32 (execAtflushGo m s) := by
  unfold execAtflushGo
  exact h.hostWrites _ _ _ (h.guarded m fun _ ht => ht.mapHost _)

protected theorem execAtflushDone : Answers Rows32 (execAtflushDone s) := by
  unfold execAtflushDone
  exact rows_ite (Rows32.of_ctxs (h.dropEntries fun _ => true) rfl) h

protected theorem execPartszWrite (m d : Nat) (v : BitVec 64) : Answers Rows32 (execPartszWrite m d v s) := by
  unfold execPartszWrite
  exact answers_ite trivial (h.hostWrites _ _ _ (h.guarded m fun _ ht => rows_ite ht.rejected ht))

protected theorem putCaps (d : Nat) (v : Word) : Rows32 (putCaps d v s) := by
  unfold putCaps
  exact Rows32.foldl (fun t k ht => ht.setStr _ _) _ h

protected theorem execStrcapWrite (m d : Nat) (v : BitVec 64) : Answers Rows32 (execStrcapWrite m d v s) := by
  unfold execStrcapWrite
  exact answers_ite trivial (h.hostWrites _ _ _ (h.guarded m fun _ ht => ht.putCaps d v))

protected theorem putPower (d : Nat) (v : Word) : Rows32 (putPower d v s) := by
  unfold putPower
  exact Rows32.foldl (fun t k ht => ht.setStr _ _) _ h

protected theorem execStrpwrWrite (m d : Nat) (v : BitVec 64) : Answers Rows32 (execStrpwrWrite m d v s) := by
  unfold execStrpwrWrite
  exact answers_ite trivial
    (h.hostWrites _ _ _ (h.guarded m fun _ ht => rows_ite (ht.putPower d v).bootEnds ht.rejected))

/-! ### BAR2, reset and boot (R276, R277, R285 to R287) -/

protected theorem readAllOnes (bytes : Nat) : Rows32 (readAllOnes bytes s) := h

protected theorem hold (mv : Move) : Rows32 (s.hold mv) := h

protected theorem execBar2Read (off bytes : Nat) : Answers Rows32 (execBar2Read off bytes s) := by
  unfold execBar2Read
  refine answers_ite (h.hold _) ?_
  split
  · refine Rows32.mapHost (Rows32.foldl (fun t e ht => ?_) _ h) _
    exact ht
  · exact h.readAllOnes _

protected theorem hostWrite (loc : Nat) (bs : List Byte) : Rows32 (hostWrite s loc bs) :=
  Rows32.foldl (fun _ _ ht => ht.performAt _) _ h

protected theorem execBar2Write (off bytes : Nat) (v : BitVec 64) : Answers Rows32 (execBar2Write off bytes v s) := by
  unfold execBar2Write
  refine answers_ite (h.hold _) ?_
  split
  · exact h.hostWrite _ _
  · exact h

protected theorem execResetGo (m : Nat) : Answers Rows32 (execResetGo m s) := by
  unfold execResetGo
  exact h.hostWrites _ _ _ (h.guarded m fun t _ => Rows32.resetModule t)

protected theorem execBootRom : Answers Rows32 (execBootRom s) := by
  unfold execBootRom
  exact answers_ite h (Rows32.mapHost (by exact h) _)

protected theorem execMeascmdExtend (m n : Nat) : Answers Rows32 (execMeascmdExtend m n s) := by
  unfold execMeascmdExtend
  exact answers_ite trivial (h.hostWrites _ _ _ (h.guarded m fun _ ht => rows_ite ht (ht.mapHost _)))

protected theorem execQcmdGo (m : Nat) : Answers Rows32 (execQcmdGo m s) := by
  unfold execQcmdGo
  exact h.hostWrites _ _ _ (h.guarded m fun _ ht => ht.mapHost _)

protected theorem execQuoteReady : Answers Rows32 (execQuoteReady s) := by
  unfold execQuoteReady
  exact answers_ite h (h.mapHost _)

/-! ### The bus (R155, R271 to R288) -/

protected theorem readCounters (off : Nat) : Rows32 (readCounters off s).2 := by
  unfold readCounters
  -- The differences become variables: the kernel would count their second operands down.
  obtain ⟨core, ec⟩ : ∃ o, o = off - 0x200000 := exists_eq
  obtain ⟨die, ed⟩ : ∃ o, o = off - 0x300000 := exists_eq
  obtain ⟨str, es⟩ : ∃ o, o = off - 0x310000 := exists_eq
  rw [← ec, ← ed, ← es]
  refine snd_ite ?_ (snd_ite ?_ (snd_ite ?_ h))
  · exact snd_ite h (snd_ite (h.countCore _ _) h)
  · exact snd_ite h (h.countDie _ _)
  · exact snd_ite h (h.countStr _ _)

protected theorem readReg (m base : Nat) : Rows32 (readReg m base s).2 := by
  unfold readReg
  exact snd_ite h (snd_ite h (snd_ite h (snd_ite h (snd_ite h (h.readCounters base)))))

protected theorem busRead (m off bytes : Nat) : Answers Rows32 (busRead m off bytes s) := by
  have hr := h.execSemaRead m
  unfold busRead; dsimp only
  refine h.hostReach (h.readAllOnes _) (answers_ite (h.readAllOnes _) (answers_ite ?_ ?_))
  · split
    · rename_i e
      exact Rows32.mapHost (hr.of_next e) _
    · exact hr
  · exact (h.readReg _ _).mapHost _

protected theorem busKeycmd (m : Nat) (w : Word) : Answers Rows32 (busKeycmd m w s) := by
  unfold busKeycmd
  split
  · exact h.execKeycmdLoad _ _
  · exact h.execKeycmdEmpty _ _
  · exact h.guarded m fun _ ht => ht

protected theorem busGo (m : Nat) (w : Word) {start : State → Host.Outcome State Fault Refusal}
    (hs : Answers Rows32 (start s)) : Answers Rows32 (busGo m w start s) := by
  unfold busGo
  refine answers_ite hs ?_
  exact h.guarded m fun _ ht => ht

protected theorem busWrite (m off bytes : Nat) (v : Word) : Answers Rows32 (busWrite m off bytes v s) := by
  unfold busWrite; dsimp only
  refine h.hostReach h (answers_ite h (answers_ite ?_ ?_))
  · split
    · exact h.execPartszWrite _ _ _
    · exact h.execStrpwrWrite _ _ _
    · exact h.execStrcapWrite _ _ _
    · exact h.execRegisterWrite _ _ _ _
  · split
    · exact h.execSemaWrite _ _
    · exact h.execLaunchWrite _ _ _
    · exact h.busGo _ _ (h.execResetGo _)
    · exact h.busGo _ _ (h.execAtflushGo _)
    · exact h.busKeycmd _ _
    · exact h.execMeascmdExtend _ _
    · exact h.busGo _ _ (h.execQcmdGo _)
    · exact h.execRegisterWrite _ _ _ _

protected theorem msixControl (port : Nat) (on allMasked : Bool) : Rows32 (msixControl port on allMasked s) := by
  unfold msixControl
  exact rows_ite (h.putPort _ _) h

protected theorem msixVector (port vector : Nat) (masked : Bool) : Rows32 (msixVector port vector masked s) := by
  unfold msixVector
  exact rows_ite (h.putPort _ _) h

protected theorem lineCached (line slot : Nat) : Rows32 (lineCached line slot s) := by
  unfold lineCached; dsimp only [-Nat.reducePow]
  exact rows_ite h h

protected theorem resizeBar2 (n : Nat) : Rows32 (resizeBar2 n s) := by
  unfold resizeBar2
  exact rows_ite (h.mapHost _) h

/-! ### Peers (R147, R153, R204 to R207) -/

protected theorem peerRequest (r : GrantReq) : Rows32 (peerRequest r s) := by
  unfold peerRequest
  exact rows_ite h h

protected theorem peerReply (r : GrantReq) (granted : Bool) : Rows32 (peerReply r granted s) := by
  unfold peerReply
  exact rows_ite h h

protected theorem peerWithdraw (r : GrantReq) : Rows32 (peerWithdraw r s) := by
  unfold peerWithdraw
  exact rows_ite h (h.withdrawAll _)

protected theorem peerMessage (f : Flight) : Rows32 (peerMessage f s) := by
  unfold peerMessage
  exact rows_ite h h

protected theorem peerDelivered (n : Nat) : Rows32 (peerDelivered n s) := by
  unfold peerDelivered
  split
  · exact rows_ite h h
  · exact h

protected theorem peerWrite (m : Master) (node loc key : Nat) (bs : List Byte) :
    Rows32 (peerWrite m node loc key bs s) := by
  unfold peerWrite; dsimp only
  exact rows_ite h (rows_ite h (h.performAt _))

protected theorem peerKey (node slot : Nat) (v : Option (BitVec 512)) : Rows32 (peerKey node slot v s) := by
  unfold peerKey
  exact rows_ite h (h.setSlot _ _)

protected theorem peerTable (node target entry : Nat) (master range : Word) :
    Rows32 (peerTable node target entry master range s) := by
  unfold peerTable
  exact rows_ite h (Rows32.settleTables (by exact h))

protected theorem coreRead (loc n : Nat) : Rows32 (coreRead loc n s) := by
  unfold coreRead
  exact rows_ite h (h.readAllOnes _)

protected theorem millLags (p : MillPart) : Rows32 (millLags p s) := h

end
end Rows32

end Sys2Proof.Spec
end

section
/-! SUPPORT. Every instruction, event and move keeps shapes of at most 32 rows (R73, R76). -/

namespace Sys2Proof.Spec

set_option Elab.async false

open Sys2Proof.Machine

namespace Rows32

section
variable {s : State} (h : Rows32 s)
include h

/-! ### Scalar words (R63, R67, R330) -/

protected theorem scalarWrite (d : BitVec 5) (f : Context → Word) : Answers Rows32 (scalarWrite d f s) :=
  h.retireWith (fits_setReg _ _ _).2

protected theorem condWrite (d : BitVec 3) (f : Context → Bool) : Answers Rows32 (condWrite d f s) :=
  h.retireWith (fits_setCond _ _ _).2

protected theorem fpRound (d : BitVec 5) (op : Context → FpCtl → Nat → Nat × Flags) : Answers Rows32 (fpRound d op s) :=
  h.retireWith fun hx => ((fits_setReg _ d _).2 hx).withFp _

protected theorem fpScalar (op : FOp) (d a b : BitVec 5) (f : BitVec 2) : Answers Rows32 (fpScalar op d a b f s) := by
  unfold fpScalar
  exact h.fpRound _ _

protected theorem execFcvt (d a : BitVec 5) (t : BitVec 3) (f k : BitVec 2) :
    Answers Rows32 (execFcvt d a t f k s) := by
  unfold execFcvt
  exact h.fpRound _ _

protected theorem fpPick (isMax : Bool) (d a b : BitVec 5) (f : BitVec 2) : Answers Rows32 (fpPick isMax d a b f s) :=
  h.retireWith fun hx => ((fits_setReg _ d _).2 hx).orFlags _

protected theorem execFcmp (c : BitVec 3) (a b : BitVec 5) (f r : BitVec 2) : Answers Rows32 (execFcmp c a b f r s) :=
  h.retireWith fun hx => ((fits_setCond _ c _).2 hx).orFlags _

protected theorem execB (c : BitVec 3) (t k : BitVec 1) (d : BitVec 20) : Answers Rows32 (execB c t k d s) :=
  h.mapCx fun hx => by
    split
    · exact (fits_jump _ _).2 hx
    · exact (fits_retire _).2 hx

protected theorem execAdj (p : BitVec 2) : Answers Rows32 (execAdj p s) := h.retireWith fun hx => Fits.same hx rfl rfl

protected theorem execFetchb : Answers Rows32 (execFetchb s) := h.retireWith fun hx => Fits.same hx rfl rfl

/-- Every word and every event, executed, keeps the shapes: one line for each way in which they act. -/
protected theorem exec (i : Instr) : Answers Rows32 (exec i s) := by
  cases i with
  | addReg | addImm | andReg | andImm | orReg | orImm | xorReg | xorImm | sub | mul | mulh | div | rem | shlReg |
  shrReg | sraReg | shlImm | shrImm | sraImm | min | max | clz | popc | sel | lui => exact h.scalarWrite _ _
  | cmpReg | cmpImm | cbitAnd | cbitOr | cbitXor | cbitAndn | cbitSet | cbitClear | cbitNot | cbitMove =>
    exact h.condWrite _ _
  | fadd | fsub | fmul | fma | fdiv | fsqrt => exact h.fpScalar _ _ _ _ _
  | fcvt d a t f k => exact h.execFcvt d a t f k
  | fmin | fmax => exact h.fpPick _ _ _ _ _
  | fcmp => exact h.execFcmp _ _ _ _ _
  | b c t k d => exact h.execB c t k d
  | j => exact h.jumps _
  | adj => exact h.execAdj _
  | fetchb => exact h.execFetchb
  | pref | nop => exact h.retires
  | ld | ldAcq => exact h.loadScalar _ _ _ _ _ fun _ hx => hx
  | st => exact h.storeScalar _ _ _ _
  | amoAdd | amoAnd | amoOr | amoXor | amoMin | amoMax | amoMinZ | amoMaxZ | amoSwap | amoFadd | cas =>
    exact h.atomicScalar _ _ _ _ _ _ _
  | jal => exact h.pushAndGo _
  | jr => exact answers_ite (h.takeTrap _) (h.jumps _)
  | jrLink => exact answers_ite (h.takeTrap _) (h.pushAndGo _)
  | vaddVV | vaddVS | vsubVV | vsubVS | vmulVV | vmulVS | vmaVV | vmaVS | vdivVV | vdivVS | vminVV | vminVS | vmaxVV |
  vmaxVS | vmulhVV | vmulhVS | vandVV | vandVS | vorVV | vorVS | vxorVV | vxorVS | vshlVV | vshlVS | vshrVV | vshrVS |
  vsraVV | vsraVS | vsaddVV | vsaddVS | vssubVV | vssubVS | vraddVV | vraddVS | vrsubVV | vrsubVS | vsqrt | vexp2 |
  vsgnCopyVV | vsgnCopyVS | vsgnNegVV | vsgnNegVS | vsgnXorVV | vsgnXorVS | vsgnAbs =>
    exact h.vecArith _ _ _ _ _ _ _
  | vcmpVV | vcmpVS => exact h.vecCompare _ _ _ _ _ _ _
  | vmlogAnd | vmlogOr | vmlogXor => exact h.maskLogic _ _ _ _ _ _ _
  | vmlogAndn => exact h.maskLogic (fun p r => p && !r) _ _ _ _ _ _
  | vmlogOrn => exact h.maskLogic (fun p r => p || !r) _ _ _ _ _ _
  | vmlogNot | vmlogSet | vmlogClear => exact h.vectorWord _ (h.maskOp _ _ _ _)
  | vmpop => exact h.maskToReg (fun ps => BitVec.ofNat 64 ps.length) _ _ _ _
  | vmfirst => exact h.maskToReg firstNumber _ _ _ _
  | vmtocAny => exact h.maskToCond (fun n _ => 0 < n) _ _ _ _
  | vmtocAll => exact h.maskToCond (fun n t => n == t) _ _ _ _
  | vmtocNone => exact h.maskToCond (fun n _ => n == 0) _ _ _ _
  | vext => exact h.execVext _ _ _ _
  | mzero k n => exact h.execMzero k n
  | vcvt => exact h.execVcvt _ _ _ _ _ _
  | vbq => exact h.execVbq _ _ _ _ _ _
  | vmov | vpermRow => exact h.moveScales _ _ _ _ _ _ _ _
  | vmovSplat | vpermCol | vslideUp | vslideDown | vxpose | viota | viotaRow | viotaCol => exact h.move _ _ _ _ _ _
  | vins => exact h.execVins _ _ _ _
  | vred | vredAll => exact h.vectorWord _ (h.reduceAct _ _ _ _ _)
  | vscan => exact h.vectorWord _ (h.scanAct _ _ _ _ _)
  | vld | vldSt | vldZ | vldBc | vldB | vgather => exact h.vecLoad _ _ _ _ _ _ _ _ _
  | vst | vstSt | vstZ | vstBc | vstB | vscatter => exact h.vecStore _ _ _ _ _ _ _ _
  | vamoAdd | vamoMin | vamoMax | vamoAnd | vamoOr | vamoXor | vamoSwap | vamoFadd => exact h.vecAmo _ _ _ _ _ _ _ _
  | vcappIdx | vcappVal => exact h.vectorWord _ (h.cappAct _ _ _ _ _)
  | mldb => exact h.vectorWord _ (h.mldbAct _ _)
  | mdrain => exact h.vectorWord _ (h.mdrainAct _ _ _)
  | xwait => exact h.waitId _ _ _
  | gspawn | gsig => exact h.askMill _ _
  | trap => exact h.takeTrapAt _ _ _ _
  | stRel => exact h.execStRel _ _ _ _
  | ret => exact h.execRet
  | loop => exact h.execLoop _ _ _
  | vshape => exact h.execVshape _ _ _ _ _ _ _
  | vrel => exact h.execVrel
  | vbdq => exact h.execVbdq _ _ _ _ _ _
  | matt => exact h.execMatt _ _
  | mdet => exact h.execMdet
  | mclaim => exact h.execMclaim _
  | mrel => exact h.execMrel _
  | mma => exact h.execMma _ _ _ _
  | xcopy => exact h.execXcopy _ _ _ _ _ _
  | fence => exact h.execFence _ _
  | send => exact h.execSend _ _ _
  | recv => exact h.execRecv _ _
  | tend => exact h.execTend
  | uiret => exact h.execUiret
  | dcwb => exact h.execDcwb _ _
  | iinv => exact h.execIinv _ _
  | eret => exact h.execEret
  | mfs => exact h.execMfs _ _
  | mts => exact h.execMts _ _
  | wait => exact h.execWait
  | csave => exact h.execCsave _
  | cload => exact h.execCload _
  | tlbinv => exact h.execTlbinv _ _
  | bufferedWritePerform => exact h.execBufferedWritePerform _ _
  | vshapeLaneGrant => exact h.execVshapeLaneGrant _
  | fenceWaitEnd => exact h.execFenceWaitEnd _
  | tendWaitEnd => exact h.execTendWaitEnd _
  | tlbinvComplete => exact h.execTlbinvComplete _
  | iinvComplete => exact h.execIinvComplete _
  | dcwbComplete => exact h.execDcwbComplete _
  | xwaitRetire => exact h.execXwaitRetire _
  | xcopyEnqueue => exact h.execXcopyEnqueue _
  | copyCommandStart => exact h.execCopyCommandStart _ _ _
  | copyCommandComplete => exact h.execCopyCommandComplete _ _ _
  | vcappThresholdNotify => exact h.execVcappThresholdNotify _ _
  | grantRequest => exact h.execGrantRequest _
  | grantReply => exact h.execGrantReply _ _
  | messageArrival => exact h.execMessageArrival _ _
  | recvSlotFull => exact h.execRecvSlotFull _
  | waitWake => exact h.execWaitWake _
  | userInterruptTake => exact h.execUserInterruptTake _
  | queuedTrap => exact h.execQueuedTrap _
  | replayRerun => exact h.execReplayRerun _
  | preemptwinExpiry => exact h.execPreemptwinExpiry _
  | wholeSaveDone => exact h.execWholeSaveDone _
  | cloadLaneGrant => exact h.execCloadLaneGrant _
  | launchAccept => exact h.execLaunchAccept
  | taskEndByMill => exact h.execTaskEndByMill _
  | dispatchPick => exact h.execDispatchPick
  | taskStart => exact h.execTaskStart _
  | tendRetirement => exact h.execTendRetirement
  | completionWordWrite => exact h.execCompletionWordWrite _
  | spawnRequest => exact h.execSpawnRequest _
  | signalRequest => exact h.execSignalRequest _
  | moultRemap => exact h.execMoultRemap
  | migrationDone => exact h.execMigrationDone
  | bootRom => exact h.execBootRom
  | atflushDone => exact h.execAtflushDone
  | quoteReady => exact h.execQuoteReady
  | stringPowered => exact h.execStringPowered _
  | stringUnpowered => exact h.execStringUnpowered _
  | taskEndedByRuntime => exact h.execTaskEndedByRuntime _
  | convoyFetch => exact h.execConvoyFetch _
  | checkerMismatch => exact h.execCheckerMismatch _
  | uncorrectableError => exact h.execUncorrectableError _ _ _ _
  | launchWrite => exact h.execLaunchWrite _ _ _
  | adjunctRequest => exact h.execAdjunctRequest _ _ _
  | throttleDown => exact h.execThrottleDown _
  | throttleUp => exact h.execThrottleUp _
  | stringFloor => exact h.execStringFloor _
  | flitRetransmit => exact h.execFlitRetransmit _
  | portDown => exact h.execPortDown _
  | pageMigration => exact h.execPageMigration _ _ _ _
  | patrolVisit => exact h.execPatrolVisit _ _ _
  | semaRead => exact h.execSemaRead _
  | semaWrite => exact h.execSemaWrite _ _
  | registerWrite => exact h.execRegisterWrite _ _ _ _
  | resetGo => exact h.execResetGo _
  | atflushGo => exact h.execAtflushGo _
  | keycmdLoad => exact h.execKeycmdLoad _ _
  | keycmdEmpty => exact h.execKeycmdEmpty _ _
  | meascmdExtend => exact h.execMeascmdExtend _ _
  | qcmdGo => exact h.execQcmdGo _
  | partszWrite => exact h.execPartszWrite _ _ _
  | strcapWrite => exact h.execStrcapWrite _ _ _
  | strpwrWrite => exact h.execStrpwrWrite _ _ _
  | bar2Read => exact h.execBar2Read _ _
  | bar2Write => exact h.execBar2Write _ _ _
  | pcieLinkDown => exact h.execPcieLinkDown _
  | meshUncorrectableError => exact h.execMeshUncorrectableError _ _
  | planeDeathLearned => exact h.execPlaneDeathLearned _
  | unheldWritePerform => exact h.execUnheldWritePerform _ _

/-! ### A context's turn (R65, R194, R216, R294) -/

protected theorem runMembers (fuel : Nat) : Answers Rows32 (runMembers fuel s) := by
  induction fuel generalizing s with
  | zero => exact h
  | succ fuel ih =>
    unfold runMembers
    split
    · exact h
    · split
      · exact h.takeTrap _
      · rename_i i _
        have he := h.exec i
        split
        · rename_i t e
          have ht := he.of_next e
          exact answers_ite (ih ht) ht
        · exact he

protected theorem issueConvoy : Rows32 (issueConvoy s) :=
  h.mapCx fun hx => by
    split
    · split
      · exact Fits.same hx rfl rfl
      · exact hx
    · exact hx

protected theorem reissueConvoy (v : Convoy) : Answers Rows32 (reissueConvoy s v) := by
  unfold reissueConvoy
  refine answers_ite (h.takeTrap _) (answers_ite ?_ ?_)
  · exact answers_ite (Rows32.takeTrap h.mapSame _) (h.runMembers 4)
  · refine answers_ite h ?_
    split
    · exact h.issueConvoy.runMembers 4
    · exact (h.withChecks _ _).takeTrap _

protected theorem runConvoy : Answers Rows32 (runConvoy s) := by
  unfold runConvoy
  refine answers_ite (h.exec _) ?_
  split
  · exact h.reissueConvoy _
  · exact Rows32.reissueConvoy h.mapSame _
  · exact h.fetchConvoy.issueConvoy.runMembers 4

protected theorem runAhead (f : QueueFault) : Rows32 (runAhead s f) := by
  unfold runAhead; dsimp only
  refine rows_ite h ?_
  generalize e : fetchConvoy _ = t
  have ht : Rows32 t := by
    rw [← e]
    exact Rows32.fetchConvoy h.mapSame
  have hm := ht.runMembers 1
  split
  · exact h
  · refine rows_ite (rows_ite (Rows32.mapSame ht.mapSame) h) (rows_ite ?_ h)
    split
    · rename_i u eu
      exact rows_ite (hm.of_next eu).mapSame h
    · exact h

protected theorem runContext (c : Nat) : Answers Rows32 (runContext c s) := by
  have hc : Rows32 { s with cur := c } := h
  unfold runContext; dsimp only
  refine answers_ite h ?_
  split
  · exact hc.runAhead _
  · exact hc.runConvoy

/-! ### One step of the machine -/

protected theorem runMove (m : Move) : Answers Rows32 (runMove m s) := by
  cases m with
  | run c => exact h.runContext c
  | event i => exact answers_ite h (h.exec i)
  | deferNotify c => exact h.setSame c
  | notify c => exact h.setCtx c (fits_undefer (h c))
  | amoPause c e => exact h.setSame c
  | copyElement c k id m => exact h.within (fun _ ht => ht.copyElement k id m) c
  | readEarly => exact h.readEarly _ _ _ _
  | prefetch => exact h.prefetch _ _
  | endArrives => exact h.endArrives _
  | millLags => exact h.millLags _
  | millHears => exact h.millHears _
  | adjunctRuns => exact h.adjunctRuns _
  | bar2size => exact h.resizeBar2 _
  | msixControl => exact h.msixControl _ _ _
  | msixVector => exact h.msixVector _ _ _
  | lineCached => exact h.lineCached _ _
  | lineEvicted => exact h
  | peerRequest => exact h.peerRequest _
  | peerReply => exact h.peerReply _ _
  | peerWithdraw => exact h.peerWithdraw _
  | peerMessage => exact h.peerMessage _
  | peerDelivered => exact h.peerDelivered _
  | peerWrite => exact h.peerWrite _ _ _ _ _
  | peerKey => exact h.peerKey _ _ _
  | peerTable => exact h.peerTable _ _ _ _ _
  | coreRead => exact h.coreRead _ _
  | registerWrite => exact h.execRegisterWrite _ _ _ _
  | bar2Read => exact h.execBar2Read _ _
  | bar2Write => exact h.execBar2Write _ _ _
  | busRead => exact h.busRead _ _ _
  | busWrite => exact h.busWrite _ _ _ _

protected theorem runTurn : Answers Rows32 (runTurn s) := by
  have hi : Rows32 { s with tick := s.tick + 1, fromContext := false } := h
  have hc : Rows32 { s with tick := s.tick + 1, fromContext := true } := h
  have hs : Rows32 { s with tick := s.tick + 1 } := h
  unfold runTurn; dsimp only
  refine answers_ite ?_ ?_
  · split
    · exact hi.exec _
    · split
      · exact hc.runContext _
      · exact hs
  · split
    · exact hc.runContext _
    · split
      · exact hi.exec _
      · exact hs

protected theorem step : Answers Rows32 (step s) := by
  unfold step runStep
  split
  · exact Rows32.runMove (by exact h) _
  · split
    · exact Rows32.runMove (by exact h) _
    · exact h.runTurn

end
end Rows32

end Sys2Proof.Spec
end

section
/-! PROOF. No step gives a context, or its strip checkpoint, a shape of more than 32 rows (R73, R76, R77, R246). -/

namespace Sys2Proof

open Sys2Proof.Machine

/-- Settles O58: every instruction, event and move keeps the shapes (`Rows32.step`): a grant has at most two rows for each
of the core's 16 lanes, a cocoon's image is clamped, and a rewind takes the shape of the checkpoint, a copy of an earlier one. -/
theorem stepKeepsShapesWithinTheLanes : Obligations.StepKeepsShapesWithinTheLanes := by
  unfold Obligations.StepKeepsShapesWithinTheLanes
  intro s t hs ht
  exact hs.step.of_next ht

end Sys2Proof
end

section
/-! SUPPORT. Transfers of control: where they go, and the loops that they leave (R67, R70, R301). -/

namespace Sys2Proof.Machine

set_option Elab.async false

open Sys2Proof.Spec

theorem popLoops_eq_popped (target : Word) (loops : List LoopEntry) : popLoops target loops = popped target loops := by
  induction loops with
  | nil => rfl
  | cons l ls ih =>
    unfold popLoops popped
    rw [List.dropWhile_cons, ih]
    unfold popped
    by_cases h : (decide (l.start.toNat ≤ target.toNat) && decide (target.toNat ≤ l.stop.toNat)) = true
    · simp [h]
    · simp [h]

theorem branchTarget_eq {w : Nat} (pc : Word) (d : BitVec w) : branchTarget pc d = .ofInt 64 (pc.toNat + 4 * d.toInt) := by
  have h4 : d.signExtend 64 <<< 2 = BitVec.ofInt 64 (4 * d.toInt) := by
    rw [BitVec.ofInt_mul, BitVec.signExtend, BitVec.shiftLeft_eq_mul_twoPow, BitVec.mul_comm]
    rfl
  unfold branchTarget
  rw [h4, BitVec.ofInt_add, BitVec.ofInt_natCast, BitVec.ofNat_toNat, BitVec.setWidth_eq]

theorem relative_eq {w : Nat} (s : State) (d : BitVec w) : branchTarget s.cx.convoyStart d = relative s d :=
  branchTarget_eq _ _

/-- A word after which the context is at a place, with nothing else of it changed but what z changes. -/
theorem goes_of_mapCx {s : State} {i : Instr} {f : Context → Context} {pc : Word} (z : Context)
    (h : exec i s = .next (s.mapCx f))
    (hf : f s.cx = { z with pc := pc, cvy := none, wait := none, notice := (s.cx.goto pc).notice }) :
    ∃ t, exec i s = .next t ∧ OnlyCx s t ∧ WentTo s.cx t.cx pc ∧
      t.cx = { z with pc := pc, cvy := none, wait := none, notice := t.cx.notice } := by
  refine ⟨_, h, (s.mapCx_hasCx _).onlyCx, ?_⟩
  rw [State.mapCx_cx, hf]
  exact ⟨⟨rfl, rfl, rfl, Context.notice_goto s.cx pc⟩, rfl⟩

theorem Context.jump_eq (x : Context) (target : Word) : x.jump target =
    { x with loops := popped target x.loops, pc := target, cvy := none, wait := none, notice := (x.goto target).notice } := by
  unfold Context.jump
  rw [popLoops_eq_popped, Context.goto_eq]

/-- A taken transfer goes to its target and leaves the loops that do not hold it (R70). -/
theorem jumpsTo_of_jump {s : State} {i : Instr} {f : Context → Context} {target : Word}
    (h : exec i s = .next (s.mapCx f)) (hf : f s.cx = s.cx.jump target) : JumpsTo s i target :=
  goes_of_mapCx { s.cx with loops := popped target s.cx.loops } h (hf.trans (Context.jump_eq ..))

end Sys2Proof.Machine
end

section
/-! PROOF. Branches, jumps and loops (R66 to R68, R70, R322, R341, R342, R346). -/

namespace Sys2Proof.Machine

set_option Elab.async false

open Sys2Proof.Spec

theorem branchesAndJumps : BranchesAndJumps := by
  intro s c t h d j a
  refine ⟨?_, jumpsTo_of_jump rfl (by rw [relative_eq]), fun ha => ?_, fun ha => ⟨if_pos ha, if_pos ha⟩⟩
  · have hb : (s.cx.cond c = true ↔ t = 1) ↔ s.cx.cond c = (t == 1) := by
      generalize s.cx.cond c = b
      by_cases ht : t = 1 <;> cases b <;> simp [ht]
    split
    case isTrue taken => exact jumpsTo_of_jump rfl (by rw [if_pos (hb.1 taken), relative_eq])
    case isFalse untaken =>
      obtain ⟨r, hr, honly, hgo, hcx⟩ := goes_of_mapCx (i := .b c t h d) (pc := s.cx.nextPc) s.cx rfl
        ((if_neg fun taken => untaken (hb.2 taken)).trans (Context.goto_eq ..))
      exact ⟨r, hr, honly, hgo, hcx.trans (by rw [hgo.1])⟩
  · exact jumpsTo_of_jump (f := (·.jump (s.cx.reg a))) (if_neg (not_not_intro ha)) rfl

/-- LOOP's count: its immediate for s0, else the register's value (R346). -/
def loopCount (x : Context) (a : BitVec 5) (n : BitVec 10) : Word := if a = 0 then n.setWidth 64 else x.reg a

theorem loopCount_toNat (x : Context) (a : BitVec 5) (n : BitVec 10) :
    (loopCount x a n).toNat = if a = 0 then n.toNat else (x.reg a).toNat := by
  unfold loopCount
  split
  · exact BitVec.toNat_setWidth_of_le (by decide)
  · rfl

theorem exec_loop (s : State) (a : BitVec 5) (n l : BitVec 10) : exec (.loop a n l) s =
    if loopCount s.cx a n = 0 then .next (s.mapCx fun x => x.goto (s.cx.convoyStart + .ofNat 64 (4 * l.toNat) + 4))
    else if 3 ≤ s.cx.loops.length then .next (takeTrap s (.issue 0x0C 1))
    else .next (s.retireWith fun x => { x with loops :=
      { start := s.cx.convoyStart + 4, stop := s.cx.convoyStart + .ofNat 64 (4 * l.toNat)
        remaining := loopCount s.cx a n } :: x.loops }) := rfl

theorem loopPushesItsBody : LoopPushesItsBody := by
  intro s a n l hdef x count start stop
  have hcount : (loopCount x a n).toNat = count := loopCount_toNat x a n
  have hzero : loopCount x a n = 0 ↔ count = 0 := by
    rw [← hcount]
    exact BitVec.toNat_inj.symm
  refine ⟨fun h0 => ?_, fun h0 h3 => ?_, fun h0 h3 => ?_⟩
  · exact goes_of_mapCx x ((exec_loop ..).trans (if_pos (hzero.2 h0))) (Context.goto_eq ..)
  · have hstep := (exec_loop s a n l).trans ((if_neg fun h => h0 (hzero.1 h)).trans (if_neg (not_le.2 h3)))
    have hrem : BitVec.ofNat 64 count = loopCount x a n := by rw [← hcount, BitVec.ofNat_toNat, BitVec.setWidth_eq]
    rw [hrem]
    exact retires_of_retireWith hstep ⟨rfl, rfl, rfl, rfl⟩
  · exact (exec_loop ..).trans ((if_neg fun h => h0 (hzero.1 h)).trans (if_pos h3))

end Sys2Proof.Machine

namespace Sys2Proof

open Sys2Proof.Machine Sys2Proof.Spec

/-- Settles O13: a transfer by the context that it leaves, and LOOP by its count and the entries that are open. -/
theorem branchesJumpsAndLoops : Obligations.BranchesJumpsAndLoops := ⟨branchesAndJumps, loopPushesItsBody⟩

end Sys2Proof
end

section
/-! SUPPORT. What an access leaves behind in the page table, what a held store leaves of its context, and the early reads that
a load ends (R160, R182, R189). -/

namespace Sys2Proof.Machine

set_option Elab.async false

open Sys2Proof.Spec

/-! ### The leaf's A and D bits (R160) -/

/-- The leaf of the place gains A, and D for a write, and no other byte differs; the memory need not be in canonical form,
since the byte written is not 0. -/
theorem touch_touchesLeaf {s t : State} {a : Acc} {k : AccKind} {p : Place} (h : t.mem = (touch s a k p).mem) :
    TouchesLeaf s t p (if k.isWrite then 0xC0 else 0x40) fun _ => False := by
  have hbits (b : Byte) : b ||| (if k.isWrite then 0xC0 else 0x40) ≠ unlistedByte := by
    unfold unlistedByte
    split <;> revert b <;> decide
  have hmem : ∀ n, memRead t.mem n = match p.page with
      | none => memRead s.mem n
      | some e => if n = e.leaf then memRead s.mem e.leaf ||| (if k.isWrite then 0xC0 else 0x40) else memRead s.mem n := by
    intro n
    rw [h]
    unfold touch
    cases p.page with
    | none => rfl
    | some e =>
      show memRead (memWrite _ _ _) n = _
      unfold memWrite
      rw [if_neg (hbits _), memRead_insert]
  refine ⟨fun e he _ => ?_, fun n hn _ => ?_⟩
  · rw [hmem, he]; exact if_pos rfl
  · rw [hmem]
    cases he : p.page with
    | none => rfl
    | some e => exact if_neg (hn e he)

theorem touch_cx (s : State) (a : Acc) (k : AccKind) (p : Place) : (touch s a k p).cx = s.cx :=
  (touch_memoryOnly s a k p).cx

/-! ### Held stores (R81, R189) -/

/-- What a hold may change of its context: the writes under way, the strip and its checkpoint. -/
def HoldsOnly (x y : Context) : Prop := y = { x with pend := y.pend, held := y.held, strip := y.strip, ckpt := y.ckpt }

theorem HoldsOnly.trans {x y z : Context} (h : HoldsOnly x y) (g : HoldsOnly y z) : HoldsOnly x z := by
  unfold HoldsOnly at *; rw [g, h]

theorem commitIf_holdsOnly (p : Prop) [Decidable p] (s : State) : HoldsOnly s.cx (if p then forceCommit s else s).cx := by
  split
  · rw [forceCommit_cx]; rfl
  · rfl

theorem holdWrite_holdsOnly (s : State) (w : Write) : HoldsOnly s.cx (holdWrite s w).cx := by
  have hfit : HoldsOnly s.cx (if 131072 < s.cx.heldBytes + w.bytes.length then forceCommit s else s).cx :=
    commitIf_holdsOnly _ s
  unfold holdWrite
  generalize (if 131072 < s.cx.heldBytes + w.bytes.length then forceCommit s else s) = u at hfit ⊢
  refine hfit.trans (HoldsOnly.trans ?_ (commitIf_holdsOnly (131072 ≤ (u.mapCx fun x =>
    { x with held := x.held ++ [w] }).cx.heldBytes) _))
  rw [State.mapCx_cx]; rfl

/-! ### Early reads that a load ends (R182) -/

theorem dropEarly_ctxAt_other {s : State} {c m : Nat} (h : m ≠ c) (strm loc n : Nat) :
    (s.dropEarly c strm loc n).ctxAt m = s.ctxAt m := by
  unfold State.dropEarly
  split
  · rfl
  · rw [State.ctxAt_setCtx, if_neg h]

theorem dropEarly_subset (s : State) (c strm loc n : Nat) :
    ∀ e ∈ ((s.dropEarly c strm loc n).ctxAt c).early, e ∈ (s.ctxAt c).early := by
  unfold State.dropEarly
  split
  · exact fun _ he => he
  · rw [State.ctxAt_setCtx_self]
    exact fun _ he => List.mem_of_mem_filter he

/-! ### A clean scalar load (R160, R182, R245) -/

/-- The state in which a scalar load from a place has its value. -/
def loadState (s : State) (p : Place) (n : Nat) : State := (touch s (s.cx.acc s.cur) .load p).dropEarly s.cur 0 p.loc n

theorem loadState_rest (s : State) (p : Place) (n : Nat) : loadState s p n = { s with
    ctxs := (loadState s p n).ctxs, mem := (loadState s p n).mem, tlb := (loadState s p n).tlb
    plain := (loadState s p n).plain } := by
  unfold loadState
  rw [dropEarly_rest, touch_rest]

theorem loadState_cx (s : State) (p : Place) (n : Nat) :
    (loadState s p n).cx = { s.cx with early := (loadState s p n).cx.early } := by
  have hcur : (loadState s p n).cur = s.cur := by rw [loadState_rest]
  have h := dropEarly_early (touch s (s.cx.acc s.cur) .load p) s.cur 0 p.loc n s.cur
  rw [show (touch s (s.cx.acc s.cur) .load p).ctxAt s.cur = s.cx by rw [touch_rest]; rfl] at h
  have e : (loadState s p n).cx = (loadState s p n).ctxAt s.cur := by
    show State.ctxAt _ (State.cur _) = _
    rw [hcur]
  rw [e]
  exact h

theorem loadState_early (s : State) (p : Place) (n : Nat) : ∀ e ∈ (loadState s p n).cx.early, e ∈ s.cx.early := by
  have hcur : (loadState s p n).cur = s.cur := by rw [loadState_rest]
  have h := dropEarly_subset (touch s (s.cx.acc s.cur) .load p) s.cur 0 p.loc n
  rw [show (touch s (s.cx.acc s.cur) .load p).ctxAt s.cur = s.cx by rw [touch_rest]; rfl] at h
  show ∀ e ∈ (State.ctxAt _ (State.cur _)).early, _
  rw [hcur]
  exact h

theorem loadState_onlyCxMem (s : State) (p : Place) (n : Nat) : OnlyCxMem s (loadState s p n) id := by
  refine ⟨loadState_rest s p n, fun c hc => ?_⟩
  unfold loadState
  rw [dropEarly_ctxAt_other hc, touch_rest]; rfl

theorem loadState_touchesLeaf (s : State) (p : Place) (n : Nat) :
    TouchesLeaf s (loadState s p n) p 0x40 fun _ => False :=
  touch_touchesLeaf (k := .load) (dropEarly_mem _ _ _ _ _)

/-- A scalar load from a line without stored poison is its change with the value that is there. -/
theorem consume_touched_clean {s : State} {p : Place} {n : Nat} (f : State → Nat → State)
    (h : readsPoison s s.cx p n = false) :
    consume (touch s (s.cx.acc s.cur) .load p) 0 p n f =
      f (loadState s p n) (bytesVal (loadBytes (touch s (s.cx.acc s.cur) .load p) s.cx 0 p n)) := by
  have hp : readsPoison (touch s (s.cx.acc s.cur) .load p) s.cx p n = false := by rw [touch_rest]; exact h
  have hcur : (touch s (s.cx.acc s.cur) .load p).cur = s.cur := by rw [touch_rest]
  unfold consume
  rw [touch_cx, hp, hcur]
  rfl

/-! ### RSPILL (R72) -/

theorem alignSpill_toNat (a : Word) : (alignSpill a).toNat = a.toNat % 2 ^ 55 / 8 * 8 := by
  have hmask : (0x007FFFFFFFFFFFF8 : Word).toNat = (2 ^ 52 - 1) * 2 ^ 3 := rfl
  unfold alignSpill
  rw [BitVec.toNat_and, hmask]
  refine Nat.eq_of_testBit_eq fun i => ?_
  rw [Nat.testBit_and, Nat.testBit_mul_two_pow, Nat.testBit_two_pow_sub_one, show (8 : Nat) = 2 ^ 3 from rfl,
    Nat.testBit_mul_two_pow, Nat.testBit_div_two_pow, Nat.testBit_mod_two_pow]
  by_cases h3 : 3 ≤ i
  · rw [Nat.sub_add_cancel h3]
    have : (i - 3 < 52) ↔ i < 55 := by omega
    simp [h3, this, Bool.and_comm]
  · simp [h3]

end Sys2Proof.Machine
end

section
/-! PROOF. Calls and returns (R70, R71, R210, R216, R341, R342, R358). -/

namespace Sys2Proof.Machine

set_option Elab.async false

open Sys2Proof.Spec

/-! ### Pushing a return address, and spilling the oldest (R71) -/

/-- The state in which the oldest entry of a full store is held at the place of RSPILL. -/
def spillHeld (s : State) (p : Place) : State :=
  holdWrite (touch s (s.cx.acc s.cur) .store p) (p.write 0 (valBytes 8 (s.cx.ret.entries.getLastD 0).toNat))

/-- The state in which the oldest entry of a full store has been spilled. -/
def spillState (s : State) (p : Place) : State :=
  (spillHeld s p).mapCx fun y => { y with ret :=
    { entries := y.ret.entries.dropLast, spilled := countUp y.ret.spilled, spill := alignSpill (s.cx.ret.spill + 8) } }

theorem spillHeld_eq (s : State) (p : Place) :
    holdStore (touch s (s.cx.acc s.cur) .store p) p 0 3 (s.cx.ret.entries.getLastD 0) = spillHeld s p := by
  unfold holdStore spillHeld
  rfl

theorem spillOldest_room {s : State} (h : s.cx.ret.entries.length < 16) : spillOldest s = .ok s := if_pos h

theorem spillOldest_full {s : State} (h : 16 ≤ s.cx.ret.entries.length) : spillOldest s =
    match reach s (s.cx.acc s.cur) .store s.cx.ret.spill.toNat with
    | .error e => .error (spillTrap e s.cx.ret.spill)
    | .ok p => .ok (spillState s p) := by
  unfold spillOldest
  dsimp only
  rw [if_neg (not_lt.2 h)]
  simp only [spillHeld_eq]
  rfl

theorem spillHeld_holdsOnly (s : State) (p : Place) : HoldsOnly s.cx (spillHeld s p).cx := by
  have h := holdWrite_holdsOnly (touch s (s.cx.acc s.cur) .store p)
    (p.write 0 (valBytes 8 (s.cx.ret.entries.getLastD 0).toNat))
  rwa [touch_cx] at h

theorem spillHeld_ownWrites (s : State) (p : Place) : (spillHeld s p).cx.ownWrites =
    s.cx.ownWrites ++ [p.write 0 (valBytes 8 (s.cx.ret.entries.getLastD 0).toNat)] := by
  have h := (holdWrite_keeps (touch s (s.cx.acc s.cur) .store p)
    (p.write 0 (valBytes 8 (s.cx.ret.entries.getLastD 0).toNat))).2.2.1
  rwa [touch_cx] at h

theorem spillState_cx (s : State) (p : Place) : (spillState s p).cx = { (spillHeld s p).cx with ret :=
    { entries := s.cx.ret.entries.dropLast, spilled := countUp s.cx.ret.spilled
      spill := alignSpill (s.cx.ret.spill + 8) } } := by
  have hret : (spillHeld s p).cx.ret = s.cx.ret := by rw [spillHeld_holdsOnly s p]
  unfold spillState
  rw [State.mapCx_cx, hret]

theorem spillState_mem (s : State) (p : Place) : (spillState s p).mem = (touch s (s.cx.acc s.cur) .store p).mem := by
  have h := (holdWrite_keeps (touch s (s.cx.acc s.cur) .store p)
    (p.write 0 (valBytes 8 (s.cx.ret.entries.getLastD 0).toNat))).1
  rw [← h]
  rfl

theorem spillState_mapCx_touchesLeaf (s : State) (p : Place) (f : Context → Context) :
    TouchesLeaf s ((spillState s p).mapCx f) p 0xC0 fun _ => False := by
  have hmem : ((spillState s p).mapCx f).mem = (touch s (s.cx.acc s.cur) .store p).mem := by
    rw [← spillState_mem]
    rfl
  exact touch_touchesLeaf hmem

/-- RSPILL after a spill. -/
theorem spillNext_toNat (a : Word) : (alignSpill (a + 8)).toNat = (a.toNat + 8) / 8 * 8 % 2 ^ 55 := by
  rw [alignSpill_toNat]
  bv_omega

theorem countUp_toNat {n : BitVec 32} (h : n.toNat < 2 ^ 32 - 1) : (countUp n).toNat = n.toNat + 1 := by
  have hne : n ≠ BitVec.allOnes 32 := by
    rintro rfl
    exact absurd h (by decide)
  unfold countUp
  rw [if_neg hne]
  bv_omega

/-- A context that has pushed its return address and gone to a target. -/
def pushReturn (f : Context → Word) (x : Context) : Context :=
  { x.goto (f x) with ret := { x.ret with entries := (x.convoyStart + 4) :: x.ret.entries } }

theorem pushAndGo_ok {s t : State} (h : spillOldest s = .ok t) (f : Context → Word) :
    pushAndGo f s = t.mapCx (pushReturn f) := by
  unfold pushAndGo
  rw [h]
  rfl

theorem pushAndGo_error {s : State} {tr : Trap} (h : spillOldest s = .error tr) (f : Context → Word) :
    pushAndGo f s = takeTrap s tr := by
  unfold pushAndGo
  rw [h]

/-- What a word does that pushes a return address and goes to a target (R71, R341, R342). -/
theorem calls_of_pushAndGo {s : State} {i : Instr} {f : Context → Word} {target : Word}
    (h : exec i s = .next (pushAndGo f s))
    (hf : ∀ y : Context, y.pc = s.cx.pc → y.cvy = s.cx.cvy → f y = target) :
    let x := s.cx
    (x.ret.entries.length < 16 → ∃ t, exec i s = .next t ∧ OnlyCx s t ∧ WentTo x t.cx target ∧
      t.cx = { x with ret := { x.ret with entries := (x.convoyStart + 4) :: x.ret.entries }, pc := target, cvy := none,
                      wait := none, notice := t.cx.notice }) ∧
    (16 ≤ x.ret.entries.length → ∀ e, reach s (x.acc s.cur) .store x.ret.spill.toNat = .error e →
      exec i s = .next (takeTrap s (if e = 0x14 then trapOf 0x14 0 else trapOf 0x15 x.ret.spill))) ∧
    (∀ p old front, x.ret.entries = front ++ [old] → front.length = 15 →
      reach s (x.acc s.cur) .store x.ret.spill.toNat = .ok p →
      ∃ t, exec i s = .next t ∧ WentTo x t.cx target ∧ TouchesLeaf s t p 0xC0 (fun _ => False) ∧
        t.cx.ret.entries = (x.convoyStart + 4) :: front ∧
        t.cx.ret.spill.toNat = (x.ret.spill.toNat + 8) / 8 * 8 % 2 ^ 55 ∧
        (x.ret.spilled.toNat < 2 ^ 32 - 1 → t.cx.ret.spilled.toNat = x.ret.spilled.toNat + 1) ∧
        t.cx.pend ++ t.cx.held = x.pend ++ x.held ++
          [{ strm := 0, loose := false, loc := p.loc, key := p.key, enc := p.enc, bytes := valBytes 8 old.toNat, nib := none
             pin := (p.page.map (·.pin)).getD false, cls := p.cls, acc := none }] ∧
        t.cx.regs = x.regs ∧ t.cx.conds = x.conds ∧ t.cx.fp = x.fp ∧ t.cx.loops = x.loops ∧ t.cx.trap = x.trap ∧
        t.cx.ui = x.ui) := by
  intro x
  refine ⟨fun hroom => ?room, fun hfull e he => ?failing, fun p old front hentries hlen hp => ?spilling⟩
  case room =>
    refine goes_of_mapCx { x with ret := { x.ret with entries := (x.convoyStart + 4) :: x.ret.entries } }
      (h.trans (congrArg _ (pushAndGo_ok (spillOldest_room hroom) f))) ?_
    unfold pushReturn
    rw [hf s.cx rfl rfl, Context.goto_eq]
  case failing =>
    exact h.trans (congrArg _ (pushAndGo_error ((spillOldest_full hfull).trans (by rw [he]; rfl)) f))
  case spilling =>
    have hfull : 16 ≤ x.ret.entries.length := by rw [hentries, List.length_append, hlen]; rfl
    have hstep := h.trans (congrArg _ (pushAndGo_ok ((spillOldest_full hfull).trans (by rw [hp])) f))
    have leaf := spillState_mapCx_touchesLeaf s p (pushReturn f)
    refine ⟨_, hstep, ?_⟩
    have hcx := spillState_cx s p
    have hold := spillHeld_holdsOnly s p
    have hown := spillHeld_ownWrites s p
    rw [hentries, List.getLastD_concat] at hown
    have hgo : f (spillState s p).cx = target := hf _ (by rw [hcx, hold]) (by rw [hcx, hold])
    have hstart : (spillState s p).cx.convoyStart = x.convoyStart := by rw [hcx, hold]; rfl
    have hnotice : ((spillState s p).cx.goto target).notice = noticeAfter x := by
      rw [Context.notice_goto, hcx, hold]; rfl
    rw [State.mapCx_cx]
    clear hstep
    generalize (spillState s p).cx = w at hcx hgo hstart hnotice ⊢
    generalize (spillHeld s p).cx = y at hcx hold hown
    unfold pushReturn
    rw [hgo, hstart, Context.goto_eq]
    refine ⟨⟨rfl, rfl, rfl, hnotice⟩, leaf, ?_⟩
    rw [hcx, hentries, List.dropLast_concat]
    dsimp only
    refine ⟨rfl, spillNext_toNat _, countUp_toNat, hown, ?_⟩
    rw [hold]
    exact ⟨rfl, rfl, rfl, rfl, rfl, rfl⟩

theorem linksPushTheReturnAddress : LinksPushTheReturnAddress := by
  intro s d a ha
  refine ⟨calls_of_pushAndGo rfl fun y hpc hcvy => ?_, calls_of_pushAndGo (if_neg (not_not_intro ha)) fun _ _ _ => rfl⟩
  have hstart : y.convoyStart = s.cx.convoyStart := by unfold Context.convoyStart; rw [hpc, hcvy]
  rw [hstart, relative_eq]

/-! ### RET (R71, R358) -/

/-- RET to an aligned entry: the loops that do not hold it are left, and the store is as given. -/
theorem returnTo_aligned {t : Word} (h : t.toNat % 4 = 0) (ret : RetStore) (s : State) :
    returnTo t ret s = s.mapCx fun x => { x.jump t with ret := ret } := if_neg (not_not_intro h)

theorem returnTo_misaligned {t : Word} (h : t.toNat % 4 ≠ 0) (ret : RetStore) (s : State) :
    returnTo t ret s = takeTrap s (trapOf 0x04 t) := if_pos h

theorem exec_ret_cons {s : State} {r : Word} {rest : List Word} (h : s.cx.ret.entries = r :: rest) :
    exec .ret s = .next (returnTo r { s.cx.ret with entries := rest } s) := by
  show execRet s = _
  unfold execRet
  dsimp only
  rw [h]

theorem exec_ret_nil {s : State} (h : s.cx.ret.entries = []) :
    exec .ret s =
      if s.cx.ret.spilled = 0 then .next (takeTrap s (trapOf 0x0D 0))
      else match reach s (s.cx.acc s.cur) .load (alignSpill (s.cx.ret.spill - 8)).toNat with
        | .error e => .next (takeTrap s (spillTrap e (alignSpill (s.cx.ret.spill - 8))))
        | .ok p =>
          if !mayRead s s.cur 0 p 8 then .next s
          else .next (consume (touch s (s.cx.acc s.cur) .load p) 0 p 8 fun t v => returnTo (BitVec.ofNat 64 v)
            { entries := [], spilled := s.cx.ret.spilled - 1, spill := alignSpill (s.cx.ret.spill - 8) } t) := by
  show execRet s = _
  unfold execRet
  dsimp only
  rw [h]
  rfl

/-- The address of a refill (log entry 97). -/
theorem refillAddress_toNat (a : Word) : (alignSpill (a - 8)).toNat = (a.toNat + 2 ^ 64 - 8) % 2 ^ 55 / 8 * 8 := by
  rw [alignSpill_toNat]
  bv_omega

theorem loadState_mapCx_onlyCxMem (s : State) (p : Place) (n : Nat) (f : Context → Context) :
    OnlyCxMem s ((loadState s p n).mapCx f) id := by
  obtain ⟨hrest, hother⟩ := loadState_onlyCxMem s p n
  have hcur : (loadState s p n).cur = s.cur := by rw [loadState_rest]
  refine ⟨?_, fun c hc => ?_⟩
  · exact ((loadState s p n).mapCx_hasCx f).onlyCx.1.trans (by rw [hrest]; rfl)
  · rw [State.ctxAt_mapCx, hcur, if_neg hc, hother c hc]

theorem retTakesTheNewestEntry : RetTakesTheNewestEntry := by
  intro s x
  refine ⟨fun r rest hr ha => ?_, fun r rest hr ha => ?_, fun hr h0 => ?_, fun hr h0 => ?_⟩
  · exact goes_of_mapCx { x with ret := { x.ret with entries := rest }, loops := popped r x.loops }
      ((exec_ret_cons hr).trans (by rw [returnTo_aligned ha])) (by rw [Context.jump_eq])
  · exact (exec_ret_cons hr).trans (by rw [returnTo_misaligned ha])
  · exact (exec_ret_nil hr).trans (if_pos h0)
  · intro va
    have hva : (alignSpill (x.ret.spill - 8)).toNat = va := refillAddress_toNat _
    have hword : alignSpill (x.ret.spill - 8) = .ofNat 64 va := by
      rw [← hva, BitVec.ofNat_toNat, BitVec.setWidth_eq]
    have hret := (exec_ret_nil hr).trans (if_neg h0)
    rw [hva] at hret
    refine ⟨fun e he => ?_, fun p hp hmay => ?_, fun p hp hmay hclean => ?_⟩
    · rw [hret, he, hword]
      rfl
    · rw [hret, hp]
      exact if_pos (by rw [hmay]; rfl)
    · intro r
      have hstep : exec .ret s = .next (returnTo r
          { entries := [], spilled := x.ret.spilled - 1, spill := .ofNat 64 va } (loadState s p 8)) := by
        rw [hret, hp]
        dsimp only
        rw [hmay, consume_touched_clean _ hclean, hword]
        rfl
      refine ⟨fun ha => ?_, fun ha => ?_⟩
      · rw [returnTo_aligned ha] at hstep
        refine ⟨_, hstep, loadState_mapCx_onlyCxMem s p 8 _, loadState_touchesLeaf s p 8, ?_⟩
        rw [State.mapCx_cx, Context.jump_eq, loadState_cx]
        exact ⟨⟨rfl, rfl, rfl, Context.notice_goto _ r⟩, loadState_early s p 8, rfl⟩
      · rw [returnTo_misaligned ha] at hstep
        exact ⟨_, hstep, loadState_onlyCxMem s p 8, loadState_touchesLeaf s p 8, loadState_early s p 8, loadState_cx s p 8⟩

end Sys2Proof.Machine

namespace Sys2Proof

open Sys2Proof.Machine Sys2Proof.Spec

/-- Settles O12: a push by the room in the store and its spill, and RET by the newest entry or its refill. -/
theorem callsAndReturns : Obligations.CallsAndReturns := ⟨linksPushTheReturnAddress, retTakesTheNewestEntry⟩

end Sys2Proof
end

section
/-! PROOF. Module reset (R83, R202, R215, R224, R242, R281, R285, R286, R288). -/

namespace Sys2Proof.Machine

set_option Elab.async false

open Sys2Proof.Spec

theorem reset_inv : State.reset.Inv := rfl

/-- Every context is as a fresh one, with shape and checkpoint of no rows. -/
theorem reset_rows32 : Rows32 State.reset := fun _ => ⟨Nat.zero_le 32, Nat.zero_le 32⟩

/-- Class c of the fabric's map is bits 2c + 1:2c of a constant. -/
theorem reset_map : ∀ b < 64, State.reset.fab.map.toNat / 4 ^ b % 4 = b % 4 := by decide

end Sys2Proof.Machine

namespace Sys2Proof

open Sys2Proof.Machine Sys2Proof.Spec

/-- Settles O60: each value is the one that the reset blocks hold. -/
theorem resetLeavesTheResetValues : Obligations.ResetLeavesTheResetValues := by
  refine ⟨reset_inv, reset_rows32, fun _ => rfl, ?context, ?core, reset_map, rfl, ?string, fun _ _ => rfl, ?host⟩
  case context => exact fun _ => ⟨rfl, rfl, rfl, rfl, rfl, rfl, rfl, rfl, rfl, rfl, rfl, rfl⟩
  case core => exact fun _ => ⟨rfl, rfl, rfl⟩
  case string => exact fun _ _ => ⟨rfl, rfl, rfl, rfl⟩
  case host =>
    exact ⟨rfl, rfl, fun _ hq => List.eq_of_mem_replicate (n := 3) hq, rfl, rfl, rfl, rfl, rfl, rfl, rfl, rfl, rfl, rfl, rfl,
      fun _ hm => List.eq_of_mem_replicate (n := 16) hm, rfl, rfl, rfl, rfl⟩

end Sys2Proof
end

section
/-! PROOF. The issue checks of the vector and matrix words (R74, R75, R91, R100, R303 to R309, R363). -/

namespace Sys2Proof.Machine

set_option Elab.async false

open Sys2Proof.Spec

/-! ### The check that every vector word shares (R363) -/

theorem vectorCheck_eq_some {x : Context} {word : Nat} {vregs : List Nat} {dest : Option Nat} {masked legal : Bool}
    (h : x.vtype.ill = true ∨ (∃ r ∈ vregs, r % x.group ≠ 0) ∨ (masked = true ∧ dest = some 0) ∨ legal = false) :
    x.vectorCheck word vregs dest masked legal = some (x.illegalType word) := by
  have hany : (∃ r ∈ vregs, r % x.group ≠ 0) → (vregs.any fun n => n % x.group ≠ 0) = true := fun ⟨r, hr, hg⟩ =>
    List.any_eq_true.2 ⟨r, hr, decide_eq_true hg⟩
  unfold Context.vectorCheck
  split_ifs with hill hgroup hmask hlegal
  · rfl
  · rfl
  · rfl
  · rfl
  · rcases h with h | h | ⟨hm, hd⟩ | h
    · exact absurd h hill
    · exact absurd (hany h) hgroup
    · exact absurd (by rw [hm, hd]; rfl) hmask
    · exact absurd (by rw [h]; rfl) hlegal

/-- A word that makes the check that every vector word shares before any other. -/
def ChecksVector (s : State) (i : Instr) (vregs : List Nat) (dest : Option Nat) (masked legal : Bool) : Prop :=
  ∃ check act, exec i s = vectorWord check act s ∧
    ∀ tr, s.cx.vectorCheck (wordOf i) vregs dest masked legal = some tr → check = some tr

theorem ChecksVector.refuses {s : State} {i : Instr} {vregs : List Nat} {dest : Option Nat} {masked legal : Bool}
    (h : ChecksVector s i vregs dest masked legal) (hp : s.cx.passed = false)
    (bad : s.cx.vtype.ill = true ∨ (∃ r ∈ vregs, r % s.cx.group ≠ 0) ∨ (masked = true ∧ dest = some 0) ∨ legal = false) :
    exec i s = .next (takeTrap s (illegalWord s i)) := by
  obtain ⟨check, act, hexec, hcheck⟩ := h
  rw [hexec, hcheck _ (vectorCheck_eq_some bad)]
  unfold vectorWord
  rw [hp]
  rfl

/-! ### Each kind of word -/

section
variable {s : State} {i : Instr} {d a b t : BitVec 5} {m q : BitVec 1} {g o : BitVec 3}

/-- A word with no check but the shared one. -/
theorem checksVector_of_eq {vregs : List Nat} {dest : Option Nat} {masked legal : Bool} {act : State → State}
    (h : exec i s = vectorWord (s.cx.vectorCheck (wordOf i) vregs dest masked legal) act s) :
    ChecksVector s i vregs dest masked legal := ⟨_, act, h, fun _ => id⟩

theorem maskToReg_checks {f : List (Nat × Nat × Nat) → Word} (h : exec i s = maskToReg f i d a m s) :
    ChecksVector s i [a.toNat] none false (!isStorage s.cx.et) := checksVector_of_eq h

theorem maskToCond_checks {f : Nat → Nat → Bool} {c : BitVec 3} (h : exec i s = maskToCond f i c a m s) :
    ChecksVector s i [a.toNat] none false (!isStorage s.cx.et) := checksVector_of_eq h

theorem vext_checks (k : BitVec 1) : ChecksVector s (.vext k d a b) [a.toNat] none false
    (notBlocked s.cx && (s.cx.src b).toNat < s.cx.inShape) :=
  ⟨elementCheck (.vext k d a b) a b s.cx, fun s => s.mapCx fun x =>
    (x.setReg d (extendElem x.et (x.elemNo a.toNat (x.src b).toNat))).retireMember, rfl, fun _ => id⟩

theorem vins_checks (k : BitVec 1) : ChecksVector s (.vins k d a b) [d.toNat] none false
    (notBlocked s.cx && (s.cx.src b).toNat < s.cx.inShape) :=
  ⟨elementCheck (.vins k d a b) d b s.cx, fun s => (allocate s (s.cx.groupRegs d.toNat)).mapCx fun x =>
    (x.putElem d.toNat (x.src b).toNat (x.src a).toNat).retireMember, rfl, fun _ => id⟩

theorem vmemCheck_of_vectorCheck {mode : VMode} {ak : AccKind} {vregs : List Nat} {dest : Option Nat} {legal : Nat → Bool}
    {tr : Trap} (h : s.cx.vectorCheck (wordOf i) vregs dest (m == 1)
      ((s.cx.vmem mode a b).legal s.cx && legal s.cx.et) = some tr) :
    vmemCheck mode ak i a b vregs dest m legal s = some tr := by
  unfold vmemCheck
  dsimp only
  rw [h]

theorem vecLoad_checks {mode : VMode} (h : exec i s = vecLoad mode i d a b m q g (loadCheck mode i d a b m s) s) :
    ChecksVector s i (if mode = .index then [d.toNat, b.toNat] else [d.toNat]) (some d.toNat) (m == 1)
      ((s.cx.vmem mode a b).legal s.cx && true) := ⟨_, _, h, fun _ => vmemCheck_of_vectorCheck (legal := fun _ => true)⟩

theorem vecStore_checks {mode : VMode} (h : exec i s = vecStore mode i d a b m g (storeCheck mode i d a b m s) s) :
    ChecksVector s i (if mode = .index then [d.toNat, b.toNat] else [d.toNat]) none (m == 1)
      ((s.cx.vmem mode a b).legal s.cx && true) := ⟨_, _, h, fun _ => vmemCheck_of_vectorCheck (legal := fun _ => true)⟩

theorem vecAmo_checks {op : VAmo} (h : exec i s = vecAmo op i d a b m q g s) :
    ChecksVector s i [d.toNat, b.toNat] (some d.toNat) (m == 1)
      ((s.cx.vmem .index a b).legal s.cx && op.legal s.cx.et) := ⟨_, _, h, fun _ => vmemCheck_of_vectorCheck⟩

theorem vcapp_checks {v : Option (BitVec 5)} {act : State → State} (h : exec i s = vectorWord (cappCheck i v a s) act s) :
    ChecksVector s i (v.toList.map (·.toNat)) none false (v.isNone || !isBlocked s.cx.et) := by
  refine ⟨_, act, h, fun tr htr => ?_⟩
  unfold cappCheck
  dsimp only
  rw [htr]

theorem mldb_checks {act : State → State} (h : exec i s = vectorWord (mldbCheck i a b s) act s) :
    ChecksVector s i [b.toNat] none false (isMatrixType s.cx.et) := by
  refine ⟨_, act, h, fun tr htr => ?_⟩
  unfold mldbCheck
  dsimp only
  rw [htr]

theorem mma_checks {act : State → State} (h : exec i s = vectorWord (mmaCheck i d a s) act s) :
    ChecksVector s i [d.toNat] none false (isMatrixType s.cx.et) := by
  refine ⟨_, act, h, fun tr htr => ?_⟩
  unfold mmaCheck
  dsimp only
  rw [htr]

theorem mdrain_checks {act : State → State} (h : exec i s = vectorWord (mdrainCheck i d s) act s) :
    ChecksVector s i [d.toNat] none false (!isBlocked s.cx.et) := by
  refine ⟨_, act, h, fun tr htr => ?_⟩
  unfold mdrainCheck
  dsimp only
  rw [htr]

end

/-! ### The words that stand in lists -/

section
variable (s : State) (k : BitVec 1) (d a b t : BitVec 5) (m q : BitVec 1) (g o c : BitVec 3) (n : BitVec 2)

/-- The words from a mask to scalar state (R124). -/
theorem counts_checks : ∀ i ∈ [Instr.vmpop k d a m q, .vmfirst k d a m q, .vmtocAny k c a m q, .vmtocAll k c a m q,
    .vmtocNone k c a m q], ChecksVector s i [a.toNat] none false (!isStorage s.cx.et) := by
  simp only [List.forall_mem_cons, List.not_mem_nil, false_imp_iff, implies_true, and_true]
  exact ⟨maskToReg_checks (f := fun ps => BitVec.ofNat 64 ps.length) rfl, maskToReg_checks (f := firstNumber) rfl,
    maskToCond_checks (f := fun n _ => 0 < n) rfl, maskToCond_checks (f := fun n t => n == t) rfl,
    maskToCond_checks (f := fun n _ => n == 0) rfl⟩

theorem arithVV_checks : ∀ e ∈ arithVV k d a b m q,
    ChecksVector s e.1 [d.toNat, a.toNat, b.toNat] (some d.toNat) (m == 1) (e.2.legal s.cx.et) := by
  simp only [arithVV, List.forall_mem_cons, List.not_mem_nil, false_imp_iff, implies_true, and_true]
  and_intros <;> exact checksVector_of_eq rfl

theorem arithVS_checks : ∀ e ∈ arithVS k d a b m q,
    ChecksVector s e.1 [d.toNat, a.toNat] (some d.toNat) (m == 1) (e.2.legal s.cx.et) := by
  simp only [arithVS, List.forall_mem_cons, List.not_mem_nil, false_imp_iff, implies_true, and_true]
  and_intros <;> exact checksVector_of_eq rfl

theorem arithV_checks : ∀ e ∈ arithV k d a m q,
    ChecksVector s e.1 [d.toNat, a.toNat] (some d.toNat) (m == 1) (e.2.legal s.cx.et) := by
  simp only [arithV, List.forall_mem_cons, List.not_mem_nil, false_imp_iff, implies_true, and_true]
  and_intros <;> exact checksVector_of_eq rfl

theorem loadForms_checks : ∀ e ∈ loadForms k d a b m q g, ∃ b',
    ChecksVector s e.1 (if e.2 = .index then [d.toNat, b.toNat] else [d.toNat]) (some d.toNat) (m == 1)
      ((s.cx.vmem e.2 a b').legal s.cx && true) := by
  intro e he
  simp only [loadForms, List.mem_cons, List.not_mem_nil, or_false] at he
  rcases he with rfl | rfl | rfl | rfl | rfl | rfl <;> exact ⟨_, vecLoad_checks rfl⟩

theorem storeForms_checks : ∀ e ∈ storeForms k d a b m q g, ∃ b',
    ChecksVector s e.1 (if e.2 = .index then [d.toNat, b.toNat] else [d.toNat]) none (m == 1)
      ((s.cx.vmem e.2 a b').legal s.cx && true) := by
  intro e he
  simp only [storeForms, List.mem_cons, List.not_mem_nil, or_false] at he
  rcases he with rfl | rfl | rfl | rfl | rfl | rfl <;> exact ⟨_, vecStore_checks rfl⟩

theorem vamoForms_checks : ∀ e ∈ vamoForms k d a b m q g,
    ChecksVector s e.1 [d.toNat, b.toNat] (some d.toNat) (m == 1)
      ((s.cx.vmem .index a b).legal s.cx && e.2.legal s.cx.et) := by
  simp only [vamoForms, List.forall_mem_cons, List.not_mem_nil, false_imp_iff, implies_true, and_true]
  and_intros <;> exact vecAmo_checks rfl

end

end Sys2Proof.Machine
end

section
/-! PROOF. Trap 0x03 at the issue of a vector or matrix word (R74, R91, R100, R363). -/

namespace Sys2Proof.Machine

set_option Elab.async false

open Sys2Proof.Spec

/-! ### Registers of groups, and the masked destination (R74, R363) -/

/-- A word checks these registers as the first of their groups, and its destination d against a mask. -/
def ChecksGroups (s : State) (d : BitVec 5) (m : BitVec 1) (e : Instr × List (BitVec 5) × Bool) : Prop :=
  ∃ dest masked legal, ChecksVector s e.1 (e.2.1.map (·.toNat)) dest masked legal ∧
    (e.2.2 = true → dest = some d.toNat ∧ masked = (m == 1))

section
variable {s : State} {d : BitVec 5} {m : BitVec 1}

theorem ChecksGroups.refuses {e : Instr × List (BitVec 5) × Bool} (h : ChecksGroups s d m e) (hp : s.cx.passed = false)
    (bad : s.cx.vtype.ill = true ∨ (∃ r ∈ e.2.1, r.toNat % s.cx.group ≠ 0) ∨ (e.2.2 = true ∧ m = 1 ∧ d = 0)) :
    exec e.1 s = .next (takeTrap s (illegalWord s e.1)) := by
  obtain ⟨dest, masked, legal, hcheck, hdest⟩ := h
  refine hcheck.refuses hp ?_
  rcases bad with hill | ⟨r, hr, hgroup⟩ | ⟨hd, rfl, rfl⟩
  · exact .inl hill
  · exact .inr (.inl ⟨r.toNat, List.mem_map_of_mem hr, hgroup⟩)
  · obtain ⟨rfl, rfl⟩ := hdest hd
    exact .inr (.inr (.inl ⟨rfl, rfl⟩))

/-- Words that write a group: none is masked at v0. -/
theorem checksGroups_masked {is : List Instr} {regs : List (BitVec 5)}
    (h : ∀ i ∈ is, ∃ legal, ChecksVector s i (regs.map (·.toNat)) (some d.toNat) (m == 1) legal) :
    ∀ e ∈ is.map fun i => (i, regs, true), ChecksGroups s d m e :=
  List.forall_mem_map.2 fun i hi => let ⟨legal, hc⟩ := h i hi; ⟨_, _, legal, hc, fun _ => ⟨rfl, rfl⟩⟩

/-- Words that write no group, or one that no mask guards. -/
theorem checksGroups_unmasked {is : List Instr} {regs : List (BitVec 5)}
    (h : ∀ i ∈ is, ∃ masked legal, ChecksVector s i (regs.map (·.toNat)) none masked legal) :
    ∀ e ∈ is.map fun i => (i, regs, false), ChecksGroups s d m e :=
  List.forall_mem_map.2 fun i hi => let ⟨masked, legal, hc⟩ := h i hi; ⟨_, masked, legal, hc, fun h => nomatch h⟩

/-- The words of a list with their operations. -/
theorem names_checks {l : List (Instr × VFn)} {vregs : List Nat}
    (h : ∀ e ∈ l, ChecksVector s e.1 vregs (some d.toNat) (m == 1) (e.2.legal s.cx.et)) :
    ∀ i ∈ l.map (·.1), ∃ legal, ChecksVector s i vregs (some d.toNat) (m == 1) legal :=
  List.forall_mem_map.2 fun e he => ⟨_, h e he⟩

end

section
variable (s : State) (k : BitVec 1) (d a b t : BitVec 5) (m q : BitVec 1) (g o c : BitVec 3) (n : BitVec 2)

/-- The words of R363 that write the group at d and read two groups. -/
theorem threeGroups_checks : ∀ i ∈ (arithVV k d a b m q).map (·.1) ++
    [.vcmpVV k d a b m q o, .vmlogAnd k d a b m q, .vmlogOr k d a b m q, .vmlogXor k d a b m q, .vmlogAndn k d a b m q,
     .vmlogOrn k d a b m q, .vpermRow k d a b m q, .vpermCol k d a b m q],
    ∃ legal, ChecksVector s i [d.toNat, a.toNat, b.toNat] (some d.toNat) (m == 1) legal := by
  refine List.forall_mem_append.2 ⟨names_checks (arithVV_checks s k d a b m q), ?_⟩
  simp only [List.forall_mem_cons, List.not_mem_nil, false_imp_iff, implies_true, and_true]
  and_intros <;> exact ⟨_, checksVector_of_eq rfl⟩

/-- The words that write the group at d and read one. -/
theorem twoGroups_checks : ∀ i ∈ (arithVS k d a b m q).map (·.1) ++ (arithV k d a m q).map (·.1) ++
    [.vcmpVS k d a b m q o, .vmlogNot k d a m q, .vcvt k d a m q t, .vbq k d a m q t, .vbdq k d a m q t, .vmov k d a m q,
     .vslideUp k d a b m q, .vslideDown k d a b m q, .vxpose k d a m q, .vred k d a m q o, .vredAll k d a m q o,
     .vscan k d a m q o],
    ∃ legal, ChecksVector s i [d.toNat, a.toNat] (some d.toNat) (m == 1) legal := by
  refine List.forall_mem_append.2 ⟨List.forall_mem_append.2 ⟨names_checks (arithVS_checks s k d a b m q),
    names_checks (arithV_checks s k d a m q)⟩, ?_⟩
  simp only [List.forall_mem_cons, List.not_mem_nil, false_imp_iff, implies_true, and_true]
  and_intros <;> exact ⟨_, checksVector_of_eq rfl⟩

theorem groupWords_checks : ∀ e ∈ groupWords k d a b t m q g o c n, ChecksGroups s d m e := by
  have moves : ∀ i ∈ [Instr.vmlogSet k d m q, .vmlogClear k d m q, .vmovSplat k d b m q, .viota k d m q, .viotaRow k d m q,
      .viotaCol k d m q], ∃ legal, ChecksVector s i [d.toNat] (some d.toNat) (m == 1) legal := by
    simp only [List.forall_mem_cons, List.not_mem_nil, false_imp_iff, implies_true, and_true]
    and_intros <;> exact ⟨_, checksVector_of_eq rfl⟩
  have loads : ∀ i ∈ [Instr.vld k d a b m q g, .vldSt k d a b m q g, .vldZ k d a b m q g, .vldBc k d a m q g,
      .vldB k d a b m q g], ∃ legal, ChecksVector s i [d.toNat] (some d.toNat) (m == 1) legal := by
    simp only [List.forall_mem_cons, List.not_mem_nil, false_imp_iff, implies_true, and_true]
    exact ⟨⟨_, vecLoad_checks (mode := .unit) rfl⟩, ⟨_, vecLoad_checks (mode := .strided) rfl⟩,
      ⟨_, vecLoad_checks (mode := .zorder) rfl⟩, ⟨_, vecLoad_checks (mode := .bcast) rfl⟩,
      ⟨_, vecLoad_checks (mode := .blocked) rfl⟩⟩
  have amos : ∀ i ∈ .vgather k d a b m q g :: (vamoForms k d a b m q g).map (·.1),
      ∃ legal, ChecksVector s i [d.toNat, b.toNat] (some d.toNat) (m == 1) legal :=
    List.forall_mem_cons.2 ⟨⟨_, vecLoad_checks (mode := .index) rfl⟩,
      List.forall_mem_map.2 fun e he => ⟨_, vamoForms_checks s k d a b m q g e he⟩⟩
  have counts : ∀ i ∈ [Instr.vmpop k d a m q, .vmfirst k d a m q, .vmtocAny k c a m q, .vmtocAll k c a m q,
      .vmtocNone k c a m q] ++ [.vext k d a b], ∃ masked legal, ChecksVector s i [a.toNat] none masked legal :=
    List.forall_mem_append.2 ⟨fun i hi => ⟨_, _, counts_checks s k d a m q c i hi⟩,
      List.forall_mem_singleton.2 ⟨_, _, vext_checks k⟩⟩
  have readers : ∀ i ∈ [Instr.vst k d a b m q g, .vstSt k d a b m q g, .vstZ k d a b m q g, .vstBc k d a m q g,
      .vstB k d a b m q g, .vins k d a b, .vcappVal k d a m q g, .mma k d a n, .mdrain k d b n],
      ∃ masked legal, ChecksVector s i [d.toNat] none masked legal := by
    simp only [List.forall_mem_cons, List.not_mem_nil, false_imp_iff, implies_true, and_true]
    exact ⟨⟨_, _, vecStore_checks (mode := .unit) rfl⟩, ⟨_, _, vecStore_checks (mode := .strided) rfl⟩,
      ⟨_, _, vecStore_checks (mode := .zorder) rfl⟩, ⟨_, _, vecStore_checks (mode := .bcast) rfl⟩,
      ⟨_, _, vecStore_checks (mode := .blocked) rfl⟩, ⟨_, _, vins_checks k⟩,
      ⟨_, _, vcapp_checks (v := some d) rfl⟩, ⟨_, _, mma_checks rfl⟩, ⟨_, _, mdrain_checks rfl⟩⟩
  unfold groupWords
  simp only [List.forall_mem_append]
  refine ⟨⟨⟨⟨⟨⟨checksGroups_masked (threeGroups_checks s k d a b m q o), checksGroups_masked (twoGroups_checks s k d a b t m q o)⟩,
    checksGroups_masked ?_⟩, checksGroups_masked amos⟩, checksGroups_unmasked counts⟩, checksGroups_unmasked readers⟩, ?_⟩
  · exact List.forall_mem_append.2 ⟨moves, loads⟩
  · simp only [List.forall_mem_cons, List.not_mem_nil, false_imp_iff, implies_true, and_true]
    exact ⟨⟨_, _, _, vecStore_checks (mode := .index) rfl, fun h => nomatch h⟩,
      ⟨_, _, _, mldb_checks rfl, fun h => nomatch h⟩, ⟨_, _, _, vcapp_checks (v := none) rfl, fun h => nomatch h⟩⟩

end

end Sys2Proof.Machine
end

section
/-! PROOF. Trap 0x03 under a type, or a layout, that a vector word's encoding does not allow (R91, R100, R303 to R309, R372). -/

namespace Sys2Proof.Machine

set_option Elab.async false

open Sys2Proof.Spec

/-- A word is refused where it does not meet a condition on its type. -/
def ChecksType (s : State) (e : Instr × Prop) : Prop :=
  ∃ vregs dest masked legal, ChecksVector s e.1 vregs dest masked legal ∧ (legal = true → e.2)

theorem ChecksType.refuses {s : State} {e : Instr × Prop} (h : ChecksType s e) (hp : s.cx.passed = false) (bad : ¬ e.2) :
    exec e.1 s = .next (takeTrap s (illegalWord s e.1)) := by
  obtain ⟨vregs, dest, masked, legal, hcheck, hlegal⟩ := h
  exact hcheck.refuses hp (.inr (.inr (.inr (Bool.eq_false_iff.2 fun h => bad (hlegal h)))))

theorem ChecksVector.type {s : State} {i : Instr} {vregs : List Nat} {dest : Option Nat} {masked legal : Bool} {p : Prop}
    (h : ChecksVector s i vregs dest masked legal) (hl : legal = true → p) : ChecksType s (i, p) := ⟨_, _, _, _, h, hl⟩

/-! ### What the types allow -/

/-- The types that R303 lists for an operation. -/
def ArithType (n : Nat) (fn : VFn) : Prop :=
  if fn ∈ [VFn.add, .sub, .mul, .ma, .div, .min, .max] then isInt n = true ∨ isFloat n = true
  else if fn ∈ [VFn.radd, .rsub] then isInt n = true ∧ ewidth n ≠ 8
  else if fn ∈ [VFn.sqrt, .exp2, .sgnCopy, .sgnNeg, .sgnXor, .sgnAbs] then isFloat n = true
  else isInt n = true

theorem arithType_of_legal {fn : VFn} {n : Nat} (h : fn.legal n = true) : ArithType n fn := by
  cases fn <;> simpa [VFn.legal, ArithType] using h

theorem cmpLegal_iff (o : BitVec 3) (n : Nat) : cmpLegal o n = true ↔ isFloat n = true ∨ (isInt n = true ∧ o.toNat < 6) := by
  simp [cmpLegal]

/-- VRED's operations: sum, min and max take floating types too, the logical ones integers alone. -/
theorem redFn_type {o : BitVec 3} {n : Nat} (h : (redFn o).legal n = true) :
    isInt n = true ∨ (isFloat n = true ∧ o.toNat < 3) := by
  unfold redFn at h
  split at h
  case h_1 e | h_2 e | h_3 e =>
    rw [e]
    simpa [VFn.legal] using h
  all_goals exact .inl h

/-- The layout that a conversion's target needs (R100). -/
def LayoutFits (x : Context) (t : Nat) : Prop :=
  (ewidth x.et < ewidth t → x.vcols ≤ 2048 / ewidth t) ∧ (ewidth t = 4 → x.group ≤ 4)

theorem layoutFits_sound {x : Context} {t : Nat} (h : layoutFits x t = true) : LayoutFits x t := by
  unfold layoutFits at h
  simp only [Bool.and_eq_true, Bool.or_eq_true, decide_eq_true_eq, bne_iff_ne] at h
  obtain ⟨hcols, hgroup⟩ := h
  refine ⟨fun hw => hcols.resolve_left (not_le.2 hw), fun h4 => ?_⟩
  have h3 := hgroup.resolve_left (not_not_intro h4)
  unfold Context.group
  revert h3
  generalize x.vtype.glog = l
  revert l
  decide

/-- What an access of a mode needs of the type, and an indexed one of the columns (R139, R372). -/
def ModeType (x : Context) (mode : VMode) : Prop :=
  match mode with
  | .unit | .bcast => ¬ isBlocked x.et = true
  | .strided => ¬ isBlocked x.et = true ∧ ewidth x.et ≠ 4
  | .blocked => isBlocked x.et = true
  | .index => ¬ isBlocked x.et = true ∧ ewidth x.et ≠ 4 ∧ x.vcols ≤ 2048 / x.ixWidth
  | .zorder => True

theorem modeType_of_legal {x : Context} {mode : VMode} {a b : BitVec 5} (h : (x.vmem mode a b).legal x = true) :
    ModeType x mode := by
  unfold VMem.legal Context.vmem at h
  cases mode with
  | zorder => trivial
  | unit | strided | bcast | blocked | index => simpa [VMode.legal, ModeType, and_assoc] using h

theorem amoType_of_legal {op : VAmo} {n : Nat} (h : op.legal n = true) : (ewidth n = 32 ∨ ewidth n = 64) ∧
    if op = .swap then isInt n = true ∨ isFloat n = true else if op = .fadd then isFloat n = true else isInt n = true := by
  cases op <;> simpa [VAmo.legal] using h

/-! ### The words -/

section
variable (s : State) (k : BitVec 1) (d a b t : BitVec 5) (m q : BitVec 1) (g o c : BitVec 3)

theorem arith_type : ∀ e ∈ arithVV k d a b m q ++ arithVS k d a b m q ++ arithV k d a m q,
    ChecksType s (e.1, ArithType s.cx.et e.2) := by
  simp only [List.forall_mem_append]
  exact ⟨⟨fun e he => (arithVV_checks s k d a b m q e he).type arithType_of_legal,
    fun e he => (arithVS_checks s k d a b m q e he).type arithType_of_legal⟩,
    fun e he => (arithV_checks s k d a m q e he).type arithType_of_legal⟩

theorem memory_type : ∀ e ∈ loadForms k d a b m q g ++ storeForms k d a b m q g,
    ChecksType s (e.1, ModeType s.cx e.2) := by
  refine List.forall_mem_append.2 ⟨fun e he => ?_, fun e he => ?_⟩
  · obtain ⟨_, h⟩ := loadForms_checks s k d a b m q g e he
    exact h.type fun hl => modeType_of_legal (Bool.and_eq_true_iff.1 hl).1
  · obtain ⟨_, h⟩ := storeForms_checks s k d a b m q g e he
    exact h.type fun hl => modeType_of_legal (Bool.and_eq_true_iff.1 hl).1

/-- An indexed access takes no blocked and no 4-bit type, and no more columns than a row of its index group has (R372). -/
theorem indexed_type {i : Instr} {vregs : List Nat} {dest : Option Nat} {masked : Bool} {p : Nat → Bool} {P : Prop}
    (h : ChecksVector s i vregs dest masked ((s.cx.vmem .index a b).legal s.cx && p s.cx.et)) (hp : p s.cx.et = true → P) :
    ChecksType s (i, P ∧ ¬ isBlocked s.cx.et = true ∧ ewidth s.cx.et ≠ 4 ∧ s.cx.vcols ≤ 2048 / s.cx.ixWidth) :=
  h.type fun hl => ⟨hp (Bool.and_eq_true_iff.1 hl).2, modeType_of_legal (mode := .index) (Bool.and_eq_true_iff.1 hl).1⟩

/-- The conversions (R100, R305). -/
theorem conv_type : ∀ e ∈
    [(Instr.vcvt k d a m q t, ¬ isBlocked s.cx.et = true ∧ ¬ isBlocked t.toNat = true ∧ LayoutFits s.cx t.toNat),
     (.vbq k d a m q t, isFloat s.cx.et = true ∧ isBlocked t.toNat = true ∧ LayoutFits s.cx t.toNat),
     (.vbdq k d a m q t, isBlocked s.cx.et = true ∧ isFloat t.toNat = true ∧ LayoutFits s.cx t.toNat)], ChecksType s e := by
  have fits {pair : Nat → Nat → Bool} {p r : Prop} (hpair : pair s.cx.et t.toNat = true → p ∧ r)
      (h : (pair s.cx.et t.toNat && layoutFits s.cx t.toNat) = true) : p ∧ r ∧ LayoutFits s.cx t.toNat := by
    obtain ⟨hl, hfit⟩ := Bool.and_eq_true_iff.1 h
    exact ⟨(hpair hl).1, (hpair hl).2, layoutFits_sound hfit⟩
  simp only [List.forall_mem_cons, List.not_mem_nil, false_imp_iff, implies_true, and_true]
  exact ⟨(checksVector_of_eq rfl).type (fits (pair := cvtPair) (by simp [cvtPair])),
    (checksVector_of_eq rfl).type (fits (pair := bqPair) (by simp [bqPair])),
    (checksVector_of_eq rfl).type (fits (pair := bdqPair) (by simp [bdqPair]))⟩

theorem compare_count_type : ∀ e ∈ [(Instr.vcmpVV k d a b m q o, isFloat s.cx.et = true ∨ (isInt s.cx.et = true ∧ o.toNat < 6)),
    (.vcmpVS k d a b m q o, isFloat s.cx.et = true ∨ (isInt s.cx.et = true ∧ o.toNat < 6)),
    (.vmpop k d a m q, ¬ isStorage s.cx.et = true), (.vmfirst k d a m q, ¬ isStorage s.cx.et = true),
    (.vmtocAny k c a m q, ¬ isStorage s.cx.et = true), (.vmtocAll k c a m q, ¬ isStorage s.cx.et = true),
    (.vmtocNone k c a m q, ¬ isStorage s.cx.et = true)], ChecksType s e := by
  have counted : ∀ i ∈ [Instr.vmpop k d a m q, .vmfirst k d a m q, .vmtocAny k c a m q, .vmtocAll k c a m q,
      .vmtocNone k c a m q], ChecksType s (i, ¬ isStorage s.cx.et = true) := fun i hi =>
    (counts_checks s k d a m q c i hi).type (by simp)
  simp only [List.forall_mem_cons, List.not_mem_nil, false_imp_iff, implies_true, and_true] at counted ⊢
  exact ⟨(checksVector_of_eq rfl).type (cmpLegal_iff o s.cx.et).1, (checksVector_of_eq rfl).type (cmpLegal_iff o s.cx.et).1,
    counted⟩

theorem red_type : ∀ i ∈ [Instr.vred k d a m q o, .vredAll k d a m q o, .vscan k d a m q o],
    ChecksType s (i, isInt s.cx.et = true ∨ (isFloat s.cx.et = true ∧ o.toNat < 3)) := by
  simp only [List.forall_mem_cons, List.not_mem_nil, false_imp_iff, implies_true, and_true]
  exact ⟨(checksVector_of_eq rfl).type redFn_type, (checksVector_of_eq rfl).type redFn_type,
    (checksVector_of_eq rfl).type redFn_type⟩

theorem typedWords_checks : ∀ e ∈ typedWords s.cx k d a b t m q g o c, ChecksType s e := by
  unfold typedWords
  simp only [List.forall_mem_append]
  refine ⟨⟨⟨⟨⟨?arith, ?conv⟩, ?red⟩, ?memory⟩, ?amo⟩, ?capp⟩
  case arith => exact List.forall_mem_map.2 (arith_type s k d a b m q)
  case conv =>
    have h := List.forall_mem_append.2 ⟨compare_count_type s k d a b m q o c, conv_type s k d a t m q⟩
    exact h
  case red => exact List.forall_mem_map.2 (red_type s k d a m q o)
  case memory =>
    refine List.forall_mem_flatMap.2 fun e he => ?_
    have h := memory_type s k d a b m q g e he
    obtain ⟨i, mode⟩ := e
    cases mode with
    | zorder => exact fun _ he => nomatch he
    | index =>
      obtain ⟨vregs, dest, masked, legal, hcheck, hlegal⟩ := h
      exact List.forall_mem_singleton.2 (hcheck.type fun hl => ⟨trivial, hlegal hl⟩)
    | unit | strided | bcast | blocked => exact List.forall_mem_singleton.2 h
  case amo =>
    exact List.forall_mem_map.2 fun e he => indexed_type s a b (vamoForms_checks s k d a b m q g e he) amoType_of_legal
  case capp => exact List.forall_mem_singleton.2 ((vcapp_checks (v := some d) rfl).type (by simp))

end

end Sys2Proof.Machine

namespace Sys2Proof

open Sys2Proof.Machine Sys2Proof.Spec

/-- Settles O16: every word of the two lists makes the check of R363 before its own, with its registers, its destination and
its type. -/
theorem vectorIssueChecksTrap : Obligations.VectorIssueChecksTrap :=
  fun s k d a b t m q g o c n hp =>
    ⟨fun e he => (groupWords_checks s k d a b t m q g o c n e he).refuses hp,
      fun e he => (typedWords_checks s k d a b t m q g o c e he).refuses hp⟩

end Sys2Proof
end

section
/-! PROOF. What a step runs (R65, R115, R117, R194, R267, R278, R291 to R294). -/

namespace Sys2Proof.Machine

set_option Elab.async false

open Sys2Proof.Spec

/-! ### Whose turn it is (log entry 10) -/

/-- No host access that was held at its entry goes on first. -/
theorem entry_nil {s : State} (h : s.flows = true → s.host.entry = []) : (if s.flows then s.host.entry else []) = [] := by
  split
  case isTrue hf => exact h hf
  case isFalse => rfl

theorem step_of_input {s : State} {m : Move} {rest : List Move} (h : s.flows = true → s.host.entry = [])
    (hin : s.inputs = m :: rest) : step s = runMove m { s with inputs := rest, tick := s.tick + 1 } := by
  unfold step runStep
  rw [entry_nil h, hin]

theorem step_of_noInput {s : State} (h : s.flows = true → s.host.entry = []) (hin : s.inputs = []) :
    step s = runTurn s := by
  unfold step runStep
  rw [entry_nil h, hin]

theorem step_of_entry {s : State} {mv : Move} {rest : List Move} (hf : s.flows = true) (he : s.host.entry = mv :: rest) :
    step s = runMove mv { s with host := { s.host with entry := rest }, tick := s.tick + 1 } := by
  unfold step runStep
  rw [if_pos hf, he]

theorem runTurn_context {s : State} {c : Nat} (hc : nextContext s = some c)
    (he : s.fromContext = false ∨ nextEvent s = none) :
    runTurn s = runContext c { s with tick := s.tick + 1, fromContext := true } := by
  unfold runTurn
  rw [hc]
  rcases he with hfrom | hnone
  · exact if_neg (by rw [hfrom]; exact Bool.false_ne_true)
  · rw [hnone]
    exact ite_self _

theorem runTurn_event {s : State} {i : Instr} (hi : nextEvent s = some i)
    (hc : s.fromContext = true ∨ nextContext s = none) :
    runTurn s = exec i { s with tick := s.tick + 1, fromContext := false } := by
  unfold runTurn
  rw [hi]
  rcases hc with hfrom | hnone
  · exact if_pos hfrom
  · rw [hnone]
    exact ite_self _

/-- Where the convoy of a context issues, or its turn passes. -/
theorem step_of_turn {s u : State} {c : Nat} (h : Turn s c u) : step s =
    if !mayIssue u then .next { u with cur := s.cur }
    else match u.cx.qfault with
      | some f => .next (runAhead u f)
      | none => runConvoy u := by
  obtain ⟨hentry, ⟨rest, hin, rfl⟩ | ⟨hin, hctx, hev, rfl⟩⟩ := h
  · exact step_of_input hentry hin
  · exact (step_of_noInput hentry hin).trans (runTurn_context hctx hev)

theorem step_of_issue {s u : State} {c : Nat} (h : Turn s c u) (hmay : mayIssue u = true) (hq : u.cx.qfault = none) :
    step s = runConvoy u := by
  rw [step_of_turn h, hmay, hq]
  rfl

theorem turn_cur {s u : State} {c : Nat} (h : Turn s c u) : u.cur = c := by
  obtain ⟨-, ⟨rest, -, rfl⟩ | ⟨-, -, -, rfl⟩⟩ := h <;> rfl

/-! ### A convoy that stands issued (R115) -/

theorem goesOn_last {x y : Context} {v : Convoy} (hv : x.cvy = some v) (h : v.words.length ≤ v.idx + 1) :
    goesOn x y = false := by
  unfold goesOn
  rw [hv]
  cases y.cvy with
  | none => rfl
  | some v' => simp [not_lt.2 h]

theorem runMembers_some {f : State} {w : BitVec 32} {i : Instr} (hw : f.cx.nextWord = some w) (hi : decode w = .ok i)
    (n : Nat) : runMembers (n + 1) f = match exec i f with
      | .next t => if goesOn f.cx t.cx then runMembers n t else .next t
      | out => out := by
  rw [runMembers, hw]
  dsimp only
  rw [hi] <;> rfl

theorem goesOnWith_of_runMembers {s f : State} (h : step s = runMembers 4 f) : GoesOnWith s f := by
  intro v w i hv hw hi
  have hword : f.cx.nextWord = some w := by
    unfold Context.nextWord
    rw [hv]
    exact hw
  have hrun : step s = match exec i f with
      | .next t => if goesOn f.cx t.cx then runMembers 3 t else .next t
      | out => out := h.trans (runMembers_some hword hi 3)
  refine ⟨fun hlast => ?_, hrun⟩
  rw [hrun]
  split
  case h_1 t ht => rw [goesOn_last hv hlast]; exact ht.symm
  case h_2 => rfl

theorem runMembers_none {f : State} (h : f.cx.cvy = none) (n : Nat) : runMembers n f = .next f := by
  have hword : f.cx.nextWord = none := by
    unfold Context.nextWord
    rw [h]
    rfl
  cases n with
  | zero => rfl
  | succ n => unfold runMembers; rw [hword]

/-! ### Issue (R65) -/

theorem issueConvoy_onlyCx (f : State) : OnlyCx f (issueConvoy f) := (f.mapCx_hasCx _).onlyCx

theorem issueConvoy_cx {f : State} {v : Convoy} (h : f.cx.cvy = some v) : (issueConvoy f).cx =
    if isBound v.words = true then
      { f.cx with
        cvy := some { v with
          regs := some (v.regs.getD f.cx.regs), ctl := some (v.ctl.getD f.cx.settings), passed := true }
        strip := { f.cx.strip with lastBound := some v.start } }
    else f.cx := by
  unfold issueConvoy
  rw [State.mapCx_cx, h]
  rfl

theorem issueConvoy_none {f : State} (h : f.cx.cvy = none) : (issueConvoy f).cx.cvy = none := by
  unfold issueConvoy
  rw [State.mapCx_cx, h]
  exact h

/-- Issue leaves the words of a convoy and the member at which it stands. -/
theorem issueConvoy_stands {f : State} {v : Convoy} (h : f.cx.cvy = some v) :
    ∃ v', (issueConvoy f).cx.cvy = some v' ∧ v'.words = v.words ∧ v'.idx = v.idx := by
  rw [issueConvoy_cx h]
  split
  · exact ⟨_, rfl, rfl, rfl⟩
  · exact ⟨v, h, rfl, rfl⟩

/-! ### A convoy that stands in the context, or in its queue -/

theorem cutOffMember_iff (r : State) (v : Convoy) : cutOffMember r v = true ↔
    r.planesDead = true ∧ ∃ t, membersCheck ((v.words.drop v.idx).take 1) r = some t ∧ t.cause = 0x14 := by
  unfold cutOffMember
  simp

section
variable {s r : State} {v : Convoy} (h : step s = reissueConvoy r v)
include h

theorem reissue_unpassed (hidx : v.idx < v.words.length) (hp : v.passed = false) :
    let ws := v.words.drop v.idx
    (checksMayRead ws r = false → step s = .next r) ∧
    (checksMayRead ws r = true → membersCheck ws r = none → GoesOnWith s (issueConvoy r)) ∧
    (checksMayRead ws r = true → ∀ t, membersCheck ws r = some t → step s = .next (takeTrap (withChecks r r ws) t)) := by
  intro ws
  have hrun : step s = if !checksMayRead ws r then .next r
      else match membersCheck ws r with
        | none => runMembers 4 (issueConvoy r)
        | some t => .next (takeTrap (withChecks r r ws) t) := by
    rw [h]
    unfold reissueConvoy
    rw [if_neg (not_le.2 hidx), hp]
    rfl
  refine ⟨fun hr => ?_, fun hr hc => goesOnWith_of_runMembers ?_, fun hr t hc => ?_⟩
  · rw [hrun, hr]; rfl
  · rw [hrun, hr, hc]; rfl
  · rw [hrun, hr, hc]; rfl

theorem reissue_passed (hidx : v.idx < v.words.length) (hp : v.passed = true) :
    let cut := r.planesDead = true ∧ ∃ t, membersCheck ((v.words.drop v.idx).take 1) r = some t ∧ t.cause = 0x14
    (¬ cut → GoesOnWith s r) ∧ (cut → step s = .next (takeTrap (r.mapCx (·.standAt v)) (trapOf 0x14 0))) := by
  intro cut
  have hrun : step s = if cutOffMember r v then .next (takeTrap (r.mapCx (·.standAt v)) (trapOf 0x14 0))
      else runMembers 4 r := by
    rw [h]
    unfold reissueConvoy
    rw [if_neg (not_le.2 hidx), if_pos hp]
    rfl
  refine ⟨fun hcut => goesOnWith_of_runMembers ?_, fun hcut => ?_⟩
  · rw [hrun, if_neg fun hc => hcut ((cutOffMember_iff r v).1 hc)]
  · rw [hrun, if_pos ((cutOffMember_iff r v).2 hcut)]

theorem reissue_beyond (hidx : v.words.length ≤ v.idx) :
    step s = .next (takeTrap r (trapOf 0x02 (v.start + .ofNat 64 (4 * v.idx)))) := by
  rw [h]
  unfold reissueConvoy
  rw [if_pos hidx]
  rfl

end

end Sys2Proof.Machine
end

section
/-! PROOF. A word fetched where no other copy of it is kept (R160, R267, R292), and the step that it makes. -/

namespace Sys2Proof.Machine

set_option Elab.async false

open Sys2Proof.Spec

/-! ### The word at the PC -/

theorem bytesVal_memReadN (m : List Host.Cell) (a n : Nat) : bytesVal (memReadN m a n) = littleEndian m a n := by
  induction n generalizing a with
  | zero => rfl
  | succ n ih => rw [memReadN, bytesVal, ih, littleEndian_succ]

/-- Memory as a context sees it that has no write on its way. -/
theorem readPlace_plain {s : State} {x : Context} {p : Place} (hheld : x.held = []) (hpend : x.pend = []) (henc : p.enc = false)
    (n : Nat) : readPlace s x p n = memReadN s.mem p.loc n := by
  have hview : viewMem s x p.loc = s.mem := by
    unfold viewMem Context.ownWrites
    rw [hheld, hpend]
    rfl
  unfold readPlace fetchBytes
  rw [hview, henc]
  rfl

/-- The only word that a fetch may deliver, where no other copy is kept. -/
theorem codeWord_plain {s : State} {c : Nat} {p : Place} (henc : p.enc = false) (hheld : (s.ctxAt c).held = [])
    (hpend : (s.ctxAt c).pend = []) (hstale : wordsUnder p.key s.stale p.loc = [])
    (hbuf : wordsUnder p.key (s.ctxAt c).fetched p.loc = [])
    (hcache : wordsUnder p.key (s.coreAt (coreOf c)).icache p.loc = []) :
    codeWord s c p = .ofNat 32 (littleEndian s.mem p.loc 4) := by
  have hown := readPlace_plain (s := s) hheld hpend henc 4
  have hhome : homeWord s c p = .ofNat 32 (littleEndian s.mem p.loc 4) := by
    unfold homeWord fetchBytes
    rw [hown, henc, ← bytesVal_memReadN, if_neg Bool.false_ne_true, ite_self]
  have hlist : staleWords s p = [] := by
    unfold staleWords
    rw [hstale, ite_self]
  have hchoices : codeChoices s c p = [homeWord s c p] := by
    unfold codeChoices
    rw [hlist, hbuf, hcache, ite_self, hown, bytesVal_memReadN, hhome]
    simp
  unfold codeWord
  rw [hchoices, hhome]

/-- A lone word is a convoy of its own (R292). -/
theorem frameFrom_lone {s t : State} {a0 : Word} {w : BitVec 32} (h : fetchWord s a0 = .ok (t, w)) (hk : kBit w = false) :
    frameFrom a0 4 0 s [] = (t, .ok [w]) := by
  have h0 : a0 + BitVec.ofNat 64 (4 * 0) = a0 := BitVec.add_zero a0
  unfold frameFrom
  dsimp only
  rw [h0, h]
  dsimp only
  rw [hk]
  simp

/-- Checks that a lone word has passed leave it as the context's convoy, at its only member. -/
theorem passChecks_lone {s t : State} {a0 : Word} {w : BitVec 32} (h : passChecks s a0 [w] = .ok t) :
    ∃ v, t.cx.cvy = some v ∧ v.words = [w] ∧ v.idx = 0 := by
  have hb : beforeMembers s a0 [w] = .ok t := by
    unfold passChecks at h
    split at h
    · nomatch h
    · split at h
      · nomatch h
      · rename_i e _ _; rw [e]; exact h
  unfold beforeMembers at hb
  dsimp only at hb
  repeat' split at hb
  all_goals cases hb
  rename_i hfirst
  exact ⟨_, congrArg Context.cvy (State.cx_setCx ..), rfl, Nat.lt_one_iff.1 (not_le.1 hfirst)⟩

/-! ### A convoy that is fetched -/

theorem fetchWord_ok {s : State} {va : Word} {p : Place} (h : resolve s (s.cx.acc s.cur) .fetch va.toNat = .ok p) :
    fetchWord s va = .ok (keepCode (touch s (s.cx.acc s.cur) .fetch p) s.cur p
      (codeWord (touch s (s.cx.acc s.cur) .fetch p) s.cur p), codeWord (touch s (s.cx.acc s.cur) .fetch p) s.cur p) := by
  unfold fetchWord
  dsimp only
  rw [h]

theorem fetchConvoy_ok {s t f : State} {ws : List (BitVec 32)} (h : frameFrom s.cx.pc 4 0 s [] = (t, .ok ws))
    (hr : checksMayRead ws t = true) (hc : passChecks t s.cx.pc ws = .ok f) : fetchConvoy s = f := by
  unfold fetchConvoy
  dsimp only
  rw [h]
  dsimp only
  rw [hr, hc]
  rfl

/-- The word that a fetch touches is the one that it delivers, where no other copy of it is kept. -/
theorem codeWord_touch {s : State} {a : Acc} {p : Place} (henc : p.enc = false) (hheld : s.cx.held = []) (hpend : s.cx.pend = [])
    (hstale : wordsUnder p.key s.stale p.loc = []) (hbuf : wordsUnder p.key s.cx.fetched p.loc = [])
    (hcache : wordsUnder p.key (s.coreAt (coreOf s.cur)).icache p.loc = []) :
    codeWord (touch s a .fetch p) s.cur p = .ofNat 32 (littleEndian (touch s a .fetch p).mem p.loc 4) := by
  have hx : (touch s a .fetch p).ctxAt s.cur = s.cx := by rw [touch_rest]; rfl
  refine codeWord_plain henc ?_ ?_ ?_ ?_ ?_
  · rw [hx, hheld]
  · rw [hx, hpend]
  · rw [touch_rest]; exact hstale
  · rw [hx]; exact hbuf
  · rw [touch_rest]; exact hcache

/-- The step of a context that executes and holds no convoy: it fetches one, and runs its members. -/
theorem runConvoy_fetches {s u : State} (h : step s = runMembers 4 (issueConvoy (fetchConvoy u))) :
    (∀ p t f i, resolve u (u.cx.acc u.cur) .fetch u.cx.pc.toNat = .ok p → p.enc = false →
      u.cx.held = [] → u.cx.pend = [] →
      wordsUnder p.key u.stale p.loc = [] → wordsUnder p.key u.cx.fetched p.loc = [] →
      wordsUnder p.key (u.coreAt (coreOf u.cur)).icache p.loc = [] →
      let v := touch u (u.cx.acc u.cur) .fetch p
      let w : BitVec 32 := .ofNat 32 (littleEndian v.mem p.loc 4)
      kBit w = false → t = keepCode v u.cur p w → checksMayRead [w] t = true →
      passChecks t u.cx.pc [w] = .ok f →
      decode w = .ok i → step s = exec i (issueConvoy f)) ∧
    GoesOnWith s (issueConvoy (fetchConvoy u)) ∧
    ((fetchConvoy u).cx.cvy = none → step s = .next (issueConvoy (fetchConvoy u))) := by
  refine ⟨?_, goesOnWith_of_runMembers h, fun hnone => h.trans (runMembers_none (issueConvoy_none hnone) 4)⟩
  intro p t f i hres henc hheld hpend hstale hbuf hcache v w hk ht hread hpass hdec
  have hword : codeWord v u.cur p = w := codeWord_touch henc hheld hpend hstale hbuf hcache
  have hfetch : fetchWord u u.cx.pc = .ok (t, w) := by rw [fetchWord_ok hres, ht, ← hword]
  have hconvoy : fetchConvoy u = f := fetchConvoy_ok (frameFrom_lone hfetch hk) hread hpass
  rw [hconvoy] at h
  obtain ⟨cv, hcv, hwords, hidx⟩ := passChecks_lone hpass
  obtain ⟨cv', hcv', hwords', hidx'⟩ := issueConvoy_stands hcv
  rw [hwords] at hwords'
  rw [hidx] at hidx'
  refine ((goesOnWith_of_runMembers h) cv' w i hcv' ?_ hdec).1 ?_
  · rw [hwords', hidx']; rfl
  · rw [hwords', hidx']; rfl

theorem runConvoy_interrupt {u : State} (h : interruptReady u u.cur = true) :
    runConvoy u = exec (.userInterruptTake u.cur) u := if_pos h

theorem runConvoy_fetch {u : State} (h : interruptReady u u.cur = false) (hv : u.cx.cvy = none) (hq : u.cx.queue = []) :
    runConvoy u = runMembers 4 (issueConvoy (fetchConvoy u)) := by
  unfold runConvoy
  rw [h, hv, hq]
  rfl

/-- The convoy that stands in the context, or else the oldest of its queue, goes on. -/
theorem runConvoy_reissue {u r : State} {v : Convoy} (h : interruptReady u u.cur = false)
    (hv : u.cx.cvy = some v ∧ r = u ∨
      (∃ rest, u.cx.cvy = none ∧ u.cx.queue = v :: rest ∧ r = u.setCx { u.cx with cvy := some v, queue := rest })) :
    runConvoy u = reissueConvoy r v := by
  unfold runConvoy
  rw [h]
  rcases hv with ⟨hv, rfl⟩ | ⟨rest, hv, hq, rfl⟩
  · rw [hv]; rfl
  · rw [hv, hq]; rfl

end Sys2Proof.Machine

namespace Sys2Proof

open Sys2Proof.Machine Sys2Proof.Spec

/-- Settles O54: the step by whose turn it is, and then by where the context's convoy stands. -/
theorem stepRunsTheDecodedInstruction : Obligations.StepRunsTheDecodedInstruction := by
  intro s
  refine ⟨fun f v hv => ⟨issueConvoy_onlyCx f, issueConvoy_cx hv⟩, ?_, ?_, ?_, ?_, ?_⟩
  · intro c u hturn hmay
    rw [step_of_turn hturn, hmay]
    rfl
  · intro c u hturn hmay hq hint
    obtain rfl := turn_cur hturn
    have hrun := step_of_issue hturn hmay hq
    refine ⟨fun hv hqueue => runConvoy_fetches (hrun.trans (runConvoy_fetch hint hv hqueue)), fun v r hr => ?_⟩
    have hre := hrun.trans (runConvoy_reissue hint hr)
    exact ⟨reissue_unpassed hre, reissue_passed hre, reissue_beyond hre⟩
  · intro c u hturn hmay hq hint
    obtain rfl := turn_cur hturn
    exact (step_of_issue hturn hmay hq).trans (runConvoy_interrupt hint)
  · intro hentry
    refine ⟨fun i rest hin henc => ?_, fun i hin hev hctx => ?_⟩
    · rw [step_of_input hentry hin]
      exact if_neg (by rw [henc]; exact Bool.false_ne_true)
    · exact (step_of_noInput hentry hin).trans (runTurn_event hev hctx)
  · intro mv rest hf he u
    have hstep := step_of_entry hf he
    refine ⟨fun m off n v hm => ?_, fun off n hm => ?_, fun off n v hm => ?_⟩ <;> rw [hstep, hm] <;> rfl

end Sys2Proof
end
